-- ==== Sys2Proof/Word.lean ====
section
/-! DEFINITION. The word types of the QLF-8144 model and their plainest arithmetic.
Rule R12 of spec/00_scope.md: a native word is 128 bits, byte n of it holds bits [8n+7:8n]. -/

namespace Sys2Proof

/-- A byte of an object, a packet or a ring slot. -/
abbrev Byte := BitVec 8

/-- A 32-bit direct-window register (R45). -/
abbrev Reg := BitVec 32

/-- A native word of 128 bits (R12). -/
abbrev Word := BitVec 128

/-- A 16-bit free-running ring index (Table 2.16, Table 2.34). -/
abbrev Index := BitVec 16

/-- A 64-bit value: an object ID, a parameter value, a host address. -/
abbrev Word64 := BitVec 64

end Sys2Proof
end

