-- ==== Sys2Proof/Config.lean ====
section
/-! DEFINITION. What one part fixes for good, and the FREE VALUES of the model: constants with no body, so that nothing
can be proved from a value the spec leaves open.  Each is named in a row of notes/assumptions. -/

namespace Sys2Proof.Config

/-- The free value the model takes where the spec states an effect and not the value: applied to the counter
`State.free`, which the step advances (log entry 3). (DESIGN CHOICE, safe: log entry 3.) -/
opaque freeNat : Nat → Nat

/-- The seed of an LFSR from the die serial number (R336, R431): the spec does not say how (log entry 3).
(DESIGN CHOICE, safe: log entry 3.) -/
opaque lfsrSeed : Nat → Nat

/-- The PQ EOTF of a non-linear value num / den at or beyond the pole of BT.2100's formula, near 1.99, divided by 100, in units
of 2^-24: no source gives it. (DESIGN CHOICE, safe: log entry 91.) -/
opaque pqBeyond : Int → Nat → Nat

/-- The 16-bit code of R211 where the transfer of a linear value num / den gives more than 1: transfer, channel, value (log
entry 4). (DESIGN CHOICE, safe: log entry 91.) -/
opaque codeBeyond : Nat → Nat → Int → Nat → Nat

/-- DEFLATE of R230: the bits a conforming coder chooses are not in the spec; the effort level and the input give the
output bytes, as numbers taken modulo 256 (log entry 5). (DESIGN CHOICE, safe: log entry 5.) -/
opaque deflate : Nat → List Nat → List Nat

/-- The samples of a component scaled by the encoder's 8-tap, 64-phase filter (R348): its width, the width and height asked for,
its samples; the spec gives no taps (log entry 89). (DESIGN CHOICE, safe: log entry 89.) -/
opaque scalePlane : Nat → Nat → Nat → List Nat → List Nat

/-- The fused neighbours of a die sensor (R418; log entry 6). (DESIGN CHOICE, safe: log entry 6.) -/
opaque sensorNear : Nat → List Nat

/-- The fused full count of patterns and signature of a domain's self-test (R464; log entry 6).
(DESIGN CHOICE, safe: log entry 6.) -/
opaque fullCount : Nat → Nat

/-- DESIGN CHOICE, safe: log entry 6. -/
opaque fusedSignature : Nat → Nat

/-- The fused minimum margins of a tracking pass: read, write, reference voltage (R341; log entry 6).
(DESIGN CHOICE, safe: log entry 6.) -/
opaque fusedMargins : Nat → Nat

end Sys2Proof.Config
end

