-- ==== Sys2Proof/Syntax.lean ====
section
/-! DEFINITION. The commands of the block: one constructor of `Instr` for each row of spec/opcode_table.json, with the
row's operands.  A host command carries its ring slot (`Cmd`), a scene packet carries its bytes (`Pkt`), and a row that
is an event at a pin, at a supply, on a link or inside an engine carries what the outside or the engine reports there. -/

namespace Sys2Proof

/-! ### Operands of the host's commands -/

/-- A command slot as the device fetches it (Table 2.21): header fields of word 0 and the payload words 1 to 62.
`mb` is the mailbox whose ring holds it. -/
structure Cmd where
  mb : Nat
  opcode : BitVec 16
  tag : BitVec 16
  count : BitVec 8
  flags : BitVec 8
  rsvd : BitVec 16 := 0
  object : Word64 := 0
  payload : List Word := []
  deriving DecidableEq, Repr

/-! ### Operands of the scene stream -/

/-- A QSS packet (R69) as it stands in the carrier of a scene slot: its header word (Table 3.1), its payload bytes with
their padding. -/
structure Pkt where
  slot : Nat
  header : Word
  payload : List Byte
  deriving DecidableEq, Repr

/-- A decode stream: scene slot, anchor, layer and kind, 0 texture, 1 depth (R110). -/
structure StreamId where
  slot : Nat
  anchor : Nat
  layer : Nat
  kind : Nat
  deriving DecidableEq, Repr

/-! ### Operands of the event rows -/

/-- What the read-back of a staged firmware image shows (R65). -/
structure FwImage where
  /-- Its checksum and its signature verify. -/
  ok : Bool
  /-- It is longer than the slot. -/
  tooLong : Bool
  version : BitVec 32
  deriving DecidableEq, Repr

/-- What the boot ROM finds in a firmware slot (R454): cause 0 valid, 1 CRC, 2 signature, 3 empty. -/
structure SlotRead where
  cause : Nat
  version : BitVec 32
  deriving DecidableEq, Repr

/-- What training finds at one set point (R340, R342): whether it works, and the margins of Table 13.10. -/
structure TrainMargins where
  ok : Bool
  rd : BitVec 16
  wr : BitVec 16
  vref : BitVec 16
  deriving DecidableEq, Repr

/-- What a writer of fewer than 64 bytes puts into a data unit of DRAM (R329): from a byte on. -/
structure Merge where
  off : Nat
  bytes : List Byte
  deriving DecidableEq, Repr

/-- Where an uncorrectable codeword lies (R332): the device's own tables, a basket it reserves, a basket of an object,
or, in a scene's stream basket, the picture or access unit of a frame of one of its streams. -/
inductive UePlace where
  | table
  | reserved (index : Nat)
  | object (obj index : Nat)
  | picture (obj index : Nat) (st : StreamId) (frame : Nat)
  deriving DecidableEq, Repr

/-- What a PMBus exchange with the VCORE regulator gives (R414 to R416): fail 0 none, 1 no acknowledge, 2 PEC, and the times in a
row that a transaction of it failed, at the third of which it ends; whether VOUT_MODE is LINEAR16; READ_VOUT in mV, READ_IOUT
in 0.1 A, STATUS_WORD. -/
structure PmbRead where
  fail : Nat
  times : Nat := 3
  linear16 : Bool
  vout : Nat
  iout : Nat
  status : Nat
  deriving DecidableEq, Repr

/-- Telemetry of one regulator (R417): fail and times as for the VCORE regulator; output in mV, current in 0.1 A, temperature,
STATUS_WORD. -/
structure PmbRail where
  fail : Nat
  times : Nat := 3
  mv : Nat
  cur : Nat
  temp : Nat
  status : Nat
  deriving DecidableEq, Repr

/-- What host memory returned to the reads of one row of a 2D operation (R377): source and destination bytes. -/
structure G2dHostRow where
  src : List Byte := []
  dst : List Byte := []
  deriving DecidableEq, Repr

/-- A block that a lane of a port receives (R237): the lane, its place in the lane cycle of 1,024 blocks, 0 for SKIP (R240), its
sync header, its payload as it stands on the wire. -/
structure LinkBlock where
  lane : Nat
  pos : Nat
  sync : Nat
  wire : Nat
  deriving DecidableEq, Repr

/-- The device DMA read that fails (R44): a ring fetch of a mailbox, or the data of an accepted command by its job. -/
inductive DmaTarget where
  | ring (mb : Nat)
  | job (id : Nat)
  deriving DecidableEq, Repr


/-- How a fault that SAFETY_TEST injected was detected (R433): the time in µs, and ARG and ARG2 of the mechanism's event. -/
structure SafetyHit where
  us : Nat
  arg : Nat
  arg2 : Nat
  deriving DecidableEq, Repr

/-- A cross-link STATE message as received, with the grid phase error of this side's boundaries against the sender's,
in ns (R437, R440). -/
structure XState where
  role : Nat
  devState : Nat
  channels : Nat
  sag : Nat
  ready : Bool
  epoch : Nat
  frame : Nat
  gridErr : Int
  digest : Nat
  deriving DecidableEq, Repr

/-- A probe ray of the safety monitor core (R431): the cluster that produced it, the composed word of the cluster and the word
of the core's own computation (Table 6.1), and whether the ray lies within 2 pixels of a fill boundary (R155). -/
structure RayProbe where
  cluster : Nat
  got : Nat
  own : Nat
  near : Bool
  deriving DecidableEq, Repr

/-- The ledgers of a tile in a LEDGER message, with the drive in flight (R310, R447). -/
structure LedgerRow where
  tile : Nat
  l0 : Int
  l1 : Int
  dl0 : Int
  dl1 : Int
  deriving DecidableEq, Repr

/-- What a received PTP message brings about (R391): the port state and the grandmaster that the clock's own algorithms
give (IEEE 1588 enumeration and clockIdentity), the master's time in ns where the message completes a measurement, and
the fields of a message that answers it, none for no answer. -/
structure PtpRx where
  portState : Nat
  gm : BitVec 64
  master : Option Nat
  answer : Option (List Nat)
  deriving DecidableEq, Repr

/-- A received UDP datagram (R401, R402): addresses, destination port, whether the receive buffer has room, the 128-bit
encapsulation header (Table 16.16), the length of the UDP payload in bytes, the VID of its 802.1Q tag (0 untagged), and
whether it arrived as IPv4 fragments (Table 16.15). -/
structure Udp where
  dst : Nat
  src : Nat
  dport : Nat
  room : Bool
  header : Nat
  len : Nat
  vid : Nat := 0
  frag : Bool := false
  deriving DecidableEq, Repr


/-- What a lane's bit-slip search counts at one offset (R253): valid sync headers in 4,096 blocks, and whether the last
64 are consecutive. -/
structure SlipCount where
  valid : Nat
  tail : Bool
  deriving DecidableEq, Repr

/-! ### Operands of the decode array -/

/-- A decoded picture: chroma 0 4:0:0, 1 4:2:0, 2 4:4:4; planes row by row. -/
structure Pic where
  w : Nat
  h : Nat
  chroma : Nat
  bits : Nat
  y : List Nat
  cb : List Nat
  cr : List Nat
  deriving DecidableEq, Repr

/-- The profiles of Table 4.1; `other` is any profile that the table does not name. -/
inductive Profile where
  | hevcMain
  | hevcMain10
  | hevcMain444x10
  | hevcMono12
  | hevcMono16
  | vvcMain10
  | vvcMain10x444
  | other
  deriving DecidableEq, Repr

/-- What parameter sets declare (R105, R106, R107, R112, R113): the profile, and the number that declares it; the level in
tenths, and the number that declares it; chroma_format_idc; the bit depth; pictures reordered and
max_dec_pic_buffering_minus1 at the highest sub-layer; the declared scaling of reference picture resampling, 0 for a ratio
of 1; field_seq_flag; the coded size in luma samples, and what the conformance window cuts off on each side; the CTU size;
the CTUs of each tile, and of each slice; wavefront use. -/
structure SeqSets where
  profile : Profile
  profileIdc : Nat
  level : Nat
  levelIdc : Nat
  chroma : Nat
  bits : Nat
  reorder : Nat
  dpbMinus1 : Nat
  resampling : Nat
  fieldSeq : Nat
  codedW : Nat
  codedH : Nat
  left : Nat
  right : Nat
  top : Nat
  bottom : Nat
  ctu : Nat
  tiles : List Nat
  slices : List Nat
  wavefront : Bool
  deriving DecidableEq, Repr

/-- A NAL unit of an access unit (R105, R123): its nuh_layer_id, whether it is a slice, and the parameter sets it carries
under their number. -/
structure Nal where
  layer : Nat
  slice : Bool := false
  sets : Option (Nat × SeqSets) := none
  deriving DecidableEq, Repr

/-- What a stream's team finds in an access unit before it decodes it (R105, R109, R123 to R125): its NAL units; the number
of the parameter sets that its slices name; its kind, 0 any other, 1 IDR or BLA, 2 CRA, 3 GDR, 4 the picture at a GDR's
recovery point, 5 RASL of the last CRA or BLA; its picture order count; those of the pictures that it keeps in the buffer. -/
structure AuInfo where
  nals : List Nal
  sets : Nat
  kind : Nat
  poc : Int
  keep : List Int
  deriving DecidableEq, Repr

/-- A decoded picture hash SEI (R108): method 0 MD5, 1 CRC, 2 checksum; its value for each plane. -/
structure PicHash where
  method : Nat
  planes : List Nat
  deriving DecidableEq, Repr

/-- How a slice ends (R116, R118, R124, R125): its CTUs in decoding order, how many of them were decoded, whether a bitstream
error stopped it, and the picture order counts in its reference picture lists. -/
structure SliceRun where
  ctus : List Nat
  decoded : Nat
  error : Bool
  refs : List Int
  deriving DecidableEq, Repr

/-- How an access unit ends (R107, R108, R119, R124, R125): the decoded picture at its coded size, of which the samples of
the decoded CTUs count; its hash SEI; its slices; the writes suppressed. -/
structure AuResult where
  pic : Pic
  hash : Option PicHash
  slices : List SliceRun
  bounds : Nat
  deriving DecidableEq, Repr

/-- The commands of the block: one constructor for each row of spec/opcode_table.json. -/
inductive Instr where
  /-- NOP (R54): Command that completes with OK after the common checks. -/
  | nop (c : Cmd)
  /-- FENCE (R57): Asynchronous command that is accepted at once and completes when every earlier command on its mailbox
  has completed. -/
  | fence (c : Cmd)
  /-- FENCE_COMPLETION (R57): Every command fetched before a pending FENCE has completed, so its final response and
  CMD_DONE are written. -/
  | fenceCompletion (mb : Nat)
  /-- DEV_INFO (R54): Returns identity, state, working channels, sag stage, free capacity and the current frame. -/
  | devInfo (c : Cmd)
  /-- PARAM_SET (R58): Stages parameter values atomically, or stages nothing and completes with BAD_ARG. -/
  | paramSet (c : Cmd)
  /-- PARAM_GET (R487): Returns the values in force or staged for the IDs named. -/
  | paramGet (c : Cmd)
  /-- PARAM_DISCARD (R58): Drops the staged values of the selected subsystems and leaves values in a pending COMMIT
  untouched. -/
  | paramDiscard (c : Cmd)
  /-- COMMIT (R59): Takes the staged values, checks them against the values in force and schedules them by boundary
  class. -/
  | commit (c : Cmd)
  /-- OBJECT_CREATE (R56): Checks capacity, assigns an object ID and starts copying the object bytes from the host. -/
  | objectCreate (c : Cmd)
  /-- OBJECT_CREATE_COMPLETION (R56): The object copy ends; the format is checked and the object is kept or destroyed.
  -/
  | objectCreateCompletion (obj : Nat) (data : List Byte)
  /-- OBJECT_DESTROY (R56): Releases an object, or completes with BUSY while the object is in use or named. -/
  | objectDestroy (c : Cmd)
  /-- OBJECT_READ (R296): Starts copying object bytes to the host. -/
  | objectRead (c : Cmd)
  /-- OBJECT_READ_COMPLETION (R296): The object copy ends, held counter updates are applied and the final response is
  written. -/
  | objectReadCompletion (job : Nat)
  /-- RESTART (R64): Writes the final response, resets the mailbox, event-queue and interrupt configuration, and enters
  BOOT. -/
  | restart (c : Cmd)
  /-- FW_STAGE (R65): Starts writing a firmware image to the inactive slot. -/
  | fwStage (c : Cmd)
  /-- FW_STAGE_COMPLETION (R65): The image write and its verification end with OK, INTEGRITY or NO_SPACE. -/
  | fwStageCompletion (r : FwImage)
  /-- FW_ACTIVATE (R66): Selects a verified slot to boot as a trial at the next BOOT. -/
  | fwActivate (c : Cmd)
  /-- FW_CONFIRM (R66): Makes the running trial image permanent. -/
  | fwConfirm (c : Cmd)
  /-- FW_STATUS (R66): Reports the version and state of both firmware slots. -/
  | fwStatus (c : Cmd)
  /-- HOST_STATUS (R54): Reports PCI Express link speed, width and error counters, and optionally clears the counters.
  -/
  | hostStatus (c : Cmd)
  /-- MB_CMD_TAIL_WRITE (R50): A write of MBn_CMD_TAIL rings the doorbell, or stops the mailbox when the occupancy
  exceeds the ring size. -/
  | mbCmdTailWrite (mb : Nat) (v : BitVec 16)
  /-- MB_RSP_HEAD_WRITE (R39): The host consumes responses, which frees response ring slots. -/
  | mbRspHeadWrite (mb : Nat) (v : BitVec 16)
  /-- PENDING_RESPONSE_WRITE (R39): A response held for lack of ring space is written once a slot frees, and fetching on
  that mailbox resumes. -/
  | pendingResponseWrite (mb : Nat)
  /-- MB_CFG_WRITE (R48): Enables or disables a mailbox, resetting its indices or flagging CFG_ERR. -/
  | mbCfgWrite (mb : Nat) (v : BitVec 32)
  /-- RING_FETCH_ERROR (R44): A ring fetch completes poisoned or unsuccessful, so the mailbox is stopped with cause 2.
  -/
  | ringFetchError (mb : Nat)
  /-- DMA_READ_TIMEOUT (R44): A device DMA read is not completed within 50 ms; the command fails with TIMEOUT or the
  mailbox stops with cause 3. -/
  | dmaReadTimeout (t : DmaTarget)
  /-- EQ_CFG_WRITE (R49): Enables the event queue, resetting EQ_HEAD and EQ_TAIL, or disables it. -/
  | eqCfgWrite (v : BitVec 32)
  /-- EQ_HEAD_WRITE (R63): The host consumer index is accepted if it lies between EQ_HEAD and EQ_TAIL, and ignored
  otherwise. -/
  | eqHeadWrite (v : BitVec 16)
  /-- EQ_HOLDOFF_EXPIRY (R63): HOLDOFF microseconds pass since the oldest unread record, so PEND is set for vector 1. -/
  | eqHoldoffExpiry
  /-- EVENT_QUEUE_WRITE (R35): The collector writes a held event record to the host event queue when space exists, and
  advances EQ_TAIL. -/
  | eventQueueWrite
  /-- IRQ_STATUS_WRITE (R47): W1C write of pending interrupt bits, which are set again with a new message when the cause
  still holds. -/
  | irqStatusWrite (hi : Bool) (v : BitVec 32)
  /-- IRQ_MASK_WRITE (R47): A write of the interrupt masks sends one message for each unmasked vector whose PEND bit is
  set. -/
  | irqMaskWrite (hi : Bool) (v : BitVec 32)
  /-- MSIX_ENTRY_UNMASK (R47): The host unmasks an MSI-X table entry while PEND is set and MASK is 0, so one message is
  sent. -/
  | msixEntryUnmask (vector : Nat)
  /-- FUNCTION_LEVEL_RESET (R49): Resets the host interface and the direct-window units: CVUs, 2D engine, time read
  ports and timestamp queues. -/
  | functionLevelReset
  /-- PCIE_LINK_DOWN (R68): Loss of the host link disables every mailbox and the event queue, and panel output
  continues. -/
  | pcieLinkDown
  /-- PCIE_LINK_UP (R68): The host link returns and HOST_LINK is raised. -/
  | pcieLinkUp (speed width : Nat)
  /-- PCIE_ERROR (R68): An AER-correctable or uncorrectable error is detected and reported. -/
  | pcieError (correctable : Bool) (aer : Nat)
  /-- REGISTER_WRITE (R45): A write to a direct-window register that has no behaviour of its own is stored, ignored if
  reserved, or cleared if W1C. -/
  | registerWrite (offset : Nat) (v : BitVec 32)
  /-- SCENE_OPEN (R102): Creates a SCENE object, takes a slot and reserves its baskets. -/
  | sceneOpen (c : Cmd)
  /-- SCENE_SUBMIT (R103): Accepts a host buffer of QSS packets for ingest on a host-source scene. -/
  | sceneSubmit (c : Cmd)
  /-- SCENE_SUBMIT_COMPLETION (R103): Every packet of the buffer has been checked and filed, and the final response
  reports the counts. -/
  | sceneSubmitCompletion (slot : Nat)
  /-- SCENE_CLOSE (R104): Stops ingest in drain or immediate mode. -/
  | sceneClose (c : Cmd)
  /-- SCENE_CLOSE_DRAIN_COMPLETE (R104): A draining scene has no frame queued, so the drain-mode SCENE_CLOSE completes.
  -/
  | sceneCloseDrainComplete (slot : Nat)
  /-- SCENE_STATUS (R484): Reports the scene counters and position, and optionally clears the counters. -/
  | sceneStatus (c : Cmd)
  /-- SEQ_PARAMS (R74): A QSS sequence-parameter packet is taken as a repeat or starts a new sequence. -/
  | seqParams (p : Pkt)
  /-- FRAME_BEGIN (R81): A QSS FRAME_BEGIN closes any open frame and opens a new one, or is discarded. -/
  | frameBegin (p : Pkt)
  /-- ANCHOR_PARAMS (R76): A QSS anchor camera packet is checked and put in force from its frame. -/
  | anchorParams (p : Pkt)
  /-- TEXTURE_AU (R84): A texture access unit is checked and filed to its stream's decoder. -/
  | textureAu (p : Pkt)
  /-- DEPTH_AU (R84): A depth access unit is checked and filed to its stream's decoder. -/
  | depthAu (p : Pkt)
  /-- LAYER_TABLE (R77): A QSS layer table is checked and put in force from its frame. -/
  | layerTable (p : Pkt)
  /-- OVERLAY (R89): A QSS overlay packet updates an overlay slot's surface, placement and visibility. -/
  | overlay (p : Pkt)
  /-- FRAME_END (R85): Closes the open frame, checks the packet count and conceals expected AUs that are missing. -/
  | frameEnd (p : Pkt)
  /-- KEEPALIVE (R92): A QSS keepalive restarts the silence timer only. -/
  | keepalive (p : Pkt)
  /-- CUE (R91): A QSS cue is queued to fire on presentation or at a time. -/
  | cue (p : Pkt)
  /-- SCENE_SILENCE_TIMEOUT (R92): No packet arrives for scene.silence_ms, so SCENE_SILENT is raised once. -/
  | sceneSilenceTimeout (slot : Nat)
  /-- SELECTION_POINT (R275): Before each panel frame, takes the values in force, chooses scene frames, fixes layer
  inputs, sets the ladder step, assigns ray tiles and starts synthesis. -/
  | selectionPoint
  /-- AU_DECODE_START (R111): A stream's next access unit starts on its team once the previous one has finished, and the
  team is formed at a RAP. -/
  | auDecodeStart (st : StreamId) (info : AuInfo)
  /-- AU_DECODE_COMPLETE (R107): An access unit finishes decoding; the picture is yielded, marked, prepared, and may
  make its frame ready. -/
  | auDecodeComplete (st : StreamId) (res : AuResult)
  /-- CTU_TIMEOUT (R116): A CTU does not complete within 1 ms, so the core is reset and the access unit is concealed. -/
  | ctuTimeout (core : Nat) (st : StreamId) (res : AuResult)
  /-- AU_BUDGET_EXPIRY (R118): An access unit exceeds decode.au_budget_frames, so the team stops at a CTU boundary and
  the picture is concealed. -/
  | auBudgetExpiry (st : StreamId) (stop : Nat) (res : AuResult)
  /-- DECODE_STATUS (R127): Reports the state and counters of the eight streams of one anchor. -/
  | decodeStatus (c : Cmd)
  /-- DECODE_CORES (R117): Reports the state and assignment of every decode core. -/
  | decodeCores (c : Cmd)
  /-- GEOM_INFO (R140): Returns the derived figures and CRC of a GEOMETRY object. -/
  | geomInfo (c : Cmd)
  /-- GEOM_RAY (R137): Returns the index, origin and direction of one ray. -/
  | geomRay (c : Cmd)
  /-- RAY_TILE_DISPATCH (R183): A ray tile is dispatched to its cluster once its band holds a row assembler and the
  cluster has room, with stealing under R184. -/
  | rayTileDispatch (cluster : Nat)
  /-- RAY_TILE_RETIRE (R146): A cluster retires a ray tile's words into the row assembler, and a completed band is
  released. -/
  | rayTileRetire (cluster wait : Nat)
  /-- RAY_TILE_TIMEOUT (R159): A ray tile is not retired within 20 µs, so the cluster is reset and the tile is
  reassigned. -/
  | rayTileTimeout (cluster : Nat)
  /-- FORECAST_QUARTER_CHECK (R164): At each quarter of a synthesised subframe's window, completion is projected and
  unstarted tiles may be escalated to step 3. -/
  | forecastQuarterCheck
  /-- BAND_COMPRESS (R276): Compression accepts a released band once the tile's scan-out share has room, and emits block
  rows with their CRCs. -/
  | bandCompress (tile : Nat)
  /-- SYNTH_STATUS (R161): Reports the ladder, forecast, counters and cluster states. -/
  | synthStatus (c : Cmd)
  /-- SYNTH_PROBE (R166): Returns the ray word of one ray in the current frame, with its intermediate values. -/
  | synthProbe (c : Cmd)
  /-- PLACE_STATUS (R170): Reports capacity, migration and channel summary. -/
  | placeStatus (c : Cmd)
  /-- PLACE_OBJECT (R170): Reports the residency of one object. -/
  | placeObject (c : Cmd)
  /-- PLACE_HINT (R193): Sets the placement hints of one object from the next epoch. -/
  | placeHint (c : Cmd)
  /-- PLACEMENT_EPOCH_TICK (R178): The placement epoch advances after 1 ms with no subframe boundary, and pending
  location switches are made. -/
  | placementEpochTick
  /-- BASKET_COPY_COMPLETE (R179): A migration or replica copy finishes, and its location switch waits for the next
  epoch boundary. -/
  | basketCopyComplete (obj index kind dest : Nat)
  /-- BASKET_SOURCE_RELEASE (R179): Every older operation addressing a moved basket has retired, so the source is
  released. -/
  | basketSourceRelease (obj index : Nat)
  /-- CHANNEL_FAILED_MARK (R188): The placer acts on a channel marked FAILED: it drops replicas, serves single copies,
  loses stream and scratch baskets and starts restoration. -/
  | channelFailedMark (ch : Nat)
  /-- MIRROR_RESTORATION_COMPLETE (R189): Every single critical basket has been mirrored again, and PLACE_REMIRROR_DONE
  is raised. -/
  | mirrorRestorationComplete
  /-- COMP_STATUS (R209): Reports the visible layers and the latest tap frames. -/
  | compStatus (c : Cmd)
  /-- CMP_JOB (R231): Checks and accepts a compression job, creating a JOB object and reserving staging. -/
  | cmpJob (c : Cmd)
  /-- CMP_JOB_OUTPUT_COMPLETE (R233): A job has produced its whole output in staging and is checked before the copy. -/
  | cmpJobOutputComplete (src : List Byte)
  /-- CMP_JOB_COPY_COMPLETE (R232): A job's output has been copied to DST, so it commits with OK or DONE_WITH_WARNINGS
  and the next job starts. -/
  | cmpJobCopyComplete
  /-- CMP_CANCEL (R234): Ends a queued or running job with ABORTED. -/
  | cmpCancel (c : Cmd)
  /-- CMP_STATUS (R226): Reports the code in force, job counters and panel mode mix. -/
  | cmpStatus (c : Cmd)
  /-- SUBFRAME_BOUNDARY (R267): At each panel-grid boundary, the device sends SUBFRAME_START, checks first rows, applies
  boundary values, settles the ledgers and advances the epoch. -/
  | subframeBoundary
  /-- BLOCK_ROW (R278): A compressed block row of the current subframe is sent once it is present and the lanes have
  room. -/
  | blockRow (tile : Nat)
  /-- ROW_CUTOFF (R278): At B_n+1 − 2 µs, the unsent rows of subframe n are discarded. -/
  | rowCutoff
  /-- KEEP_ALIVE (R272): At the midpoint of boundaries more than 20 ms apart, a SUBFRAME_START with KEEP = 1 is sent. -/
  | keepAlive
  /-- LATENCY_TOLERANCE_REPORT (R279): Every 1 µs, the scan-out latency tolerance is reported to the memory controllers.
  -/
  | latencyToleranceReport
  /-- MODE_CHANGE_NEUTRAL_PAIR (R281): At Tp/S + DARK_US of a timing mode change, a neutral MASK_CMD PAIR is sent to
  every held tile. -/
  | modeChangeNeutralPair
  /-- MODE_CHANGE_TN (R281): At Tn the old grid stops, EMIT_ON is sent and the new timing starts from boundary 0. -/
  | modeChangeTn
  /-- PANEL_MODE (R289): Checks a panel mode with lane rate and code, and stages them together. -/
  | panelMode (c : Cmd)
  /-- TIM_STATUS (R279): Reports the state of both generators and the scan-out counters. -/
  | timStatus (c : Cmd)
  /-- CAPS_REQUEST (R249): A port in state CAPS sends a CAPS request every 1 ms. -/
  | capsRequest (tile : Nat)
  /-- CAPS_REPLY (R254): A valid tile CAPS reply makes the port ACTIVE and decides whether content resumes or reconcile
  runs. `rx`: the blocks that bring it, in the order of the unit stream. -/
  | capsReply (tile : Nat) (rx : List LinkBlock)
  /-- STATUS (R308): A tile STATUS is received: drives are settled, counters and FM_CHECK compared, and ownership is
  tracked. -/
  | status (tile : Nat) (rx : List LinkBlock)
  /-- ACK (R262): A tile ACK to a MASK_CMD or POWER_CMD advances the sequence that awaited it. -/
  | ack (tile : Nat) (rx : List LinkBlock)
  /-- ACK_TIMEOUT (R262): No ACK arrives by 5 ms after its bound, so the command is handled as not executed. -/
  | ackTimeout (tile : Nat)
  /-- HEARTBEAT (R256): A HEARTBEAT is sent on every ACTIVE port at least every link.hb_us. -/
  | heartbeat (tile : Nat)
  /-- SIGNAL_DETECT (R249): Signal is present on all four receive lanes, so a DETECT port enters TRAIN. -/
  | signalDetect (tile : Nat)
  /-- TRAIN_COMPLETE (R250): 16 TS2 are received on every lane, so the port enters LOCK. -/
  | trainComplete (tile : Nat) (laneOrder : Bool)
  /-- LOCK_COMPLETE (R249): Four lane cycles with aligned SKIP and no sync error pass, so the port enters CAPS. -/
  | lockComplete (tile : Nat)
  /-- PORT_STATE_TIMEOUT (R249): A port state's timeout expires, so the port returns to DETECT after a 1 ms or 100 ms
  wait. -/
  | portStateTimeout (tile : Nat)
  /-- BITSLIP_SEARCH (R253): A lane without block lock 10 ms into TRAIN runs the software bit-slip search. -/
  | bitslipSearch (tile lane : Nat) (offsets : List SlipCount)
  /-- BLOCK_LOCK_LOSS (R251): A lane receives 8 invalid sync headers within 64 blocks or exceeds link.err_retrain, so
  the port returns to TRAIN. -/
  | blockLockLoss (tile : Nat) (rx : List LinkBlock)
  /-- STATUS_TIMEOUT (R251): No STATUS arrives for link.status_timeout_ms, so the port returns to TRAIN. -/
  | statusTimeout (tile : Nat)
  /-- RECONCILE_RETRY (R315): 100 ms after a failed reconcile, the device retries, up to 3 attempts. -/
  | reconcileRetry (tile : Nat)
  /-- DISCHARGE_TIMEOUT (R316): 205 ms after DISCHARGE without an ACK, TILE_PWR_EN goes low and the port goes DOWN. -/
  | dischargeTimeout (tile : Nat)
  /-- TILE_PWR_EN_STAGGER (R311): In BOOT, the next enabled tile's TILE_PWR_EN rises panel.pwr_stagger_ms after the
  previous one. -/
  | tilePwrEnStagger
  /-- BOOT_TILE_TIMEOUT (R26): A tile not ACTIVE 1 s after its TILE_PWR_EN rose counts as done for the transition from
  BOOT. -/
  | bootTileTimeout (tile : Nat)
  /-- LINK_CTRL (R266): Retrains, takes down or brings up the selected ports. -/
  | linkCtrl (c : Cmd)
  /-- LINK_STATUS (R251): Reports the state and counters of every port. -/
  | linkStatus (c : Cmd)
  /-- EYE_SCAN (R265): Starts an eye scan of one receive lane. -/
  | eyeScan (c : Cmd)
  /-- EYE_SCAN_COMPLETION (R265): The scan ends; the results are written and the final response follows, or the scan is
  aborted. -/
  | eyeScanCompletion (counts : List Nat)
  /-- PANEL_STATUS (R306): Reports power, ledger, check and monitor state. -/
  | panelStatus (c : Cmd)
  /-- PARASOL (R321): Enters Parasol mode at the next selection point, or wakes from it under R328. -/
  | parasol (c : Cmd)
  /-- TILE_POWER (R318): Powers the selected tiles on or off by Table 12.5 or R316. -/
  | tilePower (c : Cmd)
  /-- REGION_UPDATE (R324): Accepts a rectangle update of stored image 0 in PARASOL and supersedes older updates of its
  region. -/
  | regionUpdate (c : Cmd)
  /-- REGION_STAGING_COMPLETE (R324): The block image is staged and decoded, and the update fails with INTEGRITY if any
  row CRC differs. -/
  | regionStagingComplete (region : Nat) (src : List Byte)
  /-- PARASOL_VISIT (R322): Every 1 / panel.parasol_hz, the device wakes ports, checks FM_CHECK, sends due region rows
  and returns the ports to standby. -/
  | parasolVisit
  /-- STRESS_SAMPLE (R297): A scheduled cell-row stress sample updates the ageing counters. -/
  | stressSample
  /-- GAIN_MAP_REBUILD (R300): A rebuild of the effective gain map starts every panel.age.rebuild_s or on a trigger. -/
  | gainMapRebuild
  /-- GAIN_MAP_REBUILD_COMPLETE (R300): A rebuild ends, and its result waits for the swap at the next open subframe 0.
  -/
  | gainMapRebuildComplete
  /-- MEM_STATUS (R333): Reports memory state and counters. -/
  | memStatus (c : Cmd)
  /-- MEM_CHANNEL (R340): Reports the state, training margins and counters of one channel. -/
  | memChannel (c : Cmd)
  /-- MEM_SETPOINT (R343): Requests a DRAM set point, deferred under R344. -/
  | memSetpoint (c : Cmd)
  /-- SETPOINT_SWITCH (R344): Once running passes end and R335 admits it, all channels switch set point and MEM_SETPOINT
  completes. -/
  | setpointSwitch (ns : Nat)
  /-- SETPOINT_TIMEOUT (R344): The switch has not begun 50 ms after the request, so it completes with TIMEOUT. -/
  | setpointTimeout
  /-- MEM_RETRAIN (R347): Starts a full retraining of one channel. -/
  | memRetrain (c : Cmd)
  /-- FULL_RETRAINING_END (R342): A full retraining ends with a working setting, or the channel is marked FAILED. -/
  | fullRetrainingEnd (ch : Nat) (m0 m1 : TrainMargins)
  /-- TRACKING_PASS_TIMER (R341): Every mem.track_ms, a tracking pass starts on a channel. -/
  | trackingPassTimer (ch : Nat)
  /-- TRAINING_STEP (R335): A training step runs as a long stall of `ns` once the latency tolerance admits it. -/
  | trainingStep (ch : Nat) (ns : Nat) (done : Option TrainMargins)
  /-- REFRESH_WINDOW (R334): Every tREFI, all banks are refreshed in a 400 ns window, with neighbour refreshes executed.
  -/
  | refreshWindow
  /-- DRAM_TEMPERATURE_READ (R334): Every 16 ms, the package temperatures are read and the refresh rate may change. -/
  | dramTemperatureRead (temps : List Int)
  /-- ROWGUARD_TABLE_CLEAR (R337): Every 32 ms, each bank's activate table is emptied. -/
  | rowguardTableClear
  /-- BANK_ACTIVATE (R337): A row activate updates the rowguard table and may schedule a neighbour refresh or wait on a
  full queue. -/
  | bankActivate (ch bank row : Nat)
  /-- PAGE_IDLE_TIMEOUT (R339): A bank idle for mem.page_idle_ns closes its open row. -/
  | pageIdleTimeout (ch bank : Nat)
  /-- SCRUB_TICK (R333): The patrol scrubber reads the next codeword. -/
  | scrubTick
  /-- CORRECTED_READ (R331): A read with at most 4 symbol errors is corrected and queued for write-back;
  `merge`: it is the read of a read-modify-write (R329). -/
  | correctedRead (ch bank addr : Nat) (cw : List Byte) (merge : Option Merge)
  /-- CORRECTED_WRITEBACK (R331): At the bank's next idle moment, the corrected codeword is written back. -/
  | correctedWriteback (ch bank : Nat)
  /-- UNCORRECTABLE_READ (R332): An uncorrectable read is handled by its basket class. -/
  | uncorrectableRead (ch bank addr : Nat) (at_ : UePlace) (both : Bool) (reader : Option Nat) (cw : List Byte) (merge : Option Merge)
  /-- ENC_RING (R357): Sets the output ring of an encoder stream. -/
  | encRing (c : Cmd)
  /-- ENC_RELEASE (R357): The host releases ring bytes up to HEAD. -/
  | encRelease (c : Cmd)
  /-- ENC_IDR (R354): Makes the stream's next picture IDR. -/
  | encIdr (c : Cmd)
  /-- ENC_STATUS (R356): Reports the state and counters of the encoder streams. -/
  | encStatus (c : Cmd)
  /-- ENC_PICTURE_DUE (R356): A stream's picture falls due at its panel frame and starts coding, or is skipped while the
  previous picture codes. -/
  | encPictureDue (n : Nat) (params : List Byte)
  /-- ENC_SLICE_COMPLETE (R358): A coded slice is written as a record, or dropped for lack of ring space; the last slice
  ends the picture. -/
  | encSliceComplete (n : Nat) (data : List Byte) (qp fallback : Nat) (bp : Bool)
  /-- MONITOR_FRAME_START (R286): At vertical blanking, a monitor frame begins, MONITOR_FRAME values apply and the
  previous frame's read-back is compared. -/
  | monitorFrameStart (back : Nat)
  /-- MON_HPD_RISE (R362): MON_HPD rises, or returns high after 2 ms low, so the DisplayPort link trains. -/
  | monHpdRise (sinkMax : Nat)
  /-- IRQ_HPD (R362): An IRQ_HPD pulse leads to a read of the link status and a retrain if the link is lost. -/
  | irqHpd (lost : Bool)
  /-- MON_LINK_TRAINING_END (R362): DisplayPort training ends up, at a lower rate, or FAILED. -/
  | monLinkTrainingEnd (best : Option Nat)
  /-- MON_STATUS (R363): Reports the monitor link and read-back counters. -/
  | monStatus (c : Cmd)
  /-- MON_RETRAIN (R362): Retrains the monitor link. -/
  | monRetrain (c : Cmd)
  /-- CVU_RESET (R366): A write of RESET to CVUn_CTRL latches the configuration, loads INIT and clears COUNT, or sets
  CFG_ERR. -/
  | cvuReset (n : Nat) (v : BitVec 32)
  /-- CVU_DATA8 (R367): Feeds 1 byte into the unit's CRC. -/
  | cvuData8 (n : Nat) (v : BitVec 8)
  /-- CVU_DATA16 (R367): Feeds 2 bytes into the unit's CRC. -/
  | cvuData16 (n : Nat) (v : BitVec 16)
  /-- CVU_DATA32 (R367): Feeds 4 bytes into the unit's CRC. -/
  | cvuData32 (n : Nat) (v : BitVec 32)
  /-- CVU_FINAL (R369): Latches the result, advances ALIVE, sets PEND for vector 10 + n and optionally resets. -/
  | cvuFinal (n : Nat) (v : BitVec 32)
  /-- G2D_START (R375): Latches the engine registers, checks the operation, then starts it, refuses it or ignores the
  START while busy. -/
  | g2dStart (v : BitVec 32)
  /-- G2D_ABORT (R380): Stops the running 2D operation at a row boundary within 100 µs. -/
  | g2dAbort (rows : List G2dHostRow)
  /-- G2D_OPERATION_END (R376): A 2D operation ends: BUSY clears, ERROR and OPS are written, DONE is set and vector 18
  is signalled. -/
  | g2dOperationEnd (rows : List G2dHostRow) (error part : Nat) (next : G2dHostRow)
  /-- NET_STATUS (R400): Reports the link and counters of one Ethernet port. -/
  | netStatus (c : Cmd)
  /-- NET_FLOW (R407): Sets or clears a receive or transmit flow. -/
  | netFlow (c : Cmd)
  /-- TIME_STATUS (R391): Reports the state of the four time bases. -/
  | timeStatus (c : Cmd)
  /-- TIME_SET (R390): Sets TB1, TB2 or TB3 where admitted, which is a step of a running base. -/
  | timeSet (c : Cmd)
  /-- TIME_COMPARE (R393): Arms or disarms a compare slot. -/
  | timeCompare (c : Cmd)
  /-- COMPARE_FIRE (R393): An armed slot's base reaches its time, so it fires, sets PEND for vector 23 and disarms. -/
  | compareFire (slot : Nat)
  /-- TIME_LATCH (R398): A write latches the named time bases at one instant. -/
  | timeLatch (v : BitVec 32)
  /-- TSQ_POP (R399): A write of TSQp_POP removes the head transmit-timestamp entry. -/
  | tsqPop (p : Nat)
  /-- PPS_OUT_PULSE (R395): PPS_OUT rises when the named base's nanosecond count passes 0, and falls after the width. -/
  | ppsOutPulse
  /-- PPS_IN_EDGE (R396): A rising edge of PPS_IN is timestamped in every running base. -/
  | ppsInEdge
  /-- PTP_MESSAGE (R391): A received PTP message updates the port state, servo and base, possibly setting or stepping
  it. -/
  | ptpMessage (base : Nat) (r : PtpRx)
  /-- PTP_SEND (R399): At its message interval, a PTP event message is sent and its transmit timestamp is queued. -/
  | ptpSend (base type seq : Nat)
  /-- ANNOUNCE_RECEIPT_TIMEOUT (R391): Announce messages stop arriving, so LOCKED is lost and the base enters holdover.
  -/
  | announceReceiptTimeout (base gm : Nat)
  /-- NET_LINK_CHANGE (R400): An Ethernet port's link goes up or down, and NET_LINK is raised. -/
  | netLinkChange (port : Nat) (up : Bool)
  /-- UDP_DATAGRAM (R404): A received datagram is matched to a flow and taken into reassembly, and complete units are
  delivered in order. -/
  | udpDatagram (port : Nat) (d : Udp)
  /-- REASSEMBLY_TIMEOUT (R404): An incomplete unit is abandoned net.reasm_ms after its first datagram. -/
  | reassemblyTimeout (flow unit : Nat)
  /-- ICMP_ECHO (R400): An ICMP echo request or ARP request is answered. -/
  | icmpEcho (port : Nat) (arp : Bool)
  /-- PWR_STATUS (R488): Reports the sag stage, voltage loop, domain states and counters. -/
  | pwrStatus (c : Cmd)
  /-- PACE_REPORT (R23): Reports the pace value and VCORE of each monitor. -/
  | paceReport (c : Cmd)
  /-- THERM_STATUS (R419): Reports the sensors, thermal level and exclusions. -/
  | thermStatus (c : Cmd)
  /-- RAIL_STATUS (R417): Reports regulator telemetry. -/
  | railStatus (c : Cmd)
  /-- SAG_SAMPLE (R412): Every 10 µs, VCORE is sampled at every site and the sag stage rises or, after its dwell, falls.
  -/
  | sagSample (vcore pace : List Nat)
  /-- SUPPLY_WARN_N_FALL (R413): SUPPLY_WARN_N goes low, so the stage is at least S4. -/
  | supplyWarnNFall
  /-- SUPPLY_WARN_N_RISE (R413): SUPPLY_WARN_N rises, and the stage falls from S4 under the dwell rule. -/
  | supplyWarnNRise
  /-- AVS_TICK (R415): Every pwr.avs.period_us, the voltage loop adjusts VCORE by pace and writes VOUT_COMMAND. -/
  | avsTick (r : PmbRead)
  /-- PMB_ALERT_N_FALL (R416): PMB_ALERT_N falls, so STATUS_WORD is read and CLEAR_FAULTS is sent. -/
  | pmbAlertNFall (status : Nat)
  /-- AVS_RETRY (R416): While the loop is frozen, the regulator transaction is retried every 1 s. -/
  | avsRetry (r : PmbRead)
  /-- TELEMETRY_TICK (R417): Every 100 ms, telemetry is read from each named regulator. -/
  | telemetryTick (reads : List PmbRail)
  /-- THERMAL_SAMPLE (R418): Every 1 ms, the die sensors are sampled and checked, and the thermal level is updated. -/
  | thermalSample (temps : List Int)
  /-- THERMTRIP_SHUTDOWN_TIMEOUT (R421): SHUTDOWN at level 3 has not reached OFF within 1 s, so PD01 drives THERMTRIP_N
  low. -/
  | thermtripShutdownTimeout
  /-- TEMP_COMPENSATION_TICK (R422): Every 100 ms, temperature corrections are recomputed and applied at idle
  boundaries. -/
  | tempCompensationTick (n : Nat)
  /-- DOMAIN_UP_START (R410): A pending domain power-up begins, at most one every 20 µs, in ascending domain number. -/
  | domainUpStart
  /-- DOMAIN_UP_COMPLETE (R409): A domain finishes UP with calibration, reaches ON and serves any held disable. -/
  | domainUpComplete (d failStep : Nat)
  /-- DOMAIN_DOWN_COMPLETE (R409): A domain finishes switching off, reaches OFF and serves any held enable. -/
  | domainDownComplete (d : Nat)
  /-- DOMAIN_TRANSITION_TIMEOUT (R409): UP or DOWN exceeds its maximum, so the domain is forced off and marked FAILED.
  -/
  | domainTransitionTimeout (d : Nat)
  /-- SAFETY_STATUS (R435): Returns the safety mirror registers. -/
  | safetyStatus (c : Cmd)
  /-- SAFETY_CLEAR (R430): Releases the severity-4 latch, or completes with BUSY or BAD_STATE. -/
  | safetyClear (c : Cmd)
  /-- SAFETY_TEST (R433): Injects a test fault into one mechanism and reports the detection time. -/
  | safetyTest (c : Cmd)
  /-- SAFETY_TEST_COMPLETION (R433): The test fault is detected or its detection time expires, and the final response
  reports the outcome. -/
  | safetyTestCompletion (hit : Option SafetyHit)
  /-- RAY_PROBE_COMPLETE (R431): The safety monitor finishes recomputing the frame's probe rays and compares them with
  the cluster words. -/
  | rayProbeComplete (probes : List RayProbe)
  /-- LOCKSTEP_MISMATCH (R428): The safety monitor cores disagree, so the device enters SAFE, or PD01 drives the safety
  balls low. -/
  | lockstepMismatch
  /-- FABRIC_PARITY_ERROR (R426): Byte parity fails on a fabric word, which is SM03 with reaction SAFE. -/
  | fabricParityError
  /-- CONTROL_PROCESSOR_WATCHDOG (R426): 5 ms pass without a firmware heartbeat, which is SM02 with reaction SAFE. -/
  | controlProcessorWatchdog
  /-- HOST_HB_WRITE (R434): A changing write of HOST_HB restarts the host heartbeat and clears HB_LOST. -/
  | hostHbWrite (v : BitVec 32)
  /-- HOST_HB_TIMEOUT (R434): No changing HOST_HB write arrives within safety.host_hb_ms, so HB_LOST is set. -/
  | hostHbTimeout
  /-- SMC_ALIVE_TICK (R435): Every 1 ms while SMC_OK, SMC_ALIVE advances. -/
  | smcAliveTick
  /-- PAIR_STATUS (R437): Reports the pair roles, READY, epoch, D and digests. -/
  | pairStatus (c : Cmd)
  /-- PAIR_CTRL (R438): Requests a planned switchover, yields, or resumes. -/
  | pairCtrl (c : Cmd)
  /-- XLINK_STATE_SEND (R439): Every 100 µs, a STATE message is sent over the cross-link. -/
  | xlinkStateSend
  /-- XLINK_STATE (R437): A received partner STATE updates roles, the digest comparison and the grid alignment. -/
  | xlinkState (m : XState)
  /-- XLINK_STATE_TIMEOUT (R439): No valid STATE arrives for 1 ms, so the cross-link is down. -/
  | xlinkStateTimeout
  /-- LEDGER (R447): A received LEDGER message updates the partner's mask ledgers. -/
  | ledger (frame sf : Nat) (settled : Bool) (rows : List LedgerRow)
  /-- HANDOVER (R442): A received HANDOVER makes the READY side claim the tiles in a fault switchover. -/
  | handover (kind epoch : Nat)
  /-- HELLO (R437): A HELLO exchange completes cross-link bring-up. -/
  | hello (epoch : Nat)
  /-- PAIR_JOIN_TIMEOUT (R437): No cross-link for pair.join_ms, so the witness decides on SOLO. -/
  | pairJoinTimeout
  /-- WITNESS_TIMEOUT (R445): No tile reports advancing subframes for one subframe plus 2 ms with the cross-link down,
  so this side claims all tiles. -/
  | witnessTimeout
  /-- AUTO_DEGRADE_TIMER (R442): A READY STANDBY has ranked above the owner for 1 s, so a degrade switchover starts. -/
  | autoDegradeTimer
  /-- PORST_N_ASSERT (R450): PORST_N goes low, which resets all domains except AON state and drives TILE_PWR_EN low. -/
  | porstNAssert
  /-- PORST_N_RELEASE (R450): PORST_N rises, so the straps are sampled, the start kind is chosen and the device enters
  BOOT. -/
  | porstNRelease (sideB : Bool) (strapBoot : Nat)
  /-- VAON_POWER_ON (R456): VAON is applied, so the AON counter restarts at 0 and FORCE_FULL reads 1. -/
  | vaonPowerOn
  /-- AON_COUNTER_TICK (R457): The AON counter advances by one second. -/
  | aonCounterTick
  /-- FIRMWARE_LOAD_COMPLETE (R454): The boot image is read and verified, or the next one is tried, and FW_READY is set.
  -/
  | firmwareLoadComplete (r0 r1 : SlotRead)
  /-- CHANNEL_TRAINING_COMPLETE (R340): A channel ends BOOT training, joins the pool or is FAILED, and BOOT transitions
  are evaluated. -/
  | channelTrainingComplete (ch : Nat) (m0 m1 : TrainMargins)
  /-- SYNTHESIS_STARTUP_COMPLETE (R141): Synthesis start-up finishes with a geometry in force, so BLANKET moves to
  SERVICE or REDUCED. -/
  | synthesisStartupComplete
  /-- SELFTEST_CONDITION_CHECK (R462): During self-test, the test clock and VCORE conditions are checked, and a failure
  stops the test. -/
  | selftestConditionCheck (clk vMin vMax : Nat)
  /-- SELFTEST_DOMAIN_COMPLETE (R464): A domain's self-test ends; its result is programmed and the next phase, record or
  shutdown follows. -/
  | selftestDomainComplete (d sig count : Nat)
  /-- SHUTDOWN (R468): Enters SHUTDOWN: ends work, powers tiles off, optionally runs self-test, then OFF. -/
  | shutdown (c : Cmd)
  /-- SELFTEST_RECORD (R467): Returns the newest valid self-test record, or the other sector. -/
  | selftestRecord (c : Cmd)
  /-- CAL_STATUS (R461): Reports the result of each power-up calibration step. -/
  | calStatus (c : Cmd)
  /-- DMA_READ_POISONED (R44): A DMA read for a command's data completes with a poisoned or unsuccessful status, so the
  command completes with INTEGRITY. -/
  | dmaReadPoisoned (t : DmaTarget)
  /-- DETECT_RETRY_WAIT (R249): The 1 ms or 100 ms wait after a port's return to DETECT expires, and the port starts its
  next attempt by sending TS1. -/
  | detectRetryWait (tile : Nat)
  /-- L1_WAKE_ACTIVE (R255): After the device resumes a port from L1 with SKIP blocks, block lock is regained and the
  port returns to ACTIVE without CAPS, raising LINK_STATE. -/
  | l1WakeActive (tile : Nat)
  /-- SMC_START_CHECKS_PASS (R428): The safety monitor core's start checks in BOOT pass, so SMC_OK is set and FAULT_N is
  released unless another condition holds it low. -/
  | smcStartChecksPass
  /-- RECORD_SECTOR_PROGRAMMED (R467): The erase and the header and training programming of the target record sector
  complete, so self-test phase 1 may begin. -/
  | recordSectorProgrammed
  /-- SWITCHOVER_CLAIM (R442): In a planned or degrade switchover, the new owner claims the tiles 20 µs after boundary
  B_n+1. -/
  | switchoverClaim
  deriving DecidableEq, Repr

end Sys2Proof
end

