-- ==== Sys2Proof/Decode.lean ====
section
/-! DEFINITION. The commands of the block arrive as operations, not as words: the opcode table gives no row any bits, so
no word spells a command. -/

namespace Sys2Proof

/-- The command that a word of the table's bits spells: none, since no row has bits. -/
def decodeTableWord (_nbits _w : Nat) : Option Instr := none

end Sys2Proof
end

