-- ==== Sys2Proof/Machine/Flags.lean ====
section
/-! DEFINITION. Bit fields, byte order, signed numbers, exact fractions, rounding and the check values of the spec. -/

namespace Sys2Proof.Machine

/-! ### Bit fields (spec/00, notation) -/

/-- Bits [hi:lo] of a number. -/
def bits (w hi lo : Nat) : Nat := (w >>> lo) % 2 ^ (hi + 1 - lo)

/-- Bit n of a number. -/
def bit (w n : Nat) : Bool := (w >>> n) % 2 == 1

/-- A Bool as the bit 0 or 1. -/
def b2n (b : Bool) : Nat := if b then 1 else 0

/-- The value v put at bits [lo+width-1:lo]. -/
def fld (lo width v : Nat) : Nat := (v % 2 ^ width) <<< lo

/-- A field of a word: its lowest bit, its width, its value. -/
structure Field where
  lo : Nat
  width : Nat
  v : Nat
  deriving DecidableEq, Repr

/-- A word put together from fields that do not overlap. -/
def packNat : List Field → Nat
  | [] => 0
  | f :: fs => fld f.lo f.width f.v + packNat fs

/-- A native word put together from fields (R12). -/
def packW (fs : List Field) : Word := BitVec.ofNat 128 (packNat fs)

/-- Shorthand: bits [hi:lo] hold v. -/
def at' (hi lo v : Nat) : Field := { lo := lo, width := hi + 1 - lo, v := v }

/-- Set or clear bit n of a number. -/
def putBit (w n : Nat) (b : Bool) : Nat :=
  if b then w ||| (1 <<< n) else w - (w &&& (1 <<< n))

/-! ### Byte order (R12) -/

/-- The little-endian number of a list of bytes. -/
def leNat : List Byte → Nat
  | [] => 0
  | b :: bs => b.toNat + 256 * leNat bs

/-- The low n bytes of a number, least significant first. -/
def leBytes : Nat → Nat → List Byte
  | 0, _ => []
  | n + 1, v => BitVec.ofNat 8 v :: leBytes n (v / 256)

/-- n bytes of a list from an offset, short lists give fewer. -/
def slice {α : Type} (xs : List α) (off n : Nat) : List α := (xs.drop off).take n

/-- Word n of a byte string, missing bytes read 0. -/
def wordAt (bs : List Byte) (n : Nat) : Nat := leNat (slice bs (16 * n) 16)

/-- A little-endian field of `n` bytes at an offset. -/
def bytesAt (bs : List Byte) (off n : Nat) : Nat := leNat (slice bs off n)

/-- The bytes of a native word (R12). -/
def wordBytes (w : Word) : List Byte := leBytes 16 w.toNat

/-- The bytes of a list of native words. -/
def wordsBytes : List Word → List Byte
  | [] => []
  | w :: ws => wordBytes w ++ wordsBytes ws

/-- A list padded with a value up to n elements, and cut there. -/
def padTo {α : Type} (x : α) (n : Nat) (xs : List α) : List α := xs.take n ++ List.replicate (n - xs.length) x

/-! ### Signed numbers and comparisons of free-running counts (R14, R15) -/

/-- Two's complement of `w` bits read as an integer. -/
def sgn (w v : Nat) : Int :=
  let v := v % 2 ^ w
  if v < 2 ^ (w - 1) then (v : Int) else (v : Int) - (2 ^ w : Nat)

/-- An integer as `w` bits of two's complement. -/
def unsgn (w : Nat) (i : Int) : Nat := (i % (2 ^ w : Nat)).toNat

/-- The signed difference a - b of two free-running counts of `w` bits (R15). -/
def sdiff (w a b : Nat) : Int := sgn w (a + 2 ^ w - b % 2 ^ w)

/-- a comes after b as a free-running count of `w` bits (R15). -/
def after (w a b : Nat) : Bool := decide (0 < sdiff w a b)

/-- a comes at or after b (R15). -/
def notBefore (w a b : Nat) : Bool := decide (0 ≤ sdiff w a b)

/-- (a - b) mod 2^w. -/
def wsub (w a b : Nat) : Nat := (a + 2 ^ w - b % 2 ^ w) % 2 ^ w

/-- (a + b) mod 2^w. -/
def wadd (w a b : Nat) : Nat := (a + b) % 2 ^ w

/-- A counter that stops at its largest value would be a choice: the spec's counters wrap at their width. -/
def clampI (x lo hi : Int) : Int := if x < lo then lo else if hi < x then hi else x

/-- `clamp` of the notation of spec/00 on naturals. -/
def clampN (x lo hi : Nat) : Nat := if x < lo then lo else if hi < x then hi else x

/-! ### Exact fractions and rounding -/

/-- An exact fraction num / den with den > 0; not reduced. -/
structure Frac where
  num : Int
  den : Nat
  deriving DecidableEq, Repr

/-- The fraction of an integer. -/
def Frac.ofInt (i : Int) : Frac := { num := i, den := 1 }

/-- a / b for a positive b; b = 0 gives 0. -/
def Frac.mk' (a : Int) (b : Nat) : Frac := if b = 0 then { num := 0, den := 1 } else { num := a, den := b }

def Frac.add (a b : Frac) : Frac :=
  if a.den = b.den then { num := a.num + b.num, den := a.den }
  else { num := a.num * b.den + b.num * a.den, den := a.den * b.den }

def Frac.neg (a : Frac) : Frac := { num := -a.num, den := a.den }

def Frac.sub (a b : Frac) : Frac := a.add b.neg

def Frac.mul (a b : Frac) : Frac := { num := a.num * b.num, den := a.den * b.den }

/-- a / b; division by 0 gives 0. -/
def Frac.div (a b : Frac) : Frac :=
  if b.num = 0 then { num := 0, den := 1 }
  else if b.num < 0 then { num := -(a.num * b.den), den := a.den * b.num.natAbs }
  else { num := a.num * b.den, den := a.den * b.num.natAbs }

def Frac.lt (a b : Frac) : Bool := decide (a.num * b.den < b.num * a.den)

def Frac.le (a b : Frac) : Bool := decide (a.num * b.den ≤ b.num * a.den)

def Frac.eq (a b : Frac) : Bool := decide (a.num * b.den = b.num * a.den)

def Frac.floor (a : Frac) : Int := a.num / (a.den : Int)

def Frac.ceil (a : Frac) : Int := -((-a.num) / (a.den : Int))

def Frac.abs (a : Frac) : Frac := { num := a.num.natAbs, den := a.den }

def Frac.max (a b : Frac) : Frac := if a.lt b then b else a

def Frac.min (a b : Frac) : Frac := if a.lt b then a else b

/-- `rne` of the notation of spec/00: to the nearest integer, ties to even. -/
def Frac.rne (a : Frac) : Int :=
  let f := a.floor
  let r := a.num - f * (a.den : Int)
  if 2 * r < (a.den : Int) then f
  else if 2 * r = (a.den : Int) then (if f % 2 = 0 then f else f + 1)
  else f + 1

/-- `rne` of n / d for naturals. -/
def rneDiv (n d : Nat) : Nat := ((Frac.mk' (n : Int) d).rne).toNat

/-- The ceiling of n / d. -/
def ceilDiv (n d : Nat) : Nat := (n + d - 1) / d

/-- The integer square root, by bits from `k` down. -/
def isqrtBits : Nat → Nat → Nat → Nat
  | 0, _, r => r
  | k + 1, n, r =>
    let r' := r + 2 ^ k
    if r' * r' ≤ n then isqrtBits k n r' else isqrtBits k n r

/-- floor(sqrt n). -/
def isqrt (n : Nat) : Nat := isqrtBits (Nat.log2 n / 2 + 1) n 0

/-! ### Check values -/

/-- One bit of the reflected CRC-32C of R70 (polynomial 0x1EDC6F41, reflected 0x82F63B78). -/
def crc32cBit (r : Nat) : Nat := if r % 2 = 1 then (r / 2) ^^^ 0x82F63B78 else r / 2

/-- One byte of the CRC-32C. -/
def crc32cByte (r : Nat) (b : Nat) : Nat :=
  let r := r ^^^ b
  crc32cBit (crc32cBit (crc32cBit (crc32cBit (crc32cBit (crc32cBit (crc32cBit (crc32cBit r)))))))

/-- The CRC-32C register after a list of bytes. -/
def crc32cRun : Nat → List Byte → Nat
  | r, [] => r
  | r, b :: bs => crc32cRun (crc32cByte r b.toNat) bs

/-- CRC-32C of a byte string: start and final inversion all ones. -/
def crc32c (bs : List Byte) : Nat := (crc32cRun 0xFFFFFFFF bs) ^^^ 0xFFFFFFFF

/-! ### Lists -/

/-- Update element n of a list, a shorter list is unchanged. -/
def updAt {α : Type} : List α → Nat → (α → α) → List α
  | [], _, _ => []
  | x :: xs, 0, f => f x :: xs
  | x :: xs, n + 1, f => x :: updAt xs n f

/-- Keep the first element that a test takes, and say where. -/
def findIdx? {α : Type} (p : α → Bool) : List α → Nat → Option Nat
  | [], _ => none
  | x :: xs, n => if p x then some n else findIdx? p xs (n + 1)

/-- The sum of a list. -/
def sumN : List Nat → Nat
  | [] => 0
  | x :: xs => x + sumN xs

/-- The largest of a list, 0 for none. -/
def maxN : List Nat → Nat
  | [] => 0
  | x :: xs => Nat.max x (maxN xs)

/-- The smallest of a list, or the default for none. -/
def minN (d : Nat) : List Nat → Nat
  | [] => d
  | [x] => x
  | x :: xs => Nat.min x (minN d xs)

/-- How many elements a test takes. -/
def countP {α : Type} (p : α → Bool) : List α → Nat
  | [] => 0
  | x :: xs => b2n (p x) + countP p xs

/-- The bit mask of the elements a test takes, bit n for element n. -/
def maskOf {α : Type} (p : α → Bool) : List α → Nat
  | [] => 0
  | x :: xs => b2n (p x) + 2 * maskOf p xs

end Sys2Proof.Machine
end

