-- ==== Sys2Proof/Machine/EncMath.lean ====
section
/-! DEFINITION. Arithmetic of the return encoders: the input picture of a stream (R348), the level it writes (R352), the
figures of a picture (R354, R355). -/

namespace Sys2Proof.Machine

open Sys2Proof

/-! ### The input picture (R348) -/

/-- One component of a picture: its width and its samples in raster order. -/
structure Plane where
  w : Nat
  px : List Nat
  deriving DecidableEq, Repr

def Plane.h (p : Plane) : Nat := p.px.length / p.w

/-- A sample, the nearest one beyond an edge. (DESIGN CHOICE, unsafe: log entry 86.) -/
def Plane.at_ (p : Plane) (x y : Nat) : Nat := p.px.getD (Nat.min y (p.h - 1) * p.w + Nat.min x (p.w - 1)) 0

/-- The plane of a size whose samples a function of column and row gives. -/
def Plane.of (w h : Nat) (f : Nat → Nat → Nat) : Plane := { w := w, px := (List.range (w * h)).map (fun n => f (n % w) (n / w)) }

/-- Step 1. -/
def Plane.mirror (p : Plane) : Plane := Plane.of p.w p.h (fun x y => p.at_ (p.w - 1 - x) y)

/-- Step 2: the spec states the shape of the filter and not its taps, so its samples are free (log entry 89).
(DESIGN CHOICE, safe: log entry 89.) -/
def Plane.scale (p : Plane) (w h depth : Nat) : Plane :=
  let px := Config.scalePlane p.w w h p.px
  Plane.of w h (fun x y => Nat.min (px.getD (y * w + x) 0) (2 ^ depth - 1))

/-- Step 3: clockwise by a number of quarter turns. -/
def Plane.turn (p : Plane) : Nat → Plane
  | 0 => p
  | n + 1 => let q := p.turn n; Plane.of q.h q.w (fun x y => q.at_ y (q.h - 1 - x))

/-- Step 4, across: [1, 2, 1] / 4, co-sited with the even columns. -/
def Plane.halfAcross (p : Plane) : Plane :=
  Plane.of (p.w / 2) p.h (fun x y => rneDiv (p.at_ (2 * x - 1) y + 2 * p.at_ (2 * x) y + p.at_ (2 * x + 1) y) 4)

/-- Step 4, down: [1, 1] / 2, midway between two rows. -/
def Plane.halfDown (p : Plane) : Plane :=
  Plane.of p.w (p.h / 2) (fun x y => rneDiv (p.at_ x (2 * y) + p.at_ x (2 * y + 1)) 2)

/-- Steps 1 to 3 for one component, to W × H in the end. -/
def Plane.orient (p : Plane) (orient w h depth : Nat) : Plane :=
  let p := if bit orient 2 then p.mirror else p
  (if bit orient 0 then p.scale h w depth else p.scale w h depth).turn (bits orient 1 0)

/-- Component k of a picture whose codes stand three a pixel. -/
def component (w k : Nat) (codes : List Nat) : Plane :=
  { w := w, px := (List.range (codes.length / 3)).map (fun n => codes.getD (3 * n + k) 0) }

/-- R348: the 4:2:0 picture a stream codes, of a RETURN picture w wide: the samples of Y, Cb and Cr. -/
def encInput (orient ow oh depth w : Nat) (codes : List Nat) : List Nat :=
  let comp (k : Nat) : Plane := (component w k codes).orient orient ow oh depth
  (comp 0).px ++ (comp 1).halfAcross.halfDown.px ++ (comp 2).halfAcross.halfDown.px

/-! ### The level (R352) -/

/-- A level of the coding standards: its two digits, the greatest picture in luma samples, the luma samples a second, and
the kbit/s of its highest tier in HEVC and in VVC. -/
structure Level where
  major : Nat
  minor : Nat
  luma : Nat
  rate : Nat
  hevc : Nat
  vvc : Nat
  deriving DecidableEq, Repr

/-- The levels to 6.2 (log entry 90). (PRESUMED, unsafe: log entry 90.) -/
def levels : List Level :=
  [⟨1, 0, 36864, 552960, 128, 128⟩, ⟨2, 0, 122880, 3686400, 1500, 1500⟩, ⟨2, 1, 245760, 7372800, 3000, 3000⟩,
   ⟨3, 0, 552960, 16588800, 6000, 6000⟩, ⟨3, 1, 983040, 33177600, 10000, 10000⟩, ⟨4, 0, 2228224, 66846720, 30000, 30000⟩,
   ⟨4, 1, 2228224, 133693440, 50000, 50000⟩, ⟨5, 0, 8912896, 267386880, 100000, 100000⟩] ++
  [⟨5, 1, 8912896, 534773760, 160000, 160000⟩, ⟨5, 2, 8912896, 1069547520, 240000, 240000⟩,
   ⟨6, 0, 35651584, 1069547520, 240000, 320000⟩, ⟨6, 1, 35651584, 2139095040, 480000, 480000⟩,
   ⟨6, 2, 35651584, 4278190080, 800000, 800000⟩]

/-- A level admits a picture size, F / RATE_DIV pictures a second and a bit rate. -/
def Level.admits (l : Level) (codec w h fps div kbps : Nat) : Bool :=
  decide (w * h ≤ l.luma ∧ w * w ≤ 8 * l.luma ∧ h * h ≤ 8 * l.luma ∧ w * h * fps ≤ l.rate * div ∧ kbps ≤ if codec = 2 then l.vvc else l.hevc)

/-- level_idc of the lowest level that admits a stream (R352), as each standard writes it. -/
def levelIdc (codec w h fps div kbps : Nat) : Nat :=
  let l := (levels.find? (fun l => l.admits codec w h fps div kbps)).getD ⟨6, 2, 0, 0, 0, 0⟩
  if codec = 2 then 16 * l.major + 3 * l.minor else 30 * l.major + 3 * l.minor

end Sys2Proof.Machine
end

