-- ==== Sys2Proof/Machine/PowMath.lean ====
section
/-! DEFINITION. Real powers, and with them the PQ and HLG functions of BT.2100 that R150 and R211 name.  Logarithms and
exponentials are taken in units of 2^-96, so that the one rounding that a rule asks for is that of the real value unless
it lies within their error of a tie.  (PRESUMED, unsafe: log entry 4.) -/

namespace Sys2Proof.Machine

/-- 2^k for an integer k, as a fraction. -/
def pow2 (k : Int) : Frac := if 0 ≤ k then { num := 2 ^ k.toNat, den := 1 } else { num := 1, den := 2 ^ (-k).toNat }

/-- floor(log2 |x|) for x ≠ 0. -/
def ilog2 (x : Frac) : Int :=
  let n := x.num.natAbs
  let k : Int := (Nat.log2 n : Int) - (Nat.log2 x.den : Int)
  if (Frac.abs x).lt (pow2 k) then k - 1 else k

/-! ### Logarithm and exponential in units of 2^-96 -/

/-- One, in these units. -/
def fx1 : Nat := 2 ^ 96

/-- The sum over k from a number on of y^(2k+1) / (2k+1), n terms; `t` the power, `q` the square of y. -/
def atanhSum (q : Nat) : Nat → Nat → Nat → Nat
  | 0, _, _ => 0
  | n + 1, k, t => t / (2 * k + 1) + atanhSum q n (k + 1) (t * q / fx1)

/-- ln(a / b) for a from b up to 2 b: twice the series of y = (a - b) / (a + b). -/
def lnSmall (a b : Nat) : Int :=
  let y := (a - b) * fx1 / (a + b)
  ((2 * atanhSum (y * y / fx1) 40 0 y : Nat) : Int)

/-- ln 2. -/
def ln2 : Int := lnSmall 2 1

/-- ln x for x > 0. -/
def lnFix (x : Frac) : Int :=
  let e := ilog2 x
  (if 0 ≤ e then lnSmall x.num.toNat (x.den * 2 ^ e.toNat) else lnSmall (x.num.toNat * 2 ^ (-e).toNat) x.den) + e * ln2

/-- The exponential series from a term on. -/
def expSum (r : Nat) : Nat → Nat → Nat → Nat
  | 0, _, _ => 0
  | n + 1, k, t => t + expSum r n (k + 1) (t * r / (fx1 * k))

/-- e^v. -/
def expFix (v : Int) : Frac :=
  let k := v / ln2
  let s := expSum (v - k * ln2).toNat 40 1 fx1
  (Frac.mk' s fx1).mul (pow2 k)

/-- x^p for an exponent in these units; 0 for x ≤ 0. -/
def powFix (x : Frac) (p : Int) : Frac := if x.num ≤ 0 then Frac.ofInt 0 else expFix (lnFix x * p / (fx1 : Int))

/-- A fraction in these units. -/
def fxOf (a b : Int) : Int := a * (fx1 : Int) / b

/-! ### PQ (BT.2100) -/

def pqC1 : Frac := Frac.mk' 3424 4096

def pqC2 : Frac := Frac.mk' 2413 128

def pqC3 : Frac := Frac.mk' 2392 128

/-- The PQ EOTF divided by 100 cd/m²: at most 100 for E' up to 1; beyond the pole of its formula a free constant.
(PRESUMED, unsafe: log entry 4; DESIGN CHOICE, safe: log entry 91.) -/
def pqLinear (e : Frac) : Frac :=
  if e.num ≤ 0 then Frac.ofInt 0
  else
    let p := powFix e (fxOf 32 2523)
    let n := p.sub pqC1
    let d := pqC2.sub (pqC3.mul p)
    if n.num ≤ 0 then Frac.ofInt 0
    else if d.num ≤ 0 then Frac.mk' (Config.pqBeyond e.num e.den) (2 ^ 24)
    else (powFix (n.div d) (fxOf 8192 1305)).mul (Frac.ofInt 100)

/-- The PQ inverse EOTF of 100 D cd/m². -/
def pqSignal (d : Frac) : Frac :=
  let y := powFix (d.mul (Frac.mk' 1 100)) (fxOf 1305 8192)
  powFix ((pqC1.add (pqC2.mul y)).div ((Frac.ofInt 1).add (pqC3.mul y))) (fxOf 2523 32)

/-! ### HLG (BT.2100) -/

def hlgA : Frac := Frac.mk' 17883277 100000000

def hlgB : Frac := (Frac.ofInt 1).sub (hlgA.mul (Frac.ofInt 4))

/-- c = 0.5 - a ln(4a). -/
def hlgC : Frac := (Frac.mk' 1 2).sub (hlgA.mul (Frac.mk' (lnFix (hlgA.mul (Frac.ofInt 4))) fx1))

/-- A fraction as a number of these units. -/
def fxFrac (x : Frac) : Int := x.num * (fx1 : Int) / (x.den : Int)

/-- The HLG inverse OETF; 0 for E' ≤ 0. -/
def hlgScene (e : Frac) : Frac :=
  if e.num ≤ 0 then Frac.ofInt 0
  else if e.le (Frac.mk' 1 2) then (e.mul e).mul (Frac.mk' 1 3)
  else ((expFix (fxFrac ((e.sub hlgC).div hlgA))).add hlgB).mul (Frac.mk' 1 12)

/-- The HLG OETF. -/
def hlgSignal (e : Frac) : Frac :=
  if e.num ≤ 0 then Frac.ofInt 0
  else if e.le (Frac.mk' 1 12) then powFix (e.mul (Frac.ofInt 3)) (fxOf 1 2)
  else (hlgA.mul (Frac.mk' (lnFix ((e.mul (Frac.ofInt 12)).sub hlgB)) fx1)).add hlgC

/-- The system gamma for a nominal peak: 1.2 + 0.42 log10(Lw / 1000) from 400 to 2,000 cd/m², beyond it
1.2 × 1.111^log2(Lw / 1000). -/
def hlgGamma (peak : Nat) : Int :=
  let l := lnFix (Frac.mk' peak 1000)
  if 400 ≤ peak ∧ peak ≤ 2000 then fxOf 12 10 + 42 * (l * (fx1 : Int) / lnFix (Frac.ofInt 10)) / 100
  else fxFrac ((powFix (Frac.mk' 1111 1000) (l * (fx1 : Int) / ln2)).mul (Frac.mk' 12 10))

/-- BT.2020 luminance. -/
def lumOf (r g b : Frac) : Frac := ((r.mul (Frac.mk' 2627 10000)).add (g.mul (Frac.mk' 6780 10000))).add (b.mul (Frac.mk' 593 10000))

/-- The HLG inverse OETF and OOTF with a nominal peak and no black lift, divided by 100 cd/m² (R150 step 6). -/
def hlgLinear (peak : Nat) (r g b : Frac) : List Frac :=
  let s := [hlgScene r, hlgScene g, hlgScene b]
  let k := (powFix (lumOf (hlgScene r) (hlgScene g) (hlgScene b)) (hlgGamma peak - (fx1 : Int))).mul (Frac.mk' peak 100)
  s.map (fun x => x.mul k)

/-- The HLG signal of display light 100 D cd/m², by the inverse OOTF with Lw = 1,000 cd/m², where gamma is 1.2 (R211). -/
def hlgCodes (r g b : Frac) : List Frac :=
  let f (x : Frac) : Frac := x.mul (Frac.mk' 1 10)
  let k := powFix (lumOf (f r) (f g) (f b)) (fxOf (-1) 6)
  [r, g, b].map (fun x => hlgSignal ((f x).mul k))

end Sys2Proof.Machine
end

