-- ==== Sys2Proof/Machine/Types.lean ====
section
/-! DEFINITION. The plain data the ray path works on: cameras, layers, pictures, prepared textures, geometry, layer
inputs of the composition.  No state of the machine stands here; State.lean holds values of these types. -/

namespace Sys2Proof.Machine

/-- An anchor camera (Table 3.4): raw fields, two's complement as the table says. -/
structure AnchorCam where
  px : Int
  py : Int
  pz : Int
  qw : Int
  qx : Int
  qy : Int
  qz : Int
  fx : Nat
  fy : Nat
  cx : Int
  cy : Int
  deriving DecidableEq, Repr

/-- One layer of a LAYER_TABLE (Table 3.5). -/
structure LayerEnt where
  w : Nat
  h : Nat
  scale : Nat
  bits : Nat
  emptyZero : Bool
  near : Nat
  far : Nat
  deriving DecidableEq, Repr

/-- SEQ_PARAMS in force (Table 3.3). -/
structure SeqParams where
  seqId : Nat
  anchors : Nat
  layersMax : Nat
  texCodec : Nat
  depthCodec : Nat
  transfer : Nat
  matrix : Nat
  full : Nat
  overlays : Nat
  hlgPeak : Nat
  /-- FRAME of the packet that started the sequence (R81). -/
  frame : Nat
  /-- The payload word, for the repeat test of R74. -/
  raw : Nat
  deriving DecidableEq, Repr

/-- A pixel of linear RGB, binary16 codes. -/
structure Rgb where
  r : Nat
  g : Nat
  b : Nat
  deriving DecidableEq, Repr

/-- One level of a prepared texture (R149). -/
structure TexLevel where
  w : Nat
  h : Nat
  px : List Rgb
  deriving DecidableEq, Repr

/-- The CTUs of a depth picture that were filled with substitute values (R124): CTU size and columns, what the conformance
window cuts off at the left and the top, the CTUs by their number in raster order. -/
structure FarCtus where
  ctu : Nat := 1
  cols : Nat := 1
  left : Nat := 0
  top : Nat := 0
  ctus : List Nat := []
  deriving DecidableEq, Repr

/-- The sample lies in one of them. -/
def FarCtus.holds (f : FarCtus) (x y : Nat) : Bool := f.ctus.contains ((y + f.top) / f.ctu * f.cols + (x + f.left) / f.ctu)

/-- A picture a stream yields for a frame (R107, R121, R123): the samples, the mark of R126, and for texture the
levels 0 to 4 of R149. A depth substitute carries inverse depth 0 (R121), everywhere or in the CTUs filled with it. -/
structure YPic where
  frame : Nat
  pic : Pic
  zeroDepth : Bool
  far : FarCtus := {}
  concealed : Bool
  reason : Nat
  levels : List TexLevel
  deriving DecidableEq, Repr

/-- An overlay slot (Table 3.7, R89): the surface with its pixels and its placement. -/
structure OvlSlot where
  w : Nat := 0
  h : Nat := 0
  format : Nat := 0
  visible : Bool := false
  zinv : Nat := 0
  px : Int := 0
  py : Int := 0
  scale : Nat := 0x1000
  opacity : Nat := 0x8000
  /-- Pixels row by row as the bytes of the format. -/
  pix : List Byte := []
  deriving DecidableEq, Repr

/-- A tile entry of a GEOMETRY object (Table 5.5). -/
structure TileEnt where
  tile : Nat
  col : Nat
  row : Nat
  ofsX : Int
  ofsY : Int
  dtx : Int
  dty : Int
  rot : Int
  deriving DecidableEq, Repr

/-- A GEOMETRY object (Tables 5.2 to 5.5). -/
structure Geom where
  tileW : Nat
  tileH : Nat
  cols : Nat
  rows : Nat
  nu : Nat
  nw : Nat
  sx : Nat
  sy : Nat
  pitch : Nat
  gapX : Nat
  gapY : Nat
  ptx : Nat
  pty : Nat
  dref : Nat
  tiles : List TileEnt
  deriving DecidableEq, Repr

/-- The ray of R137: values as the formats of GEOM_RAY hold them. -/
structure Ray where
  x : Int
  y : Int
  tx : Int
  ty : Int
  v : Nat
  ax : Nat
  ay : Nat
  deriving DecidableEq, Repr

/-- A ray word (Table 6.1), field by field. -/
structure RayWord where
  r : Nat
  g : Nat
  b : Nat
  coverage : Nat
  zinv : Nat
  anchor : Nat
  layer : Nat
  view : Nat
  flags : Nat
  deriving DecidableEq, Repr

end Sys2Proof.Machine
end

