-- ==== Sys2Proof/Machine/RayMath.lean ====
section
/-! DEFINITION. The exact arithmetic of the ray path: number formats (R151), binary16 and binary32 rounding, ray origins
and directions (R135, R137), prepared textures (R149, R150), the reference algorithm (R485, section 6.3). -/

namespace Sys2Proof.Machine

/-! ### Rounding to number formats (R151) -/

/-- Round to `p` significant bits with least exponent `emin`, ties to even: the rounded value as m * 2^q. -/
def roundSig (p : Nat) (emin : Int) (x : Frac) : Int × Int :=
  if x.num = 0 then (0, emin - (p : Int) + 1)
  else
    let e := ilog2 x
    let q := (if e < emin then emin else e) - (p : Int) + 1
    ((x.mul (pow2 (-q))).rne, q)

/-- The nearest binary32 number (R151), as an exact fraction. (DEDUCED, unsafe: log entry 39.) -/
def f32 (x : Frac) : Frac :=
  let (m, q) := roundSig 24 (-126) x
  if 0 ≤ q then { num := m * 2 ^ q.toNat, den := 1 } else { num := m, den := 2 ^ (-q).toNat }

/-- The binary16 code of a value: not negative, at most 65,504 (R148). -/
def f16code (x : Frac) : Nat :=
  if x.num ≤ 0 then 0
  else
    let (m, q) := roundSig 11 (-14) x
    let c := ((q + 24) * 1024 + m).toNat
    if 0x7BFF < c then 0x7BFF else c

/-- The value of a finite binary16 code that is not negative. -/
def f16val (c : Nat) : Frac :=
  let e := (c / 1024) % 32
  let m := c % 1024
  if e = 0 then { num := m, den := 2 ^ 24 } else { num := (1024 + m) * 2 ^ e, den := 2 ^ 25 }

/-- A binary16 code read as linear light: NaN and negative values 0, infinities 65,504 (Table 6.3, R201). -/
def f16clean (c : Nat) : Nat :=
  if 0x8000 ≤ c % 0x10000 then 0 else if 0x7C00 < c then 0 else if c = 0x7C00 then 0x7BFF else c

/-- rne(x * 2^f) held between lo and hi (R151: a format saturates). -/
def fixR (f : Nat) (lo hi : Int) (x : Frac) : Int := clampI (x.mul (pow2 f)).rne lo hi

/-- u8.24. -/
def u824 (x : Frac) : Nat := (fixR 24 0 0xFFFFFFFF x).toNat

/-- s7.24 and s15.16: 32 bits. -/
def s32 (f : Nat) (x : Frac) : Int := fixR f (-0x80000000) 0x7FFFFFFF x

/-- s15.24: 40 bits. -/
def s1524 (x : Frac) : Int := fixR 24 (-0x8000000000) 0x7FFFFFFFFF x

/-- u16.32: 48 bits. -/
def u1632 (x : Frac) : Nat := (fixR 32 0 0xFFFFFFFFFFFF x).toNat

/-- raw / 2^f. -/
def fix (f : Nat) (raw : Int) : Frac := { num := raw, den := 2 ^ f }

/-! ### Rays (R135, R137) -/

/-- Steering states of a geometry. -/
def Geom.states (g : Geom) : Nat := g.sx * g.sy

/-- Angular columns and rows. -/
def Geom.nax (g : Geom) : Nat := g.nu * g.sx

/-- Angular rows. -/
def Geom.nay (g : Geom) : Nat := g.nw * g.sy

/-- Angular column of pixel column i in state k (Table 5.1). -/
def rayAx (g : Geom) (i k : Nat) : Nat := g.sx * (i % g.nu) + k % g.sx

/-- Angular row of pixel row j in state k (Table 5.1). -/
def rayAy (g : Geom) (j k : Nat) : Nat := g.sy * (j % g.nw) + k / g.sx

/-- View index v (Table 5.1). -/
def rayView (g : Geom) (i j k : Nat) : Nat := rayAy g j k * g.nax + rayAx g i k

/-- a - b for fractions. -/
def fsub (a b : Frac) : Frac := a.sub b

/-- Origin and direction of the ray of tile pixel (i, j) in state k (R137). (DEDUCED, unsafe: log entry 39.) -/
def rayOf (g : Geom) (e : TileEnt) (i j k : Nat) : Ray :=
  let p := Frac.mk' g.pitch (2 ^ 16 * 1000000)
  let gx := Frac.mk' g.gapX (2 ^ 16 * 1000000)
  let gy := Frac.mk' g.gapY (2 ^ 16 * 1000000)
  let rot := fix 15 e.rot
  let lx := i / g.nu
  let ly := j / g.nw
  let cx := (Frac.mk' ((2 * lx + 1) * g.nu : Nat) 2).add ((fix 12 e.ofsX).sub (Frac.mk' g.tileW 2))
  let cy := (Frac.mk' ((2 * ly + 1) * g.nw : Nat) 2).add ((fix 12 e.ofsY).sub (Frac.mk' g.tileH 2))
  let rx := cx.sub (rot.mul cy)
  let ry := cy.add (rot.mul cx)
  let wm := (p.mul (Frac.ofInt (g.cols * g.tileW : Nat))).add (gx.mul (Frac.ofInt ((g.cols : Int) - 1)))
  let hm := (p.mul (Frac.ofInt (g.rows * g.tileH : Nat))).add (gy.mul (Frac.ofInt ((g.rows : Int) - 1)))
  let stepx := (p.mul (Frac.ofInt g.tileW)).add gx
  let stepy := (p.mul (Frac.ofInt g.tileH)).add gy
  let x := ((stepx.mul (Frac.ofInt e.col)).sub (wm.mul (Frac.mk' 1 2))).add (p.mul ((Frac.mk' g.tileW 2).add rx))
  let y := ((stepy.mul (Frac.ofInt e.row)).sub (hm.mul (Frac.mk' 1 2))).add (p.mul ((Frac.mk' g.tileH 2).add ry))
  let ax := rayAx g i k
  let ay := rayAy g j k
  let t0x := ((Frac.mk' ((g.nax : Int) - 1 - 2 * (ax : Int)) 2).mul (fix 16 g.ptx)).add (fix 15 e.dtx)
  let t0y := ((Frac.mk' ((g.nay : Int) - 1 - 2 * (ay : Int)) 2).mul (fix 16 g.pty)).add (fix 15 e.dty)
  let tx := t0x.sub (rot.mul t0y)
  let ty := t0y.add (rot.mul t0x)
  { x := (x.mul (pow2 24)).rne, y := (y.mul (pow2 24)).rne
    tx := (tx.mul (pow2 28)).rne, ty := (ty.mul (pow2 28)).rne
    v := rayView g i j k, ax := ax, ay := ay }

/-! ### Prepared textures (R149, R150) -/

/-- x^n of a fraction. -/
def fpow : Nat → Frac → Frac
  | 0, _ => { num := 1, den := 1 }
  | n + 1, x => (fpow n x).mul x

/-- Greatest binary16 code below 0x8000 whose value's a-th power is at most y, searched by bits. -/
def f16rootBits (a : Nat) (y : Frac) : Nat → Nat → Nat
  | 0, c => c
  | k + 1, c =>
    let c' := c + 2 ^ k
    if c' ≤ 0x7BFF && (fpow a (f16val c')).le y then f16rootBits a y k c' else f16rootBits a y k c

/-- The binary16 code nearest to y^(1/a), ties to even, exact. -/
def f16root (a : Nat) (y : Frac) : Nat :=
  if y.num ≤ 0 then 0
  else
    let c := f16rootBits a y 15 0
    if 0x7BFF ≤ c then 0x7BFF
    else
      let mid := ((f16val c).add (f16val (c + 1))).mul (Frac.mk' 1 2)
      let m := fpow a mid
      if m.lt y then c + 1 else if y.lt m then c else (if c % 2 = 0 then c else c + 1)

/-- TRANSFER 0 of R150: E^2.4 = (E^12)^(1/5), rounded once to binary16; a negative value gives 0 (step 7). -/
def sdrToLinear (e : Frac) : Nat := if e.num ≤ 0 then 0 else f16root 5 (fpow 12 e)

/-- Sample of a plane with the edge sample repeated. -/
def planeAt (xs : List Nat) (w h : Nat) (i j : Int) : Nat :=
  let i := (clampI i 0 ((w : Int) - 1)).toNat
  let j := (clampI j 0 ((h : Int) - 1)).toNat
  xs.getD (j * w + i) 0

/-- A 4:2:0 chroma sample at luma position (i, j): horizontally co-sited, vertically midway (R150 step 1); beyond the edge of the
plane the edge sample repeats. (DESIGN CHOICE, unsafe: log entry 86.) -/
def chroma420 (xs : List Nat) (cw ch : Nat) (i j : Nat) : Frac :=
  let ci : Int := (i / 2 : Nat)
  let hor (r : Int) : Frac :=
    if i % 2 = 0 then Frac.ofInt (planeAt xs cw ch ci r)
    else Frac.mk' ((planeAt xs cw ch ci r : Int) + planeAt xs cw ch (ci + 1) r) 2
  let r : Int := (j / 2 : Nat)
  let (near, far) := if j % 2 = 0 then (hor r, hor (r - 1)) else (hor r, hor (r + 1))
  ((near.mul (Frac.ofInt 3)).add far).mul (Frac.mk' 1 4)

/-- The chroma sample of a picture at luma position (i, j); mid-level for monochrome (R107). -/
def chromaAt (p : Pic) (xs : List Nat) (i j : Nat) : Frac :=
  if p.chroma = 0 then Frac.ofInt (2 ^ (p.bits - 1) : Nat)
  else if p.chroma = 1 then chroma420 xs ((p.w + 1) / 2) ((p.h + 1) / 2) i j
  else Frac.ofInt (planeAt xs p.w p.h i j)

/-- Range expansion of a luma, G, B or R sample (R150 step 2; the narrow-range constants are BT.2100's).
(PRESUMED, unsafe: log entry 4.) -/
def expandY (full bits : Nat) (d : Frac) : Frac :=
  if full = 1 then d.div (Frac.ofInt (2 ^ bits - 1 : Nat))
  else ((d.sub (Frac.ofInt (16 * 2 ^ (bits - 8) : Nat))).div (Frac.ofInt (219 * 2 ^ (bits - 8) : Nat)))

/-- Range expansion of a Cb or Cr sample. -/
def expandC (full bits : Nat) (d : Frac) : Frac :=
  if full = 1 then (d.sub (Frac.ofInt (2 ^ (bits - 1) : Nat))).div (Frac.ofInt (2 ^ bits - 1 : Nat))
  else ((d.sub (Frac.ofInt (128 * 2 ^ (bits - 8) : Nat))).div (Frac.ofInt (224 * 2 ^ (bits - 8) : Nat)))

/-- The non-linear R, G, B of a texture sample (R150 steps 1 to 3), by the BT.2020 matrix unless the samples are R, G, B.
(PRESUMED, unsafe: log entry 4.) -/
def nonlinearRgb (sq : SeqParams) (p : Pic) (i j : Nat) : Frac × Frac × Frac :=
  let y := Frac.ofInt (planeAt p.y p.w p.h i j)
  let c1 := chromaAt p p.cb i j
  let c2 := chromaAt p p.cr i j
  if sq.matrix = 1 then
    let g := expandY sq.full p.bits y
    let b := expandY sq.full p.bits c1
    let r := expandY sq.full p.bits c2
    (r, g, b)
  else
    let y' := expandY sq.full p.bits y
    let cb := expandC sq.full p.bits c1
    let cr := expandC sq.full p.bits c2
    let r := y'.add (cr.mul (Frac.mk' 14746 10000))
    let b := y'.add (cb.mul (Frac.mk' 18814 10000))
    let g := (y'.sub (cb.mul (Frac.mk' (593 * 18814) (6780 * 10000)))).sub (cr.mul (Frac.mk' (2627 * 14746) (6780 * 10000)))
    (r, g, b)

/-- The transfer of R150 steps 4 to 7: binary16 codes. (PRESUMED, unsafe: log entry 4.) -/
def transferRgb (sq : SeqParams) (r g b : Frac) : Rgb :=
  if sq.transfer = 0 then { r := sdrToLinear r, g := sdrToLinear g, b := sdrToLinear b }
  else if sq.transfer = 1 then { r := f16code (pqLinear r), g := f16code (pqLinear g), b := f16code (pqLinear b) }
  else
    let l := (hlgLinear sq.hlgPeak r g b).map f16code
    { r := l.getD 0 0, g := l.getD 1 0, b := l.getD 2 0 }

/-- Level 0 of a prepared texture (R150). -/
def level0 (sq : SeqParams) (p : Pic) : TexLevel :=
  { w := p.w, h := p.h
    px := (List.range (p.w * p.h)).map fun n =>
      let (r, g, b) := nonlinearRgb sq p (n % p.w) (n / p.w)
      transferRgb sq r g b }

/-- A texel with the edge texel repeated. -/
def texel (t : TexLevel) (i j : Int) : Rgb :=
  let i := (clampI i 0 ((t.w : Int) - 1)).toNat
  let j := (clampI j 0 ((t.h : Int) - 1)).toNat
  t.px.getD (j * t.w + i) { r := 0, g := 0, b := 0 }

/-- Mean of four binary16 values, rounded once (R149). -/
def mean4 (a b c d : Nat) : Nat :=
  f16code ((((f16val a).add (f16val b)).add ((f16val c).add (f16val d))).mul (Frac.mk' 1 4))

/-- Level n + 1 from level n (R149). -/
def nextLevel (t : TexLevel) : TexLevel :=
  let w := Nat.max 1 ((t.w + 1) / 2)
  let h := Nat.max 1 ((t.h + 1) / 2)
  { w := w, h := h
    px := (List.range (w * h)).map fun n =>
      let i : Int := (2 * (n % w) : Nat)
      let j : Int := (2 * (n / w) : Nat)
      let a := texel t i j
      let b := texel t (i + 1) j
      let c := texel t i (j + 1)
      let d := texel t (i + 1) (j + 1)
      { r := mean4 a.r b.r c.r d.r, g := mean4 a.g b.g c.g d.g, b := mean4 a.b b.b c.b d.b } }

/-- Levels 0 to 4 (R149). -/
def prepare (sq : SeqParams) (p : Pic) : List TexLevel :=
  let l0 := level0 sq p
  let l1 := nextLevel l0
  let l2 := nextLevel l1
  let l3 := nextLevel l2
  [l0, l1, l2, l3, nextLevel l3]

/-! ### Sampling (R485) -/

/-- One channel of the bilinear function of R485. -/
def bilin (c00 c10 c01 c11 fx fy : Frac) : Frac :=
  let top := f32 (c00.add (f32 (fx.mul (f32 (c10.sub c00)))))
  let bot := f32 (c01.add (f32 (fx.mul (f32 (c11.sub c01)))))
  f32 (top.add (f32 (fy.mul (f32 (bot.sub top)))))

/-- Three channels of linear light in binary32. -/
structure Rgb32 where
  r : Frac
  g : Frac
  b : Frac
  deriving DecidableEq, Repr

/-- bilinear(level, s, t) with the edge texel repeated. -/
def bilinear (t : TexLevel) (s tt : Frac) : Rgb32 :=
  let i := s.floor
  let j := tt.floor
  let fx := f32 (s.sub (Frac.ofInt i))
  let fy := f32 (tt.sub (Frac.ofInt j))
  let a := texel t i j
  let b := texel t (i + 1) j
  let c := texel t i (j + 1)
  let d := texel t (i + 1) (j + 1)
  let ch (f : Rgb → Nat) := bilin (f16val (f a)) (f16val (f b)) (f16val (f c)) (f16val (f d)) fx fy
  { r := ch (·.r), g := ch (·.g), b := ch (·.b) }

/-! ### The reference algorithm (section 6.3) -/

/-- A vector of exact fractions. -/
structure V3 where
  x : Frac
  y : Frac
  z : Frac
  deriving DecidableEq, Repr

/-- R(q)^T * v for the normalised quaternion (R75): exact. -/
def rotT (a : AnchorCam) (v : V3) : V3 :=
  let n := a.qw * a.qw + a.qx * a.qx + a.qy * a.qy + a.qz * a.qz
  let e (i : Int) : Frac := Frac.div (Frac.ofInt i) (Frac.ofInt n)
  let r00 := e (n - 2 * (a.qy * a.qy + a.qz * a.qz))
  let r01 := e (2 * (a.qx * a.qy - a.qw * a.qz))
  let r02 := e (2 * (a.qx * a.qz + a.qw * a.qy))
  let r10 := e (2 * (a.qx * a.qy + a.qw * a.qz))
  let r11 := e (n - 2 * (a.qx * a.qx + a.qz * a.qz))
  let r12 := e (2 * (a.qy * a.qz - a.qw * a.qx))
  let r20 := e (2 * (a.qx * a.qz - a.qw * a.qy))
  let r21 := e (2 * (a.qy * a.qz + a.qw * a.qx))
  let r22 := e (n - 2 * (a.qx * a.qx + a.qy * a.qy))
  { x := ((r00.mul v.x).add (r10.mul v.y)).add (r20.mul v.z)
    y := ((r01.mul v.x).add (r11.mul v.y)).add (r21.mul v.z)
    z := ((r02.mul v.x).add (r12.mul v.y)).add (r22.mul v.z) }

/-- What synthesis knows of one layer of an anchor: the table entry and the pictures yielded for the frame. -/
structure LayerIn where
  ent : LayerEnt
  tex : YPic
  depth : YPic
  deriving DecidableEq, Repr

/-- An anchor that takes part in the frame (R82). -/
structure AnchorIn where
  n : Nat
  cam : AnchorCam
  layers : List LayerIn
  deriving DecidableEq, Repr

/-- The synthesis parameters in force (Table 6.10). -/
structure SynthParams where
  anchorMax : Nat
  marchSteps : Nat
  refineSteps : Nat
  zinvHi : Nat
  consistTol : Nat
  resolveTol : Nat
  blendEps : Nat
  mipBias : Int
  fillMode : Nat
  fillColour : Rgb
  background : Rgb
  deriving DecidableEq, Repr

/-- The setup values of a ray: E and d (section 6.3, setup). -/
structure RaySetup where
  ex : Int
  ey : Int
  dref : Nat
  dx : Int
  dy : Int
  deriving DecidableEq, Repr

/-- Setup of section 6.3. (DEDUCED, unsafe: log entry 39.) -/
def raySetup (g : Geom) (r : Ray) : RaySetup :=
  { ex := s32 24 ((fix 24 r.x).add ((fix 28 r.tx).mul (fix 24 g.dref)))
    ey := s32 24 ((fix 24 r.y).add ((fix 28 r.ty).mul (fix 24 g.dref)))
    dref := g.dref, dx := clampI (-r.tx) (-0x80000000) 0x7FFFFFFF, dy := clampI (-r.ty) (-0x80000000) 0x7FFFFFFF }

/-- d as a vector. -/
def RaySetup.d (s : RaySetup) : V3 := { x := fix 28 s.dx, y := fix 28 s.dy, z := Frac.ofInt 1 }

/-- E - POS of an anchor, exact. -/
def RaySetup.ePos (s : RaySetup) (a : AnchorCam) : V3 :=
  { x := (fix 24 s.ex).sub (fix 16 a.px), y := (fix 24 s.ey).sub (fix 16 a.py)
    z := ((fix 24 s.dref).neg).sub (fix 16 a.pz) }

/-- The squared distance of step 1, none when the anchor looks away. -/
def anchorDist (s : RaySetup) (a : AnchorIn) : Option Nat :=
  let ga := s1524 (rotT a.cam s.d).z
  if ga ≤ 0 then none
  else
    let q := s.ePos a.cam
    let qx := fix 16 (s32 16 q.x)
    let qy := fix 16 (s32 16 q.y)
    let qz := fix 16 (s32 16 q.z)
    let d := s.d
    let sq (x : Frac) := x.mul x
    let c1 := sq (qy.sub (qz.mul d.y))
    let c2 := sq ((qz.mul d.x).sub qx)
    let c3 := sq ((qx.mul d.y).sub (qy.mul d.x))
    let den := ((sq d.x).add (sq d.y)).add (Frac.ofInt 1)
    some (u1632 (((c1.add c2).add c3).div den))

/-- An anchor with its distance. -/
structure Cand where
  dist : Nat
  a : AnchorIn
  deriving DecidableEq, Repr

/-- Insert by (dist2, anchor number). -/
def insCand (c : Cand) : List Cand → List Cand
  | [] => [c]
  | x :: xs => if c.dist < x.dist || (c.dist == x.dist && c.a.n < x.a.n) then c :: x :: xs else x :: insCand c xs

/-- Step 1: the first anchor_max anchors by (dist2, a). -/
def selectAnchors (p : SynthParams) (s : RaySetup) (as : List AnchorIn) : List AnchorIn :=
  let cs := as.foldl (fun acc a => match anchorDist s a with
    | none => acc
    | some d => insCand { dist := d, a := a } acc) []
  (cs.take p.anchorMax).map (·.a)

/-- The result of a valid probe. -/
structure Probe where
  zc : Nat
  zs : Nat
  pu : Int
  pv : Int
  deriving DecidableEq, Repr

/-- The inverse depth of a depth sample (R78), none where there is no surface; beyond the edge of a copy that is smaller than
its layer (R123), that of the edge sample. (DESIGN CHOICE, unsafe: log entry 88.) -/
def depthZinv (l : LayerIn) (i j : Nat) : Option Nat :=
  let i := Nat.min i (l.depth.pic.w - 1)
  let j := Nat.min j (l.depth.pic.h - 1)
  if l.depth.zeroDepth || l.depth.far.holds i j then some 0
  else
    let d := l.depth.pic.y.getD (j * l.depth.pic.w + i) 0
    if d = 0 && l.ent.emptyZero then none
    else some (l.ent.far + rneDiv (d * (l.ent.near - l.ent.far)) (2 ^ l.ent.bits - 1))

/-- probe(a, l, z) of section 6.3. -/
def probe (s : RaySetup) (a : AnchorIn) (l : LayerIn) (z : Nat) : Option Probe :=
  let e := s.ePos a.cam
  let d := s.d
  let zf := fix 24 z
  let g := rotT a.cam { x := (zf.mul e.x).add d.x, y := (zf.mul e.y).add d.y, z := (zf.mul e.z).add d.z }
  let hz := s1524 g.z
  if hz ≤ 0 then none
  else
    let hx := s1524 g.x
    let hy := s1524 g.y
    let pu := s32 16 (((fix 16 a.cam.fx).mul (Frac.div (Frac.ofInt hx) (Frac.ofInt hz))).add (fix 16 a.cam.cx))
    let pv := s32 16 (((fix 16 a.cam.fy).mul (Frac.div (Frac.ofInt hy) (Frac.ofInt hz))).add (fix 16 a.cam.cy))
    let i := pu / (2 ^ (16 + l.ent.scale) : Nat)
    let j := pv / (2 ^ (16 + l.ent.scale) : Nat)
    if i < 0 || j < 0 || (l.ent.w : Int) ≤ i || (l.ent.h : Int) ≤ j then none
    else match depthZinv l i.toNat j.toNat with
      | none => none
      | some zs => some { zc := u824 (zf.div (fix 24 hz)), zs := zs, pu := pu, pv := pv }

/-- A hit of the march. -/
structure Hit where
  z : Nat
  layer : Nat
  pu : Int
  pv : Int
  zc : Nat
  deriving DecidableEq, Repr

/-- March depth k of N: ZHI * (N - k) / N. (DEDUCED, unsafe: log entry 39.) -/
def marchZ (p : SynthParams) (k : Nat) : Nat := u824 ((fix 24 p.zinvHi).mul (Frac.mk' ((p.marchSteps - k : Nat) : Int) p.marchSteps))

/-- The bisection of section 6.3: M steps between lo and hi. -/
def bisect (s : RaySetup) (a : AnchorIn) (l : LayerIn) : Nat → Nat → Nat → Nat × Nat
  | 0, lo, hi => (lo, hi)
  | n + 1, lo, hi =>
    let mid := u824 (Frac.mk' (lo + hi : Nat) (2 ^ 25))
    match probe s a l mid with
    | none => (lo, hi)
    | some m => if m.zs < m.zc then bisect s a l n lo mid else bisect s a l n mid hi

/-- The secant step and the consistency test: the hit where it passes. -/
def refine (p : SynthParams) (s : RaySetup) (a : AnchorIn) (l : LayerIn) (ln : Nat) (lo0 hi0 : Nat) : Option Hit :=
  let (lo, hi) := bisect s a l p.refineSteps lo0 hi0
  match probe s a l lo, probe s a l hi with
  | some fl, some fh =>
    let dl : Int := (fl.zs : Int) - fl.zc
    let dh : Int := (fh.zc : Int) - fh.zs
    let zh := u824 ((fix 24 lo).add ((fix 24 ((hi : Int) - lo)).mul (Frac.div (Frac.ofInt dl) (Frac.ofInt (dh + dl)))))
    match probe s a l zh with
    | none => none
    | some c =>
      let diff : Nat := ((c.zc : Int) - c.zs).natAbs
      if diff * 2 ^ 16 ≤ c.zs * p.consistTol + 16 * 2 ^ 16 then
        some { z := zh, layer := ln, pu := c.pu, pv := c.pv, zc := c.zc }
      else none
  | _, _ => none

/-- The march of one layer from step k, `n` steps left; `prev` is the last valid probe with its z. -/
def marchLayer (p : SynthParams) (s : RaySetup) (zo : Nat) (a : AnchorIn) (l : LayerIn) (ln : Nat) :
    Nat → Nat → Option (Probe × Nat) → Option Hit
  | 0, _, _ => none
  | n + 1, k, prev =>
    let z := marchZ p k
    if z < zo then none
    else
      let q := probe s a l z
      let here : Option Hit := match q, prev with
        | some c, some (pp, pz) => if pp.zs < pp.zc && c.zc ≤ c.zs then refine p s a l ln z pz else none
        | _, _ => none
      match here with
      | some h => some h
      | none => marchLayer p s zo a l ln n (k + 1) (q.map fun c => (c, z))

/-- The march of all layers of an anchor: the hit of largest z, the earlier layer on a tie. -/
def marchAnchor (p : SynthParams) (s : RaySetup) (zo : Nat) (a : AnchorIn) : List LayerIn → Nat → Option Hit → Option Hit
  | [], _, h => h
  | l :: ls, ln, h =>
    let h' := match marchLayer p s zo a l ln (p.marchSteps + 1) 0 none, h with
      | some x, none => some x
      | some x, some y => if y.z < x.z then some x else some y
      | none, y => y
    marchAnchor p s zo a ls (ln + 1) h'

/-- A selected anchor with its hit. -/
structure Slot where
  a : AnchorIn
  hit : Option Hit
  deriving DecidableEq, Repr

/-- Level L of step 4 of section 6.3. -/
def footLevel (g : Geom) (p : SynthParams) (a : AnchorIn) (l : LayerIn) (h : Hit) : Nat :=
  if h.z = 0 then 4
  else
    let pm := f32 (Frac.mk' g.pitch (2 ^ 16 * 1000000))
    let t1 := f32 ((Frac.ofInt (Nat.max g.nu g.nw)).mul pm)
    let inv := f32 ((Frac.ofInt 1).div (fix 24 h.z))
    let t2 := f32 ((fix 16 (Nat.max g.ptx g.pty)).mul (f32 (inv.sub (fix 24 g.dref))).abs)
    let fpm := f32 (t1.add t2)
    let fp := f32 ((f32 ((f32 ((fix 16 a.cam.fx).mul fpm)).mul (fix 24 h.zc))).mul (pow2 (-(l.ent.scale : Int))))
    let lg : Int := if fp.lt (Frac.ofInt 1) then 0 else ilog2 fp
    (clampI (lg + p.mipBias) 0 4).toNat

/-- The texture sample of step 4. -/
def sampleAt (l : LayerIn) (lv : Nat) (pu pv : Int) : Rgb32 :=
  let k : Int := -((l.ent.scale + lv : Nat) : Int)
  let half := Frac.mk' 1 2
  let su := f32 ((f32 ((fix 16 pu).mul (pow2 k))).sub half)
  let sv := f32 ((f32 ((fix 16 pv).mul (pow2 k))).sub half)
  bilinear (l.tex.levels.getD lv { w := 1, h := 1, px := [] }) su sv

/-- The blend weight of step 5. (DEDUCED, unsafe: log entry 39.) -/
def blendWeight (p : SynthParams) (s : RaySetup) (a : AnchorIn) (h : Hit) : Frac :=
  let z := fix 24 h.z
  let e := s.ePos a.cam
  let dx := fix 28 s.dx
  let dy := fix 28 s.dy
  let one := Frac.ofInt 1
  let gx := f32 ((f32 (z.mul (f32 e.x))).add dx)
  let gy := f32 ((f32 (z.mul (f32 e.y))).add dy)
  let gz := f32 ((f32 (z.mul (f32 e.z))).add one)
  let sq (a : Frac) := f32 (a.mul a)
  let n2 (a b c : Frac) := f32 ((f32 ((sq a).add (sq b))).add (sq c))
  let cx := f32 ((f32 (dy.mul gz)).sub gy)
  let cy := f32 (gx.sub (f32 (dx.mul gz)))
  let cz := f32 ((f32 (dx.mul gy)).sub (f32 (dy.mul gx)))
  let gg := n2 gx gy gz
  let sin2 := if gg.num = 0 then Frac.ofInt 0 else f32 ((n2 cx cy cz).div (f32 ((n2 dx dy one).mul gg)))
  f32 (one.div (f32 (sin2.add (f32 (fix 16 p.blendEps)))))

/-- A contributing slot: its number, the layer it hit, its sample and weight. -/
structure Contrib where
  slot : Nat
  a : AnchorIn
  hit : Hit
  l : LayerIn
  col : Rgb32
  w : Frac
  deriving DecidableEq, Repr

/-- What the probe command and the word are made from. -/
structure RayResult where
  word : RayWord
  slots : List Slot
  /-- Normalised weights u0.16 by slot number. -/
  weights : List (Nat × Nat)
  deriving DecidableEq, Repr

/-- Fill of mode 0: far to near, deepest layer first. -/
def fillScan (p : SynthParams) (s : RaySetup) (a : AnchorIn) (k : Nat) : List LayerIn → Nat → Option (Nat × LayerIn × Probe)
  | [], _ => none
  | l :: ls, ln =>
    match probe s a l (marchZ p k) with
    | some q => some (ln, l, q)
    | none => fillScan p s a k ls (ln - 1)

/-- Fill of mode 0 over march steps k = n - 1 down to 0 of one anchor. -/
def fillAnchor (p : SynthParams) (s : RaySetup) (a : AnchorIn) : Nat → Option (Nat × Nat × LayerIn × Probe)
  | 0 => none
  | n + 1 =>
    match fillScan p s a n a.layers.reverse (a.layers.length - 1) with
    | some (ln, l, q) => some (n, ln, l, q)
    | none => fillAnchor p s a n

/-- Fill of mode 0 over the selected anchors. -/
def fillSlots (p : SynthParams) (s : RaySetup) (v : Nat) : List Slot → Option RayWord
  | [] => none
  | sl :: ss =>
    match fillAnchor p s sl.a (p.marchSteps + 1) with
    | some (k, ln, l, q) =>
      let c := sampleAt l 4 q.pu q.pv
      some { r := f16code c.r, g := f16code c.g, b := f16code c.b, coverage := 0xFFFF, zinv := marchZ p k
             anchor := sl.a.n, layer := ln, view := v
             flags := 1 + (if l.tex.concealed || l.depth.concealed then 8 else 0) }
    | none => fillSlots p s v ss

/-- The ray word of section 6.3 for one ray, with the overlay cut zo (R153). (DEDUCED, unsafe: log entry 39.) -/
def traceRay (g : Geom) (p : SynthParams) (as : List AnchorIn) (zo : Nat) (r : Ray) : RayResult :=
  let s := raySetup g r
  let slots := (selectAnchors p s as).map fun a => { a := a, hit := marchAnchor p s zo a a.layers 0 none : Slot }
  let hits := slots.filterMap (·.hit)
  if hits.isEmpty then
    let word : RayWord :=
      if zo > 0 then { r := 0, g := 0, b := 0, coverage := 0, zinv := zo, anchor := 0xFF, layer := 0xFF, view := r.v, flags := 2 }
      else
        let const : RayWord := { r := p.fillColour.r, g := p.fillColour.g, b := p.fillColour.b, coverage := 0xFFFF, zinv := 0
                                 anchor := 0xFF, layer := 0xFF, view := r.v, flags := 1 }
        if p.fillMode = 0 then (fillSlots p s r.v slots).getD const
        else if p.fillMode = 1 then const
        else { r := 0, g := 0, b := 0, coverage := 0, zinv := 0, anchor := 0xFF, layer := 0xFF, view := r.v, flags := 1 }
    { word := word, slots := slots, weights := [] }
  else
    let zn := maxN (hits.map (·.z))
    let cs := (List.range slots.length).filterMap fun n => (slots[n]?).bind fun sl => sl.hit.bind fun h =>
      if zn * 2 ^ 16 - zn * p.resolveTol ≤ h.z * 2 ^ 16 then
        (sl.a.layers[h.layer]?).map fun l =>
          { slot := n, a := sl.a, hit := h, l := l, col := sampleAt l (footLevel g p sl.a l h) h.pu h.pv
            w := blendWeight p s sl.a h : Contrib }
      else none
    let sw := cs.foldl (fun acc c => f32 (acc.add c.w)) (Frac.ofInt 0)
    let mixc (f : Rgb32 → Frac) := f16code (f32 ((cs.foldl (fun acc c => f32 (acc.add (f32 (c.w.mul (f c.col))))) (Frac.ofInt 0)).div sw))
    let best := cs.foldl (fun (acc : Option Contrib) c => match acc with
      | none => some c
      | some b => if b.w.lt c.w || (b.w.eq c.w && c.a.n < b.a.n) then some c else some b) none
    let conceal := cs.any fun c => c.l.tex.concealed || c.l.depth.concealed
    { word := { r := mixc (·.r), g := mixc (·.g), b := mixc (·.b), coverage := 0xFFFF, zinv := zn
                anchor := (best.map (·.a.n)).getD 0xFF, layer := (best.map (·.hit.layer)).getD 0xFF, view := r.v
                flags := if conceal then 8 else 0 }
      slots := slots
      weights := cs.map fun c => (c.slot, (fixR 16 0 0xFFFF (c.w.div sw)).toNat) }

/-- The word of a ray when there is no scene (R154). -/
def noSceneWord (p : SynthParams) (v : Nat) : RayWord :=
  { r := p.background.r, g := p.background.g, b := p.background.b, coverage := 0xFFFF, zinv := 0
    anchor := 0xFF, layer := 0xFF, view := v, flags := 1 }

/-- A ray word as 128 bits (Table 6.1). -/
def RayWord.pack (w : RayWord) : Word :=
  packW [at' 127 112 w.r, at' 111 96 w.g, at' 95 80 w.b, at' 79 64 w.coverage, at' 63 32 w.zinv, at' 31 24 w.anchor,
    at' 23 16 w.layer, at' 15 8 w.view, at' 7 0 w.flags]

/-! ### Ladder copies (Table 6.4, R160) -/

/-- The lens position whose ray a ray at (u, w) takes its word from at a ladder step. -/
def ladderSource (g : Geom) (step u w : Nat) : Nat × Nat :=
  if step = 2 then (u - u % 2, w - w % 2)
  else if step = 3 then (g.nu / 2, g.nw / 2)
  else (u, w)

/-- Steering states synthesised at a ladder step (Table 6.4). -/
def ladderStates (s step : Nat) : List Nat :=
  if step = 0 then List.range s
  else if s = 4 then [0, 3]
  else if s = 2 then [0]
  else List.range s

/-! ### The GEOMETRY object (R138, R139) -/

/-- A tile entry of the object, word 3 + e. -/
def parseTile (w : Nat) : TileEnt :=
  { tile := bits w 127 120, col := bits w 119 116, row := bits w 115 112
    ofsX := sgn 16 (bits w 95 80), ofsY := sgn 16 (bits w 79 64)
    dtx := sgn 16 (bits w 63 48), dty := sgn 16 (bits w 47 32), rot := sgn 16 (bits w 31 16) }

/-- The fields of a GEOMETRY object. -/
def parseGeom (bs : List Byte) : Geom :=
  let w0 := wordAt bs 0
  let w1 := wordAt bs 1
  let w2 := wordAt bs 2
  { tileW := bits w1 127 112, tileH := bits w1 111 96, cols := bits w1 95 88, rows := bits w1 87 80
    nu := bits w1 79 76, nw := bits w1 75 72, sx := bits w1 71 68, sy := bits w1 67 64, pitch := bits w1 63 32
    gapX := bits w2 127 96, gapY := bits w2 95 64, ptx := bits w2 63 48, pty := bits w2 47 32, dref := bits w2 31 0
    tiles := (List.range (bits w0 87 80)).map fun e => parseTile (wordAt bs (3 + e)) }

/-- TILE strictly increasing (Table 5.6). -/
def tilesRise : List TileEnt → Bool
  | [] => true
  | [_] => true
  | a :: b :: rest => decide (a.tile < b.tile) && tilesRise (b :: rest)

/-- Every grid position exactly once (Table 5.6). -/
def gridOnce (g : Geom) : Bool :=
  (List.range (g.cols * g.rows)).all fun n =>
    countP (fun (e : TileEnt) => e.col == n % g.cols && e.row == n / g.cols) g.tiles == 1

/-- The angular span condition of Table 5.6 for one axis: ((n - 1) / 2) * pt / 2^16 + |dt| / 2^15 ≤ 2. -/
def spanOk (n pt : Nat) (dt : Int) : Bool := decide ((n - 1) * pt + 4 * dt.natAbs ≤ 4 * 2 ^ 16)

/-- Ranges of a tile entry (Table 5.5). -/
def tileOk (g : Geom) (raw : Nat) (e : TileEnt) : Bool :=
  decide (e.tile ≤ 15) && decide (e.col < g.cols) && decide (e.row < g.rows)
    && bits raw 111 96 == 0 && bits raw 15 0 == 0
    && decide (e.ofsX.natAbs * 2 < g.nu * 2 ^ 12) && decide (e.ofsY.natAbs * 2 < g.nw * 2 ^ 12)
    && decide (e.rot.natAbs * 100 ≤ 2 ^ 15)
    && spanOk (g.nu * g.sx) g.ptx e.dtx && spanOk (g.nw * g.sy) g.pty e.dty

/-- All creation checks of R139. -/
def geomOk (size : Nat) (bs : List Byte) : Bool :=
  let w0 := wordAt bs 0
  let w1 := wordAt bs 1
  let g := parseGeom bs
  let rng (v lo hi : Nat) : Bool := decide (lo ≤ v) && decide (v ≤ hi)
  let tiles := bits w0 87 80
  bits w0 127 96 == 0x4F454751 && bits w0 95 88 == 1 && rng tiles 1 16
    && bits w0 79 64 == 0 && bits w0 31 0 == 0 && bits w0 63 32 == 16 * (3 + tiles) && size == 16 * (3 + tiles)
    && bits w1 31 0 == 0
    && rng g.tileW 512 9216 && g.tileW % 64 == 0 && rng g.nu 1 8 && g.tileW % g.nu == 0
    && rng g.tileH 256 4608 && g.tileH % 16 == 0 && rng g.nw 1 8 && g.tileH % g.nw == 0
    && rng g.cols 1 4 && rng g.rows 1 4 && rng g.sx 1 2 && rng g.sy 1 2
    && rng g.pitch (1 * 2 ^ 16) (2000 * 2 ^ 16) && rng g.gapX 0 (10000 * 2 ^ 16) && rng g.gapY 0 (10000 * 2 ^ 16)
    && rng g.ptx 1 0xFFFF && rng g.pty 1 0xFFFF && rng g.dref (2 ^ 22) (200 * 2 ^ 24)
    && tiles == g.cols * g.rows && tilesRise g.tiles && gridOnce g
    && (List.range tiles).all fun e => match g.tiles[e]? with
        | some t => tileOk g (wordAt bs (3 + e)) t
        | none => false

/-- The ray rate of R140. -/
def rayRate (g : Geom) (fps : Nat) : Nat := g.cols * g.rows * g.tileW * g.tileH * g.sx * g.sy * fps

/-- The ray budget of R140 in rays per second. -/
def rayBudget : Nat := 163074539520

/-- FPS_MAX of Table 5.9. -/
def fpsMax (g : Geom) : Nat := maxN ([24, 25, 30, 48, 50, 60].filter fun f => decide (rayRate g f ≤ rayBudget))

/-- A structural difference of two geometries (R142). -/
def structural (a b : Geom) : Bool :=
  a.tileW != b.tileW || a.tileH != b.tileH || a.cols != b.cols || a.rows != b.rows || a.nu != b.nu || a.nw != b.nw
    || a.sx != b.sx || a.sy != b.sy
    || a.tiles.map (fun t => (t.tile, t.col, t.row)) != b.tiles.map (fun t => (t.tile, t.col, t.row))

/-- The entry of a tile. -/
def Geom.entry (g : Geom) (t : Nat) : Option TileEnt := g.tiles.find? fun e => e.tile == t

end Sys2Proof.Machine
end

