-- ==== Sys2Proof/Machine/CompMath.lean ====
section
/-! DEFINITION. Layer composition: source samples (R201), depth placement (R202), the blend (R204 to R206), the blanket
sampler (R156), output transfers (R211) and dither (R212). -/

namespace Sys2Proof.Machine

/-! ### Source samples (R201) -/

/-- A sample in premultiplied linear light. -/
structure Rgba where
  r : Frac
  g : Frac
  b : Frac
  a : Frac
  deriving DecidableEq, Repr

/-- The transparent sample. -/
def rgba0 : Rgba := { r := Frac.ofInt 0, g := Frac.ofInt 0, b := Frac.ofInt 0, a := Frac.ofInt 0 }

/-- A level of a surface in premultiplied linear light. -/
structure SurfLevel where
  w : Nat
  h : Nat
  px : List Rgba
  deriving DecidableEq, Repr

/-- Greatest m below 2^24 with (m * 2^q)^a at most y, by bits. -/
def sigRootBits (a : Nat) (y : Frac) (q : Int) : Nat → Nat → Nat
  | 0, m => m
  | k + 1, m =>
    let m' := m + 2 ^ k
    if (fpow a ((Frac.ofInt m').mul (pow2 q))).le y then sigRootBits a y q k m' else sigRootBits a y q k m

/-- The binary32 number nearest to y^(1/a), ties to even, for results of at least 2^-126; exact. -/
def f32root (a : Nat) (y : Frac) : Frac :=
  if y.num ≤ 0 then Frac.ofInt 0
  else
    let e := ilog2 y / (a : Int)
    let q := e - 23
    let m := sigRootBits a y q 25 0
    let mid := (Frac.mk' (2 * m + 1 : Nat) 2).mul (pow2 q)
    let p := fpow a mid
    let m' := if p.lt y then m + 1 else if y.lt p then m else (if m % 2 = 0 then m else m + 1)
    f32 ((Frac.ofInt m').mul (pow2 q))

/-- EOTF(min(x, 1)) * alpha of R201 step 3 for one channel of a transfer that treats channels alone. -/
def eotfAlpha (transfer : Nat) (x alpha : Frac) : Frac :=
  if transfer = 0 then f32root 5 ((fpow 12 x).mul (fpow 5 alpha))
  else f32 ((pqLinear x).mul alpha)

/-- Bytes of a pixel of a surface format: 0 RGBA8888, 1 RGB10A2, 2 RGBA16F, 3 A8 (Table 15.10). -/
def pixelBytes (format : Nat) : Nat := if format = 2 then 8 else if format = 3 then 1 else 4

/-- A colour channel of RGBA16F under R201 step 4. -/
def half16Colour (c : Nat) : Frac :=
  let c := c % 0x10000
  if c % 0x8000 > 0x7C00 then Frac.ofInt 0
  else if c = 0x7C00 then Frac.ofInt 65504
  else if 0x8000 ≤ c then Frac.ofInt 0
  else f16val c

/-- The alpha of RGBA16F under R201 step 4: clamped to [0, 1]. -/
def half16Alpha (c : Nat) : Frac := (half16Colour c).min (Frac.ofInt 1)

/-- A pixel of a surface, as a number in the byte order of R12, in premultiplied linear light (R201).
`peak` is HLG_PEAK for transfer 2. -/
def sampleLinear (format transfer peak px : Nat) : Rgba :=
  if format = 2 then
    { r := half16Colour (bits px 15 0), g := half16Colour (bits px 31 16), b := half16Colour (bits px 47 32)
      a := half16Alpha (bits px 63 48) }
  else if format = 3 then
    -- R372
    { rgba0 with a := f32 (Frac.mk' (bits px 7 0) 255) }
  else
    let (r, g, b, a, m, am) :=
      if format = 0 then (bits px 7 0, bits px 15 8, bits px 23 16, bits px 31 24, 255, 255)
      else (bits px 9 0, bits px 19 10, bits px 29 20, bits px 31 30, 1023, 3)
    if a = 0 then rgba0
    else
      let al := Frac.mk' a am
      let one := Frac.ofInt 1
      let nl (c : Nat) := ((Frac.mk' c m).div al).min one
      if transfer = 2 then
        let l := (hlgLinear peak (nl r) (nl g) (nl b)).map (fun x => f32 (x.mul al))
        { r := l.getD 0 (Frac.ofInt 0), g := l.getD 1 (Frac.ofInt 0), b := l.getD 2 (Frac.ofInt 0), a := f32 al }
      else { r := eotfAlpha transfer (nl r) al, g := eotfAlpha transfer (nl g) al, b := eotfAlpha transfer (nl b) al, a := f32 al }

/-- Level 0 of a surface from its bytes: rows of `pitch` bytes from `off`. -/
def surfLevel0 (format transfer peak w h pitch off : Nat) (bs : List Byte) : SurfLevel :=
  { w := w, h := h
    px := (List.range (w * h)).map fun n =>
      sampleLinear format transfer peak (bytesAt bs (off + (n / w) * pitch + (n % w) * pixelBytes format) (pixelBytes format)) }

/-- A texel with the edge repeated. -/
def surfEdge (t : SurfLevel) (i j : Int) : Rgba :=
  let i := (clampI i 0 ((t.w : Int) - 1)).toNat
  let j := (clampI j 0 ((t.h : Int) - 1)).toNat
  t.px.getD (j * t.w + i) rgba0

/-- A texel, outside the surface (0, 0, 0, 0) (R202). -/
def surfTexel (t : SurfLevel) (i j : Int) : Rgba :=
  if i < 0 || j < 0 || (t.w : Int) ≤ i || (t.h : Int) ≤ j then rgba0 else t.px.getD (j.toNat * t.w + i.toNat) rgba0

/-- The next filter level (R202, R149). -/
def surfNext (t : SurfLevel) : SurfLevel :=
  let w := Nat.max 1 ((t.w + 1) / 2)
  let h := Nat.max 1 ((t.h + 1) / 2)
  { w := w, h := h
    px := (List.range (w * h)).map fun n =>
      let i : Int := (2 * (n % w) : Nat)
      let j : Int := (2 * (n / w) : Nat)
      let a := surfEdge t i j
      let b := surfEdge t (i + 1) j
      let c := surfEdge t i (j + 1)
      let d := surfEdge t (i + 1) (j + 1)
      let m (f : Rgba → Frac) := f16val (f16code ((((f a).add (f b)).add ((f c).add (f d))).mul (Frac.mk' 1 4)))
      { r := m (·.r), g := m (·.g), b := m (·.b), a := m (·.a) } }

/-- bilinear of R485 over a surface, with the texel reader the caller names. -/
def bilinearS (rd : Int → Int → Rgba) (s t : Frac) : Rgba :=
  let i := s.floor
  let j := t.floor
  let fx := f32 (s.sub (Frac.ofInt i))
  let fy := f32 (t.sub (Frac.ofInt j))
  let ch (f : Rgba → Frac) := bilin (f (rd i j)) (f (rd (i + 1) j)) (f (rd i (j + 1))) (f (rd (i + 1) (j + 1))) fx fy
  { r := ch (·.r), g := ch (·.g), b := ch (·.b), a := ch (·.a) }

/-! ### Layers of the panel composition -/

/-- A layer as fixed at the selection point (R197): its placement, its controls, its surface levels 0 to 2. -/
structure LayerFix where
  pos : Nat
  zinv : Nat
  px : Int
  py : Int
  scale : Nat
  opacity : Nat
  op : Nat
  depthTest : Bool
  levels : List SurfLevel
  deriving DecidableEq, Repr

/-- zo of R202. -/
def LayerFix.zo (l : LayerFix) : Nat := Nat.max l.zinv 0x10000

/-- Scale a sample by OPACITY / 2^15. -/
def Rgba.scale (c : Rgba) (opacity : Nat) : Rgba :=
  let k := fix 15 opacity
  let f (x : Frac) := f32 (x.mul k)
  { r := f c.r, g := f c.g, b := f c.b, a := f c.a }

/-- The filter level and sample position of one axis pair (R202). -/
def layerAt (l : LayerFix) (pc qc : Frac) : Rgba :=
  let sc := fix 12 l.scale
  let a := f32 ((f32 (pc.sub (f32 (fix 8 l.px)))).div sc)
  let b := f32 ((f32 (qc.sub (f32 (fix 8 l.py)))).div sc)
  let m : Nat := if 4096 ≤ l.scale then 0 else if 2048 ≤ l.scale then 1 else 2
  let half := Frac.mk' 1 2
  let pos (x : Frac) := f32 ((f32 (x.mul (pow2 (-(m : Int))))).sub half)
  let lv := l.levels.getD m { w := 0, h := 0, px := [] }
  (bilinearS (surfTexel lv) (pos a) (pos b)).scale l.opacity

/-- The sample of a panel layer for a ray (R202). -/
def layerSample (g : Geom) (s : RaySetup) (l : LayerFix) : Rgba :=
  let p := f32 ((f32 (Frac.mk' g.pitch (2 ^ 16))).mul (Frac.mk' 1 1000000))
  let t := f32 ((Frac.ofInt 1).div (fix 24 l.zo))
  let co (e d : Frac) (n : Nat) := f32 ((f32 ((f32 (e.add (f32 (d.mul t)))).div p)).add (Frac.mk' n 2))
  layerAt l (co (fix 24 s.ex) (fix 28 s.dx) (g.cols * g.tileW)) (co (fix 24 s.ey) (fix 28 s.dy) (g.rows * g.tileH))

/-- overlay_cut of R153: the largest ZINV of the layers with operator OVER and OPACITY 0x8000 that give alpha 1.
(DESIGN CHOICE, unsafe: log entry 69.) -/
def overlayCut (g : Geom) (s : RaySetup) (ls : List LayerFix) : Nat :=
  ls.foldl (fun z l =>
    if l.op = 0 && l.opacity = 0x8000 && (layerSample g s l).a.eq (Frac.ofInt 1) then Nat.max z l.zinv else z) 0

/-- The order of R205 for the panel: by position, or by zo with ties by position. -/
def insLayer (l : LayerFix) : List LayerFix → List LayerFix
  | [] => [l]
  | x :: xs => if l.zo < x.zo then l :: x :: xs else x :: insLayer l xs

/-- The panel layers in composition order (R205). -/
def panelOrder (byDepth : Bool) (ls : List LayerFix) : List LayerFix :=
  if byDepth then ls.foldl (fun acc l => insLayer l acc) [] else ls

/-- A blend operator of Table 8.5 for one channel. -/
def blend1 (op : Nat) (c a d : Frac) : Frac :=
  let one := Frac.ofInt 1
  if op = 1 then f32 (d.add c)
  else if op = 2 then f32 (d.mul (f32 ((f32 (c.add one)).sub a)))
  else f32 (c.add (f32 ((f32 (one.sub a)).mul d)))

/-- Running result of a composition. -/
structure CompAcc where
  r : Frac
  g : Frac
  b : Frac
  zn : Nat
  touched : Bool
  deriving DecidableEq, Repr

/-- One layer onto the running result. -/
def blendLayer (op : Nat) (c : Rgba) (d : CompAcc) : CompAcc :=
  if c.r.num = 0 && c.g.num = 0 && c.b.num = 0 && c.a.num = 0 then d
  else { d with r := blend1 op c.r c.a d.r, g := blend1 op c.g c.a d.g, b := blend1 op c.b c.a d.b, touched := true }

/-- The composed word of one panel ray (R206). -/
def composeRay (g : Geom) (base : Rgb) (byDepth : Bool) (ls : List LayerFix) (ray : Ray) (w : RayWord) : RayWord :=
  let s := raySetup g ray
  let sa := f32 (Frac.mk' w.coverage 65535)
  let under (c b : Nat) := f32 ((f16val c).add (f32 ((f32 ((Frac.ofInt 1).sub sa)).mul (f16val b))))
  let d0 : CompAcc := { r := under w.r base.r, g := under w.g base.g, b := under w.b base.b, zn := w.zinv, touched := false }
  let d := (panelOrder byDepth ls).foldl (fun d l =>
    if l.depthTest && decide (l.zo < w.zinv) then d
    else
      let d' := blendLayer l.op (layerSample g s l) d
      if (layerSample g s l).r.num = 0 && (layerSample g s l).g.num = 0 && (layerSample g s l).b.num = 0
          && (layerSample g s l).a.num = 0 then d
      else { d' with zn := Nat.max d'.zn l.zo }) d0
  { w with r := f16code d.r, g := f16code d.g, b := f16code d.b, coverage := 0xFFFF, zinv := d.zn
           flags := if d.touched then w.flags ||| 2 else w.flags }

/-! ### The blanket sampler (R156) -/

/-- The image a Blanket frame shows: level 0 texels in binary32, and the anchor it comes from. -/
structure BlanketImage where
  img : SurfLevel
  anchor : Nat
  deriving DecidableEq, Repr

/-- Placement of a Blanket frame: the image, the extent and the grid. -/
structure BlanketFrame where
  image : Option BlanketImage
  colour : Rgb
  ew : Nat
  eh : Nat
  tw : Nat
  th : Nat
  x0 : Nat
  y0 : Nat
  deriving DecidableEq, Repr

/-- The word of the rays of lens (lx, ly) of a tile at (col, row) with lens grid nu x nw (R156).
(DESIGN CHOICE, unsafe: log entry 69.) -/
def blanketWord (f : BlanketFrame) (col row nu nw lx ly : Nat) : RayWord :=
  let margin : RayWord := { r := f.colour.r, g := f.colour.g, b := f.colour.b, coverage := 0xFFFF, zinv := 0
                            anchor := 0xFF, layer := 0xFF, view := 0, flags := 1 }
  match f.image with
  | none => margin
  | some im =>
    let iw := Frac.ofInt im.img.w
    let ih := Frac.ofInt im.img.h
    let k := (f32 ((Frac.ofInt f.ew).div iw)).min (f32 ((Frac.ofInt f.eh).div ih))
    let half := Frac.mk' 1 2
    let off (e i : Frac) := f32 ((f32 (e.sub (f32 (k.mul i)))).mul half)
    let ox := off (Frac.ofInt f.ew) iw
    let oy := off (Frac.ofInt f.eh) ih
    let pc := f32 (Frac.mk' (2 * ((col * f.tw : Nat) : Int) + (2 * lx + 1) * nu - 2 * (f.x0 : Int)) 2)
    let qc := f32 (Frac.mk' (2 * ((row * f.th : Nat) : Int) + (2 * ly + 1) * nw - 2 * (f.y0 : Int)) 2)
    let a := f32 ((f32 (pc.sub ox)).div k)
    let b := f32 ((f32 (qc.sub oy)).div k)
    if a.num < 0 || b.num < 0 || iw.le a || ih.le b then margin
    else
      let c := bilinearS (surfEdge im.img) (f32 (a.sub half)) (f32 (b.sub half))
      { margin with r := f16code c.r, g := f16code c.g, b := f16code c.b
                    anchor := im.anchor, layer := if im.anchor = 0xFF then 0xFF else 0 }

/-! ### Output coding (R211, R212) -/

/-- rne(65,535 * x^(5/12)) for x in [0, 1], exact: transfer 0 of R211 and the default LUT of R292. -/
def codeRootBits (a b : Nat) (x : Frac) (scale : Nat) : Nat → Nat → Nat
  | 0, c => c
  | k + 1, c =>
    let c' := c + 2 ^ k
    if (fpow b (Frac.mk' c' scale)).le (fpow a x) then codeRootBits a b x scale k c' else codeRootBits a b x scale k c

/-- rne(scale * x^(a/b)) for x in [0, 1].
(PRESUMED, unsafe: log entry 4; DESIGN CHOICE, unsafe: log entry 69.) -/
def powCode (a b scale : Nat) (x : Frac) : Nat :=
  if x.num ≤ 0 then 0
  else
    let c := codeRootBits a b x scale 17 0
    let mid := fpow b (Frac.mk' (2 * c + 1 : Nat) (2 * scale))
    let y := fpow a x
    if mid.lt y then c + 1 else if y.lt mid then c else (if c % 2 = 0 then c else c + 1)

/-- rne(65,535 x) of a signal value; above 1, where the spec gives no code, a free constant. -/
def signalCode (t ch : Nat) (d x : Frac) : Nat :=
  if (Frac.ofInt 1).lt x then Config.codeBeyond t ch d.num d.den % 0x10000 else ((x.mul (Frac.ofInt 65535)).rne).toNat

/-- The encode transfers of R211: the 16-bit codes of linear R, G, B. (PRESUMED, unsafe: log entry 4.) -/
def encodeRgb (t : Nat) (r g b : Frac) : Nat × Nat × Nat :=
  if t = 0 then
    let c (d : Frac) : Nat := powCode 5 12 65535 (d.min (Frac.ofInt 1))
    (c r, c g, c b)
  else if t = 1 then (signalCode 1 0 r (pqSignal r), signalCode 1 1 g (pqSignal g), signalCode 1 2 b (pqSignal b))
  else
    let l := hlgCodes r g b
    let x (n : Nat) : Frac := l.getD n (Frac.ofInt 0)
    (signalCode 2 0 r (x 0), signalCode 2 1 g (x 1), signalCode 2 2 b (x 2))

/-- The 4 x 4 matrix of R212. -/
def d4 : List (List Nat) := [[0, 8, 2, 10], [12, 4, 14, 6], [3, 11, 1, 9], [15, 7, 13, 5]]

/-- Dither of a 16-bit code to n bits at (P, Q) of frame f (R212). -/
def dither (mode n x p q f : Nat) : Nat :=
  let s := 16 - n
  if mode = 0 then Nat.min (rneDiv x (2 ^ s)) (2 ^ n - 1)
  else
    let (ox, oy) := if mode = 1 then (0, 0) else ([(0, 0), (2, 1), (1, 3), (3, 2)] : List (Nat × Nat)).getD (f % 4) (0, 0)
    let t := ((d4.getD ((q + oy) % 4) []).getD ((p + ox) % 4) 0) <<< (s - 4)
    Nat.min ((x + t) >>> s) (2 ^ n - 1)

/-- One output pixel of a flat composition (MONITOR, RETURN; R206 without a scene word). -/
def flatSample (l : LayerFix) (x y : Nat) : Rgba := layerAt l (Frac.mk' (2 * x + 1 : Nat) 2) (Frac.mk' (2 * y + 1 : Nat) 2)

/-- The composed colour of output pixel (x, y). -/
def composeFlat (base : Rgb) (ls : List LayerFix) (x y : Nat) : CompAcc :=
  ls.foldl (fun d l => blendLayer l.op (flatSample l x y) d)
    { r := f16val base.r, g := f16val base.g, b := f16val base.b, zn := 0, touched := false }

end Sys2Proof.Machine
end

