-- ==== Sys2Proof/Machine/StDirect.lean ====
section
/-! DEFINITION. State of the direct-window units: check-value units and 2D engine (spec/15).  Every field's default is
its value at reset. -/

namespace Sys2Proof.Machine

/-- The configuration registers of a check-value unit (Tables 15.1 to 15.3). -/
structure CvuCfg where
  poly : Word64 := 0x1EDC6F41
  init : Word64 := 0xFFFFFFFF
  xorout : Word64 := 0xFFFFFFFF
  cfg : Reg := 0x320
  deriving DecidableEq, Repr

/-- A check-value unit (R365 to R369). -/
structure Cvu where
  /-- The registers as written, and the values latched at the last RESET (R366). -/
  reg : CvuCfg := {}
  lat : CvuCfg := {}
  /-- `st` of R367. -/
  st : Word64 := 0xFFFFFFFF
  count : Reg := 0
  alive : BitVec 4 := 0
  cfgErr : Bool := false
  result : Word64 := 0
  deriving DecidableEq, Repr

/-- The operation registers of the 2D engine (Table 15.11). -/
structure G2dRegs where
  op : Reg := 0
  size : Reg := 0
  fillLo : Reg := 0
  fillHi : Reg := 0
  srcLo : Reg := 0
  srcHi : Reg := 0
  srcDesc : Reg := 0
  srcXy : Reg := 0
  dstLo : Reg := 0
  dstHi : Reg := 0
  dstDesc : Reg := 0
  dstXy : Reg := 0
  deriving DecidableEq, Repr

/-- The 2D engine (R374 to R381). -/
structure G2d where
  reg : G2dRegs := {}
  /-- The registers latched at the START of the running operation. -/
  lat : G2dRegs := {}
  busy : Bool := false
  done : Bool := false
  ignored : Bool := false
  error : Byte := 0
  ops : BitVec 16 := 0
  rowsDone : BitVec 16 := 0
  /-- TB0 in ns at which the running operation was accepted. -/
  startAt : Nat := 0
  deriving DecidableEq, Repr

/-- The direct-window units. -/
structure Direct where
  cvu : List Cvu := List.replicate 8 {}
  g2d : G2d := {}
  deriving DecidableEq, Repr

end Sys2Proof.Machine
end

