-- ==== Sys2Proof/Machine/DirectMath.lean ====
section
/-! DEFINITION. What the check-value units compute (R366, R367) and what an accepted 2D operation writes (R377, R378). -/

namespace Sys2Proof.Machine

/-! ### Check-value units -/

/-- `reflect` of R367: the low w bits of v in reverse order. -/
def reflect (v : Nat) : Nat → Nat
  | 0 => 0
  | w + 1 => (v % 2) * 2 ^ w + reflect (v / 2) w

def CvuCfg.width (c : CvuCfg) : Nat := bits c.cfg.toNat 6 0

def CvuCfg.ok (c : CvuCfg) : Bool := decide (1 ≤ c.width ∧ c.width ≤ 64)

/-- RESET (R366, R367). (DESIGN CHOICE, unsafe: log entry 68.) -/
def Cvu.doReset (u : Cvu) : Cvu :=
  let u := { u with lat := u.reg, count := 0 }
  if u.lat.ok then { u with cfgErr := false, st := BitVec.ofNat 64 (u.lat.init.toNat % 2 ^ u.lat.width) }
  else { u with cfgErr := true }

/-- The shift register steps of one byte, `i` bits of x still to come. -/
def cvuBits (w poly x : Nat) : Nat → Nat → Nat
  | 0, st => st
  | i + 1, st =>
    let b := (st >>> (w - 1)) % 2 ^^^ (x >>> i) % 2
    let s := (st <<< 1) % 2 ^ w
    cvuBits w poly x i (if b = 1 then s ^^^ (poly % 2 ^ w) else s)

/-- `feed` of R367. -/
def Cvu.feed (u : Cvu) (x : Nat) : Cvu :=
  if u.cfgErr then u
  else
    let x := if bit u.lat.cfg.toNat 8 then reflect x 8 else x
    { u with st := BitVec.ofNat 64 (cvuBits u.lat.width u.lat.poly.toNat x 8 u.st.toNat), count := u.count + 1 }

/-- `final` of R367, with AUTO_RESET. (DESIGN CHOICE, unsafe: log entry 68.) -/
def Cvu.final (u : Cvu) : Cvu :=
  if u.cfgErr then u
  else
    let w := u.lat.width
    let r := if bit u.lat.cfg.toNat 9 then reflect u.st.toNat w else u.st.toNat
    let u := { u with result := BitVec.ofNat 64 (r ^^^ (u.lat.xorout.toNat % 2 ^ w)), alive := u.alive + 1 }
    if bit u.lat.cfg.toNat 10 then u.doReset else u

/-! ### Pixels of the 2D engine (R371, R378) -/

/-- Bytes of a pixel (Table 15.10). -/
def g2dSize (format : Nat) : Nat :=
  match format with
  | 0 => 4
  | 1 => 4
  | 2 => 8
  | _ => 1

/-- A binary16 value as it stands, NaN taken as 0; an infinity is a value so large that `over` by any alpha but 1 leaves it
beyond every format, and `pack` saturates it. (DEDUCED, unsafe: log entry 67.) -/
def g2dHalf (c : Nat) : Frac :=
  if c % 0x8000 > 0x7C00 then Frac.ofInt 0
  else
    let v := if c % 0x8000 = 0x7C00 then Frac.ofInt (2 ^ 100) else f16val (c % 0x8000)
    if 0x8000 ≤ c % 0x10000 then v.neg else v

/-- `unpack` of R378: colour and alpha in binary32. -/
def g2dUnpack (format px : Nat) : Rgba :=
  let q (v m : Nat) := f32 (Frac.mk' v m)
  match format with
  | 0 => { r := q (bits px 7 0) 255, g := q (bits px 15 8) 255, b := q (bits px 23 16) 255, a := q (bits px 31 24) 255 }
  | 1 => { r := q (bits px 9 0) 1023, g := q (bits px 19 10) 1023, b := q (bits px 29 20) 1023, a := q (bits px 31 30) 3 }
  | 2 => { r := g2dHalf (bits px 15 0), g := g2dHalf (bits px 31 16), b := g2dHalf (bits px 47 32), a := g2dHalf (bits px 63 48) }
  | _ => { r := Frac.ofInt 0, g := Frac.ofInt 0, b := Frac.ofInt 0, a := q (bits px 7 0) 255 }

/-- A component as an unsigned code: rne(clamp(v, 0, 1) × max). -/
def g2dCode (max : Nat) (v : Frac) : Nat :=
  let c := (v.max (Frac.ofInt 0)).min (Frac.ofInt 1)
  (f32 (c.mul (Frac.ofInt max))).rne.toNat

/-- A component as binary16, saturating at ±65,504. (DEDUCED, unsafe: log entry 67.) -/
def g2dPackHalf (v : Frac) : Nat :=
  let m := v.abs
  let c := if (Frac.ofInt 65504).lt m then 0x7BFF else Nat.min 0x7BFF (f16code m)
  if v.num < 0 then 0x8000 + c else c

/-- `pack` of R378. -/
def g2dPack (format : Nat) (p : Rgba) : Nat :=
  match format with
  | 0 => packNat [at' 7 0 (g2dCode 255 p.r), at' 15 8 (g2dCode 255 p.g), at' 23 16 (g2dCode 255 p.b), at' 31 24 (g2dCode 255 p.a)]
  | 1 => packNat [at' 9 0 (g2dCode 1023 p.r), at' 19 10 (g2dCode 1023 p.g), at' 29 20 (g2dCode 1023 p.b), at' 31 30 (g2dCode 3 p.a)]
  | 2 => packNat [at' 15 0 (g2dPackHalf p.r), at' 31 16 (g2dPackHalf p.g), at' 47 32 (g2dPackHalf p.b), at' 63 48 (g2dPackHalf p.a)]
  | _ => g2dCode 255 p.a

/-- One component of `over`: c + (1 - αs) × d, each operation rounded to binary32. -/
def g2dOver1 (cs as cd : Frac) : Frac := f32 (cs.add (f32 ((f32 ((Frac.ofInt 1).sub as)).mul cd)))

/-- `over` of R378. -/
def g2dOver (s d : Rgba) : Rgba :=
  { r := g2dOver1 s.r s.a d.r, g := g2dOver1 s.g s.a d.g, b := g2dOver1 s.b s.a d.b, a := g2dOver1 s.a s.a d.a }

/-- One pixel of an operation: op, source and destination formats, fill value, source and destination pixels. -/
def g2dPixel (op sf df fill s d : Nat) : Nat :=
  match op with
  | 1 => s
  | 2 => fill % 2 ^ (8 * g2dSize df)
  | 3 => g2dPack df (g2dOver (g2dUnpack sf s) (g2dUnpack df d))
  | _ => g2dPack df (g2dUnpack sf s)

/-- A row of an operation as bytes: n pixels from the source and destination row bytes. -/
def g2dRow (op sf df fill : Nat) (src dst : List Byte) : Nat → Nat → List Byte
  | 0, _ => []
  | n + 1, k =>
    let s := bytesAt src (k * g2dSize sf) (g2dSize sf)
    let d := bytesAt dst (k * g2dSize df) (g2dSize df)
    leBytes (g2dSize df) (g2dPixel op sf df fill s d) ++ g2dRow op sf df fill src dst n (k + 1)

/-- Put bytes into a byte string at an offset; the string grows with zeros where it is shorter. -/
def putBytes (bs : List Byte) (off : Nat) (new : List Byte) : List Byte :=
  padTo (0 : Byte) off bs ++ new ++ bs.drop (off + new.length)

end Sys2Proof.Machine
end

