-- ==== Sys2Proof/Machine/Operands.lean ====
section
/-! DEFINITION. The operand forms of the host's commands: payload words and fields (Tables 2.21, 2.22), status codes
(Table 2.25), opcodes, what each device state admits (Table 2.26 and the chapters' own words), and host byte strings. -/

namespace Sys2Proof.Machine

/-! ### Status codes (Table 2.25) -/

def stOk : Nat := 0x0000
def stAccepted : Nat := 0x0001
def stWarn : Nat := 0x0002
def stBusy : Nat := 0x0100
def stSuperseded : Nat := 0x0101
def stAborted : Nat := 0x0102
def stBadOpcode : Nat := 0x0200
def stBadArg : Nat := 0x0201
def stBadObject : Nat := 0x0202
def stBadState : Nat := 0x0203
def stNoSpace : Nat := 0x0300
def stNoResource : Nat := 0x0301
def stIntegrity : Nat := 0x0400
def stTimeout : Nat := 0x0401
def stLate : Nat := 0x0402
def stNotSupported : Nat := 0x0500
def stSafetyLocked : Nat := 0x0600

/-- A mask of the bits [hi:lo]. -/
def mask (hi lo : Nat) : Nat := (2 ^ (hi + 1 - lo) - 1) <<< lo

/-! ### Header and payload fields -/

end Sys2Proof.Machine

namespace Sys2Proof

open Sys2Proof.Machine

def Cmd.op (c : Cmd) : Nat := c.opcode.toNat

/-- FLAGS bit 2: the command is of the safety class (Table 2.21). -/
def Cmd.safety (c : Cmd) : Bool := bit c.flags.toNat 2

/-- The number of payload words that are fields: COUNT, less the trailer of R432. -/
def Cmd.nWords (c : Cmd) : Nat := if c.safety then c.count.toNat - 1 else c.count.toNat

/-- Payload word n, 1 to 62; a word past COUNT reads as 0 (log entry 10). (DEDUCED, unsafe: log entry 10.) -/
def Cmd.w (c : Cmd) (n : Nat) : Nat :=
  if n = 0 ∨ c.nWords < n then 0 else (c.payload.getD (n - 1) 0).toNat

/-- Bits [hi:lo] of payload word n. (DEDUCED, unsafe: log entry 10.) -/
def Cmd.f (c : Cmd) (n hi lo : Nat) : Nat := bits (c.w n) hi lo

/-- Reserved bits of payload word n are those outside `mask`; R13 asks that they be 0. -/
def Cmd.okBits (c : Cmd) (n mask : Nat) : Bool := c.w n &&& mask == c.w n

/-- The header word of a command (Table 2.21). -/
def Cmd.header (c : Cmd) : Nat :=
  packNat [at' 127 112 c.opcode.toNat, at' 111 96 c.tag.toNat, at' 95 88 c.count.toNat, at' 87 80 c.flags.toNat,
    at' 79 64 c.rsvd.toNat, at' 63 0 c.object.toNat]

/-- The first n bytes of a slot. -/
def Cmd.slotBytes (c : Cmd) (n : Nat) : List Byte :=
  (leBytes 16 c.header ++ wordsBytes (padTo (0 : Word) 62 c.payload)).take n

/-- The trailer word of a command of the safety class: payload word COUNT (R432). -/
def Cmd.trailer (c : Cmd) : Nat := (c.payload.getD (c.count.toNat - 1) 0).toNat

end Sys2Proof

namespace Sys2Proof.Machine

end Sys2Proof.Machine

namespace Sys2Proof

open Sys2Proof.Machine

/-! ### The header of a scene packet (Table 3.1) -/

/-- TYPE, a code of Table 3.2. -/
def Pkt.type (p : Pkt) : Nat := bits p.header.toNat 127 120

def Pkt.version (p : Pkt) : Nat := bits p.header.toNat 119 112

def Pkt.index (p : Pkt) : Nat := bits p.header.toNat 111 96

/-- LENGTH, in bytes, without header and padding. -/
def Pkt.length (p : Pkt) : Nat := bits p.header.toNat 95 64

def Pkt.frame (p : Pkt) : Reg := BitVec.ofNat 32 (bits p.header.toNat 63 32)

def Pkt.crc (p : Pkt) : Reg := BitVec.ofNat 32 (bits p.header.toNat 31 0)

/-- A packet of a carrier of slot `slot` from its bytes: the header in bytes 0 to 15, then the payload and its padding. -/
def pktOfBytes (slot : Nat) (bs : List Byte) : Pkt := { slot := slot, header := BitVec.ofNat 128 (wordAt bs 0), payload := bs.drop 16 }

end Sys2Proof

namespace Sys2Proof.Machine

/-! ### Opcodes (Table 2.36 and the command tables of the chapters) -/

/-- Every opcode the spec defines. -/
def knownOpcodes : List Nat :=
  [0x0101, 0x0102, 0x0103, 0x0104, 0x0105, 0x0106, 0x0107, 0x0108, 0x0109, 0x010A, 0x010B, 0x010C, 0x010D, 0x010E,
   0x010F, 0x0201, 0x0301, 0x0302, 0x0303, 0x0304, 0x0401, 0x0402, 0x0501, 0x0502, 0x0601, 0x0602, 0x0701, 0x0702,
   0x0703, 0x0801, 0x0901, 0x0902, 0x0903, 0x0A01, 0x0A02, 0x0A03, 0x0B01, 0x0B02, 0x0C01, 0x0C02, 0x0C03, 0x0C04,
   0x0D01, 0x0D02, 0x0D03, 0x0D04, 0x0E01, 0x0E02, 0x0E03, 0x0E04, 0x0F01, 0x0F02, 0x1201, 0x1202, 0x1203, 0x1204,
   0x1205, 0x1301, 0x1302, 0x1303, 0x1304, 0x1401, 0x1402, 0x1403, 0x1501, 0x1502, 0x1601, 0x1602, 0x1603]

/-- Commands of Table 2.36 restricted to MB0. -/
def mb0Only (op : Nat) : Bool := op == 0x010B || op == 0x010D || op == 0x010E || op / 256 == 0x14

/-- Commands that recovery firmware executes (R455). (DEDUCED, unsafe: log entry 11.) -/
def recoveryServes (op : Nat) : Bool :=
  op == 0x0101 || op == 0x0103 || op == 0x010C || op == 0x010D || op == 0x010F || op == 0x010B || op == 0x1602

/-- Commands whose own chapter permits them in BOOT (R486, R488). (DEDUCED, unsafe: log entry 11.) -/
def bootAlso (op : Nat) : Bool := op / 256 == 0x13 || op == 0x1602 || op == 0x1603

/-- Commands whose own chapter permits them in SAFE (R266, R486, R488, Table 19.14).
(DEDUCED, unsafe: log entry 11.) -/
def safeAlso (op : Nat) : Bool := op / 256 == 0x13 || op / 256 == 0x16 || op == 0x0A02

/-- Commands that SHUTDOWN accepts (Table 2.26, R469). (DEDUCED, unsafe: log entry 11.) -/
def shutdownServes (op : Nat) : Bool :=
  op == 0x0101 || op == 0x0103 || op == 0x0102 || op / 256 == 0x02 || op == 0x1602 || op == 0x1603 ||
  op / 256 == 0x13 || op == 0x1401 || op == 0x1501

/-! ### Host byte strings -/

/-- A value reads as 0xFF_FFFF and so on where its field is too narrow. -/
def satN (width v : Nat) : Nat := Nat.min v (2 ^ width - 1)

end Sys2Proof.Machine
end

