-- ==== Sys2Proof/Machine/Params.lean ====
section
/-! DEFINITION. The parameter tables of the spec: every ID with its range, reset value and boundary class (Tables 2.43,
2.46, 3.18, 4.10, 5.11, 6.10, 7.7, 8.10, 9.9, 10.22, 11.7, 12.16, 13.11, 14.5, 15.19, 16.22, 17.10, 18.15, 19.15). -/

namespace Sys2Proof.Machine

/-- Boundary classes (Table 2.27). -/
inductive PClass where
  | immediate | panelFrame | monitorFrame | restart
  deriving DecidableEq, Repr

/-- The form of a range. -/
inductive PRange where
  /-- lo to hi. -/
  | span (lo hi : Nat)
  /-- 0, or lo to hi. -/
  | zeroOr (lo hi : Nat)
  | oneOf (vs : List Nat)
  /-- No bit outside the mask. -/
  | within (mask : Nat)
  /-- No bit outside the mask, and at least one of it clear. -/
  | someClear (mask : Nat)
  /-- A multiple of k from lo to hi. -/
  | step (k lo hi : Nat)
  /-- Two's complement of 64 bits, lo to hi. -/
  | signed (lo hi : Int)
  /-- A colour of three finite, non-negative binary16 values. -/
  | colour
  /-- 0, or the ID of an object of a class; for a MAP, of a KIND; 0 is refused where `zero` is false. -/
  | object (cls kind : Nat) (zero : Bool)
  /-- Fields, checked by `fieldsOk` under this number. -/
  | fields (n : Nat)
  deriving DecidableEq, Repr

/-- A parameter. -/
structure PDef where
  id : Nat
  reset : Nat
  cls : PClass
  range : PRange
  deriving DecidableEq, Repr

open PClass PRange

def paramsA : List PDef :=
  [⟨0x01000001, 0, panelFrame, span 0 65535⟩,
   ⟨0x02000001, 0, immediate, span 0 3⟩, ⟨0x02000002, 0, immediate, within 0x7FFFFE⟩,
   ⟨0x03000001, 0, panelFrame, object 1 0 true⟩, ⟨0x03000002, 0, panelFrame, span 0 1⟩,
   ⟨0x03000003, 1000, immediate, span 50 10000⟩, ⟨0x03000004, 500, immediate, span 10 10000⟩,
   ⟨0x03000005, 3, panelFrame, span 1 255⟩,
   ⟨0x04000001, 1, panelFrame, span 0 2⟩, ⟨0x04000002, 2, panelFrame, span 1 8⟩, ⟨0x04000003, 8, panelFrame, span 1 8⟩,
   ⟨0x04000004, 0, panelFrame, span 0 1⟩, ⟨0x04000005, 0, restart, someClear 0xFFFFFF⟩,
   ⟨0x05000001, 0, panelFrame, object 3 0 false⟩]

def paramsB : List PDef :=
  [⟨0x06000001, 4, panelFrame, span 1 4⟩, ⟨0x06000002, 32, panelFrame, span 8 32⟩, ⟨0x06000003, 4, panelFrame, span 0 4⟩,
   ⟨0x06000004, 0x4000000, panelFrame, span 0x100000 0x10000000⟩, ⟨0x06000005, 0x400, panelFrame, span 1 0x2000⟩,
   ⟨0x06000006, 0x800, panelFrame, span 0 0x2000⟩, ⟨0x06000007, 4, panelFrame, span 1 0x1000⟩,
   ⟨0x06000008, 0, panelFrame, signed (-2) 2⟩, ⟨0x06000009, 0, panelFrame, span 0 2⟩,
   ⟨0x0600000A, 0, panelFrame, colour⟩, ⟨0x0600000B, 0, panelFrame, colour⟩, ⟨0x0600000C, 0, panelFrame, span 0 2⟩,
   ⟨0x0600000D, 0, panelFrame, object 2 0 true⟩, ⟨0x0600000E, 0, panelFrame, colour⟩, ⟨0x0600000F, 3, panelFrame, span 0 3⟩,
   ⟨0x06000010, 0, panelFrame, span 0 3⟩, ⟨0x06000011, 0x100, panelFrame, span 0 0x1000⟩,
   ⟨0x06000012, 30, panelFrame, span 1 255⟩, ⟨0x06000013, 0, restart, someClear 0xFFFFFFFFFFFF⟩,
   ⟨0x07000001, 30, immediate, span 0 30⟩, ⟨0x07000002, 2, immediate, span 0 3⟩, ⟨0x07000003, 1, panelFrame, span 0 1⟩,
   ⟨0x07000004, 4096, immediate, span 0 114688⟩]

def paramsC : List PDef :=
  [⟨0x08000001, 1, panelFrame, span 0 1⟩, ⟨0x08000002, 0, panelFrame, colour⟩, ⟨0x08000003, 2, panelFrame, span 0 2⟩,
   ⟨0x08000004, 0x76543210, monitorFrame, fields 1⟩, ⟨0x08000005, 0, monitorFrame, colour⟩,
   ⟨0x08000006, 0x0A00, monitorFrame, fields 2⟩, ⟨0x08000007, 1, monitorFrame, span 0 2⟩,
   ⟨0x08000008, 0x76543210, panelFrame, fields 1⟩, ⟨0x08000009, 0, panelFrame, colour⟩,
   ⟨0x0800000A, 0x0A00, panelFrame, fields 2⟩, ⟨0x0800000B, 0, panelFrame, span 0 2⟩,
   ⟨0x0800000C, 0x0F000870, panelFrame, fields 3⟩,
   ⟨0x09000001, 0, panelFrame, span 0 1⟩, ⟨0x09000002, 10, immediate, span 1 20⟩,
   ⟨0x0A000001, 3, panelFrame, span 0 3⟩, ⟨0x0A000002, 500, immediate, span 250 1000⟩, ⟨0x0A000003, 10, immediate, span 2 20⟩,
   ⟨0x0A000004, 2, immediate, span 0 2⟩, ⟨0x0A000005, 1024, immediate, span 0 65535⟩,
   ⟨0x0B000001, 0x012C003C, panelFrame, fields 4⟩, ⟨0x0B000002, 0, panelFrame, span 0 1⟩,
   ⟨0x0B000003, 0, panelFrame, span 0 41666666⟩, ⟨0x0B000004, 100, immediate, span 10 500⟩,
   ⟨0x0B000005, 1000, immediate, zeroOr 100 100000⟩, ⟨0x0B000006, 250, panelFrame, span 50 450⟩,
   ⟨0x0B000007, 0, panelFrame, span 0 1⟩, ⟨0x0B000008, 8, panelFrame, span 1 255⟩,
   ⟨0x0B000010, 0x0F0011300FB00058, monitorFrame, fields 5⟩, ⟨0x0B000011, 0x087008CA0878000A, monitorFrame, fields 5⟩,
   ⟨0x0B000012, 594000, monitorFrame, span 25000 2700000⟩, ⟨0x0B000013, 0, monitorFrame, span 0 1⟩]

def paramsD : List PDef :=
  [⟨0x0C000001, 0, panelFrame, object 4 1 true⟩, ⟨0x0C000002, 0, panelFrame, object 4 3 true⟩,
   ⟨0x0C000003, 0, panelFrame, object 4 2 true⟩, ⟨0x0C000004, 0, panelFrame, object 5 0 true⟩,
   ⟨0x0C000005, 0x8000, panelFrame, span 0x800 0x8000⟩, ⟨0x0C000006, 0x5000, panelFrame, span 0x4000 0xFFFF⟩,
   ⟨0x0C000007, 10, immediate, span 1 60⟩, ⟨0x0C000008, 3600, immediate, span 60 86400⟩,
   ⟨0x0C000009, 0x4D00, panelFrame, span 0x3C00 0x7BFF⟩, ⟨0x0C00000A, 0, panelFrame, zeroOr 0x100 0xFFFF⟩,
   ⟨0x0C00000B, 0xFFFF, panelFrame, span 0x100 0xFFFF⟩, ⟨0x0C00000C, 0x200, panelFrame, span 0x100 0xFFFF⟩,
   ⟨0x0C00000D, 0xFFFF, restart, within 0xFFFF⟩, ⟨0x0C00000E, 20, restart, span 0 100⟩, ⟨0x0C00000F, 1, immediate, span 1 30⟩,
   ⟨0x0C000010, 1, immediate, span 0 1⟩, ⟨0x0C000011, 2304, immediate, span 16 2304⟩,
   ⟨0x0C000020, 2, panelFrame, span 0 2⟩, ⟨0x0C000021, 1500, immediate, span 1 65535⟩, ⟨0x0C000022, 200, immediate, span 1 65535⟩,
   ⟨0x0C000023, 2000, immediate, span 1 65535⟩, ⟨0x0C000024, 500, immediate, span 1 65535⟩,
   ⟨0x0D000001, 2, immediate, span 0 2⟩, ⟨0x0D000002, 10, immediate, span 6 14⟩, ⟨0x0D000003, 2048, immediate, span 256 16384⟩,
   ⟨0x0D000004, 2, immediate, span 1 2⟩, ⟨0x0D000005, 120, immediate, step 8 8 2040⟩, ⟨0x0D000006, 100, immediate, span 20 1000⟩,
   ⟨0x0D000007, 1000, immediate, span 0 65535⟩, ⟨0x0D000008, 4, immediate, span 1 255⟩, ⟨0x0D000009, 24, immediate, span 1 168⟩,
   ⟨0x0D00000A, 1, restart, span 0 1⟩, ⟨0x0D00000B, 1, immediate, span 0 1⟩]

def paramsE : List PDef :=
  [⟨0x0F000001, 0, monitorFrame, span 0 1⟩, ⟨0x0F000002, 0, monitorFrame, span 0 2⟩, ⟨0x0F000003, 2, immediate, span 1 255⟩,
   ⟨0x11000001, 10, immediate, span 1 20⟩,
   ⟨0x12000050, 500, immediate, span 10 500⟩, ⟨0x12000051, 0, panelFrame, span 0 3⟩,
   ⟨0x12000052, 0, panelFrame, signed (-1152921504606846976) 1152921504606846976⟩,
   ⟨0x12000053, 0x640000, immediate, fields 6⟩, ⟨0x12000054, 0, immediate, span 0 1⟩, ⟨0x12000055, 50, immediate, span 1 1000⟩,
   ⟨0x13000001, 1, immediate, span 0 1⟩, ⟨0x13000002, 0x40, restart, span 0x08 0x77⟩,
   ⟨0x13000003, 0x4000, immediate, span 0x3800 0x4800⟩, ⟨0x13000004, 730, immediate, span 730 850⟩,
   ⟨0x13000005, 800, immediate, span 730 850⟩, ⟨0x13000006, 1000, immediate, span 100 10000⟩,
   ⟨0x13000007, 0, immediate, fields 7⟩, ⟨0x13000008, 730, immediate, span 730 850⟩,
   ⟨0x14000001, 0, panelFrame, span 0 1⟩, ⟨0x14000002, 0, immediate, zeroOr 5 1000⟩, ⟨0x14000003, 8, panelFrame, span 4 64⟩,
   ⟨0x15000001, 0, restart, span 0 1⟩, ⟨0x15000002, 0, immediate, span 0 1⟩, ⟨0x15000003, 5000, immediate, span 500 60000⟩,
   ⟨0x15000004, 1, immediate, span 0 1⟩, ⟨0x16000001, 7, immediate, span 0 7⟩]

/-- The rows of the composition tables that stand for a range of IDs (Table 8.10). -/
def compFamily (o : Nat) : Option PDef :=
  let id := 0x08000000 + o
  let n := o % 16
  if 0x10 ≤ o ∧ o ≤ 0x13 then some ⟨id, 0, panelFrame, fields 8⟩
  else
    let out := o / 0x100
    let row := (o / 16) % 16
    let first := if out = 1 then 1 else 0
    let cls := if out = 2 then monitorFrame else panelFrame
    if out < 1 ∨ 3 < out ∨ row < 1 ∨ 4 < row ∨ n < first ∨ 7 < n then none
    else if row = 1 then some ⟨id, 0, cls, fields (if out = 1 then 9 else if out = 2 then 10 else 11)⟩
    else if row = 2 then some ⟨id, 0x80001000, cls, fields (if out = 1 then 12 else 17)⟩
    else if row = 3 then some ⟨id, 0, cls, within 0xFFFFFFFFFFFFFFFF⟩
    else some ⟨id, 0x30, cls, fields 13⟩

/-- The rows of an encoder stream (Table 14.5). -/
def encFamily (o : Nat) : Option PDef :=
  let id := 0x0E000000 + o
  if o / 0x100 = 1 ∨ o / 0x100 = 2 then
    match o % 0x100 with
    | 1 => some ⟨id, 0, panelFrame, span 0 1⟩
    | 2 => some ⟨id, 1, panelFrame, span 0 2⟩
    | 3 => some ⟨id, 0x0F000870, panelFrame, fields 14⟩
    | 4 => some ⟨id, 0, panelFrame, span 0 7⟩
    | 5 => some ⟨id, 1, panelFrame, span 1 4⟩
    | 6 => some ⟨id, 50000, panelFrame, span 1000 800000⟩
    | 7 => some ⟨id, 4, panelFrame, span 1 64⟩
    | 8 => some ⟨id, 65536, panelFrame, span 256 1048576⟩
    | 9 => some ⟨id, 120, panelFrame, span 0 65535⟩
    | 10 => some ⟨id, 0, panelFrame, span 0 1⟩
    | 11 => some ⟨id, 0, panelFrame, span 0 15⟩
    | _ => none
  else none

/-- The rows of a time base or a port (Table 16.22). -/
def netFamily (o : Nat) : Option PDef :=
  let id := 0x12000000 + o
  match o with
  | 0x01 => some ⟨id, 0, immediate, fields 15⟩
  | 0x02 => some ⟨id, 0, immediate, fields 15⟩
  | 0x11 => some ⟨id, 0x8080, immediate, within 0xFFFF⟩
  | 0x12 => some ⟨id, 0x8080, immediate, within 0xFFFF⟩
  | 0x21 => some ⟨id, 0xFEFDFD, immediate, within 0xFFFFFF⟩
  | 0x22 => some ⟨id, 0xFEFDFD, immediate, within 0xFFFFFF⟩
  | 0x31 => some ⟨id, 0, immediate, span 0 1⟩
  | 0x32 => some ⟨id, 0, immediate, span 0 1⟩
  | 0x41 => some ⟨id, 1000000, immediate, span 1000 1000000000⟩
  | 0x42 => some ⟨id, 1000000, immediate, span 1000 1000000000⟩
  | _ =>
    if 0x100 ≤ o ∧ o < 0x140 then
      match o % 16 with
      | 0 => some ⟨id, 0, immediate, span 0 2⟩
      | 1 => some ⟨id, 0, immediate, span 0 2⟩
      | 2 => some ⟨id, 1500, immediate, span 1500 9000⟩
      | 3 => some ⟨id, 0, immediate, fields 16⟩
      | 4 => some ⟨id, 0, immediate, within 0xFFFFFFFFFFFFFFFF⟩
      | 5 => some ⟨id, 24, immediate, span 8 30⟩
      | _ => none
    else none

/-- The parameter of an ID, none for an unknown ID. -/
def paramDef (id : Nat) : Option PDef :=
  let find (l : List PDef) := l.find? (fun d => d.id == id)
  match id / 0x1000000 with
  | 0x06 => find paramsB
  | 0x07 => find paramsB
  | 0x08 => (find paramsC).or (compFamily (id % 0x1000000))
  | 0x09 => find paramsC
  | 0x0A => find paramsC
  | 0x0B => find paramsC
  | 0x0C => find paramsD
  | 0x0D => find paramsD
  | 0x0E => encFamily (id % 0x1000000)
  | 0x12 => (find paramsE).or (netFamily (id % 0x1000000))
  | n => if n < 6 then find paramsA else find paramsE

/-- The reset value of a parameter. (DESIGN CHOICE, unsafe: log entry 1.) -/
def paramReset (id : Nat) : Nat :=
  match paramDef id with
  | some d => d.reset
  | none => 0

/-- Finite and not negative, as binary16. -/
def halfOk (c : Nat) : Bool := decide (c < 0x7C00)

/-- A permutation of the positions 0 to 7, in the eight nibbles (R205). -/
def permOk (v : Nat) : Bool :=
  decide (v < 2 ^ 32) && (List.range 8).all (fun p => (List.range 8).any (fun k => bits v (4 * k + 3) (4 * k) == p))

/-- Ranges that are fields (Table 8.10, 11.7, 14.5, 16.22, 17.10). -/
def fieldsOk (n v : Nat) : Bool :=
  match n with
  | 1 => permOk v
  | 2 => decide (v < 0x10000) && (bits v 15 8 == 8 || bits v 15 8 == 10) && decide (bits v 7 0 ≤ 2)
  | 3 => decide (v < 2 ^ 32) && decide (64 ≤ bits v 31 16 ∧ bits v 31 16 ≤ 8192 ∧ 64 ≤ bits v 15 0 ∧ bits v 15 0 ≤ 4320) &&
         bits v 31 16 % 8 == 0 && bits v 15 0 % 8 == 0
  | 4 => decide (v < 2 ^ 32) && bits v 15 8 == 0 && decide (20 ≤ bits v 31 16 ∧ bits v 31 16 ≤ 2000) &&
         [24, 25, 30, 48, 50, 60].contains (bits v 7 0)
  | 5 => true
  | 8 => bits v 63 56 == 0 || (decide (bits v 63 56 ≤ 2 ∧ bits v 55 52 ≤ 3) && bits v 23 0 == 0 &&
         (bits v 63 56 == 2 || (bits v 51 48 == 0 && bits v 39 24 == 0)))
  | 12 => decide (bits v 31 16 ≤ 0x8000 ∧ 0x400 ≤ bits v 15 0 ∧ bits v 15 0 ≤ 0x8000)
  | 13 => decide (v < 64) && bits v 3 2 == 0 && decide (bits v 1 0 ≤ 2)
  | 17 => decide (bits v 31 16 ≤ 0x8000 ∧ 0x800 ≤ bits v 15 0 ∧ bits v 15 0 ≤ 0x8000)
  | 6 => decide (v < 2 ^ 32) && bits v 15 8 == 0 && decide (1 ≤ bits v 31 16 ∧ bits v 31 16 ≤ 500 ∧ bits v 7 0 ≤ 4)
  | 7 => (List.range 8).all (fun k =>
           let e := bits v (8 * k + 6) (8 * k)
           !bit v (8 * k + 7) && (e == 0 || decide (0x08 ≤ e ∧ e ≤ 0x77)))
  | 14 => decide (v < 2 ^ 32) &&
          decide (128 ≤ bits v 31 16 ∧ bits v 31 16 ≤ 8192 ∧ 128 ≤ bits v 15 0 ∧ bits v 15 0 ≤ 8192) &&
          bits v 31 16 % 8 == 0 && bits v 15 0 % 8 == 0 && decide (bits v 31 16 * bits v 15 0 ≤ 35389440)
  | 15 => decide (v < 2 ^ 32) && decide (bits v 31 24 ≤ 2 ∧ bits v 15 8 ≤ 3 ∧ bits v 7 0 ≤ 2)
  | 16 => decide (v < 2 ^ 16) && !bit v 12 && decide (bits v 11 0 ≤ 4094)
  | _ => true

/-- A value lies in a range, the existence of a named object apart. -/
def PRange.ok (r : PRange) (v : Nat) : Bool :=
  match r with
  | span lo hi => decide (lo ≤ v ∧ v ≤ hi)
  | zeroOr lo hi => v == 0 || decide (lo ≤ v ∧ v ≤ hi)
  | oneOf vs => vs.contains v
  | within m => v &&& m == v
  | someClear m => (v &&& m == v) && v != m
  | step k lo hi => decide (lo ≤ v ∧ v ≤ hi) && v % k == 0
  | signed lo hi => decide (lo ≤ sgn 64 v ∧ sgn 64 v ≤ hi)
  | colour => decide (v < 2 ^ 48) && halfOk (bits v 47 32) && halfOk (bits v 31 16) && halfOk (bits v 15 0)
  | object _ _ zero => zero || v != 0
  | fields n => fieldsOk n v

end Sys2Proof.Machine
end

