-- ==== Sys2Proof/Machine/StComp.lean ====
section
/-! DEFINITION. State of the taps, of the MONITOR and RETURN compositions, and of the compression jobs (spec/08, spec/09).
Every field's default is its value at reset. -/

namespace Sys2Proof.Machine

/-- One sample that a tap took (R207): its place in the tap and the composed colour. -/
structure TapPx where
  x : Nat
  y : Nat
  c : Rgb
  deriving DecidableEq, Repr

/-- A tap (R207 to R210): its two buffers. -/
structure Tap where
  /-- Panel frame of the latest complete tap frame. -/
  frame : Option Nat := none
  w : Nat := 0
  h : Nat := 0
  done : List TapPx := []
  /-- The samples of the frame under way, those kept from earlier frames among them, and those of the next frame that
  were compressed before it began. -/
  run : List TapPx := []
  ahead : List TapPx := []
  deriving DecidableEq, Repr

/-- Block modes and largest error of a subframe under compression. -/
structure ModeRun where
  frame : Nat
  sf : Nat
  modes : List Nat
  err : Nat
  deriving DecidableEq, Repr

/-- A compression job (R231 to R234). -/
structure CmpJob where
  obj : Nat
  op : Nat
  code : Nat
  checkSrc : Bool
  checkDst : Bool
  srcCrc : Nat
  dstCrc : Nat
  src : Nat
  dst : Nat
  srcLen : Nat
  dstLen : Nat
  w : Nat
  h : Nat
  /-- The output in staging, once complete and checked; the copy runs. -/
  out : Option (List Byte) := none
  warn : Nat := 0
  gotSrcCrc : Nat := 0
  modes : List Nat := [0, 0, 0, 0]
  deriving DecidableEq, Repr

/-- Composition and compression. -/
structure Comp where
  taps : List Tap := List.replicate 4 {}
  /-- Visible panel layers of the current panel frame, the scene included. -/
  visible : Nat := 1
  /-- Visible monitor layers of the present monitor frame and return layers of the present panel frame. -/
  monVisible : Nat := 0
  retVisible : Nat := 0
  /-- The tap frames, as samples, that the present monitor frame reads. -/
  monTaps : List Tap := List.replicate 4 {}
  jobs : List CmpJob := []
  /-- TB0 in ns at which the running job's present phase began (R234). -/
  jobAt : Nat := 0
  jobsOk : Reg := 0
  jobsFailed : Reg := 0
  /-- Block modes and largest error of the subframes being compressed and of the last complete one (Table 9.9). -/
  runs : List ModeRun := []
  modes : List Nat := [0, 0, 0, 0]
  maxErr : Nat := 0
  deriving DecidableEq, Repr

end Sys2Proof.Machine
end

