-- ==== Sys2Proof/Machine/StEnc.lean ====
section
/-! DEFINITION. State of the encoder streams and of the monitor output (spec/14).  Every field's default is its value at
reset. -/

namespace Sys2Proof.Machine

/-- A picture that codes (R354, R355). -/
structure Coding where
  frame : Reg
  idr : Bool
  /-- TB0 in ns of Tf of its frame. -/
  tf : Nat
  slices : Nat
  /-- CTU rows of a slice, CTU rows and CTUs of a row of the picture (R354). -/
  rows : Nat := 1
  ctuRows : Nat := 0
  ctuCols : Nat := 0
  /-- SLICE_MAX_BYTES and the bytes of Bp (R355), the largest QP of the codec. -/
  maxBytes : Nat := 0
  budget : Nat := 0
  qpMax : Nat := 51
  next : Nat := 0
  /-- Bytes of the slices written, and of all slices coded. -/
  bytes : Nat := 0
  coded : Nat := 0
  /-- The reserve of Bp has been met: every CTU that remains is coded in its fallback form. -/
  rest : Bool := false
  fallback : Nat := 0
  /-- QP times CTUs, over the slices coded. -/
  qpSum : Nat := 0
  exhausted : Bool := false
  /-- Slices dropped, and the cause of ENC_DROP. -/
  dropped : Nat := 0
  cause : Nat := 0
  deriving DecidableEq, Repr

/-- An encoder stream. -/
structure EncStream where
  /-- 0 off, 1 running, 2 stopped, 3 shed (Table 14.4). -/
  state : Nat := 0
  team : Nat := 0
  level : Nat := 0
  /-- Ring address and LOG2, once set by ENC_RING. -/
  ring : Option (Nat × Nat) := none
  /-- Free-running byte indices of the ring, and the record starts between them. -/
  tail : Nat := 0
  head : Nat := 0
  starts : List Nat := []
  rseq : Nat := 0
  idrNext : Bool := true
  /-- Pictures since the last IDR. -/
  sinceIdr : Nat := 0
  /-- Panel frames until the next picture is due (RATE_DIV). -/
  phase : Nat := 0
  coding : Option Coding := none
  pictures : Reg := 0
  exhausted : Reg := 0
  skipped : BitVec 16 := 0
  dropped : BitVec 16 := 0
  skippedSince : Nat := 0
  deriving DecidableEq, Repr

/-- The monitor's DisplayPort link and read-back (R362, R363). -/
structure Mon where
  /-- 0 idle, 1 training, 2 up, 3 FAILED. -/
  link : Nat := 0
  rate : Nat := 0
  sinkMax : Nat := 0
  hpd : Bool := false
  /-- Cause of the training that runs: 1 hot-plug, 2 IRQ_HPD, 3 host, 4 parameter, 5 sag stage. -/
  cause : Nat := 0
  /-- TB0 in ns at which the training began. -/
  trainAt : Nat := 0
  /-- The intended signature of the monitor frame being sent, where the link was up as it began (R363). -/
  intended : Option Nat := none
  checked : Reg := 0
  mismatches : Reg := 0
  lastChecked : Reg := 0
  consec : Nat := 0
  deriving DecidableEq, Repr

/-- Encode and monitor state. -/
structure Enc where
  streams : List EncStream := [{}, {}]
  mon : Mon := {}
  deriving DecidableEq, Repr

end Sys2Proof.Machine
end

