-- ==== Sys2Proof/Machine/StHost.lean ====
section
/-! DEFINITION. State of the device manager and the host interface: identity and device state, the event collector,
mailboxes, event queue, interrupts, PCI Express link, parameters, objects and firmware slots (spec/01, spec/02), and the
trace of what the block sends.  Every field's default is its value at reset. -/

namespace Sys2Proof.Machine

/-! ### Device (spec/00, spec/01) -/

/-- Device states, codes 0 to 7 of Table 1.3. -/
inductive DevState where
  | off | boot | blanket | service | reduced | parasol | safe | shutdown
  deriving DecidableEq, Repr

/-- Identity and device state (Tables 2.3 to 2.10, R25, R31). -/
structure Dev where
  /-- Device state, DEV_STATE.STATE; reset 1 = BOOT (Table 2.7). -/
  state : DevState := .boot
  /-- DEV_STATE.FW_READY (R46). -/
  fwReady : Bool := false
  /-- FW_VERSION (Table 2.6). -/
  fwVersion : Reg := 0
  /-- DEV_STATE.TRIAL (R66). -/
  trial : Bool := false
  /-- STRAP_SIDE as sampled: false side A, true side B (R2). -/
  sideB : Bool := false
  /-- DEV_STATE.PAIR: configured as a redundant pair (R1). -/
  pairCfg : Bool := false
  /-- CAPS.SAFETY_GRADE, fused. -/
  gradeS : Bool := false
  /-- The 64-bit die serial number, fused (Tables 2.9, 2.10). -/
  serial : Word64 := 0
  /-- Reduction of Table 1.5: half frame rate. -/
  halfRate : Bool := false
  /-- Reduction of Table 1.5: angular decimation. -/
  decimated : Bool := false
  deriving DecidableEq, Repr

/-! ### Events (spec/01 section 1.6, spec/02 section 2.6) -/

/-- An event as its source raises it (Table 2.28 without SEQ). -/
structure Event where
  source : Nat
  code : Nat
  severity : Nat
  arg : Nat
  arg2 : Nat
  /-- TB0 time at the source in ns (TIME80 is formed from it). -/
  time : Nat
  deriving DecidableEq, Repr

/-- A record held in the collector: its sequence number (R32) and the event. -/
structure HeldEvent where
  seq : Reg
  ev : Event
  deriving DecidableEq, Repr

/-- An entry of the overflow table (R36): the first event kept whole, the count and last number of later ones, the
highest severity of these, and whether the first event's record is written and EVENTS_COALESCED is due. -/
structure OverflowEntry where
  first : HeldEvent
  count : Nat
  last : Reg
  worst : Nat := 0
  written : Bool := false
  deriving DecidableEq, Repr

/-- The event collector (R32 to R36, R67). -/
structure Collector where
  /-- The next sequence number. -/
  nextSeq : Reg := 0
  /-- Records held, at most 256, oldest first (R35). -/
  held : List HeldEvent := []
  /-- The overflow table (R36). -/
  overflow : List OverflowEntry := []
  /-- Sequence number of the first dropped event not yet reported, and how many (R35). -/
  firstDropped : Option Reg := none
  dropped : Nat := 0
  deriving DecidableEq, Repr

/-! ### Host interface (spec/02) -/

/-- A response (Table 2.22). -/
structure Rsp where
  opcode : BitVec 16
  tag : BitVec 16
  final : Bool
  status : Nat
  object : Word64
  payload : List Word
  /-- It is the command's first response (R53). -/
  first : Bool
  /-- The response carries the trailer of R432. -/
  safety : Bool := false
  deriving DecidableEq, Repr

/-- What an accepted asynchronous command waits for. -/
inductive JobKey where
  | fence
  | commit
  | objectCreate (obj : Nat) (length : Nat)
  | objectRead (obj : Nat) (dest offset length : Nat) (before : List Byte)
  | fwStage (slot : Nat) (image length : Nat)
  | sceneSubmit (slot : Nat)
  | sceneClose (slot : Nat)
  | cmpJob (job : Nat)
  | eyeScan
  | tilePower (tiles : Nat) (on : Bool)
  | parasolEnter
  | parasolWake
  | regionUpdate (region : Nat)
  | memSetpoint
  | memRetrain (channel : Nat)
  | safetyTest
  | pairCtrl
  | shutdown
  deriving DecidableEq, Repr

/-- An accepted asynchronous command whose final report is due (R52, R53). -/
structure Job where
  id : Nat
  mb : Nat
  opcode : BitVec 16
  tag : BitVec 16
  object : Word64
  /-- A final response is wanted; cleared when the mailbox is disabled (R49). -/
  respond : Bool
  /-- A CMD_DONE event is wanted. -/
  event : Bool
  /-- FLAGS bit 2: responses carry the trailer of R432. -/
  safety : Bool := false
  key : JobKey
  deriving DecidableEq, Repr

/-- One mailbox (Tables 2.15 to 2.20). -/
structure Mailbox where
  cmdTail : Index := 0
  cmdHead : Index := 0
  rspHead : Index := 0
  rspTail : Index := 0
  cmdBase : Word64 := 0
  rspBase : Word64 := 0
  en : Bool := false
  cmdLog2 : BitVec 4 := 0
  rspLog2 : BitVec 4 := 0
  errCause : Byte := 0
  cfgErr : Bool := false
  err : Bool := false
  active : Bool := false
  /-- Commands in the command ring that the device has not fetched (R46, R42). -/
  ring : List Instr := []
  /-- Responses held for lack of ring space, oldest first (R39). -/
  held : List Rsp := []
  deriving DecidableEq, Repr

/-- Event-queue control (Tables 2.29 to 2.35). -/
structure EventQueue where
  base : Word64 := 0
  en : Bool := false
  holdoff : BitVec 16 := 0
  count : BitVec 16 := 1
  head : Index := 0
  tail : Index := 0
  droppedFlag : Bool := false
  /-- HOLDOFF microseconds have passed since the oldest unread record arrived (R63). -/
  holdoffPassed : Bool := false
  deriving DecidableEq, Repr

/-- Interrupt summary and MSI-X table masks (Tables 2.11 to 2.14). -/
structure Irq where
  status : Word64 := 0
  mask : Word64 := 0xFFFFFFFFFFFFFFFF
  /-- Bit v: MSI-X table entry v is masked. -/
  msixMask : Word64 := 0xFFFFFFFFFFFFFFFF
  deriving DecidableEq, Repr

/-- The PCI Express link (Table 2.45, R68). -/
structure Pcie where
  up : Bool := true
  speed : Nat := 5
  width : Nat := 16
  mps : Nat := 512
  corr : Reg := 0
  uncorr : Reg := 0
  cto : Reg := 0
  deriving DecidableEq, Repr

/-- The host interface. -/
structure HostIf where
  mb : List Mailbox := List.replicate 8 {}
  /-- The mailbox of MB1 to MB7 served last by the round robin (R51). -/
  rr : Nat := 7
  /-- The model's own: the mailbox whose ring head is being fetched now, or none. -/
  fetching : Option Nat := none
  jobs : List Job := []
  nextJob : Nat := 0
  eq : EventQueue := {}
  irq : Irq := {}
  pcie : Pcie := {}
  deriving DecidableEq, Repr

/-! ### Parameters (spec/02 section 2.5) -/

/-- A parameter ID with a value. -/
structure PVal where
  id : Nat
  v : Nat
  deriving DecidableEq, Repr

/-- The one pending COMMIT (R59, R60, R62). -/
structure PendingCommit where
  job : Nat
  tag : Nat
  /-- Every value it took from staging (R62). -/
  all : List PVal := []
  /-- PANEL_FRAME and MONITOR_FRAME values not yet in force. -/
  panel : List PVal
  monitor : List PVal
  /-- PANEL_FRAME values past their boundary that wait for the swap of R300. -/
  swap : List PVal := []
  /-- Panel frame named by TARGET. -/
  target : Option Nat
  /-- Panel frame and monitor frame at which the values take effect. -/
  panelAt : Nat
  monitorAt : Nat
  /-- Frames at which values took effect, for the final response; none when no value of the class. -/
  panelDone : Option Nat := none
  monitorDone : Option Nat := none
  /-- The swap of the rebuild that its values asked for is still to come (R300). -/
  waits : Bool := false
  /-- Its PANEL_FRAME values run the timing mode change (R281). -/
  mode : Bool := false
  deriving DecidableEq, Repr

/-- Parameters in force and staged. -/
structure Params where
  /-- Values in force that differ from the reset value, by ID. -/
  vals : List PVal := []
  staged : List PVal := []
  commit : Option PendingCommit := none
  /-- The frame from which `dev.frame_mark_period` counts (Table 2.44). -/
  mark : Nat := 0
  deriving DecidableEq, Repr

/-! ### Objects (spec/02 R56, spec/07) -/

/-- A location that a basket has left, and the epoch from which on no operation is issued to it (R179 step 4). -/
structure OldCopy where
  chan : Nat
  epoch : Nat
  deriving DecidableEq, Repr

/-- Where one basket of an object lies (R168 to R181).  `item` says what it holds: 0 an object's bytes; of a scene,
1 pictures of a layer slot, 2 and 3 the access-unit queues of its texture and depth stream, 4 an overlay slot, 5 the
scene control basket; `a` and `l` are the anchor and layer or the overlay slot, `part` its number within the item. -/
structure Basket where
  /-- Its number in its object; a reservation's is of its own among all of them (R180). -/
  index : Nat
  /-- 0 critical, 1 stream, 2 scratch (Table 7.1). -/
  cls : Nat
  item : Nat := 0
  a : Nat := 0
  l : Nat := 0
  part : Nat := 0
  /-- Channels of the copies: two for critical data that is mirrored, one otherwise, none once lost. -/
  chans : List Nat
  replicas : List Nat := []
  /-- A move or a copy under way: the target channel. -/
  moveTo : Option Nat := none
  /-- What the copy is: 0 a move of the copy on `moveFrom`, 1 a replica, 2 a mirror. -/
  moveKind : Nat := 0
  moveFrom : Nat := 0
  /-- The copy has ended and the switch waits for the epoch boundary (R179). -/
  copied : Bool := false
  /-- Locations whose release waits for older operations to retire. -/
  oldSources : List OldCopy := []
  /-- Replicas that leave the location record at the next epoch boundary, and those whose release waits (R181). -/
  dropping : List Nat := []
  oldReps : List OldCopy := []
  /-- It stays single for want of space (R190). -/
  short : Bool := false
  deriving DecidableEq, Repr

/-- An object (Table 2.40, R56). (DESIGN CHOICE, safe: log entry 80.) -/
structure Obj where
  id : Nat
  cls : Nat
  size : Nat
  data : List Byte
  /-- Under creation until the final response (R56). -/
  creating : Bool
  /-- LOST under R191. -/
  lost : Bool := false
  baskets : List Basket := []
  /-- Placement hints (Table 7.6). -/
  priority : Nat := 1
  replica : Nat := 1
  mirror : Nat := 0
  /-- Hints to take at the next epoch (R193): priority, replica, mirror. -/
  hint : Option (Nat × Nat × Nat) := none
  deriving DecidableEq, Repr

/-- The object store. -/
structure Objects where
  objs : List Obj := []
  /-- The number the next object gets (not reused before the next BOOT). -/
  next : Nat := 1
  deriving DecidableEq, Repr

/-! ### Firmware slots (R65, R66) -/

/-- A firmware slot: 0 empty, 1 verified, 2 trial, 3 active (R66). -/
structure FwSlot where
  version : Reg := 0
  state : Nat := 0
  deriving DecidableEq, Repr

/-- The boot flash. -/
structure Firmware where
  slot0 : FwSlot := {}
  slot1 : FwSlot := {}
  running : Nat := 0
  /-- A slot activated for the next BOOT. -/
  activate : Option Nat := none
  /-- The running FW_STAGE job. -/
  staging : Option Nat := none
  /-- Recovery firmware runs (R455). -/
  recovery : Bool := false
  deriving DecidableEq, Repr

/-! ### What the block sends -/

/-- One thing the block puts out, in the order it does so: the model's own trace, never read by the machine
(log entry 7). (DESIGN CHOICE, safe: log entry 7.) -/
inductive Out where
  /-- A response written at a response ring index of a mailbox (R53). -/
  | response (mb index : Nat) (r : Rsp)
  /-- An event record written at an event-queue index (R63). -/
  | record (index : Nat) (h : HeldEvent)
  /-- An MSI-X message (R47). -/
  | msix (vector : Nat)
  /-- Bytes written to host memory. -/
  | hostWrite (addr : Nat) (bytes : List Byte)
  /-- An Evelos packet or command to a tile: packet type and words (spec/10). -/
  | tile (tile type : Nat) (words : List Nat)
  /-- A cross-link message: type and words (R439). -/
  | xlink (type : Nat) (words : List Nat)
  /-- A PMBus transaction: address, command, data (R415 to R417). -/
  | pmbus (addr cmd data : Nat)
  /-- A UDP datagram from an Ethernet port: destination address and next hop, source and destination port, DSCP, the 802.1Q
  tag (PCP and VID, 0 untagged), payload. -/
  | udp (port ip hop sport dport dscp tag : Nat) (payload : List Byte)
  /-- Another Ethernet frame: kind (0 PTP, 1 ICMP, 2 ARP, 3 IGMPv3) and a field list. -/
  | ether (port kind : Nat) (fields : List Nat)
  /-- A pulse or a level at a ball: pin code (R413, R395) and level. -/
  | pin (name : String) (level : Bool)
  /-- A pulse at a ball, high from now for a number of ms (R395). -/
  | pulse (name : String) (ms : Nat)
  /-- In the package, to a bank of a channel: kind 0 a codeword written, its address and bytes (R329, R331); kind 1 a neighbour
  refresh, its row and radius (R338). -/
  | dram (ch bank kind : Nat) (data : List Nat)
  /-- A record of the return output or a monitor action: stream and fields. -/
  | display (kind : Nat) (fields : List Nat)
  deriving DecidableEq, Repr

end Sys2Proof.Machine
end

