-- ==== Sys2Proof/Machine/StLink.lean ====
section
/-! DEFINITION. State of the tile links: ports, what the tiles reported, commands that await an ACK, the eye scan
(spec/10).  Every field's default is its value at reset. -/

namespace Sys2Proof.Machine

/-- A MASK_CMD or POWER_CMD that awaits its ACK (R262).  `why` says what follows: 1 reconcile, 2 EMIT_ON, 3 neutral pair
of a timing mode change, 4 neutral pair of a power-off, 5 EMIT_OFF of a power-off, 6 DISCHARGE, 7 EMIT_OFF before a
retraining by the host, 8 EMIT_OFF before DOWN, 9 EMIT_OFF before a change of rate, 10 L1 or L2, 11 nothing. -/
structure AckWait where
  kind : Nat
  tag : Nat
  op : Nat
  why : Nat
  /-- TB0 in ns at which the wait ends. -/
  due : Nat
  deriving DecidableEq, Repr

/-- A CAPS reply (Table 10.11). -/
structure Caps where
  port : Nat
  version : Nat
  ownEpoch : Nat
  w : Nat
  h : Nat
  nu : Nat
  nw : Nat
  sx : Nat
  sy : Nat
  rates : Nat
  codes : Nat
  maskCols : Nat
  maskRows : Nat
  settle : Nat
  owner : Nat
  state : Nat
  flags : Nat
  vendor : Nat
  model : Nat
  fw : Nat
  serial : Nat
  deriving DecidableEq, Repr

/-- The counters of word 2 of the last STATUS (Table 10.12). -/
structure TileCounts where
  rcrc : Nat := 0
  missing : Nat := 0
  late : Nat := 0
  hcrc : Nat := 0
  nonOwner : Nat := 0
  deriving DecidableEq, Repr

/-- A receive lane: of its last 64 blocks, newest first, those whose sync header was invalid, and TB0 in ns of its sync errors
within a second (R238, R251). -/
structure RxLane where
  bad : List Bool := []
  errs : List Nat := []
  deriving DecidableEq, Repr

/-- One device port. -/
structure Port where
  /-- Table 10.16: 0 DOWN, 1 DETECT, 2 TRAIN, 3 LOCK, 4 CAPS, 5 ACTIVE, 6 L1, 7 L2. -/
  state : Nat := 0
  /-- Rate of the present or last attempt, as `link.rate`. -/
  rate : Nat := 3
  /-- Consecutive returns to DETECT, and consecutive failures of TRAIN above 16 Gbit/s (R249, R252). -/
  tries : Nat := 0
  fails : Nat := 0
  /-- TB0 in ns at which it entered its state (R249). -/
  since : Nat := 0
  /-- The wait of R249 runs. -/
  waiting : Bool := false
  /-- Signal is present on the four receive lanes. -/
  signal : Bool := false
  /-- The wake from L2 runs: it enters CAPS in ACTIVE (R255). -/
  fromL2 : Bool := false
  /-- TB0 in ns at which that wake began. -/
  wakeAt : Nat := 0
  /-- The wake from L1 runs, and the first STATUS after it applies R254. -/
  wakeL1 : Bool := false
  caps : Option Caps := none
  /-- A LINK_CAPS_MISMATCH item in force, 0 none. -/
  mismatch : Nat := 0
  /-- GEOM_MISMATCH was raised for the tile (R144). -/
  geomBad : Bool := false
  /-- Epoch of this side's claim; own says that the device claims the tile (R257, R259). -/
  epoch : Option Nat := none
  own : Bool := false
  /-- From the last STATUS. -/
  owner : Nat := 0
  tstate : Nat := 0
  ownEpoch : Nat := 0
  conflict : Bool := false
  heard : Bool := false
  temp : Nat := 0
  shownFrame : Nat := 0
  shownSf : Nat := 0
  counts : Option TileCounts := none
  /-- TB0 in ns of the last STATUS, or of the entry to ACTIVE (R251). -/
  statusAt : Nat := 0
  /-- Increments since the last LINK_ROW_ERRORS, and the panel frame for which it was raised last. -/
  rowRcrc : Nat := 0
  rowMissing : Nat := 0
  rowLate : Nat := 0
  rowLast : Option Nat := none
  /-- Counters since the last clear (Table 10.20). -/
  retrains : Nat := 0
  rcrc : Nat := 0
  missing : Nat := 0
  hcrc : Nat := 0
  rtt : Nat := 0
  hbSeq : Nat := 0
  /-- TB0 in ns of the last HEARTBEAT. -/
  hbAt : Nat := 0
  acks : List AckWait := []
  lanes : List RxLane := List.replicate 4 {}
  /-- Words of the packet under reception, its header first (R240). -/
  rx : List Nat := []
  deriving DecidableEq, Repr

/-- An eye scan that runs (R265). -/
structure EyeScan where
  job : Nat
  tile : Nat
  lane : Nat
  points : Nat
  dwell : Nat
  dest : Nat
  t0 : Nat
  deriving DecidableEq, Repr

/-- The tile links. -/
structure Link where
  ports : List Port := List.replicate 16 {}
  /-- The next TAG. -/
  tag : Nat := 0
  eye : Option EyeScan := none
  deriving DecidableEq, Repr

end Sys2Proof.Machine
end

