-- ==== Sys2Proof/Machine/StMem.lean ====
section
/-! DEFINITION. State of the in-package memory (spec/13).  Every field's default is its value at reset. -/

namespace Sys2Proof.Machine

/-- An entry of a bank's activate table (R337). -/
structure RowCount where
  row : Nat
  count : Nat
  deriving DecidableEq, Repr

/-- One bank (R336 to R339). -/
structure Bank where
  openRow : Option Nat := none
  /-- Idle time in ns after which the open row closes, taken when its timer started (R339). -/
  idle : Nat := 120
  /-- TB0 in ns of its last access. -/
  at_ : Nat := 0
  table : List RowCount := []
  /-- Rows whose neighbour refresh is scheduled, oldest first, at most 8 (R338). -/
  queue : List Nat := []
  /-- The bank's LFSR of the probabilistic mode (R336). -/
  lfsr : Nat := 0
  deriving DecidableEq, Repr

/-- A training pass (R341): kind 0 tracking, 1 full; `other` trains the set point not in force. -/
structure MemPass where
  kind : Nat
  other : Bool
  steps : Nat
  /-- Cause of a full retraining: 1 host, 2 corrected rate, 3 uncorrectable reads, 4 tracking margins. -/
  cause : Nat
  deriving DecidableEq, Repr

/-- Training margins of one set point (Table 13.10); `ok` says that it has a working setting. -/
structure Margins where
  ok : Bool := false
  rd : BitVec 16 := 0
  wr : BitVec 16 := 0
  vref : BitVec 16 := 0
  deriving DecidableEq, Repr

/-- One channel. -/
structure MemChan where
  /-- 0 training at BOOT, 1 working, 3 FAILED; retraining is a full pass that runs. -/
  state : Nat := 0
  m0 : Margins := {}
  m1 : Margins := {}
  pass : Option MemPass := none
  /-- Results of the running pass that wait for the start of a refresh window (R341). -/
  result : Option (Margins × Margins) := none
  ce : Reg := 0
  ue : Reg := 0
  guard : Reg := 0
  /-- The corrected reads of the last second: TB0 in ns, symbols corrected; and the last MEM_CE (Table 13.12). -/
  ceReads : List (Nat × Nat) := []
  ceRaised : Option Nat := none
  /-- The uncorrectable reads of the last second (R341). -/
  ueReads : List Nat := []
  /-- The activates held in the last second, and the last MEM_ROWGUARD (R338). -/
  heldActs : List Nat := []
  heldRaised : Option Nat := none
  /-- TB0 in ns of the last tracking pass (R341). -/
  trackAt : Nat := 0
  /-- Codewords read in the present scrub round (R333). -/
  scrubbed : Nat := 0
  /-- TB0 in ns at the end of the last full training. -/
  lastFull : Nat := 0
  tracks : Reg := 0
  fulls : Reg := 0
  banks : List Bank := List.replicate 16 {}
  deriving DecidableEq, Repr

/-- A set-point request (R343, R344). -/
structure SpRequest where
  target : Nat
  /-- 1 host, 2 PARASOL entry, 3 PARASOL wake, 4 state change. -/
  requester : Nat
  /-- TB0 in ns at the request. -/
  t0 : Nat
  deriving DecidableEq, Repr

/-- A corrected codeword that waits for its bank to be idle (R331). -/
structure Writeback where
  ch : Nat
  bank : Nat
  addr : Nat
  data : List Nat
  deriving DecidableEq, Repr

/-- The memory. -/
structure Mem where
  chans : List MemChan := List.replicate 32 {}
  setpoint : Nat := 0
  doubled : Bool := false
  temps : List Int := List.replicate 8 0
  ce : Reg := 0
  ue : Reg := 0
  guard : Reg := 0
  stalls : Reg := 0
  scrubs : Reg := 0
  /-- A scrub round runs; TB0 in ns at its start, and its span, `mem.scrub_h` as it began (R333). -/
  scrubOn : Bool := false
  scrubAt : Nat := 0
  scrubNs : Nat := 0
  /-- TB0 in ns of the last refresh window, and tREFI in force (R334). -/
  refreshAt : Nat := 0
  refi : Nat := 3904
  masked : Reg := 0
  selfRefresh : Bool := false
  request : Option SpRequest := none
  writebacks : List Writeback := []
  /-- The guard mode changed: tables and queues empty at the next window (R338). -/
  guardClear : Bool := false
  /-- `mem.pasr` in force since BOOT (R345). -/
  pasr : Bool := true
  deriving DecidableEq, Repr

end Sys2Proof.Machine
end

