-- ==== Sys2Proof/Machine/StPanel.lean ====
section
/-! DEFINITION. State of correction, the steering-mask drive, tile power, the frame-memory check and Parasol mode
(spec/12).  Every field's default is its value at reset. -/

namespace Sys2Proof.Machine

/-- The effective gain of one tile (R299): BASE of R, G, B, and E of each cell, three values a cell. -/
structure TileGain where
  tile : Nat
  base : List Nat
  e : List Nat
  deriving DecidableEq, Repr

/-- An effective map: a tile without an entry has BASE 0x4000 and E 255 (R300). -/
structure GainMap where
  tiles : List TileGain := []
  clipped : Nat := 0
  boosted : Nat := 0
  deriving DecidableEq, Repr

/-- A rebuild (R300): its result once it has ended, and the COMMIT whose values it used. -/
structure Rebuild where
  /-- Job of the COMMIT it completes, none for a periodic one. -/
  job : Option Nat := none
  result : Option GainMap := none
  /-- The frame at whose subframe 0 a periodic result is swapped in (R300). -/
  at_ : Nat := 0
  deriving DecidableEq, Repr

/-- Stress means of one cell row of a tile in a steering state (R297): three values a cell. -/
structure CellRow where
  tile : Nat
  k : Nat
  row : Nat
  m : List Nat
  deriving DecidableEq, Repr

/-- Luminance of a tile in a steering state (R302): the sum of min(y, PEAK) over the bands taken so far in units of
2^-149, the bands counted, M, and Mx of the last frame that has one, with that frame. -/
structure Lum where
  tile : Nat
  k : Nat
  sum : Nat := 0
  bands : Nat := 0
  m : Nat := 0
  prev : Option (Nat × Nat) := none
  deriving DecidableEq, Repr

/-- A drive: the SUBFRAME_START sent at the last boundary (R306, R308). -/
structure Drive where
  frame : Nat
  sf : Nat
  k : Nat
  dl0 : Int
  dl1 : Int
  made : Bool := false
  /-- The expected FM value of the state it shows, none while unchecked (R320). -/
  fm : Option Nat := none
  deriving DecidableEq, Repr

/-- Panel drive of one tile. -/
structure TileDrive where
  /-- TILE_PWR_EN is high; TB0 in ns of its rise. -/
  powered : Bool := false
  rise : Nat := 0
  /-- BOOT waits no more for it: not ACTIVE 1 s after the rise (R26). -/
  late : Bool := false
  /-- 0 idle, 1 reconcile runs, 2 reconciled, 3 EMIT_ON sent, 4 content, 5 held after three failures, 6 held by the
  TILE reaction, 7 waits for a retry, 8 waits for FW_READY or the self-test (Table 19.5). -/
  mode : Nat := 0
  /-- 0 none, 1 acknowledged, 2 failed (R26, R314). -/
  recon : Nat := 0
  tries : Nat := 0
  /-- Cause of PANEL_POWER (Table 12.13). -/
  cause : Nat := 1
  wasActive : Bool := false
  /-- EMIT_ON has been acknowledged, the first content has not begun. -/
  firstDue : Bool := false
  l0 : Int := 0
  l1 : Int := 0
  /-- Inversion mode driven. -/
  inv : Option Nat := none
  drive : Option Drive := none
  /-- SF of the last SUBFRAME_START sent, and its header word. -/
  lastWord : Option Nat := none
  seen : Bool := false
  /-- Expected FM of each steering state, none while unchecked: index K. -/
  exp : List (Option Nat) := [none, none, none, none]
  /-- Recent drives a STATUS may name. -/
  recent : List Drive := []
  /-- XOR of hb over the rows sent whole in the present subframe, and per block of image 0. -/
  fmRun : Nat := 0
  /-- hb of every block of stored image 0, once tracked (R321). -/
  img : Option (List Nat) := none
  /-- 0 none, 1 waits for its last SUBFRAME_START, 2 no SUBFRAME_START goes to it (R309, R316, R317). -/
  stop : Nat := 0
  /-- A power-off runs; 1 by R316, 2 by R317. -/
  off : Nat := 0
  lumRaised : Bool := false
  /-- A TILE_POWER on came while the power-off runs: it powers up at its end. -/
  again : Bool := false
  /-- The present generator subframe goes to the tile with content: no HOLD with MODE 1 covers it. -/
  showSf : Bool := false
  /-- hb of the blocks of image 0 sent for a host's entry to PARASOL (R321). -/
  imgRun : List Nat := []
  /-- In a visit: 0 none, 1 the port wakes, 2 its first STATUS is awaited, 3 that of the SUBFRAME_START sent (R322). -/
  visit : Nat := 0
  /-- The SF of the SUBFRAME_START that a visit or the entry sent, and its frame. -/
  visitSf : Nat := 0
  visitFrame : Nat := 0
  /-- The counters at the last STATUS before the rows of a visit: a rise fails them (R325). -/
  visitRise : Bool := false
  deriving DecidableEq, Repr

/-- A region update (R324 to R326). -/
structure Region where
  region : Nat
  job : Nat
  tile : Nat
  code : Nat
  x : Nat
  y : Nat
  w : Nat
  h : Nat
  src : Nat
  srcLen : Nat
  /-- Rows staged: blocks as numbers and RCRC; none before staging ends. -/
  rows : Option (List (List Nat × Nat)) := none
  next : Nat := 0
  /-- Rows sent in the visit that runs or was last. -/
  sent : Nat := 0
  fails : Nat := 0
  started : Bool := false
  /-- A newer update of the region was accepted; it stops after the visit in progress. -/
  superseded : Bool := false
  deriving DecidableEq, Repr

/-- Panel drive. -/
structure Panel where
  tiles : List TileDrive := List.replicate 16 {}
  gain : GainMap := {}
  /-- TB0 in ns of the last swap. -/
  swapAt : Nat := 0
  rebuild : Option Rebuild := none
  /-- A trigger that waits for a swap: a further rebuild follows, for this COMMIT job. -/
  rebuildNext : Option (Option Nat) := none
  /-- TB0 in ns of the next periodic rebuild's base. -/
  rebuildAt : Nat := 0
  /-- Stress sampling: period number, next cell row, P of the period. -/
  period : Nat := 0
  nextRow : Nat := 0
  stressP : Nat := 10
  cells : List CellRow := []
  /-- Counter updates held during an OBJECT_READ: object, byte offset, what is to be added (R296). -/
  heldCounts : List (Nat × Nat × Nat) := []
  lum : List Lum := []
  abl : Nat := 0x8000
  pm : Nat := 0
  fmFail : Reg := 0
  excursions : Reg := 0
  visits : Reg := 0
  visitsEntry : Nat := 0
  /-- Entry to PARASOL: 0 none, 1 a host's entry waits for its selection point, 2 rows of subframe 0 of fE, 3 the
  SUBFRAME_START is sent and POWER_CMD follows, 4 sag stage S5 waits for the next boundary (R321). -/
  enterStage : Nat := 0
  /-- fE of a host's entry. -/
  enterFrame : Reg := 0
  regions : List Region := []
  /-- TB0 in ns of the last visit. -/
  lastVisit : Nat := 0
  /-- SF of the visit under way where it sends SUBFRAME_STARTs (R322). -/
  visitTag : Option Nat := none
  deriving DecidableEq, Repr

end Sys2Proof.Machine
end

