-- ==== Sys2Proof/Machine/StPwr.lean ====
section
/-! DEFINITION. State of the power domains, the sag stages, the voltage loop, telemetry and temperature (spec/17).
Every field's default is its value at reset. -/

namespace Sys2Proof.Machine

/-- A power domain (R409, R410): 0 OFF, 1 UP, 2 ON, 3 DOWN. -/
structure Domain where
  st : Nat := 0
  failed : Bool := false
  /-- An enable waits for the start of its UP (R410). -/
  wantUp : Bool := false
  /-- The held request: true enable, false disable. -/
  held : Option Bool := none
  /-- TB0 in ns at which it entered its state (R409). -/
  since : Nat := 0
  deriving DecidableEq, Repr

/-- A telemetry reading (R417). -/
structure Rail where
  mv : Nat := 0
  cur : Nat := 0
  temp : Nat := 0
  status : Nat := 0
  /-- TB0 in ns of the reading. -/
  t : Option Nat := none
  deriving DecidableEq, Repr

/-- A pace monitor's site: the last readings, newest first, at most 4 (R412). -/
structure Site where
  vcore : List Nat := [750]
  pace : List Nat := [0x4000]
  deriving DecidableEq, Repr

/-- A die sensor (R418). -/
structure Sensor where
  t : Int := 25
  excluded : Bool := false
  /-- Consecutive samples that differed from the neighbours. -/
  diff : Nat := 0
  /-- The last sample read 120 °C or more (R421). -/
  hot : Bool := false
  deriving DecidableEq, Repr

/-- Power and thermal state. -/
structure Pwr where
  /-- TB0 in ns of the last start of an UP (R410). -/
  lastUp : Option Nat := none
  /-- Domains PD01 to PD50. -/
  domains : List Domain := (List.range 50).map (fun i => { st := if i < 4 then 2 else 0 : Domain })
  sites : List Site := List.replicate 48 {}
  /-- Sag stage 0 to 6, the stage input and its monitor. -/
  stage : Nat := 0
  input : Nat := 750
  inputMon : Nat := 0
  /-- TB0 in ns of the last sample, and of the first of the samples without a break at or above the falling level (R413). -/
  sagAt : Nat := 0
  above : Option Nat := none
  warnLow : Bool := false
  sagRises : Reg := 0
  warnFalls : Reg := 0
  throttleMs : Reg := 0
  pmbErrors : Reg := 0
  /-- v of R415 in mV, READ_VOUT, READ_IOUT. -/
  v : Nat := 750
  vRead : Nat := 750
  iout : Nat := 0
  frozen : Bool := false
  /-- TB0 in ns of the last period of the loop or retry, of the last telemetry, of the last samples of the die sensors and of the
  last temperature corrections (R415 to R418, R422). -/
  avsAt : Nat := 0
  teleAt : Nat := 0
  thermAt : Nat := 0
  compAt : Nat := 0
  rails : List Rail := List.replicate 8 {}
  sensors : List Sensor := List.replicate 32 {}
  level : Nat := 0
  tmax : Int := 25
  tsource : Nat := 0
  warnings : Reg := 0
  throttles : Reg := 0
  corrections : Reg := 0
  /-- THERMTRIP_N is driven low (R421). -/
  tripLow : Bool := false
  deriving DecidableEq, Repr

end Sys2Proof.Machine
end

