-- ==== Sys2Proof/Machine/StSaf.lean ====
section
/-! DEFINITION. State of functional safety, the redundant pair, start-up, self-test and shutdown (spec/18, spec/19).
Every field's default is its value at reset. -/

namespace Sys2Proof.Machine

/-- A running SAFETY_TEST (R433): job, mechanism, TB0 in ns at its start. -/
structure SafetyTest where
  job : Nat
  mech : Nat
  t0 : Nat
  deriving DecidableEq, Repr

/-- The safety monitor core (spec/18.3 to 18.5). -/
structure Saf where
  lastSeq : Reg := 0
  lastCode : Reg := 0
  count : Reg := 0
  alive : Reg := 0
  /-- TB0 in ns at which it counted last. -/
  aliveAt : Nat := 0
  hostHb : Reg := 0
  latch : Bool := false
  hbLost : Bool := false
  /-- TB0 in ns at which the heartbeat's time last began (R434). -/
  hbAt : Nat := 0
  smcOk : Bool := false
  test : Option SafetyTest := none
  /-- PD01 drives the safety balls low after a lockstep mismatch (R428). -/
  lockstepFail : Bool := false
  /-- SAFE_STATE_N is low (R312, R450). -/
  safeStateLow : Bool := false
  /-- Bit t: tile t is held under the TILE reaction (Table 18.3). -/
  tileHeld : Nat := 0
  /-- The monitor is idle under the MON reaction. -/
  monIdle : Bool := false
  /-- The LFSR that chooses probe rays (R431). -/
  lfsr : Nat := 1
  deriving DecidableEq, Repr

/-- A switchover under way (R442): its kind, TB0 in ns at the trigger, boundary B_n+1 in ns once fixed, and stage
(0 waits for the boundary, 1 waits for the claim, 2 waits for every tile to report the new owner). -/
structure Switch where
  kind : Nat
  t0 : Nat
  toUs : Bool
  bound : Option Nat := none
  stage : Nat := 0
  /-- A YIELD asked for it: this side goes to NONE at its end. -/
  yield : Bool := false
  /-- The claim's first SUBFRAME_START is still to be sent. -/
  firstDue : Bool := true
  deriving DecidableEq, Repr

/-- The redundant pair (spec/18.6 to 18.8). -/
structure PairSt where
  /-- Role codes of Table 18.8. -/
  role : Nat := 0
  partnerRole : Nat := 0
  partnerReady : Bool := false
  partnerState : Nat := 0
  /-- Cross-link: 0 down, 1 training, 2 up. -/
  xlink : Nat := 0
  /-- The cross-link is in LOCK or beyond (R439). -/
  xlock : Bool := false
  /-- `pair.join_ms` has passed without a cross-link since the state was reached. -/
  joinExpired : Bool := false
  /-- Epoch of the present or last claim, and the highest epoch seen (R441). -/
  epoch : Nat := 0
  epochSeen : Nat := 0
  /-- D of R440, once fixed. -/
  d : Option Int := none
  digest : Nat := 0
  partnerDigest : Nat := 0
  /-- The digests agreed, or differed with PAIR_MISMATCH raised, at the last aligned selection point (R439). -/
  agree : Bool := false
  mismatch : Bool := false
  /-- TB0 in ns of the last STATE received and of the last STATE sent (section 18.7). -/
  stateAt : Nat := 0
  sentAt : Nat := 0
  /-- TB0 in ns since when the side is in BLANKET, SERVICE or REDUCED without a cross-link (Table 18.9), of the last STATUS that
  showed a newer drive (R445), and since when the STANDBY's state ranks above the owner's (Table 18.11). -/
  aloneAt : Nat := 0
  advancedAt : Nat := 0
  rankAt : Option Nat := none
  switchovers : Reg := 0
  gridErr : Int := 0
  yielded : Bool := false
  /-- `pair.prefer` at the join: whether this side is preferred. -/
  switch : Option Switch := none
  /-- This side was READY at the last check (R436). -/
  ready : Bool := false
  /-- FRAME and SF of the drive in flight that the last LEDGER named, and whether it was settled (R447). -/
  ledgerFrame : Nat := 0
  ledgerSf : Nat := 0
  ledgerSettled : Bool := true
  deriving DecidableEq, Repr

/-- A domain's self-test result (R464, Table 19.12): result 0 not tested, 1 PASS, 2 FAIL, 3 INCOMPLETE, 4 CONDITIONS. -/
structure DomResult where
  d : Nat
  result : Nat := 0
  cause : Nat := 0
  sig : Nat := 0
  count : Nat := 0
  full : Nat := 0
  deriving DecidableEq, Repr

/-- Training results of a channel at FSP0 and FSP1, held in a record (R467). -/
structure TrainRec where
  m0 : Margins
  m1 : Margins
  deriving DecidableEq, Repr

/-- A self-test record (R467). -/
structure Record where
  seq : Reg
  result : Nat
  occasion : Nat
  quickDays : Nat
  fw : Reg
  aon : Nat
  clkMin : Nat := 0
  clkMax : Nat := 0
  vMin : Nat := 0
  vMax : Nat := 0
  duration : Nat := 0
  doms : List DomResult
  train : List TrainRec := []
  deriving DecidableEq, Repr

/-- A self-test run (R462 to R466): occasion 1 shutdown, 2 full start; index of its phase in the occasion's order. -/
structure SelfTest where
  occasion : Nat
  phase : Nat := 0
  /-- Domains of the present phase whose result is not final. -/
  running : List Nat := []
  /-- The sector the run writes: false A, true B. -/
  sectorB : Bool
  /-- Header and training results are programmed (R467). -/
  header : Bool := false
  t0 : Nat
  clkMin : Nat := 0
  clkMax : Nat := 0
  vMin : Nat := 0
  vMax : Nat := 0
  deriving DecidableEq, Repr

/-- A calibration step's report (Table 19.9): 0 not run, 1 pass, 2 fail. -/
structure CalStep where
  result : Nat := 0
  failed : BitVec 16 := 0
  count : BitVec 16 := 0
  t : Nat := 0
  deriving DecidableEq, Repr

/-- Start-up, self-test and shutdown (spec/19). -/
structure Start where
  /-- STRAP_BOOT as sampled. -/
  strapBoot : Nat := 0
  /-- PORST_N is held low. -/
  porLow : Bool := false
  /-- The AON counter in seconds, and FORCE_FULL (R456, R457). -/
  aon : Nat := 0
  forceFull : Bool := true
  /-- This start is a full start, with its cause of Table 19.10. -/
  full : Bool := true
  cause : Nat := 6
  /-- TB0 in ns at the entry to BOOT. -/
  t0 : Nat := 0
  /-- Milestones of START_PHASE raised since BOOT, bit m. -/
  milestones : Nat := 0
  /-- Synthesis start-up: 0 not begun, 1 runs, 2 finished (R141). -/
  synth : Nat := 0
  recA : Option Record := none
  recB : Option Record := none
  erasedA : Bool := true
  erasedB : Bool := true
  selftest : Option SelfTest := none
  /-- A permitted command waits for PD02 or PD04 under test (R465). -/
  service : Bool := false
  /-- Domains that a service request powered up (R465). -/
  served : List Nat := []
  cal : List CalStep := List.replicate 8 {}
  /-- Units that raised CAL_FAIL in this BOOT: step and unit. -/
  calRaised : List (Nat × Nat) := []
  /-- SHUTDOWN: reason it was entered by (Table 1.6), whether self-test is to run, and its stage: 0 powers tiles off,
  1 self-test, 2 record. -/
  shutReason : Nat := 0
  /-- TB0 in ns at the entry to SHUTDOWN. -/
  shutAt : Nat := 0
  shutTest : Bool := false
  /-- SHUTDOWN by thermal level 3: RESTART waits for 85 °C (R28). -/
  thermalLock : Bool := false
  deriving DecidableEq, Repr

end Sys2Proof.Machine
end

