-- ==== Sys2Proof/Machine/StScene.lean ====
section
/-! DEFINITION. State of scene ingest, presentation and anchor decoding (spec/03, spec/04).  Every field's default is its
value at reset. -/

namespace Sys2Proof.Machine

/-- The camera in force of an anchor (R76). -/
structure CamEnt where
  n : Nat
  cam : AnchorCam
  deriving DecidableEq, Repr

/-- The layer table in force of an anchor (R77). -/
structure TableEnt where
  n : Nat
  layers : List LayerEnt
  deriving DecidableEq, Repr

/-- A picture yielded for a frame by one of its streams. -/
structure FPic where
  anchor : Nat
  layer : Nat
  kind : Nat
  pic : YPic
  deriving DecidableEq, Repr

/-- A scene frame, queued from its FRAME_BEGIN until it is presented or dropped (R86). -/
structure SFrame where
  num : Nat
  /-- The model's own: how many frames its scene had opened before it, which tells frames of one FRAME apart (R74, R90). -/
  uid : Nat := 0
  /-- PTS in ns; none for PTS = 0 or under R94. -/
  pts : Option Nat
  same : Bool
  held : Nat
  seq : SeqParams
  closed : Bool := false
  /-- Correctly framed packets received since FRAME_BEGIN, KEEPALIVE excluded (R85). -/
  count : Nat := 0
  /-- An AU, ANCHOR_PARAMS, LAYER_TABLE or OVERLAY was accepted (R88). -/
  content : Bool := false
  /-- Streams whose AU was accepted. -/
  aus : List StreamId := []
  /-- At close: cameras, tables and overlay slots that apply, and the streams whose picture the frame expects. -/
  cams : List CamEnt := []
  tables : List TableEnt := []
  ovl : List OvlSlot := []
  expected : List StreamId := []
  pics : List FPic := []
  /-- First panel frame whose selection point falls at or after the close (R93), once that point has come. -/
  closeDue : Option Nat := none
  /-- SCENE_LATE kind 0 was raised (R96). -/
  lateRaised : Bool := false
  /-- A step left it more than 2 panel frames behind (R98). -/
  behind : Bool := false
  deriving DecidableEq, Repr

/-- A cue that has not fired (R90). -/
structure Cue where
  num : Nat
  kind : Nat
  value : Nat
  /-- TIME in ns. -/
  time : Nat
  /-- Its scene frame, by `SFrame.uid`. -/
  frame : Nat
  /-- KIND 0: 0 waits, 1 its frame is presented at the coming subframe 0, 2 its frame was dropped. -/
  due : Nat := 0
  deriving DecidableEq, Repr

/-- A carrier under ingest: a SCENE_SUBMIT buffer or a rebuilt unit (R71, R103). -/
structure Carrier where
  len : Nat
  off : Nat := 0
  job : Option Nat := none
  read : Nat := 0
  discarded : Nat := 0
  lastFrame : Nat := 0
  deriving DecidableEq, Repr

/-- What a scene shows (R88, R96). -/
structure Shown where
  num : Nat
  seq : SeqParams
  cams : List CamEnt
  tables : List TableEnt
  ovl : List OvlSlot
  pics : List FPic
  deriving DecidableEq, Repr

/-- A scene. -/
structure Scene where
  slot : Nat
  obj : Nat
  source : Nat
  maxAnchors : Nat
  maxLayers : Nat
  maxOvl : Nat
  maxW : Nat
  maxH : Nat
  ovlW : Nat
  ovlH : Nat
  /-- 0 open, 1 draining, 2 closed. -/
  state : Nat := 0
  drainJob : Option Nat := none
  seq : Option SeqParams := none
  /-- FRAME that the first FRAME_BEGIN of a new sequence must carry (R81). -/
  first : Option Nat := none
  /-- L of R81. -/
  last : Nat := 0
  cams : List CamEnt := []
  tables : List TableEnt := []
  ovl : List OvlSlot := List.replicate 7 {}
  /-- The model's own: frames opened, which numbers them (`SFrame.uid`). -/
  opened : Nat := 0
  /-- Queued frames, oldest first; an open frame is the last of them. -/
  queue : List SFrame := []
  /-- FRAME of a dropped frame whose packets may still arrive (R80, R101). -/
  dead : Option Nat := none
  /-- Anchors whose LAYER_TABLE has changed LAYERS, WIDTH, HEIGHT or DEPTH_BITS in the open frame (R79). -/
  resized : List Nat := []
  /-- A step has been made of the base that TB3 is derived from since the last selection point (R98). -/
  stepped : Bool := false
  shown : Option Shown := none
  generation : Reg := 0
  changed : Bool := false
  cues : List Cue := []
  /-- A packet has been received; SCENE_SILENT was raised and not ended (R92). -/
  heard : Bool := false
  silent : Bool := false
  lastPkt : Nat := 0
  /-- FRAME of the last correctly framed packet. -/
  lastNum : Nat := 0
  carriers : List Carrier := []
  /-- Packets that wait for room in the queue (R86). -/
  waiting : List Pkt := []
  stale : Nat := 0
  staleRaised : Bool := false
  timeRaised : Bool := false
  /-- SCENE_DROP and DECODE_CONCEAL events raised in this panel frame. -/
  drops : Nat := 0
  conceals : Nat := 0
  received : Reg := 0
  discarded : Reg := 0
  late : Reg := 0
  dropped : Reg := 0
  incomplete : Reg := 0
  concealed : Reg := 0
  deriving DecidableEq, Repr

/-- The scenes, at most 4. -/
structure Ingest where
  scenes : List Scene := []
  /-- The model's own: the slot whose waiting packet is being taken now, or none. -/
  resuming : Option Nat := none
  /-- Panel frame of the previous selection point (R96). -/
  prevSel : Option Nat := none
  /-- First panel frame of the present run of pairs (R93, R273). -/
  pairFrom : Option Nat := none
  deriving DecidableEq, Repr

/-! ### Anchor decoding -/

/-- An entry of a stream's queue: 0 access unit, 1 missing access unit, 2 held repeat, 3 flush of a new sequence, 4 the
anchor or layer takes no part any more. -/
structure AuItem where
  kind : Nat
  frame : Nat
  /-- The sequence and the layer that apply. -/
  seq : SeqParams
  ent : Option LayerEnt
  len : Nat := 0
  /-- The anchor's LAYER_TABLE changed in this frame as R79 says. -/
  resized : Bool := false
  deriving DecidableEq, Repr

/-- A picture in the decoded picture buffer, named by its picture order count. -/
structure DpbPic where
  poc : Int
  frame : Nat
  concealed : Bool
  /-- A RASL picture of R109, or concealed only by inheritance from one (R125). -/
  benign : Bool
  /-- The stream received it; a substitute in the place of one that it never received is none (R122). -/
  received : Bool := true
  /-- Its samples at the coded size, with the parameter sets they were coded under. -/
  sets : SeqSets
  pic : Pic
  /-- CTUs of a depth picture that hold a substitute's depth (R121, R124). -/
  far : List Nat := []
  deriving DecidableEq, Repr

/-- An access unit that decodes. -/
structure RunAu where
  item : AuItem
  info : AuInfo
  /-- Its active parameter sets; none if they are unusable (R124). -/
  sets : Option SeqSets
  /-- TB0 in ns, and the placement epoch, at its start. -/
  t0 : Nat
  epoch : Nat := 0
  deriving DecidableEq, Repr

/-- A decode stream (Table 4.2). -/
structure DStream where
  id : StreamId
  state : Nat := 1
  team : List Nat := []
  split : Nat := 0
  /-- Wanted team size of the last formation. -/
  want : Nat := 0
  /-- The parameter sets for which the team was formed last (R113). -/
  formedFor : Option SeqSets := none
  /-- The team is one core shared in turn with other streams (R114). -/
  shared : Bool := false
  /-- Parameter sets received, by number (R84, R123). -/
  psets : List (Nat × SeqSets) := []
  /-- Bytes of its picture buffers, sized at each RAP for the active parameter sets (R129). -/
  buffers : Nat := 0
  /-- The team lost a core and is formed again at the next access unit (R117). -/
  reform : Bool := false
  reason : Nat := 0
  decoded : Reg := 0
  concealed : Reg := 0
  frame : Reg := 0
  /-- Pictures concealed since the stream left CLEAN. -/
  since : Nat := 0
  queue : List AuItem := []
  running : Option RunAu := none
  /-- The access unit queued at its core, behind another stream's (Table 1.8, R114). -/
  queued : Option RunAu := none
  /-- The last picture yielded. -/
  prev : Option YPic := none
  dpb : List DpbPic := []
  /-- Bit depth of the last texture picture decoded since the scene was opened (R121). -/
  bits : Option Nat := none
  /-- CTUs of a picture under the parameter sets met last. -/
  ctus : Nat := 0
  /-- The last random-access point brought the stream back to CLEAN (R109). -/
  recovered : Bool := false
  /-- Buffers were lost with a channel, or could not be allotted: the reason of its concealed pictures (R128, R129). -/
  waitReason : Nat := 4
  /-- The table changed: pictures are concealed until a random-access point (R79). -/
  needRap : Bool := false
  /-- The GDR that began has not reached its recovery point. -/
  gdr : Bool := false
  deriving DecidableEq, Repr

/-- A decode core. -/
structure DCore where
  failed : Bool := false
  disabled : Bool := false
  /-- TB0 in ns of its resets, newest first. -/
  resets : List Nat := []
  deriving DecidableEq, Repr

/-- Decode state. -/
structure Decode where
  streams : List DStream := []
  cores : List DCore := List.replicate 24 {}
  deriving DecidableEq, Repr

end Sys2Proof.Machine
end

