-- ==== Sys2Proof/Machine/StSynth.lean ====
section
/-! DEFINITION. State of geometry in force, synthesis, row assemblers and placement of work and data (spec/05 to
spec/07).  Every field's default is its value at reset. -/

namespace Sys2Proof.Machine

/-- A ray tile of a frame (R182): its tile, steering state, band and column of 64 pixels. -/
structure RTile where
  frame : Nat
  tile : Nat
  sf : Nat
  by_ : Nat
  tx : Nat
  /-- Forecast cost in units of 2^-16 ns (R182). -/
  cost : Nat := 0
  /-- TB0 in ns at which the cluster started it (R159). -/
  t0 : Nat := 0
  started : Bool := false
  /-- Placement epoch in which it started (R178). -/
  epoch : Nat := 0
  /-- It is synthesised at step 3 (R164). -/
  esc : Bool := false
  deriving DecidableEq, Repr

/-- A ray cluster: its list of ray tiles to dispatch, and those dispatched, the one under synthesis first. -/
structure Cluster where
  failed : Bool := false
  disabled : Bool := false
  resets : List Nat := []
  list : List RTile := []
  disp : List RTile := []
  deriving DecidableEq, Repr

/-- A measured memory wait of a ray tile (R182). -/
structure WaitRec where
  tile : Nat
  sf : Nat
  by_ : Nat
  tx : Nat
  ns : Nat
  deriving DecidableEq, Repr

/-- Rays retired of a subframe, and when (R164). -/
structure RetRec where
  frame : Nat
  sf : Nat
  ns : Nat
  rays : Nat
  deriving DecidableEq, Repr

/-- The words of one ray tile, row by row. -/
structure TileWords where
  tx : Nat
  words : List RayWord
  deriving DecidableEq, Repr

/-- A row assembler's band of 16 pixel rows of one tile (Table 1.8). -/
structure Band where
  frame : Nat
  tile : Nat
  sf : Nat
  by_ : Nat
  /-- Ray tiles of the band; 0 in a Blanket frame. -/
  need : Nat
  got : List TileWords := []
  deriving DecidableEq, Repr

/-- A tile of the layout that a frame uses (R138, R156): grid position, size, lens grid. -/
structure LayTile where
  tile : Nat
  col : Nat
  row : Nat
  w : Nat
  h : Nat
  nu : Nat
  nw : Nat
  deriving DecidableEq, Repr

/-- What the selection point of a panel frame fixes (R275, R197): every input of the frame's ray words and codes. -/
structure FrameFix where
  frame : Nat
  geom : Option Geom
  /-- A Blanket frame (R156). -/
  blanket : Bool
  params : SynthParams
  /-- The bound scene has presented a frame, and the anchors that take part in it. -/
  scene : Bool
  anchors : List AnchorIn
  layers : List LayerFix
  base : Rgb
  byDepth : Bool
  dither : Nat
  blank : BlanketFrame
  layout : List LayTile
  step : Nat
  /-- Steering states synthesised (Table 6.4), and all of them. -/
  states : List Nat
  sCount : Nat
  /-- Frame rate of the timing that the frame runs in. -/
  fps : Nat
  generation : Nat
  changed : Bool
  lantern : Bool
  code : Nat
  peak : Nat
  lut : Option (List Byte)
  gain : GainMap
  /-- abl of the frame, once its first band is corrected or its Tf has come (R303). -/
  abl : Option Nat := none
  /-- Changed flag clear; step, map and LUT as in the previous frame (R304), and that frame. -/
  steady : Bool
  prevFrame : Option Nat
  /-- Values of `comp.tap.0` to `comp.tap.3`. -/
  taps : List Nat
  /-- The frame is the first of a pair (R273). -/
  paired : Bool
  /-- Frame forecast and window at the step in ns (Table 6.8), and the window's exact parts. -/
  forecast : Nat
  window : Frac
  deriving DecidableEq, Repr

/-- Synthesis. -/
structure Synth where
  clusters : List Cluster := List.replicate 48 {}
  step : Nat := 0
  cause : Nat := 0
  changeFrame : Reg := 0
  degraded : Reg := 0
  escalated : Reg := 0
  resets : Reg := 0
  waitMax : Reg := 0
  /-- Steps that fitted their window in the last 255 frames, newest first, as masks (R162). -/
  fits : List Nat := []
  waits : List WaitRec := []
  /-- The frame whose subframes are sent, and the frame under synthesis. -/
  cur : Option FrameFix := none
  next : Option FrameFix := none
  bands : List Band := []
  /-- Bands that have not begun, in scan order. -/
  todo : List Band := []
  /-- Checks of R164 made in the present frame, three for each synthesised subframe; what has retired. -/
  checks : Nat := 0
  retired : List RetRec := []
  /-- Ray tiles escalated in the present frame (R164). -/
  escTiles : List RTile := []
  /-- SYNTH_SOURCE was raised in this episode (R156), for this source and surface. -/
  sourceRaised : Bool := false
  /-- ARG of the SYNTH_SOURCE that the selected frame raises as it begins. -/
  sourceDue : Option Nat := none
  sourceKey : Nat × Nat := (0, 0)
  deriving DecidableEq, Repr

/-- A run of mirror restoration (R189). -/
structure Restoration where
  t0 : Nat
  latest : Nat
  restored : Nat := 0
  deriving DecidableEq, Repr

/-- Placement. -/
structure Place where
  epoch : Reg := 0
  /-- TB0 in ns of the last epoch boundary (R178). -/
  epochAt : Nat := 0
  /-- TB0 in ns from which on the migration traffic serves the copies under way (R177). -/
  copyEnd : Nat := 0
  /-- The channel at which the last object started (R172). -/
  rr : Nat := 31
  restoration : Option Restoration := none
  migrated : Reg := 0
  steals : Reg := 0
  evicted : Reg := 0
  /-- PLACE_CAPACITY was raised and FREE_MIB has not risen again (R194). -/
  capLow : Bool := false
  mirrorShort : Bool := false
  /-- Baskets of firmware and of the placer's own tables, which lie outside the capacity (R168): `item` 20. -/
  tables : List Basket := []
  /-- Baskets that no object holds: tap surfaces (R210), the effective gain map (R301), region staging (R324), encoder
  buffers (R353).  `item` says which: 10 to 12 tap surfaces, 13 gain map, 14 staging, 15 and 16 encoder buffers, 17 staging of a
  region update (`a` its job), 18 reassembly of a flow (`a` its number). -/
  reserved : List Basket := []
  /-- Baskets of destroyed objects whose locations wait for older operations to retire (R181), by object. -/
  leaving : List (Nat × Basket) := []
  /-- Channels FAILED whose mark the placer has yet to act on (R188). -/
  marked : List Nat := []
  /-- Scenes whose stream reservation is cut (R190), by object ID, latest first. -/
  cut : List Nat := []
  deriving DecidableEq, Repr

end Sys2Proof.Machine
end

