-- ==== Sys2Proof/Machine/StTim.lean ====
section
/-! DEFINITION. State of the panel and monitor timing generators and of scan-out (spec/11).  Every field's default is
its value at reset. -/

namespace Sys2Proof.Machine

/-- A compressed block row in the scan-out buffer (R276). -/
structure RowEnt where
  frame : Nat
  sf : Nat
  row : Nat
  /-- RCRC of the reconstruction (R222). -/
  rcrc : Nat
  /-- cmp.panel_code of its frame, and its blocks. -/
  code : Nat
  blks : List Nat
  deriving DecidableEq, Repr

/-- A signature of R283: tile, steering state, frame parity free. -/
structure Sig where
  k : Nat
  sig : Nat
  deriving DecidableEq, Repr

/-- Scan-out of one tile: its share of the buffer and what R277, R278, R283 and R284 keep for it. -/
structure TileScan where
  tile : Nat
  /-- Rows in the share, in scan order (R276). -/
  share : List RowEnt := []
  /-- RCRC values of the rows sent in the present generator subframe, in row order (R283). -/
  sent : List Nat := []
  /-- The present subframe is covered by HOLD (R277) or was cut (R278). -/
  held : Bool := false
  cut : Bool := false
  /-- SCAN_UNDERRUN was raised in this panel frame (R278). -/
  underrunRaised : Bool := false
  /-- Reference signatures, one for each steering state (R284). -/
  refs : List Sig := []
  /-- A check of the present frame failed, one passed; consecutive changed frames that failed (R284). -/
  failedNow : Bool := false
  passedNow : Bool := false
  fails : Nat := 0
  deriving DecidableEq, Repr

/-- The last subframe of a timing that has ended, whose SUBFRAME_START the first boundary of the new one sends (R270). -/
structure LastSub where
  frame : Nat
  sf : Nat
  tag : Nat
  sCount : Nat
  dark : Nat
  deriving DecidableEq, Repr

/-- A timing mode change under way (R281, Table 11.2). -/
structure ModeChange where
  /-- The frame at which it takes effect. -/
  f0 : Reg
  /-- 0 waits for Tf of f0; 1 HOLD sent; 2 dark, SUBFRAME_START of (f0, 0) sent; 3 neutral pair sent; 4 pair
  acknowledged, link steps run or are not needed. -/
  stage : Nat := 0
  /-- Index of the boundary that is Tf of f0 in the old timing, and the tag of (f0, 0). -/
  k0 : Nat := 0
  tag0 : Nat := 0
  /-- It is the pending COMMIT's; else a re-phase, which keeps the mode (R268). -/
  commit : Bool := true
  /-- `link.rate` changes. -/
  rate : Bool := false
  /-- TB0 in ns of Tn, once the selection point of the first frame of the new timing has fixed it. -/
  tn : Option Nat := none
  /-- Bit t: EMIT_OFF was sent to tile t. -/
  emitOff : Nat := 0
  /-- Bit t: a MASK_CMD or POWER_CMD of the sequence awaits tile t's ACK. -/
  awaiting : Nat := 0
  deriving DecidableEq, Repr

/-- The panel generator, scan-out and the monitor generator. -/
structure Tim where
  /-- The grid runs. -/
  on : Bool := false
  /-- The timing in force: frame rate, steering states, DARK_US. -/
  fps : Nat := 30
  sCount : Nat := 1
  dark : Nat := 300
  /-- TB0 in ns at boundary 0 of the timing in force (R267). -/
  t0 : Nat := 0
  /-- The slew of a locked grid (R268): from boundary slewK on, the boundaries of one frame move by slew ns in all. -/
  slew : Int := 0
  slewK : Nat := 0
  /-- Index of the next boundary. -/
  nextK : Nat := 0
  /-- Panel frame number (R269) and generator subframe of the present subframe. -/
  frame : Reg := 0
  sf : Nat := 0
  /-- Tag of the present subframe: the low 8 bits of the subframe count (Table 10.4). -/
  tag : Nat := 0
  /-- A subframe of this timing has begun. -/
  begun : Bool := false
  /-- The number the next frame takes. -/
  nextFrame : Reg := 0
  /-- A STATE other than the last repeat: 0 free-running, 1 UNLOCKED, 2 LOCKED (Table 11.6). -/
  lock : Nat := 0
  phaseErr : Int := 0
  /-- TB0 since when the phase error has been within 1 µs. -/
  inSince : Option Nat := none
  change : Option ModeChange := none
  lastSub : Option LastSub := none
  /-- The grid restarts from PARASOL: its boundary 0 sends the dark subframe of R328. -/
  wakeFirst : Bool := false
  /-- A re-phase is wanted (R268). -/
  rephaseDue : Bool := false
  /-- Frame whose selection point is past and whose Tf is to come. -/
  selected : Option Reg := none
  /-- TB0 in ns at Tf of the frame whose subframes are sent; while frames are paired, of the first of the pair. -/
  curTf : Nat := 0
  /-- R273: frames are paired, and the present frame is the second of a pair. -/
  pairing : Bool := false
  second : Bool := false
  /-- Smallest tolerance of the present and of the last frame, and the last report, in ns (R279). -/
  ltrRun : Nat := 0xFFFFFFFF
  ltrMin : Reg := 0
  ltrNow : Nat := 0
  holds : Reg := 0
  underrun : Reg := 0
  freeze : Reg := 0
  scan : List TileScan := []
  /-- The unsent rows of the present subframe were discarded (R278); its keep-alives were sent (R272). -/
  cutDone : Bool := false
  keepDone : Bool := false
  /-- TB0 in ns of the last latency-tolerance report. -/
  ltrAt : Nat := 0
  /-- The monitor generator: 0 off, 1 running, 2 stopped by sag stage (Table 11.6). -/
  monState : Nat := 0
  monFrame : Reg := 0
  monBegun : Bool := false
  /-- TB0 in ns of the start of the present monitor frame, of the generator's start before the first. -/
  monT0 : Nat := 0
  deriving DecidableEq, Repr

end Sys2Proof.Machine
end

