-- ==== Sys2Proof/Machine/StTime.lean ====
section
/-! DEFINITION. State of the time bases, their read ports, PTP, compares, pulses, Ethernet ports and flows (spec/16).
Time values count units of 2^-16 ns.  Every field's default is its value at reset. -/

namespace Sys2Proof.Machine

/-- A disciplined time base, TB1 or TB2 (Table 16.2, R385 to R391). -/
structure TimeBase where
  running : Bool := false
  /-- Time in units of 2^-16 ns. -/
  v : Nat := 0
  epoch : BitVec 16 := 0
  locked : Bool := false
  holdover : Bool := false
  /-- PTP portState by the enumeration of IEEE 1588, 0 while PTP is off. -/
  portState : Nat := 0
  /-- Rate of the base against TB0, in parts per 10^9 (R387). -/
  rate : Int := 0
  /-- The last measured offset from the master, ns. -/
  offset : Int := 0
  gm : Word64 := 0
  /-- Consecutive Sync messages with an offset within 1 µs (R391). -/
  within : Nat := 0
  /-- TB0 in ns of the last Sync and of the last Delay_Req that was sent. -/
  lastSync : Option Nat := none
  lastReq : Option Nat := none
  deriving DecidableEq, Repr

/-- TB3 (R386): its source and offset in force, the private counter of host mode, its step epoch. -/
structure Tb3 where
  source : Nat := 0
  /-- Offset in force, ns. -/
  offset : Int := 0
  hostRunning : Bool := false
  hostV : Nat := 0
  epoch : BitVec 16 := 0
  deriving DecidableEq, Repr

/-- A compare slot (R393): armed for a time of a base, in ns. -/
structure Compare where
  armed : Bool := false
  base : Nat := 0
  t : Nat := 0
  deriving DecidableEq, Repr

/-- Latched registers of a base (Tables 16.7 to 16.10). -/
structure Latch where
  sec : Nat := 0
  epoch : BitVec 16 := 0
  ns : Nat := 0
  frac : Nat := 0
  deriving DecidableEq, Repr

/-- A transmit timestamp (Table 16.13 and the head registers). -/
structure TsEntry where
  domain : Nat
  type : Nat
  base : Nat
  seqId : Nat
  sec : Nat
  epoch : BitVec 16
  ns : Nat
  deriving DecidableEq, Repr

/-- A transmit-timestamp queue (R399). -/
structure TsQueue where
  entries : List TsEntry := []
  overflow : Bool := false
  drops : Reg := 0
  deriving DecidableEq, Repr

/-- An Ethernet port (R400). -/
structure NetPort where
  up : Bool := false
  rxFrames : Reg := 0
  rxErrors : Reg := 0
  txFrames : Reg := 0
  rxDropped : Reg := 0
  txDropped : Reg := 0
  fecCorr : Reg := 0
  fecUncorr : Reg := 0
  /-- Multicast groups joined by IGMPv3, with the source or 0 (R401). -/
  groups : List (Nat × Nat) := []
  deriving DecidableEq, Repr

/-- A run of bytes of a unit: offset and length. -/
structure Frag where
  off : Nat
  len : Nat
  deriving DecidableEq, Repr

/-- A unit under rebuild (R404). -/
structure NetUnit where
  num : Nat
  /-- TB0 in ns of its first datagram. -/
  t0 : Nat := 0
  frags : List Frag := []
  /-- The end that the LAST fragment set. -/
  endAt : Option Nat := none
  /-- It was abandoned while an earlier unit was still awaited. -/
  gone : Bool := false
  deriving DecidableEq, Repr

/-- A run of missing DSEQ values and how many later datagrams have arrived (R405). -/
structure MissingSeq where
  dseq : Nat
  n : Nat
  later : Nat
  deriving DecidableEq, Repr

/-- A flow (R401 to R407): op 1 receive, 2 transmit. -/
structure Flow where
  n : Nat
  op : Nat
  port : Nat
  dscp : Nat
  remoteIp : Nat
  remotePort : Nat
  localPort : Nat
  group : Nat
  unitMax : Nat
  /-- Object ID of the scene a receive flow feeds. -/
  scene : Nat
  /-- The next unit to deliver, once a datagram has set it. -/
  next : Option Nat := none
  units : List NetUnit := []
  /-- The next DSEQ expected, once a datagram has set it, and the missing ones. -/
  dseq : Option Nat := none
  missing : List MissingSeq := []
  /-- Datagrams counted lost and not yet reported, units abandoned and not yet reported, the first of them and cause. -/
  lost : Nat := 0
  abandoned : Nat := 0
  firstAbandoned : Nat := 0
  cause : Nat := 0
  /-- NET_LOSS was raised in this panel frame. -/
  raised : Bool := false
  /-- Datagrams discarded as malformed or late. -/
  malformed : Reg := 0
  late : Reg := 0
  deriving DecidableEq, Repr

/-- Time and network state. -/
structure TimeSt where
  /-- TB0 in units of 2^-16 ns; 0 at PORST_N release (R384). -/
  tb0 : Nat := 0
  tb1 : TimeBase := {}
  tb2 : TimeBase := {}
  tb3 : Tb3 := {}
  compares : List Compare := List.replicate 8 {}
  latches : List Latch := List.replicate 4 {}
  tsq : List TsQueue := List.replicate 4 {}
  /-- TB0 in ns of the last rising edge of PPS_OUT (it is high for the width of `time.pps_out` from then on), and of the last edge of PPS_IN accepted (R395, R396). -/
  ppsOutLast : Option Nat := none
  ppsInLast : Option Nat := none
  ports : List NetPort := List.replicate 4 {}
  flows : List Flow := []
  /-- The fused base MAC address (Table 16.15). -/
  mac : Nat := 0
  deriving DecidableEq, Repr

end Sys2Proof.Machine
end

