-- ==== Sys2Proof/Machine/State.lean ====
section
/-! DEFINITION. The state of the block: plain data, every piece of state the spec gives it, the model's own fields
(`free`, `out`), and the queue of commands that wait. -/

namespace Sys2Proof.Machine

/-- The whole state. -/
structure State where
  dev : Dev := {}
  ev : Collector := {}
  host : HostIf := {}
  par : Params := {}
  objs : Objects := {}
  fw : Firmware := {}
  tim : Tim := {}
  time : TimeSt := {}
  mem : Mem := {}
  pwr : Pwr := {}
  saf : Saf := {}
  pair : PairSt := {}
  start : Start := {}
  direct : Direct := {}
  enc : Enc := {}
  ingest : Ingest := {}
  dec : Decode := {}
  synth : Synth := {}
  place : Place := {}
  link : Link := {}
  panel : Panel := {}
  comp : Comp := {}
  /-- The model's own: how many free values have been taken (DESIGN CHOICE, safe: log entry 3). -/
  free : Nat := 0
  /-- The model's own: what the block has sent, newest first (DESIGN CHOICE, safe: log entry 7). -/
  out : List Out := []
  /-- The commands that wait, the front first. -/
  pending : List Instr := []
  deriving DecidableEq, Repr

/-- The machine right after reset: every field at the value the spec states for reset, else at the value the log
names. (DESIGN CHOICE, unsafe: log entry 1; PRESUMED, unsafe: log entry 2; DESIGN CHOICE, unsafe: log entry 68.) -/
def State.reset : State := {}

/-- The reasons a step could stop with a fault: none, since no command of the block ends in one. -/
inductive Fault where
  /-- Raised by no command: every row of the table has an effect or changes nothing.  Safe. -/
  | none
  deriving DecidableEq, Repr

/-- The reasons a command is refused. -/
inductive Refusal where
  /-- Raised by `exec` for a row that has no meaning yet; safe, since nothing is claimed of it. -/
  | notModelled (mnemonic : String)
  deriving DecidableEq, Repr

end Sys2Proof.Machine
end

