-- ==== Sys2Proof/Machine/Ops.lean ====
section
/-! DEFINITION. The shared operations: time, parameters in force, objects, raising an event, interrupts, responses,
asynchronous jobs, and the one wrapper that fetches and checks a host command (R54). -/

namespace Sys2Proof.Machine

/-! ### Time -/

/-- TB0 in whole ns. -/
def State.now (s : State) : Nat := s.time.tb0 / 65536

/-- A time in ns as the TIME80 of Table 16.1. -/
def time80 (ns : Nat) : Nat := (ns / 1000000000) % 2 ^ 48 * 2 ^ 32 + ns % 1000000000

/-- A TIME80 as ns; none where its nanosecond field is out of range (R382). -/
def time80Ns (t : Nat) : Option Nat :=
  if bits t 31 0 < 1000000000 then some (bits t 79 32 * 1000000000 + bits t 31 0) else none

/-- SHORT40 of a time in ns (Table 16.1). -/
def short40 (ns : Nat) : Nat := ns % 2 ^ 40

/-- A base advanced by n ns of TB0 at its own rate (R387). -/
def TimeBase.advance (b : TimeBase) (n : Nat) : TimeBase :=
  if b.running then { b with v := (((b.v + n * 65536 : Nat) : Int) + (n * 65536 : Nat) * b.rate / 1000000000).toNat } else b

/-- n ns pass on every running base. -/
def State.advance (s : State) (n : Nat) : State :=
  { s with time := { s.time with
      tb0 := s.time.tb0 + n * 65536
      tb1 := s.time.tb1.advance n
      tb2 := s.time.tb2.advance n
      tb3 := { s.time.tb3 with hostV := if s.time.tb3.hostRunning then s.time.tb3.hostV + n * 65536 else s.time.tb3.hostV } } }

/-- An event whose time the spec fixes comes about at that time: TB0 moves up to it (log entry 9).
(DESIGN CHOICE, unsafe: log entry 9.) -/
def State.advanceTo (s : State) (t : Nat) : State := s.advance (t - s.now)

/-- A base's value in units of 2^-16 ns, none while it does not run (R385, R386). -/
def State.baseV (s : State) (n : Nat) : Option Nat :=
  match n with
  | 0 => some s.time.tb0
  | 1 => if s.time.tb1.running then some s.time.tb1.v else none
  | 2 => if s.time.tb2.running then some s.time.tb2.v else none
  | 3 =>
    let src := match s.time.tb3.source with
      | 0 => some s.time.tb0
      | 1 => if s.time.tb1.running then some s.time.tb1.v else none
      | 2 => if s.time.tb2.running then some s.time.tb2.v else none
      | _ => if s.time.tb3.hostRunning then some s.time.tb3.hostV else none
    src.map (fun v => ((v : Int) + s.time.tb3.offset * 65536).toNat)
  | _ => none

/-- A base's value in ns. -/
def State.baseNs (s : State) (n : Nat) : Option Nat := (s.baseV n).map (· / 65536)

/-! ### The trace and free values -/

/-- Something the block sends. (DESIGN CHOICE, safe: log entry 7.) -/
def State.emit (s : State) (o : Out) : State := { s with out := o :: s.out }

/-- Several things the block sends, in order. (DESIGN CHOICE, safe: log entry 7.) -/
def State.emits (s : State) : List Out → State
  | [] => s
  | o :: os => (s.emit o).emits os

/-- Take one free value below n (log entry 3). (DESIGN CHOICE, safe: log entry 3.) -/
def State.takeFree (s : State) (n : Nat) : State × Nat :=
  ({ s with free := s.free + 1 }, Config.freeNat s.free % n)

/-! ### Parameters in force -/

/-- The value held for an ID in a list, if any. -/
def pfind (l : List PVal) (id : Nat) : Option Nat := (l.find? (fun p => p.id == id)).map (·.v)

/-- A list with the ID's value replaced. -/
def pput (l : List PVal) (id v : Nat) : List PVal := { id := id, v := v } :: l.filter (fun p => p.id != id)

/-- The value in force of a parameter. -/
def State.pget (s : State) (id : Nat) : Nat := (pfind s.par.vals id).getD (paramReset id)

/-- Bring a value into force. -/
def State.pset (s : State) (id v : Nat) : State := { s with par := { s.par with vals := pput s.par.vals id v } }

/-- Instrument mode is in force (R425). -/
def State.instrument (s : State) : Bool := s.pget 0x14000001 == 1

/-! ### Objects -/

def State.obj? (s : State) (id : Nat) : Option Obj := s.objs.objs.find? (fun o => o.id == id)

/-- Change the object of an ID. -/
def State.modObj (s : State) (id : Nat) (f : Obj → Obj) : State :=
  { s with objs := { s.objs with objs := s.objs.objs.map (fun o => if o.id == id then f o else o) } }

/-- The class code of an object ID (section 2.4). -/
def idClass (id : Nat) : Nat := bits id 63 56

/-- The ID of the next object of a class. -/
def State.nextId (s : State) (cls : Nat) : Nat := cls * 2 ^ 56 + s.objs.next % 2 ^ 48

/-! ### Device state -/

def DevState.code : DevState → Nat
  | .off => 0
  | .boot => 1
  | .blanket => 2
  | .service => 3
  | .reduced => 4
  | .parasol => 5
  | .safe => 6
  | .shutdown => 7

/-- BLANKET, SERVICE, REDUCED or PARASOL. -/
def DevState.run (d : DevState) : Bool := d == .blanket || d == .service || d == .reduced || d == .parasol

/-- SERVICE or REDUCED. -/
def DevState.full (d : DevState) : Bool := d == .service || d == .reduced

/-- Working channels: trained and not FAILED (Table 13.5). -/
def State.channels (s : State) : Nat := countP (fun c => c.state == 1) s.mem.chans

/-- The sag stage as rules that name S1 and S2 see it: at least S2 while throttle is set (R420). -/
def State.sagSeen (s : State) : Nat := if 2 ≤ s.pwr.level then Nat.max s.pwr.stage 2 else s.pwr.stage

/-- ARG2 of an event that holds the panel frame at [47:16]. -/
def State.arg2f (s : State) : Nat := s.tim.frame.toNat * 2 ^ 16

/-! ### Interrupts (R47) -/

/-- The message of a vector, if its MASK bit is 0 and its table entry is unmasked. -/
def State.irqMsg (s : State) (v : Nat) : State :=
  if bit s.host.irq.mask.toNat v || bit s.host.irq.msixMask.toNat v || !s.host.pcie.up then s else s.emit (.msix v)

/-- A cause sets its PEND bit; a message follows under R47. -/
def State.setPend (s : State) (v : Nat) : State :=
  let s := { s with host := { s.host with irq := { s.host.irq with status := BitVec.ofNat 64 (putBit s.host.irq.status.toNat v true) } } }
  s.irqMsg v

/-! ### Events (spec/01 section 1.6, R63, R67) -/

/-- Unread records of the event queue. -/
def EventQueue.unread (q : EventQueue) : Nat := wsub 16 q.tail.toNat q.head.toNat

/-- The queue takes records: it is enabled and holds fewer than 4,096. -/
def EventQueue.space (q : EventQueue) : Bool := q.en && decide (q.unread < 4096)

/-- COUNT of EQ_MOD, 0 acting as 1 (Table 2.33). -/
def EventQueue.need (q : EventQueue) : Nat := if q.count.toNat = 0 then 1 else q.count.toNat

/-- The moderation condition of R63. -/
def EventQueue.moderated (q : EventQueue) : Bool :=
  decide (q.need ≤ q.unread) || (decide (0 < q.unread) && (q.holdoffPassed || q.holdoff.toNat == 0))

/-- The word pair of an event record (Table 2.28). -/
def recordWords (h : HeldEvent) : List Nat :=
  [packNat [at' 127 96 h.seq.toNat, at' 95 88 h.ev.source, at' 87 80 h.ev.severity, at' 79 64 h.ev.code, at' 63 0 h.ev.arg],
   packNat [at' 127 48 (time80 h.ev.time), at' 47 0 h.ev.arg2]]

/-- Write one record to the host event queue, which has space (R63); every record written while the moderation condition
holds sends the vector's message again. (DESIGN CHOICE, unsafe: log entry 83.) -/
def State.writeRecord (s : State) (h : HeldEvent) : State :=
  let q := s.host.eq
  let s := s.emit (.record q.tail.toNat h)
  let q' := { q with tail := q.tail + 1 }
  let s := { s with host := { s.host with eq := q' } }
  if q'.moderated then s.setPend 1 else s

/-- The sequence number of the oldest record the collector holds, its own or kept in the overflow table. -/
def Collector.oldestHeld (c : Collector) : Option HeldEvent := c.held.head?

/-- The kept entry with the lowest sequence number by signed difference (R15, R36). -/
def oldestEntry : List OverflowEntry → Option OverflowEntry
  | [] => none
  | e :: es =>
    match oldestEntry es with
    | none => some e
    | some f => if after 32 e.first.seq.toNat f.first.seq.toNat then some f else some e

/-- EVENTS_COALESCED of a kept entry (Table 2.44). -/
def coalesced (e : OverflowEntry) (seq : Reg) (now : Nat) : HeldEvent :=
  { seq := seq
    ev := { source := 1, code := 7, severity := if e.worst = 4 then 4 else 3, arg := e.last.toNat * 2 ^ 32 + e.count % 2 ^ 32
            arg2 := packNat [at' 47 40 e.first.ev.source, at' 39 24 e.first.ev.code], time := now } }

/-- The kept entry whose record is written: its EVENTS_COALESCED comes next. -/
def Collector.due (c : Collector) : Option OverflowEntry := c.overflow.find? (·.written)

/-- EVENTS_COALESCED of a kept entry, with a sequence number of its own; then the entry is free (R36). -/
def State.writeCoalesced (s : State) (e : OverflowEntry) : State :=
  let c := coalesced e s.ev.nextSeq s.now
  ({ s with ev := { s.ev with nextSeq := s.ev.nextSeq + 1, overflow := s.ev.overflow.filter (fun x => x != e) } } : State).writeRecord c

/-- The record of a kept entry: an entry without a count is free at once, one with a count waits for EVENTS_COALESCED. -/
def State.writeKept (s : State) (e : OverflowEntry) : State :=
  ({ s with ev := { s.ev with overflow := if e.count = 0 then s.ev.overflow.filter (fun x => x != e)
                                          else s.ev.overflow.map (fun x => if x == e then { x with written := true } else x) } } : State).writeRecord e.first

/-- Write the next held record, in sequence order, where the queue has space; directly after a kept entry with a count,
its EVENTS_COALESCED (R36). -/
def State.writeHeld (s : State) : State :=
  if !s.host.eq.space then s
  else
    match s.ev.due with
    | some e => s.writeCoalesced e
    | none =>
      match s.ev.oldestHeld, oldestEntry s.ev.overflow with
      | none, none => s
      | some h, none => ({ s with ev := { s.ev with held := s.ev.held.drop 1 } } : State).writeRecord h
      | none, some e => s.writeKept e
      | some h, some e =>
        if after 32 h.seq.toNat e.first.seq.toNat then s.writeKept e
        else ({ s with ev := { s.ev with held := s.ev.held.drop 1 } } : State).writeRecord h

/-- Put an event into the collector: a free entry, the overflow table, or a drop (R35, R36). -/
def State.collect (s : State) (h : HeldEvent) : State :=
  let free := 256 - s.ev.held.length
  if 3 ≤ h.ev.severity then
    if 0 < free then { s with ev := { s.ev with held := s.ev.held ++ [h] } }
    else
      match s.ev.overflow.find? (fun e => e.first.ev.source == h.ev.source && e.first.ev.code == h.ev.code) with
      | none => { s with ev := { s.ev with overflow := s.ev.overflow ++ [{ first := h, count := 0, last := h.seq }] } }
      | some _ =>
        { s with ev := { s.ev with overflow := s.ev.overflow.map (fun e =>
            if e.first.ev.source == h.ev.source && e.first.ev.code == h.ev.code then { e with count := e.count + 1, last := h.seq, worst := Nat.max e.worst h.ev.severity } else e) } }
  else if 32 < free then { s with ev := { s.ev with held := s.ev.held ++ [h] } }
  else
    { s with
      ev := { s.ev with firstDropped := some (s.ev.firstDropped.getD h.seq), dropped := s.ev.dropped + 1 }
      host := { s.host with eq := { s.host.eq with droppedFlag := true } } }

/-- An entry is open to an event of this severity (R35). -/
def Collector.opens (c : Collector) (severity : Nat) : Bool :=
  if 3 ≤ severity then decide (c.held.length < 256) else decide (c.held.length < 224)

/-- Held records are written, while the queue has space and no entry is open to an event of this severity (R35); at most
n. -/
def State.makeOpen (s : State) (severity : Nat) : Nat → State
  | 0 => s
  | n + 1 => if s.ev.opens severity || !s.host.eq.space then s else s.writeHeld.makeOpen severity n

/-- A severity-4 event latches and updates the safety mirror before it reaches the collector (R428, R435). -/
def State.safetyEvent (s : State) (source code : Nat) (seq : Reg) : State :=
  let s := { s with saf := { s.saf with
    latch := true, lastSeq := seq, lastCode := BitVec.ofNat 32 (source % 256 * 2 ^ 16 + code % 2 ^ 16),
    count := if s.saf.count.toNat = 0xFFFFFFFF then s.saf.count else s.saf.count + 1 } }
  s.setPend 0

/-- R67: the collector discards the event before it gets a sequence number. -/
def State.discards (s : State) (source severity : Nat) : Bool :=
  decide (severity < 3) &&
    (decide (severity < s.pget 0x02000001) || (decide (severity ≤ 1) && bit (s.pget 0x02000002) source))

/-- Raise an event with a timestamp of its own (R34). -/
def State.raiseAt (s : State) (t source code severity arg arg2 : Nat) : State :=
  if s.discards source severity then s
  else
    let seq := s.ev.nextSeq
    let e : Event := { source := source, code := code, severity := severity, arg := arg % 2 ^ 64, arg2 := arg2 % 2 ^ 48, time := t }
    let h : HeldEvent := { seq := seq, ev := e }
    let s := { s with ev := { s.ev with nextSeq := s.ev.nextSeq + 1 } }
    let s := if severity = 4 then s.safetyEvent source code seq else s
    (s.makeOpen severity 512).collect h

/-- Raise an event: source, code, severity, argument, second argument. -/
def State.raise (s : State) (source code severity arg arg2 : Nat) : State := s.raiseAt s.now source code severity arg arg2

/-- When space has returned after drops, so that an entry is open to it, EVENTS_DROPPED (R35). -/
def State.reportDrops (s : State) : State :=
  match s.ev.firstDropped with
  | none => s
  | some f =>
    let s := s.makeOpen 2 512
    if s.ev.opens 2 then
      let n := s.ev.dropped
      let s := { s with ev := { s.ev with firstDropped := none, dropped := 0 } }
      s.raise 1 2 2 (f.toNat * 2 ^ 32 + n % 2 ^ 32) 0
    else s

/-! ### Responses (R39, R53) -/

def State.mailbox (s : State) (n : Nat) : Mailbox := s.host.mb.getD n {}

def State.modMb (s : State) (n : Nat) (f : Mailbox → Mailbox) : State :=
  { s with host := { s.host with mb := updAt s.host.mb n f } }

/-- Responses that the host has not consumed. -/
def Mailbox.unread (m : Mailbox) : Nat := wsub 16 m.rspTail.toNat m.rspHead.toNat

/-- The response ring has no free slot. (DEDUCED, unsafe: log entry 20.) -/
def Mailbox.rspFull (m : Mailbox) : Bool := decide (2 ^ m.rspLog2.toNat ≤ m.unread)

/-- The mailbox writes responses: it is served, or it was stopped by an error and runs out what it fetched (R44). -/
def Mailbox.writes (m : Mailbox) : Bool := m.en && (m.active || m.err)

/-- The words of a response (Tables 2.22, R432): header, payload, and the trailer of a command of the safety class. -/
def rspWords (r : Rsp) : List Word :=
  let n := r.payload.length + b2n r.safety
  let hd := packW [at' 127 112 r.opcode.toNat, at' 111 96 r.tag.toNat, at' 95 88 n, at' 87 80 (b2n r.final)
                   , at' 79 64 r.status, at' 63 0 r.object.toNat]
  let body := hd :: r.payload
  if r.safety then body ++ [BitVec.ofNat 128 (crc32c (wordsBytes body))] else body

/-- Write a response into its ring, which has room. -/
def State.putRsp (s : State) (mb : Nat) (r : Rsp) : State :=
  let i := (s.mailbox mb).rspTail.toNat
  let s := s.emit (.response mb i r)
  let s := s.modMb mb (fun m => { m with rspTail := m.rspTail + 1 })
  s.setPend (2 + mb)

/-- Write a response, or hold it for lack of room (R39), or discard it with its mailbox (R49).
(DEDUCED, unsafe: log entry 19.) -/
def State.respond (s : State) (mb : Nat) (r : Rsp) : State :=
  let m := s.mailbox mb
  if !m.writes then s
  else if m.rspFull || !m.held.isEmpty then s.modMb mb (fun m => { m with held := m.held ++ [r] })
  else s.putRsp mb r

/-- CMD_DONE (Table 2.47). -/
def State.cmdDone (s : State) (mb op tag status obj : Nat) : State :=
  s.raise 2 1 0 (packNat [at' 63 48 op, at' 47 32 tag, at' 31 16 status, at' 15 8 mb, at' 7 0 (idClass obj)]) (obj % 2 ^ 48)

/-! ### Jobs: accepted asynchronous commands (R52, R53, R57) -/

def State.job? (s : State) (id : Nat) : Option Job := s.host.jobs.find? (fun j => j.id == id)

/-- The first job that a test takes. -/
def State.findJob (s : State) (p : Job → Bool) : Option Job := s.host.jobs.find? p

/-- A job ends with a status and a payload: final response and CMD_DONE as its flags ask (Table 2.23). -/
def State.endJob (s : State) (id status : Nat) (payload : List Word) : State :=
  match s.job? id with
  | none => s
  | some j =>
    let s := { s with host := { s.host with jobs := s.host.jobs.filter (fun k => k.id != id) } }
    let s := if j.respond then
        s.respond j.mb { opcode := j.opcode, tag := j.tag, final := true, status := status, object := j.object
                         payload := payload, first := false, safety := j.safety }
      else s
    if j.event then s.cmdDone j.mb j.opcode.toNat j.tag.toNat status j.object.toNat else s

/-- Every job that a test takes ends with a status. -/
def State.endJobs (s : State) (ids : List Nat) (status : Nat) : State :=
  match ids with
  | [] => s
  | i :: is => (s.endJob i status []).endJobs is status

/-- The IDs of the jobs that a test takes. -/
def State.jobIds (s : State) (p : Job → Bool) : List Nat := (s.host.jobs.filter p).map (·.id)

/-! ### Fetching and checking a host command -/

/-- What a command's own checks and effect answer: a status, the response's OBJECT and payload, and the job it starts
when it is accepted. -/
structure Answer where
  status : Nat
  object : Option Nat := none
  payload : List Word := []
  job : Option JobKey := none
  deriving DecidableEq, Repr

/-- A state with an answer. -/
structure Ran where
  s : State
  a : Answer
  deriving DecidableEq, Repr

/-- A command's row: its opcode and what its OBJECT must be. -/
structure CmdRow where
  op : Nat
  /-- What OBJECT must be: none any, some 0 the device, some c an object of class c. -/
  obj : Option Nat := some 0
  /-- The command may name a LOST object (R191). -/
  lostOk : Bool := false
  deriving DecidableEq, Repr

def refuse (s : State) (status : Nat) : Ran := { s := s, a := { status := status } }

def answer (s : State) (payload : List Word) : Ran := { s := s, a := { status := stOk, payload := payload } }

def accept (s : State) (job : JobKey) : Ran := { s := s, a := { status := stAccepted, job := some job } }

/-- Whether the device takes the next command of a mailbox now (R39, R46, R48, R50).
(DEDUCED, unsafe: log entry 20.) -/
def State.fetchable (s : State) (mb : Nat) : Bool :=
  let m := s.mailbox mb
  m.active && !m.err && s.host.pcie.up && (mb == 0 || !s.fw.recovery) &&
  (if s.dev.state == .off then mb == 0 else s.dev.fwReady) &&
  (m.cmdTail != m.cmdHead) && !m.rspFull && m.held.isEmpty

/-- Table 2.26 with what the chapters add (log entry 11).
(DEDUCED, unsafe: log entry 11; DEDUCED, unsafe: log entry 18.) -/
def permitted (d : DevState) (mb op : Nat) : Bool :=
  let sub := op / 256
  match d with
  | .off => mb == 0 && (op == 0x0101 || op == 0x0103 || op == 0x010B)
  | .boot => ((sub == 1 || sub == 2) && op != 0x0107 && op != 0x0108) || bootAlso op
  | .safe => ((sub == 1 || sub == 2 || sub == 0x14) && op != 0x0107 && op != 0x0108) || safeAlso op
  | .shutdown => shutdownServes op
  | _ => true

/-- The safety-class checks of R432, within step 3 of R54: the status of the first that fails.
(DEDUCED, unsafe: log entry 18.) -/
def safetyChecks (c : Cmd) : Option Nat :=
  if !c.safety then
    if c.op == 0x1402 || c.op == 0x1403 ||
       (c.op == 0x0104 && (List.range c.nWords).any (fun i => bits (c.w (i + 1)) 127 120 == 0x14)) then some stSafetyLocked
    else none
  else if c.count.toNat = 0 ∨ 2 ^ 32 ≤ c.trailer then some stBadArg
  else if crc32c (c.slotBytes (16 * c.count.toNat)) != c.trailer then some stIntegrity
  else none

/-- Check 5 of R54, with R56 and R191. (DEDUCED, unsafe: log entry 18.) -/
def objectCheck (row : CmdRow) (c : Cmd) (s : State) : Option Nat :=
  let o := c.object.toNat
  match row.obj with
  | some 0 => if o = 0 then none else some stBadObject
  | want =>
    if o = 0 then (if want.isNone then none else some stBadObject)
    else
      match s.obj? o with
      | none =>
        -- the time bases are objects with fixed IDs (R406)
        if idClass o == 7 && decide (o % 2 ^ 56 < 4) && (want.isNone || want == some 7) then none else some stBadObject
      | some x =>
        if x.creating then some stBusy
        else if want.isSome && want != some x.cls then some stBadObject
        else if x.lost && !row.lostOk then some stIntegrity
        else none

/-- Checks 1 to 5 of R54: the status of the first that fails. (DEDUCED, unsafe: log entry 18.) -/
def commonChecks (row : CmdRow) (c : Cmd) (s : State) : Option Nat :=
  if c.rsvd != 0 || decide (62 < c.count.toNat) || bits c.flags.toNat 7 3 != 0 || (c.safety && c.mb != 0) then some stBadArg
  else if c.op != row.op then some stBadOpcode
  else if s.fw.recovery && !recoveryServes c.op then some stNotSupported
  else if (mb0Only c.op && c.mb != 0) ||
          (c.mb == 0 && !s.fw.recovery && !(c.op / 256 == 1 || c.op / 256 == 2 || c.op / 256 == 0x14)) then some stSafetyLocked
  else
    match safetyChecks c with
    | some st => some st
    | none =>
      if !permitted s.dev.state c.mb c.op then some stBadState
      else objectCheck row c s

/-- Report a command that has been run: responses, CMD_DONE and the job (Table 2.23). -/
def report (c : Cmd) (r : Ran) : State :=
  let s := r.s
  let obj : Word64 := match r.a.object with
    | some o => BitVec.ofNat 64 o
    | none => c.object
  let want := bit c.flags.toNat 0
  let ev := bit c.flags.toNat 1
  match r.a.job with
  | some key =>
    let s := { s with host := { s.host with
      nextJob := s.host.nextJob + 1
      jobs := s.host.jobs ++ [{ id := s.host.nextJob, mb := c.mb, opcode := c.opcode, tag := c.tag, object := obj
                                respond := want, event := ev, safety := c.safety, key := key }] } }
    if want then s.respond c.mb { opcode := c.opcode, tag := c.tag, final := false, status := stAccepted, object := obj
                                  payload := r.a.payload, first := true, safety := c.safety }
    else s
  | none =>
    let s := if want then s.respond c.mb { opcode := c.opcode, tag := c.tag, final := true, status := r.a.status, object := obj
                                           payload := r.a.payload, first := true, safety := c.safety }
      else s
    if ev then s.cmdDone c.mb c.op c.tag.toNat r.a.status obj.toNat else s

/-- The limit of Table 1.8 that keeps a command in its ring is reached: 8 compression jobs (R42). -/
def State.limited (s : State) (i : Instr) : Bool :=
  match i with
  | .cmpJob _ => decide (8 ≤ s.comp.jobs.length)
  | _ => false

/-- The mailbox whose ring the device fetches from next: MB0 first, then MB1 to MB7 in turn after the last one served
(R51). (DESIGN CHOICE, unsafe: log entry 8.) -/
def State.nextRing (s : State) : Option Nat :=
  let ready (n : Nat) := s.fetchable n && (match (s.mailbox n).ring with
    | [] => false
    | i :: _ => !s.limited i)
  if ready 0 then some 0
  else ((List.range 7).map (fun i => (s.host.rr + i) % 7 + 1)).find? ready

/-- The device takes a command of mailbox `mb` before the command it would fetch from a ring: MB0 first, then the
mailbox that comes sooner after the last one served (R51). -/
def State.turnOf (s : State) (mb : Nat) : Bool :=
  match s.nextRing with
  | none => true
  | some n => n != 0 && (mb == 0 || decide ((mb + 13 - s.host.rr) % 7 < (n + 13 - s.host.rr) % 7))

/-- A command that the present state permits needs PD02 and PD04, one of which is under test (R465). -/
def State.needsCore (s : State) (c : Cmd) : Bool :=
  permitted s.dev.state c.mb c.op && (match s.start.selftest with
    | some x => x.running.contains 2 || x.running.contains 4
    | none => false)

/-- A command is taken from its ring: its slot is consumed, its mailbox was served last, and a test that it meets is to stop
(R50, R51, R465). -/
def State.takeCmd (s : State) (c : Cmd) : State :=
  let s := s.modMb c.mb (fun m => { m with cmdHead := m.cmdHead + 1 })
  { s with
    host := { s.host with fetching := none, rr := if c.mb = 0 then s.host.rr else c.mb }
    start := { s.start with service := s.start.service || s.needsCore c } }

/-- A host command: it waits in its ring until the device fetches it; then it is checked (R54), run and reported, and
what its completion brings about follows (`post`). -/
def hostCmdWith (i : Instr) (row : CmdRow) (body : Cmd → State → Ran) (post : Cmd → State → State) (c : Cmd) (s : State) : State :=
  let m := s.mailbox c.mb
  let fromRing := s.host.fetching == some c.mb
  let s := { s with host := { s.host with fetching := none } }
  if !s.fetchable c.mb || s.limited i || (!fromRing && (!m.ring.isEmpty || !s.turnOf c.mb)) then
    -- it keeps its place in the ring
    s.modMb c.mb (fun m => { m with ring := if fromRing then i :: m.ring else m.ring ++ [i] })
  else
    let s := s.takeCmd c
    match commonChecks row c s with
    | some st => report c (refuse s st)
    | none =>
      let r := body c s
      let t := report c r
      if r.a.status = stOk ∨ r.a.status = stAccepted then post c t else t

/-- A host command with no effect after its report. -/
def hostCmd (i : Instr) (row : CmdRow) (body : Cmd → State → Ran) (c : Cmd) (s : State) : State :=
  hostCmdWith i row body (fun _ s => s) c s

/-! ### Payload words of a response -/

/-- A response word from fields. -/
def rw' (fs : List Field) : Word := packW fs

/-- A signed value in a field of w bits. -/
def sfield (w : Nat) (i : Int) : Nat := unsgn w i

/-! ### What the block does of itself -/

/-- The ring whose head is being fetched. -/
def State.setFetching (s : State) (n : Nat) : State := { s with host := { s.host with fetching := some n } }

/-- The command that a packet is, by its TYPE (Table 3.2); an unknown type is KEEPALIVE's (log entry 12).
(DESIGN CHOICE, safe: log entry 12.) -/
def pktInstr (p : Pkt) : Instr :=
  match p.type with
  | 1 => .frameBegin p
  | 2 => .anchorParams p
  | 3 => .textureAu p
  | 4 => .depthAu p
  | 5 => .layerTable p
  | 6 => .overlay p
  | 7 => .frameEnd p
  | 8 => .seqParams p
  | 10 => .cue p
  | _ => .keepalive p

/-- A scene whose first waiting packet can be taken now: its queue has room again (R86).
(DESIGN CHOICE, unsafe: log entry 8.) -/
def State.nextResume (s : State) : Option (Nat × Pkt) :=
  let ready (x : Scene) : Option (Nat × Pkt) :=
    match x.waiting with
    | [] => none
    | p :: _ => if x.queue.length < 4 ∨ p.type ≠ 1 then some (x.slot, p) else none
  (s.ingest.scenes.filterMap ready).head?

/-- With no command waiting: a command that waits in a ring is fetched; else a scene packet that waited for room is
taken; else 1 ns passes (log entry 8). (DESIGN CHOICE, unsafe: log entry 8.) -/
def State.idle (s : State) : Option Instr × State :=
  match s.nextRing with
  | some n =>
    match (s.mailbox n).ring with
    | [] => (none, s.advance 1)
    | c :: cs => (some c, (s.modMb n (fun m => { m with ring := cs })).setFetching n)
  | none =>
    match s.nextResume with
    | some (n, p) =>
      (some (pktInstr p), { s with ingest := { s.ingest with
          resuming := some n
          scenes := s.ingest.scenes.map (fun x => if x.slot == n then { x with waiting := x.waiting.drop 1 } else x) } })
    | none => (none, s.advance 1)

end Sys2Proof.Machine
end

