-- ==== Sys2Proof/Machine/PlaceOps.lean ====
section
/-! DEFINITION. Placement: capacity, where baskets go, the hints, moves and the placement epoch (spec/07). -/

namespace Sys2Proof.Machine

/-- Bytes of a basket (R168). -/
def basketBytes : Nat := 2097152

/-- Baskets for objects of one working channel (R168). -/
def channelBaskets : Nat := 1792

/-- MCc works: it is trained and not FAILED. -/
def State.works (s : State) (c : Nat) : Bool :=
  match s.mem.chans[c]? with
  | some x => x.state == 1
  | none => false

/-- The working channels in ascending order. -/
def State.workList (s : State) : List Nat := (List.range 32).filter s.works

/-- Channels on which a basket holds used space: its copies, the destination of a move, sources not yet released.
Replicas are free space (R170). -/
def Basket.usedOn (b : Basket) : List Nat :=
  b.chans ++ (match b.moveTo with | some c => if b.moveKind = 1 then [] else [c] | none => []) ++ b.oldSources.map (·.chan)

/-- The bytes of a copy whose source is lost stand at the destination already, and the switch makes it a copy (R181). -/
def Basket.heldCopy (b : Basket) : Bool :=
  b.moveTo.isSome && b.copied &&
    ((b.moveKind == 0 && !b.chans.contains b.moveFrom) || (b.moveKind == 2 && b.chans.isEmpty))

/-- Copies that hold a basket's bytes. -/
def Basket.live (b : Basket) : Nat := b.chans.length + b2n b.heldCopy

/-- A critical basket with one copy (R188). -/
def Basket.single (b : Basket) : Bool := b.cls == 0 && b.live == 1

/-- Physical baskets in use of a basket: its copies (R170, Table 7.5). -/
def Basket.physical (b : Basket) : Nat := b.chans.length

/-- Every basket of the objects, and of what the device reserves at BOOT. -/
def State.allBaskets (s : State) : List Basket := s.objs.objs.flatMap (·.baskets) ++ s.place.reserved

/-- Add 1 to the count of each channel of a list. -/
def bumpAll (u : List Nat) : List Nat → List Nat
  | [] => u
  | c :: cs => bumpAll (updAt u c (· + 1)) cs

/-- Used baskets of each channel, those of destroyed objects that wait for their release among them. -/
def State.usage (s : State) : List Nat :=
  (s.allBaskets ++ s.place.leaving.map (·.2)).foldl (fun u b => bumpAll u b.usedOn) (List.replicate 32 0)

/-- Free baskets (R170). -/
def State.freeBaskets (s : State) : Nat :=
  let u := s.usage
  sumN (s.workList.map (fun c => channelBaskets - u.getD c 0))

/-- FREE_MIB of DEV_INFO (R170). -/
def State.freeMib (s : State) : Nat := 2 * s.freeBaskets

/-- Where the placer stands while it allots: used counts, the next channel of the round robin, and free values taken. -/
structure Alloc where
  used : List Nat
  pos : Nat
  free : Nat
  deriving DecidableEq, Repr

/-- The first of the candidate channels at or after a channel, going round. -/
def roundFrom (pos : Nat) (cs : List Nat) : Option Nat :=
  match cs.find? (fun c => decide (pos ≤ c)) with
  | some c => some c
  | none => cs.head?

/-- Working channels with a free basket. -/
def State.open_ (s : State) (u : List Nat) : List Nat := s.workList.filter (fun c => decide (u.getD c 0 < channelBaskets))

/-- Free baskets of each package. -/
def State.pkgFree (s : State) (u : List Nat) : List Nat :=
  (List.range 8).map (fun p => sumN ((s.workList.filter (fun c => c / 4 == p)).map (fun c => channelBaskets - u.getD c 0)))

/-- n baskets of two copies in different packages find room. -/
def pairsFit (free : List Nat) (n : Nat) : Bool := decide (2 * n ≤ sumN (free.map (Nat.min n)))

/-- Allot one basket: the first copy by the round robin, the second in another package of the placer's choice (R172), so
that `left` further baskets of two copies find room. (DESIGN CHOICE, safe: log entry 3; DESIGN CHOICE, unsafe: log entry 32.) -/
def State.allotOne (s : State) (two : Bool) (left : Nat) (a : Alloc) : Alloc × List Nat :=
  match roundFrom a.pos (s.open_ a.used) with
  | none => (a, [])
  | some c =>
    let a := { a with used := updAt a.used c (· + 1), pos := (c + 1) % 32 }
    if !two then (a, [c])
    else
      let free := s.pkgFree a.used
      let good := (List.range 8).map (fun p => pairsFit (updAt free p (· - 1)) left)
      let cands := (s.open_ a.used).filter (fun d => d / 4 != c / 4 && (left == 0 || good.getD (d / 4) true))
      match cands[Config.freeNat a.free % cands.length]? with
      | none => (a, [c])
      | some d => ({ a with used := updAt a.used d (· + 1), free := a.free + 1 }, [c, d])

/-- Allot the baskets of a list of plans, in order. -/
def State.allotAll (s : State) (a : Alloc) : List Basket → Alloc × List Basket
  | [] => (a, [])
  | b :: bs =>
    let (a, cs) := s.allotOne (b.cls == 0) (countP (fun x => x.cls == 0) bs) a
    let (a, out) := s.allotAll a bs
    (a, { b with chans := cs } :: out)

/-- Plans for n baskets of one class and item, numbered from an index. -/
def plan (first n cls item a l : Nat) : List Basket :=
  (List.range n).map (fun i => { index := first + i, cls := cls, item := item, a := a, l := l, part := i, chans := [] })

/-- Physical baskets that plans need. -/
def planNeed (ps : List Basket) : Nat := sumN (ps.map (fun b => if b.cls = 0 then 2 else 1))

/-- Plans find room: their baskets are free, and those of two copies lie in two packages (R172, R175, R176).
(DESIGN CHOICE, unsafe: log entry 32.) -/
def State.fits (s : State) (ps : List Basket) : Bool :=
  decide (planNeed ps ≤ s.freeBaskets) && pairsFit (s.pkgFree s.usage) (countP (fun b => b.cls == 0) ps)

/-- Allot an object's baskets: it starts at a channel after the one where the previous object started (R172).
(DESIGN CHOICE, unsafe: log entry 32; DESIGN CHOICE, safe: log entry 80.) -/
def State.allot (s : State) (ps : List Basket) : State × List Basket :=
  let start := ((roundFrom ((s.place.rr + 1) % 32) s.workList).getD 0)
  let (a, bs) := s.allotAll { used := s.usage, pos := start, free := s.free } ps
  ({ s with free := a.free, place := { s.place with rr := start } }, bs)

/-- A basket's replicas, and the one that is being made, leave the channels where space is short (R174): a replica at the
next epoch boundary (R181), one that is being made at once. -/
def Basket.yieldRoom (acc : List Nat × List Basket) (b : Basket) : List Nat × List Basket :=
  let gone := b.replicas.filter (fun c => decide (0 < acc.1.getD c 0) && !b.dropping.contains c)
  let ex := gone.foldl (fun u c => updAt u c (· - 1)) acc.1
  match b.moveTo with
  | some c =>
    if b.moveKind = 1 ∧ 0 < ex.getD c 0 then
      (updAt ex c (· - 1), acc.2 ++ [{ b with dropping := b.dropping ++ gone, moveTo := none, copied := false }])
    else (ex, acc.2 ++ [{ b with dropping := b.dropping ++ gone }])
  | none => (ex, acc.2 ++ [{ b with dropping := b.dropping ++ gone }])

/-- The same for a list of objects. -/
def dropReplicas (excess : List Nat) : List Obj → List Nat × List Obj
  | [] => (excess, [])
  | o :: os =>
    let (excess, bs) := o.baskets.foldl Basket.yieldRoom (excess, [])
    let (excess, os) := dropReplicas excess os
    (excess, { o with baskets := bs } :: os)

/-- Space of a channel that replicas hold: those of a basket, the one being made, those not yet released. -/
def Basket.repOn (b : Basket) : List Nat :=
  b.replicas ++ (match b.moveTo with | some c => if b.moveKind = 1 then [c] else [] | none => []) ++ b.oldReps.map (·.chan)

/-- Replicas held on each channel. -/
def State.replicaCount (s : State) : List Nat :=
  (s.allBaskets ++ s.place.leaving.map (·.2)).foldl (fun u b => bumpAll u b.repOn) (List.replicate 32 0)

/-- Put objects of the lowest PRIORITY first, keeping the order of equals. -/
def byPriority (os : List Obj) : List Obj := (List.range 4).flatMap (fun p => os.filter (fun o => o.priority == p))

/-- R174: the replicas whose space is needed are dropped. -/
def State.makeRoom (s : State) : State :=
  let u := s.usage
  let r := s.allBaskets.foldl (fun u b => bumpAll u (b.repOn.filter (fun c => !b.dropping.contains c))) (List.replicate 32 0)
  let excess := (List.range 32).map (fun c => u.getD c 0 + r.getD c 0 - channelBaskets)
  if sumN excess = 0 then s
  else
    let (_, os) := dropReplicas excess (byPriority s.objs.objs)
    s.objs.objs.foldl (fun s o =>
      match os.find? (fun x => x.id == o.id) with
      | some x => s.modObj o.id (fun _ => x)
      | none => s) s

/-- R194: PLACE_CAPACITY at the fall below the limit; armed again at the limit and 1,024 MiB more. -/
def State.capacityCheck (s : State) : State :=
  let f := s.freeMib
  let w := s.pget 0x07000004
  if s.place.capLow then
    if w + 1024 ≤ f then { s with place := { s.place with capLow := false } } else s
  else if f < w then
    ({ s with place := { s.place with capLow := true } } : State).raise 7 4 2 (f * 2 ^ 32 + w) s.arg2f
  else s

/-- Put a new object into the store with its baskets, and drop replicas in its way. -/
def State.addObj (s : State) (o : Obj) (ps : List Basket) : State :=
  let ran := s.allot ps
  let s := ran.1
  let bs := ran.2
  let s := { s with objs := { objs := s.objs.objs ++ [{ o with baskets := bs }], next := s.objs.next + 1 } }
  (s.makeRoom).capacityCheck

/-- The epoch from which on no operation is issued to what is given up now. -/
def State.nextEpoch (s : State) : Nat := (s.place.epoch + 1).toNat

/-- Baskets are given up: a move is abandoned, and both its locations, like those that waited before, are released once older
operations retire; the space of the others is free at once (R181). (DESIGN CHOICE, unsafe: log entry 32.) -/
def State.giveUp (s : State) (obj : Nat) (bs : List Basket) : State :=
  let old (b : Basket) : Option (Nat × Basket) :=
    let e := s.nextEpoch
    let mv := match b.moveTo with
      | some d => if b.moveKind = 1 then [] else (b.chans ++ [d]).map (fun c => ({ chan := c, epoch := e } : OldCopy))
      | none => []
    let rep := match b.moveTo with
      | some d => if b.moveKind = 1 then [({ chan := d, epoch := e } : OldCopy)] else []
      | none => []
    let b' := { b with
      chans := [], moveTo := none, copied := false, oldSources := b.oldSources ++ mv
      replicas := [], dropping := [], oldReps := b.oldReps ++ b.replicas.map (fun c => ({ chan := c, epoch := e } : OldCopy)) ++ rep }
    if b'.oldSources.isEmpty && b'.oldReps.isEmpty then none else some (obj, b')
  { s with place := { s.place with leaving := s.place.leaving ++ bs.filterMap old } }

/-- Take an object out of the store; its space is free again. (DESIGN CHOICE, unsafe: log entry 32.) -/
def State.removeObj (s : State) (id : Nat) : State :=
  let s := match s.obj? id with
    | some o => s.giveUp id o.baskets
    | none => s
  ({ s with objs := { s.objs with objs := s.objs.objs.filter (fun o => o.id != id) } } : State).capacityCheck

/-! ### What the device reserves -/

/-- A reservation joins those of the device. -/
def State.reserve (s : State) (ps : List Basket) : State :=
  let ran := s.allot ps
  let s := ran.1
  let bs := ran.2
  ({ s with place := { s.place with reserved := s.place.reserved ++ bs } } : State).makeRoom.capacityCheck

/-- Reservations end. -/
def State.unreserve (s : State) (p : Basket → Bool) : State :=
  ({ s with place := { s.place with reserved := s.place.reserved.filter (fun b => !p b) } } : State).capacityCheck

/-- Encoder buffers of a stream (R350), n baskets. -/
def encPlan (stream n : Nat) : List Basket := plan (10000 * (stream + 1)) n 2 (15 + stream) 0 0

/-- Reassembly of a flow (R407), for a number of bytes. -/
def flowPlan (flow bytes : Nat) : List Basket := plan (100000 * (flow + 1)) (ceilDiv bytes basketBytes) 2 18 flow 0

/-- Staging of a region update (R324), for a number of bytes. -/
def regionPlan (job bytes : Nat) : List Basket := plan (10000000 + 10000 * job) (ceilDiv bytes basketBytes) 2 17 job 0

/-- Baskets of firmware and of the placer's own tables: two channels in different packages over the working channels (R168).
(DESIGN CHOICE, unsafe: log entry 32.) -/
def State.tablePairs (s : State) : Nat → List Basket × Nat
  | 0 => ([], 0)
  | n + 1 =>
    let (rest, k) := s.tablePairs n
    let t (cs : List Nat) : Basket := { index := 500 + n, cls := 0, item := 20, part := n, chans := cs }
    match s.workList[n % s.workList.length]? with
    | none => (rest, k)
    | some c =>
      let others := s.workList.filter (fun d => d / 4 != c / 4)
      match others[Config.freeNat (s.free + k) % others.length]? with
      | none => (rest ++ [t [c]], k)
      | some d => (rest ++ [t [c, d]], k + 1)

/-- What the device reserves at BOOT: tap buffers (R210), two copies of the effective gain map (R301), the record of hb
(section 12.9), and its own tables (R168). -/
def State.reserveBoot (s : State) : State :=
  if s.place.reserved.any (fun b => b.item == 10) then s
  else
    let (ts, k) := s.tablePairs 16
    let s := { s with free := s.free + k, place := { s.place with tables := ts } }
    let ran := s.allot (plan 64 122 0 13 0 0 ++ plan 0 64 2 10 0 0 ++ plan 186 81 2 14 0 0)
    let s := ran.1
    let bs := ran.2
    { s with place := { s.place with reserved := s.place.reserved ++ bs } }

/-! ### Reports -/

/-- MIB of the copies of one class. -/
def State.classMib (s : State) (cls : Nat) : Nat :=
  2 * sumN (s.allBaskets.map (fun b => if b.cls = cls then b.physical else 0))

/-- Critical baskets, those of firmware and the placer's tables among them (Table 7.1). -/
def State.critical (s : State) : List Basket := (s.allBaskets ++ s.place.tables).filter (fun b => b.cls == 0)

/-- Single critical baskets (R188). -/
def State.singles (s : State) : Nat := countP Basket.single s.critical

/-- BCLASS of Table 7.5. -/
def Obj.bclass (o : Obj) : Nat := if o.cls = 1 then 3 else if o.cls = 8 then 2 else if o.mirror = 1 then 1 else 0

/-- STATE of Table 7.5. -/
def Obj.placeState (o : Obj) : Nat :=
  if o.lost then 3
  else if o.baskets.any (fun b => b.moveTo.isSome && b.moveKind == 2) then 1
  else if o.baskets.any Basket.single then 2
  else 0

/-! ### Moves and the epoch (R178, R179) -/

/-- Step 3 of R179 at the boundary that begins an epoch: the location record switches, and the source waits for its release.
A source that was lost is no location any more (R181). -/
def Basket.switch (epoch : Nat) (b : Basket) : Basket :=
  match b.moveTo with
  | none => b
  | some d =>
    if !b.copied then b
    else
      let done := { b with moveTo := none, copied := false }
      match b.moveKind with
      | 0 =>
        if b.chans.contains b.moveFrom then
          { done with
            chans := b.chans.map (fun c => if c == b.moveFrom then d else c)
            oldSources := b.oldSources ++ [{ chan := b.moveFrom, epoch := epoch }] }
        else { done with chans := b.chans ++ [d] }
      | 1 => { done with replicas := b.replicas ++ [d] }
      | _ => { done with chans := b.chans ++ [d] }

/-- A change of every basket of the objects, of the reservations and of the tables. -/
def State.mapBaskets (s : State) (f : Basket → Basket) : State :=
  { s with
    objs := { s.objs with objs := s.objs.objs.map (fun o => { o with baskets := o.baskets.map f }) }
    place := { s.place with reserved := s.place.reserved.map f, tables := s.place.tables.map f } }

/-- MIRROR 1: the basket becomes stream class; its second copy, and a mirror copy under way or a move of the second copy, go
by step 4 of R179 (R193). -/
def Basket.unmirror (epoch : Nat) (b : Basket) : Basket :=
  let away (c : Nat) : OldCopy := { chan := c, epoch := epoch }
  let b := match b.moveTo with
    | some d =>
      if b.moveKind = 2 ∨ (b.moveKind = 0 ∧ (b.chans.drop 1).contains b.moveFrom) then
        { b with moveTo := none, copied := false, oldSources := b.oldSources ++ [away d] }
      else b
    | none => b
  { b with cls := 1, short := false, chans := b.chans.take 1, oldSources := b.oldSources ++ (b.chans.drop 1).map away }

/-- A hint takes effect (R193): MIRROR 1 lets the second copies go, MIRROR 0 makes the baskets critical again. -/
def Obj.takeHint (epoch : Nat) (o : Obj) : Obj :=
  match o.hint with
  | none => o
  | some (p, r, m) =>
    let o := { o with priority := p, replica := r, hint := none }
    if o.cls ≠ 2 ∧ o.cls ≠ 6 ∨ m = o.mirror then { o with mirror := m }
    else if m = 1 then { o with mirror := 1, baskets := o.baskets.map (Basket.unmirror epoch) }
    else { o with mirror := 0, baskets := o.baskets.map (fun b => { b with cls := 0 }) }

/-- A single critical basket for which no copy is under way. -/
def Basket.wantsMirror (b : Basket) : Bool := b.cls == 0 && b.chans.length == 1 && b.moveTo.isNone

/-- Start a mirror copy of each single critical basket of a list that has none under way (R188, R189, R193), over the channels
with a free basket, or, outside the capacity, over the working ones. (DESIGN CHOICE, unsafe: log entry 32.) -/
def State.startMirrors (s : State) (outside : Bool) (a : Alloc) : List Basket → Alloc × List Basket
  | [] => (a, [])
  | b :: bs =>
    let (a, b) :=
      if b.wantsMirror then
        let own := b.chans.getD 0 0
        let cands := (if outside then s.workList else s.open_ a.used).filter (fun d =>
          d / 4 != own / 4 && !(b.oldSources.any (fun x => x.chan == d)))
        match cands[Config.freeNat a.free % cands.length]? with
        | none => (a, b)
        | some d =>
          ({ a with used := if outside then a.used else updAt a.used d (· + 1), free := a.free + 1 },
           { b with moveTo := some d, moveKind := 2, moveFrom := own, copied := false })
      else (a, b)
    let (a, out) := s.startMirrors outside a bs
    (a, b :: out)

/-- A copy under way has its bytes still to move. -/
def Basket.copying (b : Basket) : Bool := b.moveTo.isSome && !b.copied

/-- A copy begins: the migration traffic, if idle, serves it from now on (R177). -/
def State.copyBegins (s : State) : State :=
  if (s.allBaskets ++ s.place.tables).any Basket.copying then s else { s with place := { s.place with copyEnd := s.now } }

/-- Start mirror copies in every object, reservation and table. -/
def State.mirrorAll (s : State) : State :=
  if !s.critical.any Basket.wantsMirror then s
  else
    let s := s.copyBegins
    let a : Alloc := { used := s.usage, pos := 0, free := s.free }
    let (a, os) := s.objs.objs.foldl (fun (acc : Alloc × List Obj) o =>
      let (a, bs) := s.startMirrors false acc.1 o.baskets
      (a, acc.2 ++ [{ o with baskets := bs }])) (a, [])
    let (a, rs) := s.startMirrors false a s.place.reserved
    let (a, ts) := s.startMirrors true a s.place.tables
    (({ s with objs := { s.objs with objs := os }, place := { s.place with reserved := rs, tables := ts }, free := a.free } : State).makeRoom)

/-- An object at an epoch boundary: its hint taken; replicas that are dropped, above the number allowed or against the hint
leave the record, and their space waits for its release (R181). -/
def Obj.settle (cap epoch : Nat) (o : Obj) : Obj :=
  let o := o.takeHint epoch
  let cap := if o.replica = 0 then 0 else cap
  { o with baskets := o.baskets.map (fun b =>
      let keep := (b.replicas.filter (fun c => !b.dropping.contains c)).take cap
      let gone := b.replicas.filter (fun c => !keep.contains c)
      { b with replicas := keep, dropping := [], oldReps := b.oldReps ++ gone.map (fun c => ({ chan := c, epoch := epoch } : OldCopy)) }) }

/-! ### Scene reservations (R176, R192) -/

/-- Baskets of one layer slot's pictures. -/
def pictureBaskets (w h : Nat) : Nat := ceilDiv (135 * (w * h)) basketBytes

/-- Baskets of one overlay slot. -/
def overlayBaskets (w h : Nat) : Nat := ceilDiv (8 * w * h) basketBytes

/-- The stream baskets of a scene (Table 7.2), numbered from an index. -/
def streamPlan (first anchors layers w h : Nat) : List Basket :=
  let n := pictureBaskets w h
  (List.range (anchors * layers)).flatMap (fun k =>
    let a := k / layers
    let l := k % layers
    let i := first + k * (n + 64)
    plan i n 1 1 a l ++ plan (i + n) 32 1 2 a l ++ plan (i + n + 32) 32 1 3 a l)

/-- The critical baskets of a scene: overlay slots and scene control. -/
def controlPlan (ovl w h : Nat) : List Basket :=
  let n := overlayBaskets w h
  plan 0 1 0 5 0 0 ++ (List.range ovl).flatMap (fun k => plan (1 + k * n) n 0 4 k 0)

/-- Physical baskets of a scene (Table 7.2). (DESIGN CHOICE, unsafe: log entry 32.) -/
def sceneNeed (anchors layers w h ovl ow oh : Nat) : Nat :=
  anchors * layers * (pictureBaskets w h + 64) + 2 * ovl * overlayBaskets ow oh + 2

/-- R192: reservations that were cut return as space frees, the one cut last first. -/
def State.restoreCut (s : State) : List Nat → State
  | [] => s
  | c :: cs =>
    match s.ingest.scenes.find? (fun (x : Scene) => x.obj == c) with
    | none => ({ s with place := { s.place with cut := cs } } : State).restoreCut cs
    | some x =>
      if s.freeBaskets < x.maxAnchors * x.maxLayers * (pictureBaskets x.maxW x.maxH + 64) then s
      else
        let first := 1 + x.maxOvl * overlayBaskets x.ovlW x.ovlH
        let ran := s.allot (streamPlan first x.maxAnchors x.maxLayers x.maxW x.maxH)
        let s := ran.1
        let bs := ran.2
        let s := s.modObj c (fun o => { o with baskets := o.baskets ++ bs })
        (({ s with place := { s.place with cut := cs } } : State).makeRoom).restoreCut cs

/-- The want of mirrors ends for the baskets that have theirs (R190). -/
def State.shortEnds (s : State) : State :=
  if !s.place.mirrorShort then s
  else
    let s := s.mapBaskets (fun b => { b with short := b.short && b.single })
    { s with place := { s.place with mirrorShort := s.critical.any (·.short) } }

/-- The placement epoch advances (R178): copies that have ended switch, hints take effect, and replicas that are dropped,
above `place.replica_max` or against the hint leave the record.  Mirrors that found no space before are tried again (R190). -/
def State.epochBoundary (s : State) : State :=
  let s := { s with place := { s.place with epoch := s.place.epoch + 1, epochAt := s.now } }
  let e := s.place.epoch.toNat
  let s := s.mapBaskets (Basket.switch e)
  let cap := s.pget 0x07000002
  let s := { s with objs := { s.objs with objs := s.objs.objs.map (Obj.settle cap e) } }
  (s.mirrorAll.shortEnds.restoreCut s.place.cut).capacityCheck

/-! ### Ray tiles at the clusters (R182 to R185) -/

/-- The clusters in the pool. -/
def State.clusterPool (s : State) : List Nat :=
  (List.range 48).filter (fun n => let c := s.synth.clusters.getD n {}; !c.failed && !c.disabled)

def State.cluster (s : State) (n : Nat) : Cluster := s.synth.clusters.getD n {}

def State.modCluster (s : State) (n : Nat) (f : Cluster → Cluster) : State :=
  { s with synth := { s.synth with clusters := updAt s.synth.clusters n f } }

/-- The remaining forecast cost of a list. -/
def Cluster.remaining (c : Cluster) : Nat := sumN (c.list.map (·.cost))

/-- The first dispatched tile starts where none runs; its reads carry the epoch (R178). -/
def Cluster.startHead (c : Cluster) (now epoch : Nat) : Cluster :=
  match c.disp with
  | [] => c
  | t :: ts => if t.started then c else { c with disp := { t with started := true, t0 := now, epoch := epoch } :: ts }

/-- A place in the panel's scan order: frame, subframe, band row, tile, column. (DEDUCED, unsafe: log entry 40.) -/
def RTile.scanPos (t : RTile) : Nat := (((t.frame * 64 + t.sf) * 4096 + t.by_) * 16 + t.tile) * 256 + t.tx

/-- The earliest ray tile of a list in scan order. -/
def earliest : List RTile → Option RTile
  | [] => none
  | t :: ts =>
    match earliest ts with
    | none => some t
    | some u => if u.scanPos < t.scanPos then some u else some t

/-- A ray tile joins a list at its place in scan order. -/
def scanInsert (t : RTile) : List RTile → List RTile
  | [] => [t]
  | u :: us => if u.scanPos ≤ t.scanPos then u :: scanInsert t us else t :: u :: us

/-- The other pool cluster whose list has the least cost left (R185); the lower number on a tie. -/
def State.poorest (s : State) (n : Nat) : Option Nat :=
  s.clusterPool.foldl (fun (best : Option Nat) (m : Nat) =>
    if m = n then best
    else match best with
      | none => some m
      | some b => if (s.cluster m).remaining < (s.cluster b).remaining then some m else best) none

/-- A tile that no cluster synthesises any more. -/
def RTile.again (t : RTile) : RTile := { t with started := false, t0 := 0 }

/-- The abandoned tile goes to the front of another list (R185); to its own cluster's where the pool has no other.
(DEDUCED, unsafe: log entry 40.) -/
def State.reassign (s : State) (n : Nat) (t : RTile) : State :=
  s.modCluster ((s.poorest n).getD n) (fun (c : Cluster) => { c with list := t.again :: c.list })

/-- A cluster leaves the pool: its tiles spread over the other lists, one after another, each at its place in scan order (R185).
(DEDUCED, unsafe: log entry 40.) -/
def State.spreadTiles (s : State) (ts : List RTile) : State :=
  let pool := s.clusterPool
  let put (acc : List Cluster × Nat) (t : RTile) : List Cluster × Nat :=
    match pool[acc.2 % pool.length]? with
    | some n => (updAt acc.1 n (fun c => { c with list := scanInsert t.again c.list }), acc.2 + 1)
    | none => acc
  { s with synth := { s.synth with clusters := ((ts.foldl (fun l t => scanInsert t l) []).foldl put (s.synth.clusters, 0)).1 } }

end Sys2Proof.Machine
end

