-- ==== Sys2Proof/Machine/LinkOps.lean ====
section
/-! DEFINITION. The tile links and the panel drive as shared operations: port states, packets to a tile, commands that
await an ACK, mask reconcile, power-off, ledgers (spec/10, spec/12). -/

namespace Sys2Proof.Machine

/-! ### Objects in force -/

/-- The GEOMETRY object of an ID. -/
def State.geomOf (s : State) (id : Nat) : Option Geom :=
  match s.obj? id with
  | some o => if o.cls = 3 ∧ !o.creating then some (parseGeom o.data) else none
  | none => none

/-- The geometry in force, if any. -/
def State.geom (s : State) : Option Geom := s.geomOf (s.pget 0x05000001)

/-! ### Ports and tiles -/

def State.port (s : State) (t : Nat) : Port := s.link.ports.getD t {}

def State.modPort (s : State) (t : Nat) (f : Port → Port) : State :=
  { s with link := { s.link with ports := updAt s.link.ports t f } }

def State.tile (s : State) (t : Nat) : TileDrive := s.panel.tiles.getD t {}

def State.modTile (s : State) (t : Nat) (f : TileDrive → TileDrive) : State :=
  { s with panel := { s.panel with tiles := updAt s.panel.tiles t f } }

/-- Every tile number. -/
def tileNums : List Nat := List.range 16

/-- A tile's port is ACTIVE and the device owns it. -/
def State.ownActive (s : State) (t : Nat) : Bool := (s.port t).state == 5 && (s.port t).own

/-- The tiles that are ACTIVE and owned. -/
def State.ownTiles (s : State) : List Nat := tileNums.filter s.ownActive

/-- The tiles set in `panel.tiles_enabled`. -/
def State.enabledTiles (s : State) : List Nat := tileNums.filter (bit (s.pget 0x0C00000D))

/-- STATES of a bit per tile. -/
def tileMask (p : Nat → Bool) : Nat := sumN (tileNums.map (fun t => if p t then 2 ^ t else 0))

/-- Bits of a mask as tile numbers. -/
def maskTiles (m : Nat) : List Nat := tileNums.filter (bit m)

/-- The side's OWNER code: 1 A, 2 B. -/
def State.ownerCode (s : State) : Nat := if s.dev.sideB then 2 else 1

/-! ### Packets to a tile (R242, Tables 10.4 to 10.10) -/

/-- A header word: KIND, fields, HCRC over bytes 4 to 15 (R242). -/
def linkHdr (kind : Nat) (fs : List Field) : Nat :=
  let w := packNat (at' 127 120 kind :: fs)
  w + crc32c (leBytes 12 (w / 2 ^ 32))

/-- HCRC of a received header is right. -/
def hdrOk (w : Nat) : Bool := bits w 31 0 == crc32c (leBytes 12 (w / 2 ^ 32 % 2 ^ 96))

/-! ### The receiver's blocks (R237 to R240) -/

/-- Seed of a lane's scrambler (R239). -/
def scrambleSeed (lane : Nat) : Nat := ([0x7FFFFFFF, 0x5A5A5A5A, 0x3C3C3C3C, 0x69966996] : List Nat).getD lane 0

/-- The output bit of the scrambler's state, and the next state (R239). -/
def scrambleBit (s : Nat) : Nat := ((s >>> 30) ^^^ (s >>> 27)) &&& 1

def scrambleNext (s : Nat) : Nat := ((s <<< 1) ||| scrambleBit s) &&& 0x7FFFFFFF

/-- n output bits from a state, the first the most significant, and the state after them. -/
def scrambleRun : Nat → Nat → Nat → Nat × Nat
  | 0, s, acc => (acc, s)
  | n + 1, s, acc => scrambleRun n (scrambleNext s) (2 * acc + scrambleBit s)

/-- What the scrambler adds to the payload of a block of a lane cycle, block 0 being its SKIP (R239, R240). -/
def scrambleMask (lane pos : Nat) : Nat := (scrambleRun 128 (scrambleRun (128 * (pos - 1)) (scrambleSeed lane) 0).2 0).1

/-- The payload of a received block, descrambled. -/
def linkPayload (b : LinkBlock) : Nat := b.wire ^^^ scrambleMask b.lane b.pos

/-- The sync header is neither DATA's nor CTRL's (R237, R238). -/
def badSync (b : LinkBlock) : Bool := b.sync != 0x3 && b.sync != 0xC

/-- A lane counts a block (R238). -/
def RxLane.count (now : Nat) (bad : Bool) (l : RxLane) : RxLane :=
  { bad := (bad :: l.bad).take 64
    errs := if bad then now :: l.errs.filter (fun e => decide (now < e + 1000000000)) else l.errs }

/-- 8 invalid sync headers within 64 blocks (R251). -/
def RxLane.lost (l : RxLane) : Bool := decide (8 ≤ countP id l.bad)

/-- Payload units of a packet to the device (Table 10.3); none for a KIND that starts none. -/
def backUnits (kind : Nat) : Option Nat :=
  match kind with
  | 0x20 => some 2
  | 0x21 => some 2
  | 0x22 => some 0
  | _ => none

/-- A DATA unit: payload of the packet in progress, which may be complete with it; outside a packet it is discarded (R240). -/
def Port.dataUnit (p : Port) (w : Nat) : Port × List (List Nat) :=
  match p.rx with
  | [] => (p, [])
  | h :: ws =>
    let all := h :: (ws ++ [w])
    if all.length ≤ (backUnits (bits h 127 120)).getD 0 then ({ p with rx := all }, []) else ({ p with rx := [] }, [all])

/-- A CTRL unit: the header of a packet; any other KIND, reserved ones among them, ends the packet in progress (R238, R240).
(DEDUCED, unsafe: log entry 81.) -/
def Port.ctrlUnit (p : Port) (w : Nat) : Port × List (List Nat) :=
  match backUnits (bits w 127 120) with
  | none => ({ p with rx := [] }, [])
  | some n => if n = 0 then ({ p with rx := [] }, [[w]]) else ({ p with rx := [w] }, [])

/-- A port receives a block: its lane counts it; an invalid sync header makes it DATA inside a packet and IDLE outside
(R238). -/
def Port.block (now : Nat) (acc : Port × List (List Nat)) (b : LinkBlock) : Port × List (List Nat) :=
  let p := { acc.1 with lanes := updAt acc.1.lanes b.lane (RxLane.count now (badSync b)) }
  let ran : Port × List (List Nat) :=
    if b.pos = 0 then (p, [])
    else if b.sync = 0xC then p.ctrlUnit (linkPayload b)
    else if b.sync = 0x3 ∨ p.rx ≠ [] then p.dataUnit (linkPayload b)
    else (p, [])
  (ran.1, acc.2 ++ ran.2)

/-- Send a packet to a tile whose port carries traffic. -/
def State.sendTile (s : State) (t kind : Nat) (words : List Nat) : State :=
  if (s.port t).state = 5 then s.emit (.tile t kind words) else s

/-- Nothing follows a command whose sequence has ended; its ACK is awaited as before (R262). -/
def AckWait.mute (a : AckWait) : AckWait := { a with why := 11 }

/-- The waits of a port that leaves ACTIVE: a sequence that goes on without the port keeps its step (R316, R281). -/
def keptAcks (l : List AckWait) : List AckWait :=
  l.map (fun (a : AckWait) => if decide (3 ≤ a.why) && a.why != 10 then a else a.mute)

/-- R265: an eye scan ends with ABORTED when its port leaves ACTIVE. -/
def State.eyeAbort (s : State) (t : Nat) : State :=
  match s.link.eye with
  | some e => if e.tile = t then ({ s with link := { s.link with eye := none } } : State).endJob e.job stAborted [] else s
  | none => s

/-- LINK_STATE and the new port state (Table 10.23). (DEDUCED, unsafe: log entry 51.) -/
def State.portGo (s : State) (t new cause : Nat) : State :=
  let p := s.port t
  let s := if p.state = 5 ∧ new ≠ 5 then s.eyeAbort t else s
  let s := s.modPort t (fun p => { p with
    state := new
    since := if p.state = new then p.since else s.now
    statusAt := if new = 5 then s.now else p.statusAt
    retrains := if new = 2 ∧ 4 ≤ p.state then Nat.min 255 (p.retrains + 1) else p.retrains })
  if p.state = new then s
  else
    let sev := if new = 5 ∨ new = 6 ∨ new = 7 ∨ (new = 0 ∧ cause = 6) then 1 else 2
    s.raise 0x0A 1 sev (packNat [at' 63 56 t, at' 55 52 p.state, at' 51 48 new, at' 47 40 cause, at' 39 32 (Nat.min 255 p.tries)]) s.arg2f

/-- A port enters DETECT: its first attempt begins at once.  A port of a FAILED domain is held DOWN (Table 17.1).
(DEDUCED, unsafe: log entry 51.) -/
def State.toDetect (s : State) (t cause : Nat) : State :=
  if (s.pwr.domains.getD (39 + t / 4) {}).failed then s
  else (s.portGo t 1 cause).modPort t (fun p => { p with waiting := false, acks := keptAcks p.acks })

/-- `link.rate` as a training takes it: the new one once a timing mode change retrains for it (R264). -/
def State.linkRate (s : State) : Nat :=
  match s.tim.change, s.par.commit with
  | some m, some c => if m.rate && m.commit && decide (3 ≤ m.stage) then (pfind c.panel 0x0A000001).getD (s.pget 0x0A000001) else s.pget 0x0A000001
  | _, _ => s.pget 0x0A000001

/-- The rate of the next attempt (R252). -/
def State.trainRate (s : State) (t : Nat) : Nat :=
  let want := s.linkRate
  if want ≠ 0 ∧ 2 ≤ (s.port t).fails then 0 else want

/-- A port enters TRAIN at the rate of R252. (DEDUCED, unsafe: log entry 51.) -/
def State.toTrain (s : State) (t cause : Nat) : State :=
  let r := s.trainRate t
  let cause := if cause = 1 ∧ r ≠ s.linkRate then 11 else cause
  (s.portGo t 2 cause).modPort t (fun p => { p with
    rate := r, acks := keptAcks p.acks, waiting := false, signal := false, lanes := List.replicate 4 {}, rx := [] })

/-- A return to DETECT after a failed attempt (R249, R252). (DEDUCED, unsafe: log entry 51.) -/
def State.portReturn (s : State) (t cause : Nat) : State :=
  let p := s.port t
  let s := s.modPort t (fun p => { p with
    tries := p.tries + 1
    fails := if (p.state = 2 ∨ p.fromL2 = true) ∧ p.rate ≠ 0 then p.fails + 1 else p.fails
    fromL2 := false })
  if p.state = 0 then s
  else (s.portGo t 1 cause).modPort t (fun p => { p with waiting := true, acks := keptAcks p.acks })

/-- The next TAG. -/
def State.nextTag (s : State) : State × Nat :=
  ({ s with link := { s.link with tag := (s.link.tag + 1) % 256 } }, s.link.tag)

/-- The wait of R262 past the bound of Table 10.17. -/
def ackBound (kind op width : Nat) : Nat :=
  (if kind = 0x13 then 2 * width * 1000 + 1000000 else if op = 3 then 200000000 else 1000000) + 5000000

/-- Send a MASK_CMD PAIR to state 0 over every element (Tables 10.7, 12.5; R309). -/
def State.sendPair (s : State) (t pol amp width why : Nat) : State :=
  let ran := s.nextTag
  let s := ran.1
  let tag := ran.2
  let w := linkHdr 0x13 [at' 119 112 tag, at' 111 104 2, at' 103 100 0, at' 99 99 pol, at' 95 80 0, at' 79 64 0, at' 63 48 amp, at' 47 32 width]
  let s := s.modPort t (fun p => { p with acks := p.acks ++ [{ kind := 0x13, tag := tag, op := 2, why := why, due := s.now + ackBound 0x13 2 width }] })
  s.sendTile t 0x13 [w]

/-- Send a POWER_CMD (Table 10.9). -/
def State.sendPower (s : State) (t op show_ wake why : Nat) : State :=
  let ran := s.nextTag
  let s := ran.1
  let tag := ran.2
  let w := linkHdr 0x15 [at' 119 112 tag, at' 111 104 op, at' 103 96 show_, at' 95 80 wake]
  let s := s.modPort t (fun p => { p with acks := p.acks ++ [{ kind := 0x15, tag := tag, op := op, why := why, due := s.now + ackBound 0x15 op 0 }] })
  s.sendTile t 0x15 [w]

/-- HEARTBEAT (Table 10.8). -/
def State.sendHeartbeat (s : State) (t : Nat) : State :=
  let p := s.port t
  let w := linkHdr 0x14 [at' 119 112 p.hbSeq, at' 111 104 (b2n s.dev.sideB), at' 103 103 (b2n p.own), at' 102 102 (b2n s.dev.pairCfg),
    at' 95 64 (p.epoch.getD 0), at' 63 32 s.now]
  let s := s.sendTile t 0x14 [w]
  s.modPort t (fun p => { p with hbSeq := (p.hbSeq + 1) % 256, hbAt := s.now })

/-- HOLD (Table 10.6). (DEDUCED, unsafe: log entry 46.) -/
def State.sendHold (s : State) (t sf count mode frame reason : Nat) : State :=
  s.sendTile t 0x12 [linkHdr 0x12 [at' 119 112 sf, at' 111 104 count, at' 103 96 mode, at' 95 64 frame, at' 63 56 reason]]

/-- CAPS request (Table 10.10). -/
def State.sendCaps (s : State) (t : Nat) : State :=
  let w := linkHdr 0x16 [at' 119 112 (b2n s.dev.sideB), at' 111 104 (s.port t).rate, at' 103 96 1, at' 95 64 s.dev.serial.toNat]
  s.emit (.tile t 0x16 [w])

/-! ### Tile power and reconcile (R311 to R318) -/

/-- The ball TILE_PWR_EN[t]. -/
def pinName (t : Nat) : String := "TILE_PWR_EN" ++ toString t

/-- PANEL_POWER (Table 12.13). -/
def State.panelPower (s : State) (t step cause : Nat) : State :=
  s.raise 0x0C 1 1 (packNat [at' 63 56 t, at' 55 48 step, at' 47 40 cause]) s.arg2f

/-- The steps of a TILE_POWER job that has reached its end (R318). -/
def State.settleTilePower (s : State) : State :=
  let finished (j : Job) : Option (Nat × Nat) :=
    match j.key with
    | .tilePower tiles on =>
      let ts := maskTiles tiles
      if on then
        if ts.all (fun t => let d := s.tile t; (d.mode == 4 && !d.firstDue) || d.mode == 5) then
          some (j.id, if ts.any (fun t => (s.tile t).mode == 5) then stTimeout else stOk)
        else none
      else if ts.all (fun t => !(s.tile t).powered) then some (j.id, stOk) else none
    | _ => none
  (s.host.jobs.filterMap finished).foldl (fun s e => s.endJob e.1 e.2 []) s

/-- TILE_PWR_EN[t] rises (R311, Table 12.5): the port enters DETECT; the ledgers, which start at 0 at BOOT, go on (R310). -/
def State.powerUp (s : State) (t cause : Nat) : State :=
  let was := (s.tile t).powered
  let s := s.modTile t (fun d => { powered := true, rise := s.now, cause := cause, l0 := d.l0, l1 := d.l1, inv := d.inv })
  let s := if was then s else s.emit (.pin (pinName t) true)
  let s := s.modPort t (fun p => { ({} : Port) with state := p.state, epoch := p.epoch, own := p.own, rate := s.pget 0x0A000001
                                                    acks := p.acks, since := p.since
                                                    counts := if was then none else some {}
                                                    retrains := p.retrains, rcrc := p.rcrc, missing := p.missing, hcrc := p.hcrc })
  (s.panelPower t 1 cause).toDetect t 1

/-- R308: settle the drive of the last boundary. (DEDUCED, unsafe: log entry 54.) -/
def TileDrive.settle (d : TileDrive) : TileDrive :=
  match d.drive with
  | none => d
  | some x =>
    if x.made then { d with l0 := d.l0 + x.dl0, l1 := d.l1 + x.dl1, drive := none } else { d with drive := none }

/-- At a boundary the drives of the last one are settled, on every tile the device keeps ledgers for (R306, R308). -/
def State.settleAll (s : State) : State :=
  tileNums.foldl (fun s t => if (s.port t).own then s.modTile t TileDrive.settle else s) s

/-- TILE_PWR_EN[t] goes low at the end of a power-off: the port is DOWN (Table 12.6). -/
def State.powerLow (s : State) (t : Nat) : State :=
  let d := s.tile t
  let s := s.modTile t (fun d => { ({} : TileDrive) with cause := d.cause, l0 := d.settle.l0, l1 := d.settle.l1, inv := d.inv })
  let s := if d.powered then s.emit (.pin (pinName t) false) else s
  let s := (s.portGo t 0 (if d.cause = 2 then 6 else 1)).modPort t (fun p => { p with
    acks := p.acks.map AckWait.mute, waiting := false, signal := false })
  let s := s.panelPower t (if d.off = 2 then 5 else 4) d.cause
  s.settleTilePower

/-! ### What waits for the start's self-test (R463, Table 19.5) -/

/-- Domains of a phase of Table 19.7. -/
def phaseDomains (p : Nat) : List Nat :=
  match p with
  | 1 => (List.range 18).map (· + 6)
  | 2 => [24, 25, 26, 27, 28, 29, 31, 49]
  | 3 => [5, 30, 50]
  | 4 => [4]
  | _ => [2]

/-- The phases of an occasion in order: 1 shutdown, 2 full start. -/
def testOrder (occasion : Nat) : List Nat := if occasion = 1 then [1, 2, 3, 4, 5] else [3, 2, 1]

/-- The domains of an occasion from an index of its order on. -/
def domainsFrom (occasion i : Nat) : List Nat := ((testOrder occasion).drop i).flatMap phaseDomains

/-- The start's self-test has still to test a domain, or tests it. -/
def State.testBlocks (s : State) (d : Nat) : Bool :=
  s.start.full && !s.fw.recovery && !bit s.start.milestones 5 &&
  match s.start.selftest with
  | none => s.dev.state == .boot && (domainsFrom 2 0).contains d
  | some x =>
    x.occasion == 2 && (x.running.contains d || (domainsFrom 2 (if x.header then x.phase + 1 else 0)).contains d)

/-- Reconcile waits for FW_READY, and in a full start for the self-test of PD26, PD27, PD30 and PD49. -/
def State.mayReconcile (s : State) : Bool := s.dev.fwReady && [26, 27, 30, 49].all (fun d => !s.testBlocks d)

/-! ### Mask reconcile and power-off -/

/-- The mask reconcile of Table 12.5. (DEDUCED, unsafe: log entry 53.) -/
def State.reconcile (s : State) (t : Nat) : State :=
  if !s.mayReconcile then s.modTile t (fun d => { d with mode := 8, recon := 0, firstDue := false })
  else
    let s := s.modTile t (fun d => { d with mode := 1, recon := 0, tries := d.tries + 1, firstDue := false })
    s.sendPair t 0 (s.pget 0x0C000023) (s.pget 0x0C000024) 1

/-- The reconciles that waited begin. -/
def State.startReconciles (s : State) : State :=
  if s.mayReconcile then tileNums.foldl (fun s t => if (s.tile t).mode = 8 ∧ s.ownActive t = true then s.reconcile t else s) s else s

/-- A failed attempt of R315; an EMIT_ON that fails counts as one. (DEDUCED, unsafe: log entry 53.) -/
def State.reconcileFailed (s : State) (t result : Nat) : State :=
  let d := s.tile t
  if d.tries < 3 then s.modTile t (fun d => { d with mode := 7 })
  else
    let s := s.modTile t (fun d => { d with mode := 5, recon := 2 })
    let s := s.raise 0x0C 2 3 (packNat [at' 63 56 t, at' 55 48 d.tries, at' 47 40 result]) s.arg2f
    s.settleTilePower

/-- The polarity of a neutral pair: POL 1 if L0 > 0 (R309). -/
def TileDrive.pol (d : TileDrive) : Nat := if 0 < d.l0 then 1 else 0

/-- A neutral pair (R309): no SUBFRAME_START follows. -/
def State.neutral (s : State) (t why : Nat) : State :=
  let s := s.modTile t (fun d => { d with stop := 2 })
  s.sendPair t (s.tile t).pol (s.pget 0x0C000021) (s.pget 0x0C000022) why

/-- The fast power-off of R317 for every tile whose supply is on. -/
def State.fastOff (s : State) (cause : Nat) : State :=
  tileNums.foldl (fun s t =>
    let d := s.tile t
    if !d.powered then s
    else
      let s := s.modTile t (fun d => { d with mode := 0, recon := 0, stop := 2, off := 2, cause := cause, firstDue := false })
      if s.ownActive t then
        let s := s.modPort t (fun p => { p with acks := p.acks.map AckWait.mute })
        (s.sendPower t 2 0 0 11).sendPower t 3 0 0 6
      else s.powerLow t) s

/-- Begin the orderly power-off of R316 for a tile: it waits for its last SUBFRAME_START where the grid runs. -/
def State.orderlyOff (s : State) (t cause : Nat) : State :=
  let d := s.tile t
  if !d.powered then s
  else
    let s := s.modTile t (fun d => { d with mode := 0, recon := 0, off := 1, cause := cause, firstDue := false })
    if !s.ownActive t then s.powerLow t
    else if s.tim.on && s.tim.begun && d.stop == 0 then
      let s := s.modTile t (fun d => { d with stop := 1 })
      s.sendHold t s.tim.tag 255 1 s.tim.frame.toNat 2
    else s.neutral t 4

/-! ### What a tile shows (R254, R144, R252, R315) -/

/-- The item and values by which a tile's CAPS differ from a geometry (R144, Table 5.12): item, geometry value, tile
value.  Lens grid and steering states are taken as NU, NW and SX, SY in four bits each.
(DEDUCED, unsafe: log entry 52; DEDUCED, unsafe: log entry 77.) -/
def capsDiffer (g : Geom) (c : Caps) : Option (Nat × Nat × Nat) :=
  if g.tileW ≠ c.w then some (1, g.tileW, c.w)
  else if g.tileH ≠ c.h then some (2, g.tileH, c.h)
  else if g.nu ≠ c.nu ∨ g.nw ≠ c.nw then some (3, g.nu * 16 + g.nw, c.nu * 16 + c.nw)
  else if g.sx ≠ c.sx ∨ g.sy ≠ c.sy then some (4, g.sx * 16 + g.sy, c.sx * 16 + c.sy)
  else none

/-- The tile's CAPS disagree with the geometry in force, which names it. (DEDUCED, unsafe: log entry 77.) -/
def State.geomDiffers (s : State) (t : Nat) : Option (Nat × Nat × Nat) :=
  match s.geom, (s.port t).caps with
  | some g, some c => if (g.entry t).isSome then capsDiffer g c else none
  | _, _ => none

/-- REASON of the HOLD with MODE 1 under which every subframe of a tile goes: 2 power-off, 3 configuration mismatch or
not named by the geometry, 4 awaiting reconcile; none for a tile that shows content.
(DEDUCED, unsafe: log entry 52.) -/
def State.darkReason (s : State) (t : Nat) : Option Nat :=
  let d := s.tile t
  let unnamed := match s.geom with
    | some g => (g.entry t).isNone
    | none => false
  if d.stop = 1 then some 2
  else if (s.port t).mismatch ≠ 0 ∨ (s.geomDiffers t).isSome = true ∨ unnamed = true then some 3
  else if d.mode = 3 ∨ d.mode = 4 then none
  else some 4

/-- R254: a port has entered ACTIVE; content resumes, or reconcile runs, in PARASOL within the visit that woke it.  The hold
after a failed reconcile stands (R315). -/
def State.decideShow (s : State) (t tstate owner ownEpoch : Nat) : State :=
  let p := s.port t
  let s := s.modTile t TileDrive.settle
  let d := s.tile t
  let s := s.modTile t (fun d => { d with
    cause := if d.wasActive then 7 else d.cause, wasActive := true, tries := 0, seen := false, stop := 0, drive := none
    recent := [], exp := [none, none, none, none] })
  if !p.own then s.modTile t (fun d => { d with mode := 0 })
  else if (tstate = 1 ∨ tstate = 4) ∧ owner = s.ownerCode ∧ p.epoch = some ownEpoch then
    s.modTile t (fun d => { d with mode := 4, recon := 1, firstDue := false })
  else if d.mode = 5 ∨ d.mode = 6 then s
  else if s.dev.state == .boot || s.dev.state == .blanket || s.dev.state.full || (s.dev.state == .parasol && d.visit != 0) then
    s.reconcile t
  else s.modTile t (fun d => { d with mode := 0 })

/-- GEOM_MISMATCH where the CAPS of an ACTIVE tile disagree with the geometry in force (R144).
(DEDUCED, unsafe: log entry 77.) -/
def State.checkGeomMatch (s : State) (t : Nat) : State :=
  match s.geomDiffers t with
  | some (i, a, b) =>
    if (s.port t).geomBad then s
    else (s.modPort t (fun p => { p with geomBad := true })).raise 5 2 3 (packNat [at' 63 56 t, at' 55 48 i, at' 47 32 a, at' 31 16 b]) 0
  | none => s.modPort t (fun p => { p with geomBad := false })

/-! ### Ledgers (R306 to R308) -/

/-- R307: the inversion mode of the next drive; a new mode waits for L0 = L1 = 0. -/
def TileDrive.nextInv (d : TileDrive) (want : Nat) : Nat :=
  match d.inv with
  | none => want
  | some i => if d.l0 = 0 ∧ d.l1 = 0 then want else i

/-- R307: PHASE. -/
def TileDrive.phase (d : TileDrive) : Nat := if 0 < d.l0 then 1 else 0

/-- SUBFRAME_START (Table 10.4), as a drive of the tile's ledgers. -/
def State.sendStart (s : State) (t frame sf k repeat_ sCount dark : Nat) (fm : Option Nat) : State :=
  let s := s.modTile t TileDrive.settle
  let d := s.tile t
  let inv := d.nextInv (s.pget 0x0C000020)
  let ph := d.phase
  let w := linkHdr 0x10 [at' 119 112 sf, at' 111 108 k, at' 107 106 inv, at' 105 105 ph, at' 104 104 repeat_, at' 103 96 sCount,
    at' 95 64 frame, at' 63 48 dark, at' 32 32 0]
  let dl : Int := if ph = 1 then -1 else 1
  let x : Drive := { frame := frame % 2 ^ 32, sf := sf % 256, k := k, dl0 := dl, dl1 := if inv = 0 then dl else -dl, fm := fm }
  let s := s.modTile t (fun d => { d with inv := some inv, drive := some x, lastWord := some w, recent := (x :: d.recent).take 8 })
  s.sendTile t 0x10 [w]

/-- A keep-alive (R272): the last SUBFRAME_START of the port with KEEP = 1. (DESIGN CHOICE, unsafe: log entry 50.) -/
def State.sendKeep (s : State) (t : Nat) : State :=
  match (s.tile t).lastWord with
  | none => s
  | some w =>
    let body := w / 2 ^ 32 % 2 ^ 96
    let body := if bit body 0 then body else body + 1
    s.sendTile t 0x10 [body * 2 ^ 32 + crc32c (leBytes 12 body)]

end Sys2Proof.Machine
end

