-- ==== Sys2Proof/Machine/UnitOps.lean ====
section
/-! DEFINITION. Shared operations of the encoder records (spec/14), the compression jobs (spec/09) and the 2D engine
(spec/15): what ends them is used by the sag stages and the device states. -/

namespace Sys2Proof.Machine

/-! ### Encoder parameters -/

/-- A parameter of encoder stream n (Table 14.5): codes 1 enable, 2 codec, 3 size, 4 orient, 5 rate_div, 6 bitrate,
7 slice_rows, 8 slice_max_bytes, 9 idr_period, 10 dest, 11 flow. -/
def encId (n code : Nat) : Nat := 0x0E000100 + 0x100 * n + code

def State.encP (s : State) (n code : Nat) : Nat := s.pget (encId n code)

def State.encS (s : State) (n : Nat) : EncStream := s.enc.streams.getD n {}

def State.modEnc (s : State) (n : Nat) (f : EncStream → EncStream) : State :=
  { s with enc := { s.enc with streams := updAt s.enc.streams n f } }

/-! ### Records (Table 14.2, R357, R358) -/

/-- Bytes of a record with a payload of n bytes. -/
def recordSize (n : Nat) : Nat := 32 + 16 * ceilDiv n 16

/-- PAD bytes before a record of a size at an index of a ring. -/
def padBytes (ring tail size : Nat) : Nat := if ring < tail % ring + size then ring - tail % ring else 0

/-- The bytes of a record. -/
def recordBytes (type stream slice frame tf flags qp rseq : Nat) (payload : List Byte) : List Byte :=
  leBytes 16 (packNat [at' 127 120 type, at' 119 112 stream, at' 111 96 slice, at' 95 64 payload.length, at' 63 32 frame, at' 31 0 (crc32c payload)]) ++
  leBytes 16 (packNat [at' 127 48 (time80 tf), at' 47 40 flags, at' 39 32 qp, at' 31 0 rseq]) ++
  padTo (0 : Byte) (16 * ceilDiv payload.length 16) payload

/-- A parameter of port p (Table 16.22): 0 mode, 1 fec, 2 mtu, 3 vlan, 4 ip, 5 prefix. -/
def State.netP (s : State) (p k : Nat) : Nat := s.pget (0x12000100 + 0x10 * p + k)

/-- Where a port sends a datagram for an address: the address itself in its subnet and for a multicast group, else its gateway.
(PRESUMED, unsafe: log entry 93.) -/
def State.nextHop (s : State) (p ip : Nat) : Nat :=
  let host := 2 ^ (32 - s.netP p 5)
  if ip / host = s.netP p 4 / 2 ^ 32 / host ∨ bits ip 31 28 = 0xE then ip else s.netP p 4 % 2 ^ 32

/-- A datagram on a transmit flow, where the port's link is up and its MTU admits the payload (R358, R400). -/
def State.sendFlow (s : State) (flow : Nat) (bytes : List Byte) : State × Bool :=
  match s.time.flows.find? (fun f => f.n == flow && f.op == 2) with
  | none => (s, false)
  | some f =>
    let p := s.time.ports.getD f.port {}
    let upd (g : NetPort → NetPort) : State := { s with time := { s.time with ports := updAt s.time.ports f.port g } }
    if p.up && decide (bytes.length + 28 ≤ s.netP f.port 2) then
      ((upd (fun p => { p with txFrames := p.txFrames + 1 })).emit
        (.udp f.port f.remoteIp (s.nextHop f.port f.remoteIp) f.localPort f.remotePort f.dscp (s.netP f.port 3) bytes), true)
    else (upd (fun p => { p with txDropped := p.txDropped + 1 }), false)

/-- A record is stored: its payload and word 0 first, its word 1 last (R357). -/
def State.storeRecord (s : State) (addr : Nat) (rec_ : List Byte) : State :=
  ((s.emit (.hostWrite (addr + 32) (rec_.drop 32))).emit (.hostWrite addr (rec_.take 16))).emit (.hostWrite (addr + 16) (slice rec_ 16 16))

/-- Write a record: into the ring with the PAD it needs, or as a datagram; says whether it could be written with `spare`
bytes left for what must still fit. (DEDUCED, unsafe: log entry 65.) -/
def State.encRecord (s : State) (n type slice frame tf flags qp spare : Nat) (payload : List Byte) : State × Bool :=
  let e := s.encS n
  let size := recordSize payload.length
  if s.encP n 10 = 1 then
    let ran := s.sendFlow (s.encP n 11) (recordBytes type n slice frame tf flags qp e.rseq payload)
    let s := ran.1
    let ok := ran.2
    (if ok then s.modEnc n (fun e => { e with rseq := (e.rseq + 1) % 2 ^ 32 }) else s, ok)
  else
    match e.ring with
    | none => (s, false)
    | some (base, log2) =>
      let ring := 2 ^ log2
      let used := wsub 32 e.tail e.head
      let pad := padBytes ring e.tail size
      let after_ := e.tail + pad + size
      let need := pad + size + (if spare = 0 then 0 else padBytes ring after_ spare + spare)
      if ring < used + need then (s, false)
      else
        -- the PAD record fills the ring to its end
        let s :=
          if pad = 0 then s
          else
            let b := (recordBytes 0 n 0 frame tf 0 0 e.rseq (List.replicate (pad - 32) 0)).take pad
            (s.storeRecord (base + e.tail % ring) b).modEnc n (fun e => { e with
              tail := (e.tail + pad) % 2 ^ 32, starts := e.starts ++ [e.tail], rseq := (e.rseq + 1) % 2 ^ 32 })
        let e := s.encS n
        let s := s.storeRecord (base + e.tail % ring) (recordBytes type n slice frame tf flags qp e.rseq payload)
        (s.modEnc n (fun e => { e with
          tail := (e.tail + size) % 2 ^ 32, starts := e.starts ++ [e.tail], rseq := (e.rseq + 1) % 2 ^ 32 }), true)

/-- ARG2 of an encode event. -/
def State.encEvent (s : State) (code sev arg : Nat) : State := s.raise 0x0E code sev arg s.arg2f

/-- CTUs of slice i of a picture (R354). -/
def Coding.ctus (c : Coding) (i : Nat) : Nat := Nat.min c.rows (c.ctuRows - i * c.rows) * c.ctuCols

/-- Mean QP over the CTUs coded, rounded down. (DESIGN CHOICE, unsafe: log entry 92.) -/
def Coding.meanQp (c : Coding) : Nat := c.qpSum / sumN ((List.range c.next).map c.ctus)

/-- End the picture that codes with its PICTURE_END; a dropped one makes the next picture IDR (R355, R358, R359). -/
def State.encPictureEnd (s : State) (n : Nat) (c : Coding) : State :=
  let drop := decide (0 < c.dropped)
  let flags := b2n c.idr + 4 * b2n c.exhausted + 8 * b2n drop
  let qp := c.meanQp
  let payload := leBytes 16 (packNat [at' 127 96 c.bytes, at' 95 64 c.fallback])
  let ran := s.encRecord n 3 c.slices c.frame.toNat c.tf flags qp 0 payload
  let s := ran.1
  let s := s.modEnc n (fun e => { e with
    coding := none
    idrNext := e.idrNext || drop
    pictures := e.pictures + 1
    exhausted := if c.exhausted then e.exhausted + 1 else e.exhausted
    dropped := if drop then e.dropped + 1 else e.dropped
    skippedSince := 0 })
  let s := s.encEvent 1 0 (packNat [at' 63 56 n, at' 55 48 flags, at' 47 32 c.slices, at' 31 0 c.bytes])
  if drop then s.encEvent 2 2 (packNat [at' 63 56 n, at' 55 48 c.cause, at' 47 32 c.dropped]) else s

/-- The running picture, if any, ends as DROPPED for a cause of ENC_DROP. (DEDUCED, unsafe: log entry 65.) -/
def State.encDropRunning (s : State) (n cause : Nat) : State :=
  match (s.encS n).coding with
  | none => s
  | some c => s.encPictureEnd n { c with dropped := Nat.max 1 (c.slices - c.next), cause := cause }

/-- R359: a stream that runs is stopped; cause 1 sag stage, 2 baskets not allotted, 3 device state. One that a sag stage has
stopped already is held by the device state from then on. -/
def State.encStop (s : State) (n cause : Nat) : State :=
  let e := s.encS n
  if e.state = 3 ∧ cause = 3 then s.modEnc n (fun e => { e with state := 2 })
  else if e.state ≠ 1 then s
  else
    let s := s.encDropRunning n (if cause = 2 then 3 else 4)
    let s := s.modEnc n (fun e => { e with state := if cause = 1 then 3 else 2, idrNext := true })
    s.encEvent 4 2 (packNat [at' 63 56 n, at' 55 48 cause])

/-- Both streams stop. -/
def State.encStopAll (s : State) (cause : Nat) : State := (s.encStop 0 cause).encStop 1 cause

/-- A stream's scratch baskets (R350) are allotted and whole. -/
def State.encBuffers (s : State) (n : Nat) : Bool :=
  s.place.reserved.any (fun b => b.item == 15 + n) && s.place.reserved.all (fun b => b.item != 15 + n || !b.chans.isEmpty)

/-- R359: streams that a sag stage or a device state stopped resume with PARAMS and an IDR.
(DEDUCED, unsafe: log entry 65.) -/
def State.encResume (s : State) : State :=
  [0, 1].foldl (fun s n =>
    let e := s.encS n
    let back := (e.state == 3 && s.dev.state != .parasol && s.dev.state != .safe && s.dev.state != .shutdown)
      || (e.state == 2 && (s.dev.state == .service || s.dev.state == .reduced))
    if back && s.sagSeen == 0 && s.encBuffers n then s.modEnc n (fun e => { e with state := 1, idrNext := true, phase := 0 }) else s) s

/-! ### Compression jobs (R232 to R234) -/

/-- Final response payload of CMP_JOB (Table 9.8). -/
def cmpPayload (outLen src dst warn : Nat) (modes : List Nat) : List Word :=
  [packW [at' 127 96 outLen, at' 95 64 src, at' 63 32 dst, at' 31 0 warn],
   packW [at' 127 96 (modes.getD 0 0), at' 95 64 (modes.getD 1 0), at' 63 32 (modes.getD 2 0), at' 31 0 (modes.getD 3 0)]]

/-- The final response of a JOB object is held for want of room in its ring. -/
def State.rspHeld (s : State) (obj : Nat) : Bool :=
  s.host.mb.any (fun m => m.held.any (fun r => r.final && r.object.toNat == obj))

/-- The JOB objects whose final response is written, or of which none is asked, are destroyed (R232). -/
def State.freeJobs (s : State) : State :=
  ((s.objs.objs.filter (fun o => o.cls == 8 && !s.comp.jobs.any (fun j => j.obj == o.id) && !s.rspHeld o.id)).map (·.id)).foldl
    State.removeObj s

/-- A job ends; its JOB object goes with the final response (R232). -/
def State.endCmpJob (s : State) (j : CmpJob) (status : Nat) (payload : List Word) : State :=
  let s := { s with comp := { s.comp with
    jobs := s.comp.jobs.filter (fun k => k.obj != j.obj)
    jobAt := if s.comp.jobs.head?.any (fun (k : CmpJob) => k.obj == j.obj) then s.now else s.comp.jobAt
    jobsOk := if status = stOk ∨ status = stWarn then s.comp.jobsOk + 1 else s.comp.jobsOk
    jobsFailed := if status = stOk ∨ status = stWarn then s.comp.jobsFailed else s.comp.jobsFailed + 1 } }
  let s := match s.findJob (fun k => k.key == .cmpJob j.obj) with
    | some k => s.endJob k.id status payload
    | none => s
  s.freeJobs

/-- A job ends without committing. -/
def State.failCmpJob (s : State) (j : CmpJob) (status : Nat) : State := s.endCmpJob j status (cmpPayload 0 j.gotSrcCrc 0 0 [])

/-- Every job ends without committing; CMP_JOBS_ENDED for a cause above 0. -/
def State.endCmpJobs (s : State) (status cause : Nat) : State :=
  let js := s.comp.jobs
  let s := js.foldl (fun s j => s.failCmpJob j status) s
  if js.isEmpty || cause == 0 then s else s.raise 9 2 2 (packNat [at' 63 56 cause, at' 55 48 js.length]) 0

/-! ### 2D engine (R374 to R380) -/

/-- One side of an operation. -/
structure G2dSide where
  host : Bool
  obj : Nat
  format : Nat
  pitch : Nat
  w : Nat
  h : Nat
  x : Nat
  y : Nat
  addr : Nat
  deriving DecidableEq, Repr

/-- The header of a SURFACE object: format, W, H, PITCH (Table 15.9). -/
def surfHeader (bs : List Byte) : Nat × Nat × Nat × Nat :=
  let w := wordAt bs 0
  (bits w 87 80, bits w 63 48, bits w 47 32, bits w 31 0)

/-- A side from its latched registers; none where a KIND 0 ID is unknown, destroyed, LOST or no SURFACE. -/
def State.g2dSide (s : State) (lo hi desc xy : Reg) : Option G2dSide :=
  let v := hi.toNat * 2 ^ 32 + lo.toNat
  let d := desc.toNat
  let x := bits xy.toNat 15 0
  let y := bits xy.toNat 31 16
  if bit d 31 then
    some { host := true, obj := 0, format := bits d 29 28, pitch := bits d 17 0, w := 0, h := 0, x := x, y := y, addr := v }
  else
    match s.obj? v with
    | none => none
    | some o =>
      if o.cls ≠ 2 ∨ o.creating = true ∨ o.lost = true then none
      else
        let (f, w, h, p) := surfHeader o.data
        some { host := false, obj := v, format := f, pitch := p, w := w, h := h, x := x, y := y, addr := 0 }

/-- The sides of the latched operation: source (none for FILL) and destination. -/
def State.g2dSides (s : State) : Option (Option G2dSide × G2dSide) :=
  let r := s.direct.g2d.lat
  match s.g2dSide r.dstLo r.dstHi r.dstDesc r.dstXy with
  | none => none
  | some d =>
    if bits r.op.toNat 2 0 = 2 then some (none, d)
    else
      match s.g2dSide r.srcLo r.srcHi r.srcDesc r.srcXy with
      | none => none
      | some a => some (some a, d)

/-- Byte offset of a side's rectangle row in a SURFACE's data, or the host address. -/
def G2dSide.rowAt (g : G2dSide) (i : Nat) : Nat := (if g.host then g.addr else 16) + (g.y + i) * g.pitch + g.x * g2dSize g.format

/-- Row i of the rectangle in processing order n. -/
def g2dRowIndex (dir h n : Nat) : Nat := if dir = 1 then h - 1 - n else n

/-- Bytes of a side's row: from the surface as it stands, or what the host read returned. -/
def State.g2dRead (s : State) (g : G2dSide) (i w : Nat) (got : List Byte) : List Byte :=
  if g.host then got
  else
    match s.obj? g.obj with
    | some o => slice o.data (g.rowAt i) (w * g2dSize g.format)
    | none => []

/-- Write bytes at the start of row i of the destination. -/
def State.g2dWrite (s : State) (g : G2dSide) (i : Nat) (bs : List Byte) : State :=
  if g.host then s.emit (.hostWrite (g.rowAt i) bs)
  else s.modObj g.obj (fun o => { o with data := putBytes o.data (g.rowAt i) bs })

/-- The output bytes of processing step n. -/
def State.g2dOut (s : State) (a : Option G2dSide) (d : G2dSide) (n : Nat) (got : G2dHostRow) : List Byte :=
  let r := s.direct.g2d.lat
  let w := bits r.size.toNat 15 0
  let h := bits r.size.toNat 31 16
  let op := bits r.op.toNat 2 0
  let i := g2dRowIndex (b2n (bit r.op.toNat 8)) h n
  let fill := r.fillHi.toNat * 2 ^ 32 + r.fillLo.toNat
  let src := match a with
    | some g => s.g2dRead g i w got.src
    | none => []
  let dst := if op = 3 then s.g2dRead d i w got.dst else []
  g2dRow op (match a with | some g => g.format | none => d.format) d.format fill src dst w 0

/-- The whole rows of R377, steps n on. -/
def State.g2dRows (s : State) (a : Option G2dSide) (d : G2dSide) : Nat → List G2dHostRow → State
  | _, [] => s
  | n, got :: rest =>
    let r := s.direct.g2d.lat
    let i := g2dRowIndex (b2n (bit r.op.toNat 8)) (bits r.size.toNat 31 16) n
    let s := s.g2dWrite d i (s.g2dOut a d n got)
    let s := { s with direct := { s.direct with g2d := { s.direct.g2d with rowsDone := s.direct.g2d.rowsDone + 1 } } }
    s.g2dRows a d (n + 1) rest

/-- The operation ends (R376): BUSY clears, ERROR and OPS are written, DONE is set and vector 18 signalled. -/
def State.g2dFinish (s : State) (error : Nat) : State :=
  let g := s.direct.g2d
  let s := { s with direct := { s.direct with g2d := { g with busy := false, error := BitVec.ofNat 8 error, ops := g.ops + 1, done := true } } }
  if g.done then s else s.setPend 18

/-- The running operation ends after the given rows; of the next row `partial_` bytes may be written (R379). -/
def State.g2dEnd (s : State) (rows : List G2dHostRow) (partial_ : Nat) (next : G2dHostRow) (error : Nat) : State :=
  if !s.direct.g2d.busy then s
  else
    let h := bits s.direct.g2d.lat.size.toNat 31 16
    let rows := rows.take h
    match s.g2dSides with
    | none => s.g2dFinish error
    | some (a, d) =>
      let s := s.g2dRows a d 0 rows
      let n := rows.length
      let s :=
        if partial_ = 0 ∨ h ≤ n then s
        else
          let i := g2dRowIndex (b2n (bit s.direct.g2d.lat.op.toNat 8)) h n
          s.g2dWrite d i ((s.g2dOut a d n next).take partial_)
      s.g2dFinish error

/-- An operation that another event ends at a row boundary (R380): how many rows it has written is a free value, and so
is what host memory returned to its reads (log entry 3).
(DESIGN CHOICE, safe: log entry 3; DEDUCED, unsafe: log entry 67.) -/
def State.g2dForce (s : State) (error : Nat) : State :=
  if !s.direct.g2d.busy then s
  else
    let h := bits s.direct.g2d.lat.size.toNat 31 16
    let w := bits s.direct.g2d.lat.size.toNat 15 0
    let ran := s.takeFree (h + 1)
    let s := ran.1
    let n := ran.2
    let bytes (k : Nat) : List Byte := (List.range (8 * w)).map (fun i => BitVec.ofNat 8 (Config.freeNat (s.free + k * 8 * w + i)))
    let rows := (List.range n).map (fun k => ({ src := bytes (2 * k), dst := bytes (2 * k + 1) } : G2dHostRow))
    let s := { s with free := s.free + n * 16 * w }
    s.g2dEnd rows 0 {} error

end Sys2Proof.Machine
end

