-- ==== Sys2Proof/Machine/TimOps.lean ====
section
/-! DEFINITION. The panel grid (spec/11) and the power domains (spec/17) as shared operations. -/

namespace Sys2Proof.Machine

/-! ### The panel grid (R267, R271, R274) -/

/-- Frame rate of `tim.panel_mode` in force. -/
def State.modeFps (s : State) : Nat := bits (s.pget 0x0B000001) 7 0

/-- DARK_US of `tim.panel_mode` in force. -/
def State.modeDark (s : State) : Nat := bits (s.pget 0x0B000001) 31 16

/-- Steering states of the geometry in force, 1 without one. -/
def State.geomStates (s : State) : Nat :=
  match s.geom with
  | some g => g.states
  | none => 1

/-- Frame rate and steering states that the device state asks for: 30 Hz and S = 1 in BLANKET (R271). -/
def State.wantedTiming (s : State) : Nat × Nat :=
  if s.dev.state == .blanket then (30, 1) else (s.modeFps, s.geomStates)

/-- The part of the slew that boundary k has taken: each subframe of the frame takes its share (R268). -/
def Tim.slewed (t : Tim) (k : Int) : Int := t.slew * clampI (k - t.slewK) 0 t.sCount / (t.sCount : Int)

/-- TB0 in ns of boundary k of the timing in force (R267): a cycle is 4 ns; while locked, a slewed one. -/
def Tim.boundaryNs (t : Tim) (k : Nat) : Nat :=
  (((t.t0 + ceilDiv (k * 250000000) (t.fps * t.sCount) * 4 : Nat) : Int) + t.slewed k).toNat

/-- At a Tf the slew of the frame that ends is taken whole, and the slew of the frame that begins is d. -/
def Tim.slewBy (t : Tim) (d : Int) : Tim :=
  { t with t0 := ((t.t0 : Int) + t.slewed t.nextK).toNat, slew := d, slewK := t.nextK }

/-- A timing begins: boundary 0 at a time of TB0 in ns, its cycle not slewed. -/
def Tim.origin (t : Tim) (t0 : Nat) : Tim := { t with t0 := t0, nextK := 0, slew := 0, slewK := 0 }

/-- Index of the boundary that is the next Tf. -/
def Tim.nextTf (t : Tim) : Nat := ceilDiv t.nextK t.sCount * t.sCount

/-- TB0 in ns of Tf of the frame j after the next one. -/
def Tim.tfNs (t : Tim) (j : Nat) : Nat := t.boundaryNs (t.nextTf + j * t.sCount)

/-- Tp in ns, rounded up to a cycle. -/
def Tim.tp (t : Tim) : Nat := ceilDiv 250000000 t.fps * 4

/-- The frame j after the next one begins a pair, or frames are not paired (R273). -/
def Tim.begins (t : Tim) (j : Nat) : Bool := !t.pairing || (if t.second then j % 2 == 0 else j % 2 == 1)

/-- The first frame that begins a pair and whose commit window is still open at a time (it closes 500 µs before Tf, R15), as the number of frames after
the next one, among the next n (R60, R274). -/
def Tim.firstOpen (t : Tim) (now : Nat) : Nat → Nat → Nat
  | 0, j => j
  | n + 1, j => if t.begins j && decide (now + 500000 < t.tfNs j) then j else t.firstOpen now n (j + 1)

/-- The number of the first frame whose commit window is open; without a grid (PARASOL, where a visit is the boundary of
Table 12.9) that of the next one. -/
def State.openFrame (s : State) : Nat := if s.tim.on then (s.tim.nextFrame.toNat + s.tim.firstOpen s.now 5 0) % 2 ^ 32 else s.tim.nextFrame.toNat

/-- ns to the next grid point of a timing, by the source and the phase that the new mode takes (R268, Table 11.2). -/
def State.gridWait (s : State) (get : Nat → Nat) (fps : Nat) : Nat :=
  if get 0x0B000002 = 0 then 0
  else
    match s.baseNs 3 with
    | none => 0
    | some b =>
      let x : Int := (((get 0x0B000003 * fps : Nat) : Int) - ((b % 1000000000 * fps : Nat) : Int)) % 1000000000
      ceilDiv x.toNat fps

/-- The grid starts in the timing that the device state asks for, at its next grid point (R268, R328): of a locked source the point
that TB3 gives, else within a subframe. (DESIGN CHOICE, safe: log entry 3.) -/
def State.startGrid (s : State) : State :=
  if s.tim.on then s
  else
    let (f, n) := s.wantedTiming
    let ran := s.takeFree (ceilDiv 1000000000 (f * n))
    let s := ran.1
    let d := if s.pget 0x0B000002 = 0 ∨ (s.baseNs 3).isNone then ran.2 else s.gridWait s.pget f
    { s with tim := { (s.tim.origin (s.now + d)) with on := true, fps := f, sCount := n, dark := s.modeDark, begun := false, lastSub := none
                                                      pairing := false, second := false, selected := none } }

/-- The grid stops: no boundary, no rows (R271, R317). -/
def State.stopGrid (s : State) : State :=
  { s with
    tim := { s.tim with on := false, begun := false, selected := none, change := none, lastSub := none, pairing := false, second := false, scan := [] }
    synth := { s.synth with cur := none, next := none, bands := [], todo := [], clusters := s.synth.clusters.map (fun c => { c with list := [], disp := [] }) } }

/-! ### Power domains (R408 to R410, Table 17.1) -/

/-- Encoder core c serves a running stream: its stream's, or both of a team of 2. -/
def State.encCoreUsed (s : State) (c : Nat) : Bool :=
  (s.sagSeen == 0) &&
  (((s.encS c).state == 1) || ((s.encS 0).state == 1 && (s.encS 0).team == 2) || ((s.encS 1).state == 1 && (s.encS 1).team == 2))

/-- Every element of a run of n from an index of a list passes a test. -/
def allFrom {α : Type} (p : α → Bool) (xs : List α) (first n : Nat) : Bool := (slice xs first n).all p

/-- Table 17.1 has domain d on in the present state.  In SHUTDOWN a domain goes off once no tile is powered (R468). -/
def State.domWanted (s : State) (d : Nat) : Bool :=
  let st := s.dev.state
  let tilesUp := s.panel.tiles.any (·.powered)
  if d = 1 then true
  else if st = .off then false
  else if d ≤ 4 ∨ s.start.served.contains d = true then true
  else if st = .shutdown ∧ tilesUp = false then d == 48 && s.start.selftest.isSome
  else if 6 ≤ d ∧ d ≤ 17 then
    (st.full || st == .safe || st == .shutdown ||
      (st == .blanket && (s.start.synth == 1 || (s.start.synth == 2 && decide (16 ≤ s.channels))))) &&
    !allFrom (fun c => c.failed || c.disabled) s.synth.clusters (4 * (d - 6)) 4
  else if 18 ≤ d ∧ d ≤ 23 then
    st != .boot && st != .parasol && !allFrom (fun c => c.failed || c.disabled) s.dec.cores (4 * (d - 18)) 4
  else if d = 24 ∨ d = 25 then s.encCoreUsed (d - 24)
  else if d = 26 then st != .boot && st != .parasol
  else if d = 28 then !s.comp.jobs.isEmpty && decide (s.sagSeen < 2)
  else if d = 29 then s.direct.g2d.busy && decide (s.sagSeen < 2)
  else if d = 31 then s.pget 0x0B000013 == 1 && decide (s.sagSeen < 2)
  else if 32 ≤ d ∧ d ≤ 39 then !allFrom (fun c => c.state == 3) s.mem.chans (4 * (d - 32)) 4
  else if 40 ≤ d ∧ d ≤ 43 then !allFrom (fun p => p.state == 0) s.link.ports (4 * (d - 40)) 4
  else if d = 44 then s.dev.pairCfg
  else if d = 45 then (List.range 4).any (fun p => s.pget (0x12000100 + 0x10 * p) != 0)
  else if d = 47 then s.fw.staging.isSome || s.start.selftest.isSome
  else if d = 48 then s.start.selftest.isSome
  else if d = 49 then st == .blanket
  else true

/-- R409, R410: an enable or a disable arrives at a domain, at a TB0 time. -/
def Domain.request (now : Nat) (want : Bool) (x : Domain) : Domain :=
  if x.failed then x
  else
    match x.st with
    | 0 => { x with wantUp := want, held := none }
    | 1 => { x with held := if want then none else some false }
    | 2 => if want then { x with held := none } else { x with st := 3, held := none, since := now }
    | _ => { x with held := if want then some true else none }

def State.domain (s : State) (d : Nat) : Domain := s.pwr.domains.getD (d - 1) {}

def State.modDomain (s : State) (d : Nat) (f : Domain → Domain) : State :=
  { s with pwr := { s.pwr with domains := updAt s.pwr.domains (d - 1) f } }

/-- Requests to a list of domains from number d on. -/
def requestAll (now : Nat) (w : Nat → Bool) : Nat → List Domain → List Domain
  | _, [] => []
  | d, x :: xs => x.request now (w d) :: requestAll now w (d + 1) xs

/-- Bring the requests of every domain in line with Table 17.1. -/
def State.powerSync (s : State) : State := { s with pwr := { s.pwr with domains := requestAll s.now s.domWanted 1 s.pwr.domains } }

/-! ### Figures of a stream (R350 to R355) -/

/-- W and H of `enc.n.size`. -/
def State.encW (s : State) (n : Nat) : Nat := bits (s.encP n 3) 31 16

def State.encH (s : State) (n : Nat) : Nat := bits (s.encP n 3) 15 0

/-- Size of a CTU (Table 14.1). -/
def ctuSize (codec : Nat) : Nat := if codec = 2 then 128 else 64

/-- CTU rows, CTUs in a row, slices of a picture (R354). -/
def ctuRows (codec h : Nat) : Nat := ceilDiv h (ctuSize codec)

def sliceCount (codec h rows : Nat) : Nat := ceilDiv (ctuRows codec h) rows

def State.encSlices (s : State) (n : Nat) : Nat := sliceCount (s.encP n 2) (s.encH n) (s.encP n 7)

/-- The smallest team whose throughput at the worst corner reaches a demand of W × H × F / RATE_DIV (R351). -/
def encTeam (w h fps div : Nat) : Nat := ceilDiv (w * h * fps) (div * 1030000000)

/-- Baskets of R350. -/
def encBaskets (w h : Nat) : Nat := ceilDiv (9 * w * h) basketBytes

/-- level_idc of a stream by its parameters in force (R352). -/
def State.encLevel (s : State) (n : Nat) : Nat := levelIdc (s.encP n 2) (s.encW n) (s.encH n) s.modeFps (s.encP n 5) (s.encP n 6)

/-! ### Enabling and disabling (R350, R357) -/

/-- The scratch baskets of a stream are allotted for its SIZE, or the stream stops (R350, Table 14.3). -/
def State.encAllot (s : State) (n : Nat) : State :=
  let s := s.unreserve (fun b => b.item == 15 + n)
  let ps := encPlan n (encBaskets (s.encW n) (s.encH n))
  if s.fits ps then s.reserve ps else s.encStop n 2

/-- `enc.n.enable` goes to 1: an empty ring, the first picture IDR, buffers. -/
def State.encEnable (s : State) (n : Nat) : State :=
  let st := if s.sagSeen ≠ 0 then 3 else if s.dev.state.run && s.dev.state != .parasol then 1 else 2
  let s := s.modEnc n (fun e => { ({} : EncStream) with
    state := st, ring := e.ring, level := s.encLevel n, team := encTeam (s.encW n) (s.encH n) s.modeFps (s.encP n 5)
    pictures := e.pictures, exhausted := e.exhausted, skipped := e.skipped, dropped := e.dropped })
  s.encAllot n

/-- Streams that are enabled as the device leaves BOOT. -/
def State.encBoot (s : State) : State :=
  [0, 1].foldl (fun s n => if s.encP n 1 = 1 ∧ (s.encS n).state = 0 then s.encEnable n else s) s

/-! ### START_PHASE (Table 19.10) -/

/-- ARG2 of a start-up event: the panel frame, or 0 before the generator runs. -/
def State.startArg2 (s : State) : Nat := if s.tim.begun then s.arg2f else 0

/-- A milestone of the start, once for each BOOT. -/
def State.milestone (s : State) (m : Nat) : State :=
  if bit s.start.milestones m then s
  else
    ({ s with start := { s.start with milestones := putBit s.start.milestones m true } } : State).raise 0x16 1 1
      (packNat [at' 63 56 m, at' 55 48 (b2n s.start.full), at' 47 40 (if s.start.full then s.start.cause else 0),
        at' 31 0 (Nat.min 0xFFFFFFFF ((s.now - s.start.t0) / 1000000))]) s.startArg2

end Sys2Proof.Machine
end

