-- ==== Sys2Proof/Machine/Transit.lean ====
section
/-! DEFINITION. Device-state transitions (spec/01 section 1.5), the pair's roles and claims (spec/18 sections 18.6 to
18.8), and what each state's entry does to the units. -/

namespace Sys2Proof.Machine

/-! ### A COMMIT that does not come to its end (R30, R62) -/

/-- Each value of a COMMIT back in staging, in force or not; a newer staged value stays (R62). -/
def unstaged (c : PendingCommit) (staged : List PVal) : List PVal :=
  staged ++ c.all.filter (fun p => !staged.any (fun q => q.id == p.id))

/-- The pending COMMIT completes with a status and its values return to staging. -/
def State.dropCommit (s : State) (status : Nat) : State :=
  match s.par.commit with
  | none => s
  | some c =>
    let s := { s with
      par := { s.par with commit := none, staged := unstaged c s.par.staged }
      -- the rebuild goes on with the values that stay in force
      panel := { s.panel with rebuild := match s.panel.rebuild with
                                         | some r => if r.job = some c.job then some {} else some r
                                         | none => none } }
    s.endJob c.job status []

/-- SUBFRAME_STARTs go again to the tiles that a mode change stopped (R309). -/
def State.restartTiles (s : State) : State :=
  { s with panel := { s.panel with tiles := s.panel.tiles.map (fun (d : TileDrive) => if d.off = 0 then { d with stop := 0 } else d) } }

/-- A timing mode change stops where it stands, and the old mode stays (Table 11.3); where its two frames are over, the old grid
goes on with the first whole frame to come. (DEDUCED, unsafe: log entry 49.) -/
def State.stopChange (s : State) : State :=
  match s.tim.change with
  | none => s
  | some _ =>
    let t := s.tim
    let k := ceilDiv (ceilDiv ((s.now - t.t0) * t.fps * t.sCount) 1000000000) t.sCount * t.sCount
    ({ s with tim := { t with change := none, nextK := if t.boundaryNs t.nextK < s.now then Nat.max t.nextK k else t.nextK } } : State).restartTiles

/-! ### The pair (R437 to R447) -/

/-- The side owns the tiles by its role: always in the single configuration (Table 18.8). -/
def State.owns (s : State) : Bool := !s.dev.pairCfg || s.pair.role == 1 || s.pair.role == 3

/-- PAIR_ROLE and the new role (R437). -/
def State.roleGo (s : State) (new cause : Nat) : State :=
  let old := s.pair.role
  if old = new then s
  else
    ({ s with pair := { s.pair with role := new } } : State).raise 0x15 1 (if old = 1 ∨ old = 3 then 2 else 1)
      (packNat [at' 63 56 new, at' 55 48 old, at' 47 40 cause, at' 31 0 s.pair.epoch]) s.arg2f

/-- The smallest epoch of the side's parity above every epoch it has seen (R441): A odd, B even. -/
def State.claimEpoch (s : State) : Nat :=
  let e := s.pair.epochSeen + 1
  if e % 2 = b2n (!s.dev.sideB) then e else e + 1

/-- Claim every tile: OWN = 1 in a HEARTBEAT to each ACTIVE tile (R441). (DEDUCED, unsafe: log entry 60.) -/
def State.claimAll (s : State) : State :=
  let e := s.claimEpoch
  let s := { s with pair := { s.pair with epoch := e, epochSeen := e } }
  tileNums.foldl (fun s t =>
    let s := s.modPort t (fun p => { p with own := true, epoch := some e })
    if (s.port t).state = 5 then s.sendHeartbeat t else s) s

/-- Give up every tile: OWN = 0 in a HEARTBEAT to each ACTIVE tile. -/
def State.disownAll (s : State) : State :=
  tileNums.foldl (fun s t =>
    let s := s.modPort t (fun p => { p with own := false })
    if (s.port t).state = 5 then s.sendHeartbeat t else s) s

/-- Words of a cross-link STATE message. -/
def State.stateWords (s : State) : List Nat :=
  [s.pair.role, s.dev.state.code, s.channels, s.pwr.stage, b2n s.pair.ready, s.pair.epoch, s.tim.frame.toNat,
   s.tim.boundaryNs s.tim.nextK, s.pair.digest]

/-- Steps 2 and 3 of R446, once no EMIT_OFF of step 1 awaits its ACK: HANDOVER, OWN = 0, TILE_PWR_EN low. -/
def State.handoverStep (s : State) : State :=
  if s.link.ports.any (fun p => p.acks.any (fun a => a.why == 12)) then s
  else
    let s := s.emit (.xlink 2 [2, s.pair.epoch])
    let s := s.disownAll
    tileNums.foldl (fun s t => if (s.tile t).powered then s.powerLow t else s) s

/-- Step 1 of R446: EMIT_OFF to every tile it owns. (DEDUCED, unsafe: log entry 60.) -/
def State.handover (s : State) (cause : Nat) : State :=
  let s := tileNums.foldl (fun s t =>
    let s := s.modTile t (fun d => { d with mode := 0, recon := 0, stop := 2, off := 2, cause := cause, firstDue := false })
    if s.ownActive t then (s.modPort t (fun p => { p with acks := p.acks.map AckWait.mute })).sendPower t 2 0 0 12 else s) s
  s.handoverStep

/-- The tiles of a side that enters SAFE, or SHUTDOWN by sag or heat (R446, R317). -/
def State.tilesFast (s : State) (cause : Nat) : State :=
  if s.dev.pairCfg && s.owns && s.pair.partnerReady then s.handover cause else s.fastOff cause

/-- Entry to SAFE, SHUTDOWN or BOOT takes the role NONE; a planned switchover is not made (R448). -/
def State.leavePair (s : State) : State :=
  if !s.dev.pairCfg then s
  else
    let ids := s.jobIds (fun j => j.key == .pairCtrl)
    let s := ({ s with pair := { s.pair with switch := none, ready := false } } : State).endJobs ids stAborted
    s.roleGo 0 4

/-- A planned switchover begins (Table 18.11, kinds 1 and 4). (DEDUCED, unsafe: log entry 60.) -/
def State.beginSwitch (s : State) (kind : Nat) (toUs yield : Bool) : State :=
  let s := { s with pair := { s.pair with switch := some { kind := kind, t0 := s.now, toUs := toUs, yield := yield } } }
  if toUs then s else s.emit (.xlink 2 [kind, s.pair.epoch])

/-! ### What the units do at a transition -/

/-- The access unit that the stream's cores hold. -/
def DStream.atCore (x : DStream) : List AuItem := (x.running.toList ++ x.queued.toList).map (·.item)

/-- A stream of other cores' work stands in the way: another stream's access unit runs on a core of this stream's team. -/
def State.coreBusy (s : State) (x : DStream) : Bool :=
  s.dec.streams.any (fun (y : DStream) => y.id != x.id && y.running.isSome && y.team.any x.team.contains)

/-- The access unit queued at a stream's core starts if the core is free (R114). -/
def State.startWaiting (s : State) (d : StreamId) : State :=
  match s.dec.streams.find? (fun (x : DStream) => x.id == d && x.queued.isSome && !s.coreBusy x) with
  | none => s
  | some _ => { s with dec := { s.dec with streams := s.dec.streams.map (fun (x : DStream) =>
      if x.id = d then { x with running := x.queued.map (fun r => { r with t0 := s.now, epoch := s.place.epoch.toNat }), queued := none } else x) } }

/-- Every access unit queued at a core that has become free starts. -/
def State.startQueued (s : State) : State := (s.dec.streams.map (fun (x : DStream) => x.id)).foldl State.startWaiting s

/-- R130: running access units are discarded, and every stream waits for a random-access point. -/
def DStream.shed (x : DStream) : DStream :=
  { x with
    running := none
    queued := none
    queue := x.atCore.map (fun it => { it with kind := 1 }) ++ x.queue
    gdr := false, waitReason := 4, state := if x.state = 0 then 0 else 1 }

def State.shedDecoders (s : State) : State := { s with dec := { s.dec with streams := s.dec.streams.map DStream.shed } }

/-- MEM_SETPOINT, the event. -/
def State.setpointEvent (s : State) (r : SpRequest) (what : Nat) : State :=
  s.raise 0x0D 5 (1 + what) (packNat [at' 63 56 r.target, at' 55 48 what, at' 47 40 r.requester, at' 31 0 (Nat.min 0xFFFFFFFF ((s.now - r.t0) / 1000))]) s.arg2f

/-- Self-refresh of every channel begins or ends: a long stall each (Table 13.4, R346). -/
def State.selfRefreshGo (s : State) (on : Bool) : State :=
  if s.mem.selfRefresh == on then s
  else { s with mem := { s.mem with
    selfRefresh := on, stalls := s.mem.stalls + 1, refreshAt := if on then s.mem.refreshAt else s.now
    chans := s.mem.chans.map (fun (c : MemChan) => { c with banks := c.banks.map (fun (b : Bank) => { b with openRow := none }) }) } }

/-- The ray tiles and bands in work are given up. -/
def State.clearSynth (s : State) : State :=
  { s with synth := { s.synth with
      cur := none, next := none, bands := [], todo := [], escTiles := [], retired := [], sourceDue := none
      clusters := s.synth.clusters.map (fun c => { c with list := [], disp := [] }) } }

/-- The device asks for a set point (R343): a request that was pending gives way with ABORTED. -/
def State.askSetpoint (s : State) (target requester : Nat) : State :=
  let ids := s.jobIds (fun j => j.key == .memSetpoint)
  if s.mem.setpoint = target then
    match s.mem.request with
    | some _ => ({ s with mem := { s.mem with request := none } } : State).endJobs ids stAborted
    | none => s
  else ({ s with mem := { s.mem with request := some { target := target, requester := requester, t0 := s.now } } } : State).endJobs ids stAborted

/-- The jobs of a state that ends them all but its own. -/
def State.endAllJobs (s : State) (keep : Job → Bool) : State := s.endJobs (s.jobIds (fun j => !keep j)) stAborted

/-- The reduction bits of Table 1.5. -/
def State.reduction (s : State) : Nat := b2n s.dev.halfRate + 2 * b2n s.dev.decimated

/-- The reduction that channel count and sag stage ask for: half rate, decimation. -/
def State.wantedReduction (s : State) : Bool × Bool :=
  ((decide (s.channels ≤ 27) || decide (4 ≤ s.pwr.stage)), decide (3 ≤ s.pwr.stage))

/-- STATE_CHANGE (Table 1.5); `fault`: a safety fault brings it about. -/
def State.stateChange (s : State) (old : DevState) (reason : Nat) (fault : Bool) : State :=
  let sev := if s.dev.state == .safe then (if fault then 4 else 3) else 1
  s.raise 1 1 sev (packNat [at' 63 56 old.code, at' 55 48 s.dev.state.code, at' 47 32 reason, at' 31 0 s.tim.frame.toNat])
    (packNat [at' 47 40 s.channels, at' 39 32 s.pwr.stage, at' 31 24 s.reduction])

/-- SAFE (Table 1.3, R234, R266, R312, R317, R359, R380, R446). -/
def State.onSafe (s : State) : State :=
  let s := (s.endCmpJobs stAborted 0).g2dForce 9
  let s := s.encStopAll 3
  let s := { s with
    panel := { s.panel with regions := [], enterStage := 0 }
    place := { s.place with reserved := s.place.reserved.filter (fun (b : Basket) => b.item != 17) }
    mem := { s.mem with request := none }
    link := { s.link with eye := none }
    saf := { s.saf with safeStateLow := true, test := none } }
  let s := (s.emit (.pin "SAFE_STATE_N" false)).setPend 0
  let s := s.tilesFast 4
  let s := s.endAllJobs (fun j => match j.key with
    | .tilePower _ _ => false
    | .regionUpdate _ => false
    | .memSetpoint => false
    | .memRetrain _ => false
    | .eyeScan => false
    | .safetyTest => false
    | .parasolEnter => false
    | .parasolWake => false
    | .shutdown => false
    | _ => true)
  let s := s.stopGrid
  s.leavePair

/-- SHUTDOWN (R28, R234, R327, R359, R380, R443, R468): the host's powers off in order, from PARASOL as R317 does; sag stage S6
and heat at once. -/
def State.onShutdown (s : State) (reason : Nat) (old : DevState) : State :=
  let fast := reason == 4 || reason == 5
  let s := (s.endCmpJobs stAborted 0).g2dForce 9
  let s := s.encStopAll 3
  let s := { s with
    panel := { s.panel with regions := [], enterStage := 0 }
    place := { s.place with reserved := s.place.reserved.filter (fun (b : Basket) => b.item != 17) }
    mem := { s.mem with request := none }
    link := { s.link with eye := none }
    saf := { s.saf with test := none }
    start := { s.start with shutReason := reason, shutAt := s.now, thermalLock := s.start.thermalLock || reason == 5
                            shutTest := s.start.shutTest && !fast, forceFull := s.start.forceFull || fast } }
  let s := s.endAllJobs (fun j => match j.key with
    | .shutdown => true
    | .pairCtrl => true
    | _ => false)
  if fast then
    let s := (s.tilesFast (if reason = 4 then 5 else 6)).stopGrid
    s.leavePair
  else if s.dev.pairCfg && s.owns && s.pair.partnerReady then s.beginSwitch 1 false false
  else if old == .parasol then (s.fastOff 3).stopGrid.leavePair
  else
    let s := s.leavePair
    let s := tileNums.foldl (fun s t => s.orderlyOff t 3) s
    if s.tim.on && s.panel.tiles.any (·.powered) then s else s.stopGrid

/-- Segments of a channel that `mem.pasr` masks: those above its critical and scratch baskets and the tables, which the
placer keeps lowest (R345, R346); a segment is one eighth of 2^32 bytes, eight ninths of it data. -/
def State.maskedSegments (s : State) (ch : Nat) : Nat :=
  let n := sumN (s.allBaskets.map (fun b => if b.cls = 1 then 0 else countP (· == ch) b.usedOn))
  8 - Nat.min 8 (ceilDiv (n * 9 * basketBytes + 2 ^ 35 - channelBaskets * 9 * basketBytes) (2 ^ 32))

/-- PARASOL (R130, R175, R341, R343, R345, R346, R359): passes end, a set point is asked for, the channels refresh
themselves; without a host's entry under way, the power-down of the tiles waits for the next boundary. -/
def State.onParasol (s : State) (reason : Nat) : State :=
  let s := s.encStopAll 3
  let s := s.shedDecoders
  let s := s.clearSynth
  let ids := s.jobIds (fun j => match j.key with | .memRetrain _ => true | _ => false)
  let s := { s with
    panel := { s.panel with lastVisit := s.now, visitsEntry := 0, enterStage := if reason = 2 then 2 else 4 }
    mem := { s.mem with chans := s.mem.chans.map (fun (c : MemChan) => { c with pass := none, result := none }) } }
  let s := s.endJobs ids stAborted
  let both := s.mem.chans.all (fun c => c.state != 1 || c.m1.ok)
  let s := if s.pget 0x0D00000B = 1 ∧ both = true then s.askSetpoint 1 2 else s
  let s := s.selfRefreshGo true
  { s with mem := { s.mem with
    masked := if s.mem.pasr then BitVec.ofNat 32 (sumN (s.workList.map s.maskedSegments)) else 0 } }

/-- BLANKET, SERVICE and REDUCED. -/
def State.onRun (s : State) : State :=
  let s := if s.dev.state.full && s.mem.setpoint == 1 then s.askSetpoint 0 4 else s
  let s := if s.dev.state == .blanket then s.clearSynth else s
  s.encResume.startGrid

/-- What the entry to the present state does. -/
def State.onEntry (s : State) (reason : Nat) (old : DevState) : State :=
  match s.dev.state with
  | .safe => s.onSafe
  | .shutdown => s.onShutdown reason old
  | .parasol => s.onParasol reason
  | .blanket => s.onRun
  | .service => s.onRun
  | .reduced => s.onRun
  | .boot => s
  | .off => s

/-- The device changes its state (R25, R30, R31): STATE_CHANGE with the new reduction, the pending COMMIT, the entry's
own actions, the power domains; `fault`: a safety fault brings it about. -/
def State.enterBy (s : State) (d : DevState) (reason : Nat) (fault : Bool) : State :=
  let old := s.dev.state
  let red := if d == .reduced then s.wantedReduction else (false, false)
  let s := { s with
    dev := { s.dev with state := d, halfRate := red.1, decimated := red.2 }
    start := { s.start with forceFull := s.start.forceFull || (d == DevState.safe && fault) } }
  let s := s.stateChange old reason fault
  let joins (x : DevState) : Bool := x == .blanket || x.full
  let s := if joins d && !joins old then { s with pair := { s.pair with aloneAt := s.now } } else s
  let s := if d == .safe || d == .parasol || d == .shutdown then s.stopChange.dropCommit stAborted else s
  (s.onEntry reason old).powerSync

/-- The device changes its state, by no safety fault. -/
def State.enter (s : State) (d : DevState) (reason : Nat) : State := s.enterBy d reason false

/-- A safety fault (R428, Table 18.3): SAFETY_FAULT, then SAFE. (DEDUCED, unsafe: log entry 71.) -/
def State.safetyFault (s : State) (cause unit_ : Nat) : State :=
  let s := s.raise 0x14 1 4 (packNat [at' 63 56 cause, at' 55 48 unit_, at' 31 0 s.tim.frame.toNat]) s.arg2f
  if s.dev.state == .off || s.dev.state == .safe then s
  else s.enterBy .safe (if s.dev.state == .boot then 7 else 6) true

/-- SAFE by a safety fault that another event has reported. -/
def State.safeByFault (s : State) : State :=
  if s.dev.state == .off || s.dev.state == .safe then s else s.enterBy .safe (if s.dev.state == .boot then 7 else 6) true

/-- Every enabled tile is done (R26); a tile the side does not own needs no reconcile of its own.
(DEDUCED, unsafe: log entry 71.) -/
def State.tilesDone (s : State) : Bool :=
  s.enabledTiles.all (fun t =>
    let p := s.port t
    let d := s.tile t
    d.late || (p.state == 5 && (d.recon != 0 || (s.dev.pairCfg && !p.own))))

/-- Training at BOOT has ended on every channel. -/
def State.trainingDone (s : State) : Bool := s.mem.chans.all (fun c => c.state != 0)

/-- Calibration, training of all channels and synthesis start-up are finished (Table 1.4, R141).
(DEDUCED, unsafe: log entry 71.) -/
def State.startFinished (s : State) : Bool := s.start.synth == 2 && s.trainingDone

/-- The first trigger of Table 1.4 that holds, in the order of R27: target and reason. -/
def State.trigger (s : State) : Option (DevState × Nat) :=
  let st := s.dev.state
  let ch := s.channels
  let live := st != .off && st != .shutdown
  if live && s.pwr.stage == 6 then some (.shutdown, 4)
  else if live && s.pwr.level == 3 then some (.shutdown, 5)
  else if st == .boot && s.trainingDone && decide (ch < 8) then some (.safe, 7)
  else if st.run && decide (ch < 8) then some (.safe, 3)
  else if (st == .blanket || st.full) && s.pwr.stage == 5 then some (.parasol, 4)
  else if st.full && decide (ch ≤ 15) then some (.blanket, 3)
  else if st == .service && decide (ch ≤ 27) then some (.reduced, 3)
  else if st == .service && decide (3 ≤ s.pwr.stage) then some (.reduced, 4)
  else if st == .blanket && s.startFinished && decide (16 ≤ ch ∧ ch ≤ 27) then some (.reduced, 3)
  else if st == .blanket && s.startFinished && decide (28 ≤ ch) then some (.service, 1)
  else if st == .reduced && decide (s.pwr.stage ≤ 2) && decide (28 ≤ ch) then some (.service, 4)
  else if st == .boot && s.dev.fwReady && s.tilesDone && decide (8 ≤ ch) then some (.blanket, 1)
  else none

/-- In REDUCED, a change of the reduction is announced (R31). -/
def State.reductionCheck (s : State) : State :=
  if s.dev.state != .reduced ∨ s.wantedReduction = (s.dev.halfRate, s.dev.decimated) then s
  else
    let (h, d) := s.wantedReduction
    if s.instrument && h && !s.dev.halfRate then s.safetyFault 5 0xFF
    else
      ({ s with dev := { s.dev with halfRate := h, decimated := d } } : State).stateChange .reduced
        (if h = s.dev.halfRate ∨ 4 ≤ s.pwr.stage then 4 else 3) false

/-! ### Self-test records (R467) -/

/-- The newest valid record and whether it is in sector B: the higher sequence number by signed difference. -/
def Start.newest (t : Start) : Option (Record × Bool) :=
  match t.recA, t.recB with
  | none, none => none
  | some a, none => some (a, false)
  | none, some b => some (b, true)
  | some a, some b => if after 32 b.seq.toNat a.seq.toNat then some (b, true) else some (a, false)

/-- The sector that does not hold the newest valid record is erased (R467 step 1).
(DESIGN CHOICE, unsafe: log entry 70.) -/
def State.eraseOther (s : State) : State :=
  match s.start.newest with
  | none => { s with start := { s.start with erasedA := true, erasedB := true } }
  | some (_, true) => { s with start := { s.start with recA := none, erasedA := true } }
  | some (_, false) => { s with start := { s.start with recB := none, erasedB := true } }

/-- What the end of the start brings about: baskets, encoder streams, and the erase where the start writes no record. -/
def State.leaveBoot (s : State) : State := (if s.start.full then s else s.eraseOther).reserveBoot.encBoot

/-- START_PHASE 4, once every tile is reconciled. -/
def State.tilesMilestone (s : State) : State :=
  if s.dev.state == .boot && s.dev.fwReady && s.tilesDone then s.milestone 4 else s

/-! ### The transitions of Table 1.4 -/

/-- Take the transitions whose triggers hold, one after another (R27); at most n. -/
def State.evaluateN (s : State) : Nat → State
  | 0 => s
  | n + 1 =>
    match s.trigger with
    | none => s.reductionCheck
    | some (d, r) =>
      let s := if s.dev.state == .boot && d == .blanket then s.leaveBoot else s
      if d == .reduced && s.instrument && s.wantedReduction.1 then s.safetyFault 5 0xFF
      else (s.enter d r).evaluateN n

/-- Table 1.4 against the present state. -/
def State.evaluate (s : State) : State := s.tilesMilestone.evaluateN 8

/-- The state that PARASOL wakes into (Table 1.4). -/
def State.wakeTarget (s : State) : DevState :=
  if !s.startFinished ∨ s.channels ≤ 15 then .blanket
  else if s.channels ≤ 27 ∨ 3 ≤ s.pwr.stage then .reduced
  else .service

end Sys2Proof.Machine
end

