-- ==== Sys2Proof/Machine/Formats.lean ====
section
/-! DEFINITION. The creation checks of the object classes (R56, R139, R200, R294, R370) and what a parameter value names. -/

namespace Sys2Proof.Machine

/-! ### Creation checks -/

/-- SURFACE (R370, Table 15.9). -/
def surfaceOk (size : Nat) (bs : List Byte) : Bool :=
  let w := wordAt bs 0
  let (f, wd, h, p) := surfHeader bs
  bits w 127 96 == 0x46525351 && bits w 95 88 == 1 && decide (f ≤ 3) && bits w 79 64 == 0
    && decide (1 ≤ wd ∧ wd ≤ 16384 ∧ 1 ≤ h ∧ h ≤ 16384) && p % 16 == 0 && decide (wd * g2dSize f ≤ p ∧ p ≤ 131072)
    && size == 16 + h * p

/-- LAYER (R200, Table 8.3). -/
def layerOk (size : Nat) (bs : List Byte) : Bool :=
  let w := wordAt bs 0
  let (f, wd, h, p) := surfHeader bs
  bits w 127 96 == 0x59414C51 && bits w 95 88 == 1 && decide (f ≤ 2) && decide (bits w 79 72 ≤ 1)
    && (f != 2 || bits w 79 72 == 0) && bits w 71 64 == 0
    && decide (16 ≤ wd ∧ wd ≤ 4096 ∧ 16 ≤ h ∧ h ≤ 4096) && p % 16 == 0 && decide (wd * pixelBytes f ≤ p)
    && size == 16 + h * p

/-- Bytes of one tile of a UNIFORMITY map or a COUNTERS object: a tile word and a cell entry of k bytes (Table 12.2). -/
def cellStride (k w h : Nat) : Nat := 16 + k * (w * h / 16)

/-- Tile numbers of a UNIFORMITY map or a COUNTERS object. -/
def mapTiles (k : Nat) (bs : List Byte) : List Nat :=
  let w1 := wordAt bs 1
  (List.range (bits (wordAt bs 0) 79 72)).map (fun n => bytesAt bs (32 + n * cellStride k (bits w1 127 112) (bits w1 111 96) + 15) 1)

/-- A list of naturals rises strictly. -/
def rises : List Nat → Bool
  | [] => true
  | [_] => true
  | a :: b :: r => decide (a < b) && rises (b :: r)

/-- A list of naturals does not fall. -/
def climbs : List Nat → Bool
  | [] => true
  | [_] => true
  | a :: b :: r => decide (a ≤ b) && climbs (b :: r)

/-- The body of a UNIFORMITY map or a COUNTERS object with cell entries of k bytes (Tables 12.2, 12.3). -/
def cellsOk (k size : Nat) (bs : List Byte) : Bool :=
  let w0 := wordAt bs 0
  let w1 := wordAt bs 1
  let n := bits w0 79 72
  let tw := bits w1 127 112
  let th := bits w1 111 96
  let st := cellStride k tw th
  decide (1 ≤ n ∧ n ≤ 16) && decide (512 ≤ tw ∧ tw ≤ 9216 ∧ 256 ≤ th ∧ th ≤ 4608) && tw % 64 == 0 && th % 16 == 0
    && bits w1 95 0 == 0 && size == 32 + n * st && rises (mapTiles k bs)
    && (List.range n).all (fun i => bytesAt bs (32 + i * st) 15 == 0) && (mapTiles k bs).all (fun t => decide (t ≤ 15))

/-- A DECAY point: STRESS and EFF (Table 12.2). -/
def decayStress (bs : List Byte) (ch i : Nat) : Nat := bytesAt bs (16 + 512 * ch + 8 * i) 4

def decayEff (bs : List Byte) (ch i : Nat) : Nat := bytesAt bs (16 + 512 * ch + 8 * i + 4) 2

/-- A LUT entry (Table 12.2). -/
def lutEntry (bs : List Byte) (ch i : Nat) : Nat := bytesAt bs (16 + 3970 * ch + 2 * i) 2

/-- The body of a DECAY map (Table 12.3). -/
def decayOk (bs : List Byte) : Bool :=
  (List.range 3).all (fun ch =>
    decayStress bs ch 0 == 0 && decayEff bs ch 0 == 0x8000
    && rises ((List.range 64).map (decayStress bs ch))
    && climbs (((List.range 64).map (decayEff bs ch)).reverse)
    && (List.range 64).all (fun i => decayEff bs ch i != 0 && bytesAt bs (16 + 512 * ch + 8 * i + 6) 2 == 0))

/-- The body of a LUT map (Table 12.3). -/
def lutOk (bs : List Byte) : Bool :=
  (List.range 3).all (fun ch => climbs ((List.range 1985).map (lutEntry bs ch))) && bytesAt bs 11926 10 == 0

/-- MAP and COUNTERS (R294, Tables 12.1 to 12.3). -/
def mapOk (magic size : Nat) (bs : List Byte) : Bool :=
  let w0 := wordAt bs 0
  let kind := bits w0 87 80
  bits w0 127 96 == magic && bits w0 95 88 == 1 && bits w0 71 64 == 0 && bits w0 31 0 == 0 && bits w0 63 32 == size &&
  (if magic == 0x544E4351 then kind == 0 && cellsOk 12 size bs
   else if kind = 1 then cellsOk 6 size bs
   else bits w0 79 72 == 0 &&
     ((kind == 2 && size == 1552 && decayOk bs) || (kind == 3 && size == 11936 && lutOk bs)))

/-- OBJECT_CREATE checks the format under the chapter that owns the class (section 2.7). -/
def objectOk (cls size : Nat) (bs : List Byte) : Bool :=
  match cls with
  | 2 => surfaceOk size bs
  | 3 => geomOk size bs
  | 4 => mapOk 0x50414D51 size bs
  | 5 => mapOk 0x544E4351 size bs
  | 6 => layerOk size bs
  | _ => false

/-- KIND of a MAP object. -/
def mapKind (o : Obj) : Nat := bits (wordAt o.data 0) 87 80

/-! ### What a parameter value names -/

/-- The object that a value of a parameter names, if any. -/
def valueObject (d : PDef) (v : Nat) : Option Nat :=
  match d.range with
  | .object _ _ _ => if v = 0 then none else some v
  | .fields n => if (n = 9 ∨ n = 10 ∨ n = 11) ∧ v ≠ 0 ∧ bits v 63 56 ≠ 0xFF ∧ bits v 63 56 ≠ 0xFE then some v else none
  | _ => none

/-- A parameter in force, staged or pending in a COMMIT names an object (sections 2.7, 8.1). -/
def State.named (s : State) (id : Nat) : Bool :=
  let has (l : List PVal) := l.any (fun p => match paramDef p.id with
    | some d => valueObject d p.v == some id
    | none => false)
  has s.par.vals || has s.par.staged ||
  (match s.par.commit with
   | some c => has (c.panel ++ c.monitor ++ c.swap)
   | none => false)

/-- A value may be staged: in range, and an object of the right class and kind where it names one (R58). -/
def State.valueOk (s : State) (d : PDef) (v : Nat) : Bool :=
  decide (v < 2 ^ 64) && d.range.ok v &&
  match d.range with
  | .object cls kind _ =>
    v == 0 || (match s.obj? v with
      | some o => o.cls == cls && (kind == 0 || mapKind o == kind)
      | none => false)
  | _ => true

end Sys2Proof.Machine
end

