-- ==== Sys2Proof/Machine/Boot.lean ====
section
/-! DEFINITION. Entry to BOOT (R32, R64, R451, R456, R457), the ball FAULT_N (R428), and the stop of the host interface
(R49). -/

namespace Sys2Proof.Machine

/-- FAULT_N is low (R428). (DESIGN CHOICE, safe: log entry 75.) -/
def State.faultLow (s : State) : Bool :=
  s.dev.state == .off || s.dev.state == .safe || !s.saf.smcOk || s.saf.latch || s.saf.lockstepFail

/-! ### Parameters at BOOT (R451) -/

/-- A parameter that names an object returns to 0. -/
def clearNames (vals : List PVal) : List PVal :=
  vals.filter (fun p => match paramDef p.id with
    | some d => (valueObject d p.v).isNone
    | none => false)

/-- Staged values of class RESTART come into force. (DEDUCED, unsafe: log entry 26.) -/
def takeRestart (vals : List PVal) : List PVal → List PVal
  | [] => vals
  | p :: ps =>
    match paramDef p.id with
    | some d => if d.cls = .restart then pput (takeRestart vals ps) p.id p.v else takeRestart vals ps
    | none => takeRestart vals ps

/-! ### Firmware slots -/

def Firmware.slot (f : Firmware) (n : Nat) : FwSlot := if n = 0 then f.slot0 else f.slot1

def Firmware.setSlot (f : Firmware) (n : Nat) (x : FwSlot) : Firmware := if n = 0 then { f with slot0 := x } else { f with slot1 := x }

/-- The slot that R66 chooses at this entry to BOOT: an activated one as a trial; the other one after a trial that was
not confirmed; else the one that ran.  An activation during a trial takes precedence, with no FW_REVERTED.
(DESIGN CHOICE, unsafe: log entry 83.) -/
def Firmware.choice (f : Firmware) : Nat :=
  match f.activate with
  | some n => n
  | none => if (f.slot f.running).state = 2 then 1 - f.running else f.running

/-- The slot the boot ROM tries first (Table 19.4); none for recovery firmware. -/
def State.bootSlot (s : State) : Option Nat :=
  match s.start.strapBoot with
  | 0 => some s.fw.choice
  | 2 => some 0
  | 3 => some 1
  | _ => none

/-! ### The start kind (R457) -/

/-- The first condition of R457 that fails, as the cause of Table 19.10; none for a quick start. -/
def State.fullCause (s : State) (askFull : Bool) : Option Nat :=
  if askFull then some 1
  else if s.start.strapBoot ≠ 0 then some 7
  else if s.start.forceFull then some 6
  else
    match s.start.newest with
    | none => some 2
    | some (r, _) =>
      if r.result ≠ 1 then some 2
      else if s.bootSlot.map (fun n => (s.fw.slot n).version) ≠ some r.fw then some 5
      else if s.start.aon < r.aon then some 4
      else if r.quickDays = 0 then some 8
      else if r.quickDays * 86400 ≤ s.start.aon - r.aon then some 3
      else none

/-! ### Entry to BOOT -/

/-- What outlives an entry to BOOT by RESTART: TB0, the parameters in force, the fuses and straps, the boot flash, what
PD01 holds, the PCI Express link and the MSI-X table, and the level of TILE_PWR_EN (R64, R311, R384, R451).
(DEDUCED, unsafe: log entry 26.) -/
def State.restartKeep (s : State) : State :=
  let vals := clearNames (takeRestart s.par.vals s.par.staged)
  let pv (id : Nat) : Nat := (pfind vals id).getD (paramReset id)
  { dev := { fwVersion := 0, sideB := s.dev.sideB, pairCfg := pv 0x15000001 == 1, gradeS := s.dev.gradeS, serial := s.dev.serial }
    host := { pcie := s.host.pcie, irq := { msixMask := s.host.irq.msixMask } }
    par := { vals := vals }
    fw := { s.fw with staging := none, recovery := false }
    time := { tb0 := s.time.tb0, mac := s.time.mac
              tb1 := { portState := if bits (pv 0x12000001) 31 24 = 0 then 0 else 4 }
              tb2 := { portState := if bits (pv 0x12000002) 31 24 = 0 then 0 else 4 }
              tb3 := { source := pv 0x12000051, offset := sgn 64 (pv 0x12000052) } }
    mem := { pasr := pv 0x0D00000A == 1, temps := s.mem.temps }
    pwr := { stage := s.pwr.stage, input := s.pwr.input, inputMon := s.pwr.inputMon, warnLow := s.pwr.warnLow
             sites := s.pwr.sites, tmax := s.pwr.tmax, tsource := s.pwr.tsource, tripLow := s.pwr.tripLow }
    start := { strapBoot := s.start.strapBoot, aon := s.start.aon, forceFull := s.start.forceFull, recA := s.start.recA
               recB := s.start.recB, erasedA := s.start.erasedA, erasedB := s.start.erasedB }
    panel := { tiles := s.panel.tiles.map (fun d => { powered := d.powered }) }
    synth := { clusters := (List.range 48).map (fun n => { disabled := bit (pv 0x06000013) n }) }
    dec := { cores := (List.range 24).map (fun n => { disabled := bit (pv 0x04000005) n }) }
    free := s.free
    out := s.out
    pending := s.pending }

/-- What outlives PORST_N (R450): the VAON-held items, the fuses, the boot flash. (DEDUCED, unsafe: log entry 26.) -/
def State.porKeep (s : State) : State :=
  { dev := { gradeS := s.dev.gradeS, serial := s.dev.serial, sideB := s.dev.sideB }
    fw := { s.fw with staging := none, recovery := false }
    time := { mac := s.time.mac }
    start := { aon := s.start.aon, forceFull := s.start.forceFull, recA := s.start.recA
               recB := s.start.recB, erasedA := s.start.erasedA, erasedB := s.start.erasedB, strapBoot := s.start.strapBoot }
    free := s.free
    out := s.out
    pending := s.pending }

/-- The entry to BOOT itself, on what was kept: start kind, the LFSR's seed, SAFE_STATE_N high, STATE_CHANGE.
(DESIGN CHOICE, unsafe: log entry 1; DESIGN CHOICE, safe: log entry 3; DEDUCED, unsafe: log entry 26.) -/
def State.bootEntry (s : State) (old : DevState) (askFull : Bool) : State :=
  let c := s.fullCause askFull
  let s := { s with
    dev := { s.dev with state := .boot }
    start := { s.start with full := c.isSome, cause := c.getD 0, t0 := s.now }
    mem := { s.mem with chans := s.mem.chans.map (fun (c : MemChan) => { c with
      banks := c.banks.map (fun (b : Bank) => { b with lfsr := Config.lfsrSeed s.dev.serial.toNat % 2 ^ 32 }) }) }
    saf := { s.saf with lfsr := Config.lfsrSeed s.dev.serial.toNat % 2 ^ 32, safeStateLow := false, hbAt := s.now } }
  let s := s.emits [.pin "SAFE_STATE_N" true, .pmbus (s.pget 0x13000002) 0x20 0, .pmbus (s.pget 0x13000002) 0x21 750]
  s.stateChange old 8 false

/-- RESTART (R64). (DEDUCED, unsafe: log entry 26.) -/
def State.restart (s : State) (askFull : Bool) : State := s.restartKeep.bootEntry s.dev.state askFull

/-! ### The stop of the host interface (R49) -/

/-- A mailbox whose EN is cleared. -/
def Mailbox.disable (m : Mailbox) : Mailbox :=
  { m with en := false, active := false, err := false, ring := [], held := [] }

/-- Final responses of a mailbox's jobs are discarded; their events are still raised. -/
def State.muteJobs (s : State) (p : Nat → Bool) : State :=
  { s with host := { s.host with jobs := s.host.jobs.map (fun j => if p j.mb then { j with respond := false } else j) } }

/-- EN of one mailbox is cleared. (DEDUCED, unsafe: log entry 19.) -/
def State.disableMb (s : State) (n : Nat) : State := ((s.modMb n Mailbox.disable).muteJobs (· == n)).freeJobs

/-- Every EN and EQ_CFG.EN are cleared. (DEDUCED, unsafe: log entry 25.) -/
def State.hostStop (s : State) : State :=
  let s := { s with host := { s.host with
    mb := s.host.mb.map Mailbox.disable
    eq := { s.host.eq with en := false } } }
  (s.muteJobs (fun _ => true)).freeJobs

end Sys2Proof.Machine
end

