-- ==== Sys2Proof/Machine/NetOps.lean ====
section
/-! DEFINITION. Flows and their loss reports as shared operations (spec/16 R405, R407). -/

namespace Sys2Proof.Machine

def State.modTime (s : State) (f : TimeSt → TimeSt) : State := { s with time := f s.time }

def State.modNet (s : State) (p : Nat) (f : NetPort → NetPort) : State :=
  s.modTime (fun t => { t with ports := updAt t.ports p f })

def State.flow? (s : State) (n : Nat) : Option Flow := s.time.flows.find? (fun f => f.n == n)

def State.modFlow (s : State) (n : Nat) (f : Flow → Flow) : State :=
  s.modTime (fun t => { t with flows := t.flows.map (fun x => if x.n == n then f x else x) })

/-! ### Loss reports (R405) -/

/-- NET_LOSS, at most once per flow and panel frame, with what has gathered since. (DEDUCED, unsafe: log entry 64.) -/
def State.netLoss (s : State) (n : Nat) : State :=
  match s.flow? n with
  | none => s
  | some f =>
    if f.raised && s.tim.on then s
    else if f.cause = 0 then s
    else
      (s.modFlow n (fun f => { f with raised := true, lost := 0, abandoned := 0, firstAbandoned := 0, cause := 0 })).raise 0x12 2 2
        (packNat [at' 63 56 n, at' 55 48 f.cause, at' 47 16 f.firstAbandoned, at' 15 0 (Nat.min 0xFFFF f.abandoned)])
        (Nat.min 0xFFFFFFFF f.lost)

/-- A unit is abandoned for a cause of NET_LOSS. -/
def Flow.abandon (f : Flow) (u cause : Nat) : Flow :=
  { f with abandoned := f.abandoned + 1, firstAbandoned := if f.abandoned = 0 then u else f.firstAbandoned
           cause := if f.cause = 0 then cause else f.cause }

/-- Loss of a reassembly basket (R407): every unit in progress is abandoned. -/
def State.loseFlowBaskets (s : State) (n : Nat) : State :=
  (s.modFlow n (fun f =>
    let f := (f.units.filter (fun x => !x.gone)).foldl (fun (f : Flow) x => f.abandon x.num 4) f
    { f with units := f.units.map (fun x => { x with gone := true, frags := [] }), cause := if f.cause = 0 then 4 else f.cause })).netLoss n

/-! ### A flow is cleared (R407) -/

/-- A flow is cleared: its port leaves its group, its reservation is free. -/
def State.clearFlow (s : State) (n : Nat) : State :=
  match s.flow? n with
  | none => s
  | some f =>
    let s := if f.op = 1 ∧ f.group ≠ 0 then
        (s.modNet f.port (fun x => { x with groups := x.groups.erase (f.group, f.remoteIp) })).emit (.ether f.port 3 [0, f.group, f.remoteIp])
      else s
    let s := s.modTime (fun t => { t with flows := t.flows.filter (fun x => x.n != n) })
    s.unreserve (fun b => b.item == 18 && b.a == n)

/-- The flow that serves a scene goes with it (R407). -/
def State.clearFlowOf (s : State) (obj : Nat) : State :=
  match s.time.flows.find? (fun f => f.op == 1 && f.scene == obj) with
  | some f => s.clearFlow f.n
  | none => s

/-- A scene goes with its object: its slot, its streams and its flow are free (R102, R407). -/
def State.dropScene (s : State) (obj : Nat) : State :=
  match s.ingest.scenes.find? (fun (x : Scene) => x.obj == obj) with
  | none => s
  | some x =>
    ({ s with
      ingest := { s.ingest with scenes := s.ingest.scenes.filter (fun (y : Scene) => y.obj != obj) }
      dec := { s.dec with streams := s.dec.streams.filter (fun (d : DStream) => d.id.slot != x.slot) }
      place := { s.place with cut := s.place.cut.filter (· != obj) } } : State).clearFlowOf obj

/-- Final response payload of SCENE_SUBMIT (Table 3.15). -/
def Carrier.words (c : Carrier) : List Word :=
  [packW [at' 127 96 c.read, at' 95 64 c.discarded, at' 63 32 c.lastFrame, at' 31 0 c.off]]

end Sys2Proof.Machine
end

