-- ==== Sys2Proof/Machine/DevRows.lean ====
section
/-! DEFINITION. Commands of the device manager and the host interface (spec/02 sections 2.5 to 2.8), COMMIT apart. -/

namespace Sys2Proof.Machine

open Sys2Proof

/-! ### NOP, FENCE, DEV_INFO -/

/-- NOP (R54); an opcode the spec does not define is refused by the common checks. -/
def execNop (c : Cmd) (s : State) : Host.Outcome State Fault Refusal :=
  .next (hostCmd (.nop c) { op := 0x0101 } (fun _ s => answer s []) c s)

/-- FENCE is accepted at once and holds nothing back (R57). -/
def execFence (c : Cmd) (s : State) : Host.Outcome State Fault Refusal :=
  .next (hostCmd (.fence c) { op := 0x0102 } (fun _ s => accept s .fence) c s)

/-- A FENCE completes once every command fetched earlier on its mailbox has: it is the mailbox's oldest job (R57).
(DESIGN CHOICE, safe: log entry 14; DEDUCED, unsafe: log entry 20.) -/
def execFenceCompletion (mb : Nat) (s : State) : Host.Outcome State Fault Refusal :=
  .next (match s.findJob (fun j => j.mb == mb) with
    | some j => if j.key = .fence then s.endJob j.id stOk [] else s
    | none => s)

/-- DEV_INFO response (Table 2.37). -/
def devInfoWords (s : State) : List Word :=
  [packW [at' 127 64 s.dev.serial.toNat, at' 63 32 s.dev.fwVersion.toNat, at' 31 16 0x4231, at' 15 0 0x8144],
   packW [at' 127 120 s.dev.state.code, at' 119 112 s.channels, at' 111 104 s.pwr.stage, at' 95 64 s.freeMib, at' 63 32 s.tim.frame.toNat]]

def execDevInfo (c : Cmd) (s : State) : Host.Outcome State Fault Refusal :=
  .next (hostCmd (.devInfo c) { op := 0x0103 } (fun _ s => answer s (devInfoWords s)) c s)

/-! ### Parameters (R58, R61, R487) -/

/-- Word 1 of a response that names an offending parameter (R487). -/
def offending (id word : Nat) : List Word := [packW [at' 127 96 id, at' 95 88 word]]

/-- A word of PARAM_SET names an object under creation (R56). -/
def State.namesCreating (s : State) (w : Nat) : Bool :=
  match paramDef (bits w 127 96) with
  | none => false
  | some d =>
    match valueObject d (bits w 63 0) with
    | none => false
    | some o => (s.objs.objs.any (fun x => x.id == o && x.creating))

/-- A word of PARAM_SET names a destroyed object: an ID that was given and that no object has (R56). -/
def State.namesDestroyed (s : State) (w : Nat) : Bool :=
  match paramDef (bits w 127 96) with
  | none => false
  | some d =>
    match valueObject d (bits w 63 0) with
    | none => false
    | some o => decide (1 ≤ idClass o ∧ idClass o ≤ 8) && decide (o % 2 ^ 56 < s.objs.next) && (s.obj? o).isNone

/-- A word of PARAM_SET names a LOST object (R191). -/
def State.namesLost (s : State) (w : Nat) : Bool :=
  match paramDef (bits w 127 96) with
  | none => false
  | some d => (valueObject d (bits w 63 0)).any (fun o => (s.obj? o).any (·.lost))

/-- A word of PARAM_SET may be staged (R58). -/
def State.entryOk (s : State) (w : Nat) : Bool :=
  bits w 95 64 == 0 &&
  match paramDef (bits w 127 96) with
  | some d => s.valueOk d (bits w 63 0)
  | none => false

/-- The first word that may not be staged, by number. -/
def State.firstBad (s : State) (c : Cmd) : Nat → Nat → Option Nat
  | 0, _ => none
  | n + 1, i => if s.entryOk (c.w i) then s.firstBad c n (i + 1) else some i

/-- The staged list after words 1 to n; the later entry wins. -/
def stageWords (c : Cmd) (l : List PVal) : Nat → List PVal
  | 0 => l
  | n + 1 => pput (stageWords c l n) (c.f (n + 1) 127 96) (c.f (n + 1) 63 0)

/-- PARAM_SET: the objects that its values name come before the values themselves, as check 5 of R54 before check 6; no
word 1 where no entry is at fault. (DESIGN CHOICE, unsafe: log entry 83.) -/
def paramSetBody (c : Cmd) (s : State) : Ran :=
  if c.nWords = 0 then refuse s stBadArg
  else if (List.range c.nWords).any (fun i => s.namesCreating (c.w (i + 1))) then refuse s stBusy
  else if (List.range c.nWords).any (fun i => s.namesDestroyed (c.w (i + 1))) then refuse s stBadObject
  else if (List.range c.nWords).any (fun i => s.namesLost (c.w (i + 1))) then refuse s stIntegrity
  else
    match s.firstBad c c.nWords 1 with
    | some i => { s := s, a := { status := stBadArg, payload := offending (c.f i 127 96) i } }
    | none => answer { s with par := { s.par with staged := stageWords c s.par.staged c.nWords } } []

def execParamSet (c : Cmd) (s : State) : Host.Outcome State Fault Refusal :=
  .next (hostCmd (.paramSet c) { op := 0x0104 } paramSetBody c s)

/-- The value that an ID holds in a pending COMMIT. -/
def State.inCommit (s : State) (id : Nat) : Option Nat :=
  match s.par.commit with
  | some c => pfind (c.panel ++ c.monitor ++ c.swap) id
  | none => none

/-- A word of the PARAM_GET response (R487). -/
def State.getWord (s : State) (w : Nat) : Word :=
  let id := bits w 127 96
  let sel := bits w 95 88
  let st := pfind s.par.staged id
  let pe := s.inCommit id
  let v := if sel = 0 then s.pget id else (st.or pe).getD 0
  packW [at' 127 96 id, at' 93 88 sel, at' 95 95 (b2n st.isNone), at' 94 94 (b2n pe.isSome), at' 63 0 v]

/-- DESIGN CHOICE, unsafe: log entry 21. -/
def paramGetBody (c : Cmd) (s : State) : Ran :=
  let ok (w : Nat) : Bool := decide (bits w 95 88 ≤ 1) && bits w 87 0 == 0 && (paramDef (bits w 127 96)).isSome
  if c.nWords = 0 then refuse s stBadArg
  else if !(List.range c.nWords).all (fun i => ok (c.w (i + 1))) then refuse s stBadArg
  else answer s ((List.range c.nWords).map (fun i => s.getWord (c.w (i + 1))))

def execParamGet (c : Cmd) (s : State) : Host.Outcome State Fault Refusal :=
  .next (hostCmd (.paramGet c) { op := 0x0105 } paramGetBody c s)

/-- MASK selects the subsystem of an ID; 0 selects all (Table 2.39). -/
def maskTakes (m id : Nat) : Bool := m == 0 || bit m (id / 2 ^ 24)

/-- PARAM_DISCARD drops the staged values of the subsystems selected. -/
def paramDiscardBody (c : Cmd) (s : State) : Ran :=
  let m := c.f 1 31 0
  if !c.okBits 1 0x7FFFFE then refuse s stBadArg
  else answer { s with par := { s.par with staged := s.par.staged.filter (fun p => !maskTakes m p.id) } } []

def execParamDiscard (c : Cmd) (s : State) : Host.Outcome State Fault Refusal :=
  .next (hostCmd (.paramDiscard c) { op := 0x0106 } paramDiscardBody c s)

/-! ### Objects (R56, R296) -/

/-- OBJECT_CREATE (Table 2.40): the ID is assigned and the space taken at acceptance. -/
def objectCreateBody (c : Cmd) (s : State) : Ran :=
  let cls := c.f 1 127 120
  let size := c.f 2 63 32
  let len := c.f 2 31 0
  if !c.okBits 1 (mask 127 120 + mask 63 0) || !c.okBits 2 (mask 63 0) || decide (cls < 2 ∨ 6 < cls)
      || c.f 1 3 0 != 0 || size % 16 != 0 || decide (size < 16 ∨ size < len) then refuse s stBadArg
  else
    let ps := plan 0 (ceilDiv size basketBytes) 0 0 0 0
    if s.place.mirrorShort || !s.fits ps then refuse s stNoSpace
    else
      let id := s.nextId cls
      let s := s.addObj { id := id, cls := cls, size := size, data := [], creating := true } ps
      { s := s, a := { status := stAccepted, object := some id, job := some (.objectCreate id len) } }

def execObjectCreate (c : Cmd) (s : State) : Host.Outcome State Fault Refusal :=
  .next (hostCmd (.objectCreate c) { op := 0x0108 } objectCreateBody c s)

/-- The copy from host memory has ended: the bytes read, zero-filled to SIZE, are checked; the object is kept or
destroyed. -/
def execObjectCreateCompletion (obj : Nat) (data : List Byte) (s : State) : Host.Outcome State Fault Refusal :=
  .next (match s.obj? obj, s.findJob (fun j => match j.key with | .objectCreate o _ => o == obj | _ => false) with
    | some o, some j =>
      let len := match j.key with | .objectCreate _ n => n | _ => 0
      let bs := padTo (0 : Byte) o.size (data.take len)
      if !o.creating then s
      else if objectOk o.cls o.size bs then
        (s.modObj obj (fun x => { x with data := bs, creating := false })).endJob j.id stOk []
      else (s.removeObj obj).endJob j.id stBadArg []
    | _, _ => s)

/-- A running command, an open scene, a compression job or the 2D engine uses an object (R56, R380, section 9). -/
def State.inUse (s : State) (o : Obj) : Bool :=
  o.cls == 8 ||
  (o.cls == 1 && (s.ingest.scenes.any (fun (x : Scene) => x.obj == o.id && x.state != 2) ||
    s.host.jobs.any (fun j => match j.key with
      | .sceneSubmit _ => j.object.toNat == o.id
      | .sceneClose _ => j.object.toNat == o.id
      | _ => false))) ||
  s.host.jobs.any (fun j => match j.key with | .objectRead x _ _ _ _ => x == o.id | _ => false) ||
  (s.direct.g2d.busy && match s.g2dSides with
    | some (a, d) => (!d.host && d.obj == o.id) || (match a with | some x => !x.host && x.obj == o.id | none => false)
    | none => false)

def objectDestroyBody (c : Cmd) (s : State) : Ran :=
  match s.obj? c.object.toNat with
  | none => refuse s stBadObject
  | some o =>
    if s.inUse o || s.named o.id then refuse s stBusy
    else answer ((s.dropScene o.id).removeObj o.id) []

def execObjectDestroy (c : Cmd) (s : State) : Host.Outcome State Fault Refusal :=
  .next (hostCmd (.objectDestroy c) { op := 0x0109, obj := none, lostOk := true } objectDestroyBody c s)

/-- OBJECT_READ (Table 2.41). (DESIGN CHOICE, unsafe: log entry 21.) -/
def objectReadBody (c : Cmd) (s : State) : Ran :=
  match s.obj? c.object.toNat with
  | none => refuse s stBadObject
  | some o =>
    let off := c.f 2 63 32
    let len := c.f 2 31 0
    if !c.okBits 1 (mask 63 0) || !c.okBits 2 (mask 63 0) || c.f 1 3 0 != 0 || off % 16 != 0 || len % 16 != 0
        || decide (o.size < off + len) then refuse s stBadArg
    else accept s (.objectRead o.id (c.f 1 63 0) off len (slice o.data off len))

def execObjectRead (c : Cmd) (s : State) : Host.Outcome State Fault Refusal :=
  .next (hostCmd (.objectRead c) { op := 0x010A, obj := none } objectReadBody c s)

/-- Each 16-byte unit from before the copy or from its end, in a mix the spec leaves open (R373, log entry 3).
(DESIGN CHOICE, safe: log entry 3; DESIGN CHOICE, unsafe: log entry 21.) -/
def mixUnits (pick : Nat → Nat) : Nat → List Byte → List Byte → Nat → List Byte
  | 0, _, _, _ => []
  | n + 1, a, b, k => (if pick k % 2 = 0 then a.take 16 else b.take 16) ++ mixUnits pick n (a.drop 16) (b.drop 16) (k + 1)

/-- A counter in the bytes of a COUNTERS object plus an amount, saturating (R298). -/
def bumpCounter (bs : List Byte) (off d : Nat) : List Byte :=
  putBytes bs off (leBytes 4 (Nat.min (bytesAt bs off 4 + d) 0xFFFFFFFF))

/-- Counter updates that were held during a copy are applied (R296). -/
def State.applyHeldCounts (s : State) (obj : Nat) : State :=
  let mine := s.panel.heldCounts.filter (fun x => x.1 == obj)
  let s := { s with panel := { s.panel with heldCounts := s.panel.heldCounts.filter (fun x => x.1 != obj) } }
  s.modObj obj (fun o => { o with data := mine.foldl (fun d x => bumpCounter d x.2.1 x.2.2) o.data })

/-- The copy to host memory has ended. -/
def execObjectReadCompletion (job : Nat) (s : State) : Host.Outcome State Fault Refusal :=
  .next (match s.job? job with
    | some j =>
      match j.key with
      | .objectRead obj dest off len before =>
        let now := match s.obj? obj with
          | some o => slice o.data off len
          | none => before
        let ran :=
          if now = before then (s, now)
          else ({ s with free := s.free + len / 16 }, mixUnits (fun k => Config.freeNat (s.free + k)) (len / 16) before now 0)
        let s := ran.1
        let bs := ran.2
        let s := s.emit (.hostWrite dest bs)
        let s := s.endJob j.id stOk []
        if s.host.jobs.any (fun k => match k.key with | .objectRead x _ _ _ _ => x == obj | _ => false) then s else s.applyHeldCounts obj
      | _ => s
    | none => s)

/-! ### RESTART and firmware (R64 to R66, R455) -/

/-- RESTART's own checks; the entry to BOOT follows its response. -/
def restartBody (c : Cmd) (s : State) : Ran :=
  if !c.okBits 1 3 || decide (2 ≤ c.f 1 1 0) then refuse s stBadArg
  else if s.start.thermalLock && decide ((85 : Int) ≤ s.pwr.tmax) then refuse s stBadState
  else answer s []

def execRestart (c : Cmd) (s : State) : Host.Outcome State Fault Refusal :=
  .next (hostCmdWith (.restart c) { op := 0x010B } restartBody (fun c s => s.restart (c.f 1 1 0 == 1)) c s)

/-- The slot FW_STAGE writes: the one that does not run, or under recovery firmware slot 0 unless it holds a verified
image (R65, R455). -/
def State.stageSlot (s : State) : Nat :=
  if s.fw.recovery then (if s.fw.slot0.state = 0 then 0 else 1) else 1 - s.fw.running

/-- DESIGN CHOICE, unsafe: log entry 21. -/
def fwStageBody (c : Cmd) (s : State) : Ran :=
  if !c.okBits 1 (mask 63 0) || !c.okBits 2 (mask 31 0) || c.f 1 3 0 != 0 || decide (32 * 2 ^ 20 < c.f 2 31 0) then refuse s stBadArg
  else if s.fw.staging.isSome then refuse s stBusy
  else if (s.domain 47).failed then refuse s stNoResource
  else
    let n := s.stageSlot
    accept { s with fw := { s.fw.setSlot n {} with staging := some n } } (.fwStage n (c.f 1 63 0) (c.f 2 31 0))

def execFwStage (c : Cmd) (s : State) : Host.Outcome State Fault Refusal :=
  .next (hostCmdWith (.fwStage c) { op := 0x010C } fwStageBody (fun _ s => s.powerSync) c s)

/-- The write and the verification of the staged image end (R65). -/
def execFwStageCompletion (r : FwImage) (s : State) : Host.Outcome State Fault Refusal :=
  .next (match s.fw.staging with
    | none => s
    | some n =>
      let st := if r.tooLong then stNoSpace else if r.ok then stOk else stIntegrity
      let x : FwSlot := if st = stOk then { version := r.version, state := 1 } else {}
      let s := { s with fw := { s.fw.setSlot n x with staging := none } }
      (s.endJobs (s.jobIds (fun j => match j.key with | .fwStage _ _ _ => true | _ => false)) st).powerSync)

def fwActivateBody (c : Cmd) (s : State) : Ran :=
  let n := c.f 1 0 0
  if !c.okBits 1 1 then refuse s stBadArg
  else if s.fw.staging.isSome then refuse s stBusy
  else if (s.fw.slot n).state = 0 then refuse s stBadArg
  else answer { s with fw := { s.fw with activate := some n } } []

def execFwActivate (c : Cmd) (s : State) : Host.Outcome State Fault Refusal :=
  .next (hostCmd (.fwActivate c) { op := 0x010D } fwActivateBody c s)

/-- FW_CONFIRM makes the running trial permanent (R66). -/
def fwConfirmBody (_ : Cmd) (s : State) : Ran :=
  if !s.dev.trial then { s := s, a := { status := stWarn } }
  else
    let n := s.fw.running
    let old := s.fw.slot (1 - n)
    let f := (s.fw.setSlot n { s.fw.slot n with state := 3 }).setSlot (1 - n) { old with state := if old.state = 3 then 1 else old.state }
    answer { s with fw := f, dev := { s.dev with trial := false } } []

def execFwConfirm (c : Cmd) (s : State) : Host.Outcome State Fault Refusal :=
  .next (hostCmd (.fwConfirm c) { op := 0x010E } fwConfirmBody c s)

def fwWord (x : FwSlot) : Word := packW [at' 63 32 x.version.toNat, at' 7 0 x.state]

def execFwStatus (c : Cmd) (s : State) : Host.Outcome State Fault Refusal :=
  .next (hostCmd (.fwStatus c) { op := 0x010F } (fun _ s => answer s [fwWord s.fw.slot0, fwWord s.fw.slot1]) c s)

/-! ### HOST_STATUS (Table 2.45) -/

def hostStatusBody (c : Cmd) (s : State) : Ran :=
  let p := s.host.pcie
  if !c.okBits 1 1 then refuse s stBadArg
  else
    let w := packW [at' 127 120 p.speed, at' 119 112 p.width, at' 111 96 p.mps, at' 95 64 p.corr.toNat, at' 63 32 p.uncorr.toNat, at' 31 0 p.cto.toNat]
    answer (if c.f 1 0 0 = 1 then { s with host := { s.host with pcie := { p with corr := 0, uncorr := 0, cto := 0 } } } else s) [w]

def execHostStatus (c : Cmd) (s : State) : Host.Outcome State Fault Refusal :=
  .next (hostCmd (.hostStatus c) { op := 0x0201 } hostStatusBody c s)

end Sys2Proof.Machine
end

