-- ==== Sys2Proof/Machine/CodeMath.lean ====
section
/-! DEFINITION. The ray compression code: the block decoder (R219), the encoder (R224), the reconstruction check value
(R221, R222) and the images of the compression jobs (R229). -/

namespace Sys2Proof.Machine

/-- A pixel of integer codes. -/
structure Px where
  r : Int
  g : Int
  b : Int
  deriving DecidableEq, Repr

/-- Channel bits of a code form: 0 C10, 1 C12 (Table 9.1). -/
def formN (form : Nat) : Nat := if form = 0 then 10 else 12

/-- Block bits. -/
def formB (form : Nat) : Nat := if form = 0 then 160 else 192

/-- Residual widths of DELTA (Table 9.2). -/
def deltaW (form : Nat) : Nat × Nat × Nat := if form = 0 then (2, 3, 2) else (3, 3, 2)

/-- Residual widths of DELTA_YC: luma, chroma. -/
def ycW (form : Nat) : Nat × Nat := if form = 0 then (5, 4) else (6, 5)

/-- Arithmetic shift right by 1. -/
def asr1 (x : Int) : Int := x / 2

/-- `w` bits of a block that end above `lo`. -/
def fieldAt (blk lo w : Nat) : Nat := (blk >>> lo) % 2 ^ w

/-- decode_block of R219. -/
def decodeBlock (form blk : Nat) : List Px :=
  let n := formN form
  let bb := formB form
  let top : Int := 2 ^ n - 1
  let rd (pos w : Nat) : Nat := fieldAt blk (bb - pos - w) w
  let mode := rd 0 2
  if mode = 0 then
    List.replicate 16 { r := rd 2 n, g := rd (2 + n) n, b := rd (2 + 2 * n) n }
  else if mode = 1 then
    let pal (e : Nat) : Px := { r := rd (2 + 3 * n * e) n, g := rd (2 + 3 * n * e + n) n, b := rd (2 + 3 * n * e + 2 * n) n }
    (List.range 16).map fun p => pal (rd (2 + 12 * n + 2 * p) 2)
  else if mode = 2 then
    let (wr, wg, wb) := deltaW form
    let q0 := 2 + 3 * n + 12
    let step := wr + wg + wb
    let v (lo s q : Nat) : Int := Nat.min (lo + q <<< s) (2 ^ n - 1)
    (List.range 16).map fun p =>
      { r := v (rd 2 n) (rd (2 + 3 * n) 4) (rd (q0 + step * p) wr)
        g := v (rd (2 + n) n) (rd (2 + 3 * n + 4) 4) (rd (q0 + step * p + wr) wg)
        b := v (rd (2 + 2 * n) n) (rd (2 + 3 * n + 8) 4) (rd (q0 + step * p + wr + wg) wb) }
  else
    let (wy, wc) := ycW form
    let ly : Int := rd 2 n
    let lco := sgn (n + 1) (rd (2 + n) (n + 1))
    let lcg := sgn (n + 1) (rd (2 + n + n + 1) (n + 1))
    let s0 := 2 + n + 2 * (n + 1)
    let sy := rd s0 4
    let sco := rd (s0 + 4) 4
    let scg := rd (s0 + 8) 4
    let y0 := s0 + 12
    let c0 := y0 + 16 * wy
    (List.range 16).map fun p =>
      let k := (p % 8) / 2
      let y : Int := ly + ((rd (y0 + wy * p) wy) <<< sy : Nat)
      let co : Int := lco + ((rd (c0 + 2 * wc * k) wc) <<< sco : Nat)
      let cg : Int := lcg + ((rd (c0 + 2 * wc * k + wc) wc) <<< scg : Nat)
      let t := y - asr1 cg
      let g := cg + t
      let b := t - asr1 co
      let r := b + co
      { r := clampI r 0 top, g := clampI g 0 top, b := clampI b 0 top }

/-- h(s) of the encoder. -/
def qh (s : Nat) : Nat := if s = 0 then 0 else 1 <<< (s - 1)

/-- The smallest shift of quant for range r and width w, from s with `fuel` tries. -/
def quantShift (r w : Nat) : Nat → Nat → Nat
  | 0, s => s
  | n + 1, s => if (r + qh s) >>> s > 2 ^ w - 1 then quantShift r w n (s + 1) else s

/-- The least element of a list of integers. -/
def minI : List Int → Int
  | [] => 0
  | [x] => x
  | x :: xs => if x < minI xs then x else minI xs

/-- The greatest element of a list of integers. -/
def maxI : List Int → Int
  | [] => 0
  | [x] => x
  | x :: xs => if maxI xs < x then x else maxI xs

/-- The result of quant: minimum, shift, residuals. -/
structure Quant where
  lo : Int
  s : Nat
  q : List Nat
  deriving DecidableEq, Repr

/-- quant of section 9.5. -/
def quant (v : List Int) (w : Nat) : Quant :=
  let lo := minI v
  let r := (maxI v - lo).toNat
  let s := quantShift r w 16 0
  { lo := lo, s := s, q := v.map fun x => ((x - lo).toNat + qh s) >>> s }

/-- Fields from the top of a block downward: (value, width). -/
def packTop (bb : Nat) : List (Nat × Nat) → Nat
  | [] => 0
  | (v, w) :: rest => fld (bb - w) w v + packTop (bb - w) rest

/-- The distinct colours in order of first appearance. -/
def distinctPx : List Px → List Px → List Px
  | seen, [] => seen
  | seen, p :: ps => if seen.contains p then distinctPx seen ps else distinctPx (seen ++ [p]) ps

/-- The index of a colour in a palette. -/
def palIndex (p : Px) : List Px → Nat → Nat
  | [], _ => 0
  | x :: xs, n => if x = p then n else palIndex p xs (n + 1)

/-- DELTA candidate. -/
def encDelta (form : Nat) (px : List Px) : Nat :=
  let n := formN form
  let (wr, wg, wb) := deltaW form
  let r := quant (px.map (·.r)) wr
  let g := quant (px.map (·.g)) wg
  let b := quant (px.map (·.b)) wb
  let res := (List.range 16).foldl (fun acc p => acc ++ [(r.q.getD p 0, wr), (g.q.getD p 0, wg), (b.q.getD p 0, wb)]) []
  packTop (formB form) ([(2, 2), (r.lo.toNat, n), (g.lo.toNat, n), (b.lo.toNat, n), (r.s, 4), (g.s, 4), (b.s, 4)] ++ res)

/-- The quad means of a chroma plane (R224 step 3). -/
def quadMeans (v : List Int) : List Int :=
  (List.range 4).map fun k => (v.getD (2 * k) 0 + v.getD (2 * k + 1) 0 + v.getD (8 + 2 * k) 0 + v.getD (9 + 2 * k) 0 + 2) / 4

/-- DELTA_YC candidate. -/
def encYc (form : Nat) (px : List Px) : Nat :=
  let n := formN form
  let (wy, wc) := ycW form
  let co := px.map fun p => p.r - p.b
  let t := px.map fun p => p.b + asr1 (p.r - p.b)
  let cg := (px.zip t).map fun (p, t) => p.g - t
  let y := (t.zip cg).map fun (t, cg) => t + asr1 cg
  let qy := quant y wy
  let qo := quant (quadMeans co) wc
  let qg := quant (quadMeans cg) wc
  let ry := qy.q.map fun v => (v, wy)
  let rc := (List.range 4).foldl (fun acc k => acc ++ [(qo.q.getD k 0, wc), (qg.q.getD k 0, wc)]) []
  packTop (formB form) ([(3, 2), (qy.lo.toNat, n), (unsgn (n + 1) qo.lo, n + 1), (unsgn (n + 1) qg.lo, n + 1),
    (qy.s, 4), (qo.s, 4), (qg.s, 4)] ++ ry ++ rc)

/-- Absolute errors of a candidate over the 48 samples. -/
def blockErrs (px out : List Px) : List Nat :=
  (px.zip out).foldl (fun acc (a, b) => acc ++ [(a.r - b.r).natAbs, (a.g - b.g).natAbs, (a.b - b.b).natAbs]) []

/-- The encoder of R224. -/
def encodeBlock (form : Nat) (px : List Px) : Nat :=
  let n := formN form
  let pal := distinctPx [] px
  let c (p : Px) : List (Nat × Nat) := [(p.r.toNat, n), (p.g.toNat, n), (p.b.toNat, n)]
  if pal.length ≤ 1 then packTop (formB form) ((0, 2) :: c (px.headD { r := 0, g := 0, b := 0 }))
  else if pal.length ≤ 4 then
    let last := pal.getLastD { r := 0, g := 0, b := 0 }
    let ent := padTo last 4 pal
    packTop (formB form) ((1, 2) :: (ent.foldl (fun acc p => acc ++ c p) []) ++ px.map fun p => (palIndex p pal 0, 2))
  else
    let d := encDelta form px
    let y := encYc form px
    let ed := blockErrs px (decodeBlock form d)
    let ey := blockErrs px (decodeBlock form y)
    if maxN ey < maxN ed || (maxN ey == maxN ed && sumN ey < sumN ed) then y else d

/-- MODE of a block. -/
def blockMode (form blk : Nat) : Nat := fieldAt blk (formB form - 2) 2

/-- The reconstruction serialisation of one block (R221). -/
def serialBlock (px : List Px) : List Byte :=
  px.foldl (fun acc p => acc ++ leBytes 2 p.r.toNat ++ leBytes 2 p.g.toNat ++ leBytes 2 p.b.toNat) []

/-- The reconstruction CRC of a run of blocks (R222). -/
def reconCrc (form : Nat) (blks : List Nat) : Nat :=
  (blks.foldl (fun r b => crc32cRun r (serialBlock (decodeBlock form b))) 0xFFFFFFFF) ^^^ 0xFFFFFFFF

/-- The bytes of a block in the stream (R216). -/
def blockBytes (form blk : Nat) : List Byte := leBytes (formB form / 8) blk

/-- The 16 pixels of block b of block row r from a pixel reader (R215). -/
def blockPixels (rd : Nat → Nat → Px) (r b : Nat) : List Px :=
  (List.range 16).map fun p => rd (8 * b + p % 8) (2 * r + p / 8)

/-- Size of a block image (R229). -/
def blockImageSize (w h form : Nat) : Nat := (w / 8) * (h / 2) * (formB form / 8) + 2 * h

end Sys2Proof.Machine
end

