-- ==== Sys2Proof/Machine/CorrMath.lean ====
section
/-! DEFINITION. The correction path as arithmetic (R290 to R292): gain, ABL and the output LUT. -/

namespace Sys2Proof.Machine

/-! ### The correction path (R290 to R292) -/

/-- The rounding of GT's bit search: largest c below 2^k more with (2c - 1)^512 ≤ 2^512 * 2^(14 * 512 - n). -/
def gtBits (n : Nat) : Nat → Nat → Nat
  | 0, c => c
  | k + 1, c => if (2 * (c + 2 ^ k) - 1) ^ 512 ≤ 2 ^ (512 + 14 * 512 - n) then gtBits n k (c + 2 ^ k) else gtBits n k c

/-- GT[e] = rne(2^14 * 2^((e - 255) / 512)), exact. -/
def gt (e : Nat) : Nat := gtBits (255 - e) 15 0

/-- The gain entry of a tile, if it has one. -/
def GainMap.tile? (m : GainMap) (t : Nat) : Option TileGain := m.tiles.find? (fun (x : TileGain) => x.tile == t)

/-- The effective gain of a cell and channel, u2.14, before ABL (R291). -/
def GainMap.gain (m : GainMap) (t cell ch : Nat) : Nat :=
  match m.tile? t with
  | some x => rneDiv (x.base.getD ch 0x4000 * gt (x.e.getD (3 * cell + ch) 255)) (2 ^ 14)
  | none => rneDiv (0x4000 * gt 255) (2 ^ 14)

/-- y of R291: v * g / 2^14 in binary32, for abl in force. -/
def corrY (gain abl v : Nat) : Frac :=
  f32 ((f16val v).mul (Frac.mk' (rneDiv (gain * abl) (2 ^ 15) : Nat) (2 ^ 14)))

/-- An entry of the LUT of a frame: of the MAP named, else the default of R292.
(DESIGN CHOICE, unsafe: log entry 69.) -/
def lutAt (lut : Option (List Byte)) (ch i : Nat) : Nat :=
  match lut with
  | some bs => lutEntry bs ch i
  | none => powCode 5 12 65535 ((if 1984 ≤ i then Frac.ofInt 1 else f16val (16 * i)).min (Frac.ofInt 1))

/-- The 16-bit code of a value y (R291). -/
def corrCode (lut : Option (List Byte)) (ch : Nat) (y : Frac) : Nat :=
  let h := f16code y
  let i := h / 16
  let f := h % 16
  (lutAt lut ch i * (16 - f) + lutAt lut ch (i + 1) * f + 8) / 16

end Sys2Proof.Machine
end

