-- ==== Sys2Proof/Machine/RsMath.lean ====
section
/-! DEFINITION. The check code of the memory: Reed-Solomon RS(72,64) over GF(2^8) (R330), its encoder and the decoder
that corrects at most 4 symbols (R331). -/

namespace Sys2Proof.Machine

/-- Multiplication by x in GF(2^8) with 0x11D. -/
def gfX (a : Nat) : Nat := if 128 ≤ a then ((2 * a) ^^^ 0x11D) % 256 else 2 * a

/-- Product over the bits of the second factor, `n` of them. -/
def gfMulBits : Nat → Nat → Nat → Nat
  | 0, _, _ => 0
  | n + 1, a, b => (if b % 2 = 1 then a else 0) ^^^ gfMulBits n (gfX a) (b / 2)

def gfMul (a b : Nat) : Nat := gfMulBits 8 a b

/-- a to the power n. -/
def gfPow (a : Nat) : Nat → Nat
  | 0 => 1
  | n + 1 => gfMul a (gfPow a n)

/-- The inverse of a non-zero element: a^254; 0 gives 0. -/
def gfInv (a : Nat) : Nat := gfPow a 254

/-- α^n. -/
def gfAlpha (n : Nat) : Nat := gfPow 2 (n % 255)

/-- Value of a polynomial, coefficients from the highest power down, at x. -/
def gfEvalHi : List Nat → Nat → Nat → Nat
  | [], _, acc => acc
  | c :: cs, x, acc => gfEvalHi cs x (gfMul acc x ^^^ c)

/-- Value of a polynomial, coefficients from the constant up. -/
def gfEval : List Nat → Nat → Nat
  | [], _ => 0
  | c :: cs, x => c ^^^ gfMul x (gfEval cs x)

/-- Sum of two polynomials, coefficients from the constant up. -/
def gfAdd : List Nat → List Nat → List Nat
  | [], q => q
  | p, [] => p
  | a :: p, b :: q => (a ^^^ b) :: gfAdd p q

/-- Product by a scalar. -/
def gfScale (k : Nat) : List Nat → List Nat
  | [] => []
  | a :: p => gfMul k a :: gfScale k p

/-- Product of two polynomials, coefficients from the constant up. -/
def gfPolyMul : List Nat → List Nat → List Nat
  | [], _ => []
  | a :: p, q => gfAdd (gfScale a q) (0 :: gfPolyMul p q)

/-- The generator g(x), coefficients from the constant up: the product of (x + α^i) for i below n. -/
def rsGen : Nat → List Nat
  | 0 => [1]
  | n + 1 => gfPolyMul [gfAlpha n, 1] (rsGen n)

/-- One step of the division that forms the check bytes; the register holds x^7 to x^0. -/
def rsStep (gHi : List Nat) (reg : List Nat) (d : Nat) : List Nat :=
  let k := d ^^^ reg.getD 0 0
  gfAdd ((reg.drop 1) ++ [0]) (gfScale k gHi)

/-- The register after the data bytes. -/
def rsRun (gHi : List Nat) : List Nat → List Nat → List Nat
  | reg, [] => reg
  | reg, d :: ds => rsRun gHi (rsStep gHi reg d) ds

/-- The 8 check bytes of 64 data bytes (R330). -/
def rsCheck (data : List Nat) : List Nat := rsRun (((rsGen 8).take 8).reverse) (List.replicate 8 0) data

/-- The codeword of 64 data bytes. -/
def rsEncode (data : List Nat) : List Nat := data ++ rsCheck data

/-- The syndromes of a received word: its value at α^0 to α^7. -/
def rsSyndromes (cw : List Nat) : List Nat := (List.range 8).map (fun i => gfEvalHi cw (gfAlpha i) 0)

/-- The running values of the Berlekamp-Massey search. -/
structure BmState where
  loc : List Nat
  old : List Nat
  errs : Nat
  deriving DecidableEq, Repr

/-- The discrepancy of a locator at syndrome n. -/
def bmDelta (syn loc : List Nat) (n : Nat) : Nat → Nat
  | 0 => 0
  | j + 1 => gfMul (loc.getD j 0) (if j ≤ n then syn.getD (n - j) 0 else 0) ^^^ bmDelta syn loc n j

/-- One step of the search for the shortest locator. -/
def bmStep (syn : List Nat) (b : BmState) (n : Nat) : BmState :=
  let d := bmDelta syn b.loc n (b.errs + 1)
  let old := 0 :: b.old
  if d = 0 then { b with old := old }
  else
    let loc := gfAdd b.loc (gfScale d old)
    if 2 * b.errs ≤ n then { loc := loc, old := gfScale (gfInv d) b.loc, errs := n + 1 - b.errs }
    else { b with loc := loc, old := old }

/-- The error locator of the syndromes. -/
def bmLocator (syn : List Nat) : BmState :=
  (List.range 8).foldl (bmStep syn) { loc := [1], old := [1], errs := 0 }

/-- Powers p of x, 0 to 71, whose symbol is in error by a locator. -/
def rsPositions (loc : List Nat) : List Nat :=
  (List.range 72).filter (fun p => gfEval loc (gfAlpha (255 - p)) == 0)

/-- The error value at power p by Forney's formula for a code whose first root is α^0. -/
def rsValue (syn loc : List Nat) (p : Nat) : Nat :=
  let xi := gfAlpha (255 - p)
  let om := (gfPolyMul syn loc).take 8
  let odd := (List.range loc.length).map (fun i => if i % 2 = 1 then loc.getD i 0 else 0)
  -- the odd terms of Λ at x are x · Λ'(x), which takes in the factor X_p of a code whose first root is α^0
  gfMul (gfEval om xi) (gfInv (gfEval odd xi))

/-- The corrections of a word: byte index and value. -/
structure RsFix where
  idx : Nat
  v : Nat
  deriving DecidableEq, Repr

/-- Apply corrections. -/
def rsApply : List RsFix → List Nat → List Nat
  | [], cw => cw
  | f :: fs, cw => rsApply fs (updAt cw f.idx (· ^^^ f.v))

/-- What decoding a word gives (R331): the corrections, at most 4, or none where there is no solution. -/
def rsDecode (cw : List Nat) : Option (List RsFix) :=
  let syn := rsSyndromes cw
  if syn.all (· == 0) then some []
  else
    let b := bmLocator syn
    let ps := rsPositions b.loc
    if 4 < b.errs then none
    else if ps.length = b.errs then
      let fixes := ps.map (fun p => { idx := 71 - p, v := rsValue syn b.loc p : RsFix })
      if (rsSyndromes (rsApply fixes cw)).all (· == 0) then some fixes else none
    else none

end Sys2Proof.Machine
end

