-- ==== Sys2Proof/Machine/PlaceRows.lean ====
section
/-! DEFINITION. Placement: its commands and events (spec/07). -/

namespace Sys2Proof.Machine

open Sys2Proof

/-! ### Decode events used by a channel loss (Table 4.11) -/

/-- ARG2 of a decode event. -/
def decArg2 (d : StreamId) : Nat := packNat [at' 47 40 d.slot, at' 39 32 d.anchor, at' 31 24 d.layer, at' 23 16 d.kind]

/-- DECODE_CONCEAL, at most 64 for each scene and panel frame (R127). -/
def State.decodeConceal (s : State) (d : StreamId) (frame reason ctus : Nat) : State :=
  match s.ingest.scenes.find? (fun x => x.slot == d.slot) with
  | none => s
  | some x =>
    if 64 ≤ x.conceals then s
    else
      let s := { s with ingest := { s.ingest with scenes := s.ingest.scenes.map (fun (y : Scene) =>
        if y.slot == d.slot then { y with conceals := y.conceals + 1 } else y) } }
      s.raise 4 1 2 (packNat [at' 63 32 frame, at' 31 24 reason, at' 23 0 (Nat.min ctus 0xFFFFFF)]) (decArg2 d)

/-- A stream's buffers are gone: it waits for a random-access point with a reason (R128, R129, R190).  Its team stays. -/
def DStream.starve (x : DStream) (reason : Nat) : DStream :=
  { x with
    state := if x.state = 0 then 0 else 1
    running := none
    queued := none
    queue := x.atCore ++ x.queue
    gdr := false, dpb := [], prev := none, waitReason := reason, reason := reason }

/-! ### Reports -/

/-- PLACE_STATUS response (Table 7.4); the measured migration rate is a free value (log entry 3).
(DESIGN CHOICE, safe: log entry 3.) -/
def placeStatusWords (s : State) (rate : Nat) : List Word :=
  let n := s.channels
  let chans := sumN (s.workList.map (fun c => 2 ^ c))
  let reps := 2 * sumN s.replicaCount
  [packW [at' 127 96 (2 * channelBaskets * n), at' 95 64 s.freeMib, at' 63 32 (s.classMib 0), at' 31 0 (s.classMib 1)],
   packW [at' 127 96 (s.classMib 2), at' 95 64 reps, at' 63 32 s.place.migrated.toNat, at' 31 0 rate],
   packW [at' 127 96 chans, at' 95 64 s.singles, at' 63 32 s.place.epoch.toNat, at' 31 0 s.place.steals.toNat],
   packW [at' 127 96 s.place.evicted.toNat]]

def placeStatusBody (c : Cmd) (s : State) : Ran :=
  if !c.okBits 1 1 then refuse s stBadArg
  else
    let s' := if c.f 1 0 0 = 1 then { s with place := { s.place with migrated := 0, steals := 0, evicted := 0 } } else s
    let ran := s'.takeFree (2 ^ 32)
    let s' := ran.1
    let rate := ran.2
    answer s' (placeStatusWords s rate)

def execPlaceStatus (c : Cmd) (s : State) : Host.Outcome State Fault Refusal :=
  .next (hostCmd (.placeStatus c) { op := 0x0701 } placeStatusBody c s)

/-- PLACE_OBJECT response (Table 7.5). -/
def placeObjectWords (o : Obj) : List Word :=
  let phys := sumN (o.baskets.map Basket.physical)
  let chans := (List.range 32).filter (fun c => o.baskets.any (fun b => b.chans.contains c || b.replicas.contains c))
  [packW [at' 127 120 o.cls, at' 119 112 o.bclass, at' 111 104 o.placeState, at' 95 64 o.baskets.length, at' 63 32 phys,
          at' 31 0 (sumN (o.baskets.map (fun b => b.replicas.length)))],
   packW [at' 127 96 (sumN (chans.map (fun c => 2 ^ c))), at' 95 64 phys, at' 63 56 o.priority, at' 55 48 o.replica, at' 47 40 o.mirror]]

def placeObjectBody (c : Cmd) (s : State) : Ran :=
  match s.obj? c.object.toNat with
  | none => refuse s stBadObject
  | some o => if o.cls = 7 then refuse s stBadObject else answer s (placeObjectWords o)

def execPlaceObject (c : Cmd) (s : State) : Host.Outcome State Fault Refusal :=
  .next (hostCmd (.placeObject c) { op := 0x0702, obj := none } placeObjectBody c s)

/-- PLACE_HINT (Table 7.6, R193). -/
def placeHintBody (c : Cmd) (s : State) : Ran :=
  match s.obj? c.object.toNat with
  | none => refuse s stBadObject
  | some o =>
    let p := c.f 1 127 120
    let r := c.f 1 119 112
    let m := c.f 1 111 104
    if !([1, 2, 6, 8].contains o.cls) then refuse s stBadObject
    else if !c.okBits 1 (mask 127 104) || decide (3 < p ∨ 2 < r ∨ 1 < m) || (o.cls == 8 && r != 0)
        || ((o.cls == 1 || o.cls == 8) && m != 0) then refuse s stBadArg
    else if m = 0 ∧ o.mirror = 1 ∧ s.freeBaskets < o.baskets.length then refuse s stNoSpace
    else answer (s.modObj o.id (fun x => { x with hint := some (p, r, m) })) []

def execPlaceHint (c : Cmd) (s : State) : Host.Outcome State Fault Refusal :=
  .next (hostCmd (.placeHint c) { op := 0x0703, obj := none } placeHintBody c s)

/-! ### The epoch, moves and copies (R178 to R181) -/

/-- TB0 in ns of the next subframe boundary, if the panel grid has one: after the two frames of a timing mode change the old
grid has none. -/
def State.nextBoundary (s : State) : Option Nat :=
  let past := match s.tim.change with
    | some m => decide (1 ≤ m.stage) && decide (m.k0 + 2 * s.tim.sCount ≤ s.tim.nextK)
    | none => false
  if !s.tim.on || past then none else some (s.tim.boundaryNs s.tim.nextK)

/-- 1 ms has passed with no subframe boundary; where one falls into that time, there is no tick.
(DESIGN CHOICE, unsafe: log entry 9.) -/
def execPlacementEpochTick (s : State) : Host.Outcome State Fault Refusal :=
  .next (
    let due := s.place.epochAt + 1000000
    if s.nextBoundary.any (fun b => decide (b ≤ due)) then s else (s.advanceTo due).epochBoundary)

/-- Change the basket of an index of an object, or, under ID 0, of the device's reservations and tables. -/
def State.modBasket (s : State) (obj index : Nat) (f : Basket → Basket) : State :=
  let g (b : Basket) : Basket := if b.index = index then f b else b
  if obj = 0 then { s with place := { s.place with reserved := s.place.reserved.map g, tables := s.place.tables.map g } }
  else s.modObj obj (fun o => { o with baskets := o.baskets.map g })

/-- The basket of an index of an object. -/
def State.basket? (s : State) (obj index : Nat) : Option Basket :=
  let bs := if obj = 0 then s.place.reserved ++ s.place.tables else match s.obj? obj with
    | some o => o.baskets
    | none => []
  bs.find? (fun b => b.index == index)

/-- The streams that a lost basket of a scene serves. -/
def sceneHit (slot : Nat) (lost : List Basket) (d : StreamId) : Bool :=
  d.slot == slot && lost.any (fun b => b.a == d.anchor && b.l == d.layer && (b.item == 1 || b.item == 2 + d.kind))

/-- An operation on a basket that was issued before an epoch has not retired (R178 to R180): an access unit of a stream whose
pictures or queue it holds, or a ray tile that reads the panel scene's pictures. -/
def State.olderOps (s : State) (obj : Nat) (b : Basket) (epoch : Nat) : Bool :=
  let before (e : Nat) : Bool := after 32 epoch e
  (match s.ingest.scenes.find? (fun (x : Scene) => x.obj == obj) with
   | some x => s.dec.streams.any (fun (y : DStream) => sceneHit x.slot [b] y.id && y.running.any (fun r => before r.epoch))
   | none => false) ||
  (b.item == 1 && s.pget 0x03000001 == obj &&
    s.synth.clusters.any (fun c => c.disp.any (fun t => t.started && before t.epoch)))

/-- A basket may have one more replica (R173): it holds decoded depth or prepared textures, which lie from 54 to 135 bytes for
each sample of its layer slot (Table 7.2), no access unit of its streams writes, the hint and the limit allow it.
(DESIGN CHOICE, unsafe: log entry 13.) -/
def State.replicaOk (s : State) (o : Obj) (b : Basket) : Bool :=
  match s.ingest.scenes.find? (fun (x : Scene) => x.obj == o.id) with
  | none => false
  | some x =>
    b.cls == 1 && b.item == 1 && decide (54 * (x.maxW * x.maxH) < (b.part + 1) * basketBytes) &&
    !s.dec.streams.any (fun (y : DStream) => sceneHit x.slot [b] y.id && y.running.isSome) &&
    o.replica != 0 && b.moveTo.isNone && !b.chans.isEmpty && decide (b.replicas.length < s.pget 0x07000002)

/-- A channel may take a copy of a basket that it does not hold; a replica goes where no basket or replica stands. -/
def State.destOk (s : State) (b : Basket) (kind dest : Nat) : Bool :=
  let u := s.usage.getD dest 0 + (if kind = 1 then s.replicaCount.getD dest 0 else 0)
  s.works dest && decide (u < channelBaskets) && !b.chans.contains dest && !b.replicas.contains dest &&
    !b.oldSources.any (fun c => c.chan == dest) && !b.oldReps.any (fun c => c.chan == dest)

/-- An object with REPLICA 2 has a basket whose replica is still to be made: it is first in line (R193). -/
def State.preferredWaits (s : State) : Bool :=
  s.objs.objs.any (fun o => o.replica == 2 &&
    o.baskets.any (fun b => s.replicaOk o b && (List.range 32).any (fun d => s.destOk b 1 d)))

/-- A voluntary copy that R173, R179, R180 and R193 allow: kind 0 a move of the first copy, 3 of the second, 1 a replica.
(DESIGN CHOICE, unsafe: log entry 13.) -/
def State.copyAllowed (s : State) (obj : Nat) (b : Basket) (kind dest : Nat) : Bool :=
  s.destOk b kind dest &&
  (if kind = 1 then
    match s.obj? obj with
    | some o => s.replicaOk o b && (o.replica == 2 || !s.preferredWaits)
    | none => false
  else
    let n := if kind = 3 then 1 else 0
    let others := b.chans.eraseIdx n
    b.cls != 2 && b.moveTo.isNone && b.oldSources.isEmpty && decide (n < b.chans.length) &&
      others.all (fun c => c / 4 != dest / 4))

/-- The rate of the migration traffic that serves a copy, in GB/s (R177): mirror restoration after a loss has at least 4. -/
def State.copyRate (s : State) (b : Basket) : Nat :=
  let cap := s.pget 0x07000001
  if b.moveKind = 2 ∧ s.place.restoration.isSome = true then Nat.max cap 4 else cap

/-- A copy has the migration traffic to itself or ahead of others: mirror restoration goes first (R177). -/
def State.copyTurn (s : State) (b : Basket) : Bool :=
  b.moveKind == 2 || s.place.restoration.isNone || !s.critical.any (fun x => x.copying && x.moveKind == 2)

/-- A basket's copy ends: no earlier than the rate allows after the copy before it (R177); its switch waits for the next epoch
boundary. -/
def State.copyEnds (s : State) (obj index : Nat) (b : Basket) : State :=
  let rate := s.copyRate b
  if !b.copying || rate == 0 || !s.copyTurn b then s
  else
    let s := s.advanceTo (s.place.copyEnd + ceilDiv basketBytes rate)
    let s := s.modBasket obj index (fun b => { b with copied := true })
    { s with place := { s.place with
        copyEnd := s.now
        migrated := s.place.migrated + 2
        restoration := if b.moveKind = 2 then s.place.restoration.map (fun r => { r with restored := r.restored + 1 })
          else s.place.restoration } }

/-- A copy ends (kind 2); the moves and replicas that the placer makes as it sees fit begin by the same row (log entry 13):
kind 0 a move of the first copy, 3 of the second, 1 a replica. (DESIGN CHOICE, unsafe: log entry 13.) -/
def execBasketCopyComplete (obj index kind dest : Nat) (s : State) : Host.Outcome State Fault Refusal :=
  .next (match s.basket? obj index with
    | none => s
    | some b =>
      if kind = 2 then s.copyEnds obj index b
      else if !s.copyAllowed obj b kind dest || s.pget 0x07000001 == 0
          || s.critical.any (fun x => x.copying && x.moveKind == 2 && s.place.restoration.isSome) then s
      else
        (s.copyBegins.modBasket obj index (fun b => { b with
          moveTo := some dest, moveKind := if kind = 1 then 1 else 0
          moveFrom := b.chans.getD (if kind = 3 then 1 else 0) 0, copied := false })).makeRoom)

/-- Locations whose older operations have retired are released (R179). -/
def State.released (s : State) (obj : Nat) (b : Basket) : Basket :=
  { b with oldSources := b.oldSources.filter (fun c => s.olderOps obj b c.epoch)
           oldReps := b.oldReps.filter (fun c => s.olderOps obj b c.epoch) }

/-- Every older operation that addressed a moved basket has retired: what it left is released (R179, R181).
(DESIGN CHOICE, unsafe: log entry 13.) -/
def execBasketSourceRelease (obj index : Nat) (s : State) : Host.Outcome State Fault Refusal :=
  .next (
    let s' := s.modBasket obj index (s.released obj)
    let left := s.place.leaving.map (fun p => if p.1 = obj ∧ p.2.index = index then (p.1, s.released obj p.2) else p)
    ({ s' with place := { s'.place with
        leaving := left.filter (fun p => !(p.2.oldSources.isEmpty && p.2.oldReps.isEmpty)) } } : State).capacityCheck)

/-! ### Channel loss (R188 to R191) -/

/-- The loss of a copy's source after its bytes have all been copied: the switch is made at the next epoch boundary. -/
def Basket.saved (ch : Nat) (b : Basket) : Bool :=
  b.copied && b.moveFrom == ch && b.moveKind != 1 && b.moveTo.any (· != ch)

/-- A basket after the loss of a channel, moves resolved by R181; a stream basket that is lost loses its replicas too.
(DEDUCED, unsafe: log entry 33.) -/
def Basket.lose (ch epoch : Nat) (b : Basket) : Basket :=
  let ends := b.moveTo = some ch ∨ (b.moveFrom = ch ∧ b.saved ch = false)
  let lost := b.cls == 1 && b.chans.contains ch && !b.saved ch
  let left (l : List OldCopy) : List OldCopy := l.filter (fun c => c.chan != ch)
  let reps := b.replicas.filter (· != ch)
  { b with
    moveTo := if ends then none else b.moveTo
    copied := if ends then false else b.copied
    chans := b.chans.filter (· != ch)
    replicas := if lost then [] else reps
    dropping := if lost then [] else b.dropping.filter (· != ch)
    oldSources := left b.oldSources
    oldReps := left b.oldReps ++ (if lost then reps.map (fun c => ({ chan := c, epoch := epoch } : OldCopy)) else []) }

/-- Baskets of a class that lose a copy with a channel. -/
def State.onChannel (s : State) (ch cls : Nat) : List Basket :=
  (s.allBaskets ++ s.place.tables).filter (fun b => b.cls == cls && b.chans.contains ch && !b.saved ch)

/-- PLACE_LOST (Table 7.8). -/
def State.placeLost (s : State) (obj : Nat) : State := s.raise 7 3 3 obj s.arg2f

/-- The loss of an object is a safety fault (R191): a geometry, map or counters object in force, or critical baskets of
the panel scene. -/
def State.lossIsFault (s : State) (o : Obj) : Bool :=
  if o.cls = 1 then s.pget 0x03000001 == o.id
  else
    (o.cls == 3 || o.cls == 4 || o.cls == 5) &&
    [0x05000001, 0x0C000001, 0x0C000002, 0x0C000003, 0x0C000004].any (fun p => s.pget p == o.id)

/-- Mark an object LOST and say whether that is a safety fault.
(DESIGN CHOICE, safe: log entry 3; DEDUCED, unsafe: log entry 33.) -/
def State.loseObj (s : State) (o : Obj) : State × Bool :=
  let k := s.free
  let bytes (x : Obj) : List Byte := (List.range (x.data.length - 16)).map (fun i => BitVec.ofNat 8 (Config.freeNat (k + i)))
  let s := ({ s with free := s.free + o.data.length } : State).modObj o.id (fun x => { x with
    lost := true, data := x.data.take 16 ++ bytes x })
  let s := s.placeLost o.id
  (s, s.lossIsFault o)

/-- An object holds a critical basket, or a single-copy one, that no channel holds any more. -/
def Obj.gone (o : Obj) : Bool :=
  !o.lost && o.baskets.any (fun b => b.live == 0 && (b.cls == 0 || (o.cls != 1 && o.cls != 8 && b.cls == 1)))

/-- The objects that have lost both copies of a critical basket. (DEDUCED, unsafe: log entry 33.) -/
def State.loseAll (s : State) (os : List Obj) (fault : Bool) : State × Bool :=
  match os with
  | [] => (s, fault)
  | o :: r =>
    let ran := s.loseObj o
    let s := ran.1
    let f := ran.2
    s.loseAll r (fault || f)

/-- A substitute (R121) of a size and, for texture, prepared. (DEDUCED, unsafe: log entry 36.) -/
def substPic (seq : SeqParams) (w h kind bits frame reason : Nat) : YPic :=
  let p : Pic :=
    if kind = 1 then { w := w, h := h, chroma := 0, bits := bits, y := [], cb := [], cr := [] }
    else { w := w, h := h, chroma := 0, bits := bits, y := List.replicate (w * h) (2 ^ (bits - 1)), cb := [], cr := [] }
  { frame := frame, pic := p, zeroDepth := kind == 1, concealed := true, reason := reason
    levels := if kind = 0 then prepare seq p else [] }

/-- A stream's substitute in the place of a picture whose buffer is lost. -/
def State.lostPic (s : State) (seq : SeqParams) (d : StreamId) (p : YPic) : YPic :=
  let bits := ((s.dec.streams.find? (fun (x : DStream) => x.id == d)).bind (·.bits)).getD 10
  substPic seq p.pic.w p.pic.h d.kind bits p.frame 0x0C

/-- The pictures that streams have yielded to a scene and that their lost buffers held: substitutes take their place (R188). -/
def State.lostPics (s : State) (hit : StreamId → Bool) (seq : SeqParams) (slot : Nat) (ps : List FPic) : List FPic :=
  ps.map (fun p =>
    let d : StreamId := { slot := slot, anchor := p.anchor, layer := p.layer, kind := p.kind }
    if hit d then { p with pic := s.lostPic seq d p.pic } else p)

/-- The same in what a panel frame synthesises. -/
def State.lostFix (s : State) (hit : StreamId → Bool) (x : Scene) (fx : FrameFix) : FrameFix :=
  match x.shown with
  | none => fx
  | some h =>
    let pic (a l k : Nat) (p : YPic) : YPic :=
      let d : StreamId := { slot := x.slot, anchor := a, layer := l, kind := k }
      if hit d then s.lostPic h.seq d p else p
    { fx with anchors := fx.anchors.map (fun a => { a with
        layers := (List.range a.layers.length).filterMap (fun l => a.layers[l]?.map (fun (y : LayerIn) =>
          { y with tex := pic a.n l 0 y.tex, depth := pic a.n l 1 y.depth })) }) }

/-- A ray tile under synthesis is abandoned and given to another cluster (R188, R185). -/
def State.abandonTile (s : State) (n : Nat) : State :=
  match (s.cluster n).disp with
  | [] => s
  | t :: ts =>
    if !t.started then s
    else (s.modCluster n (fun (c : Cluster) => ({ c with disp := ts } : Cluster).startHead s.now s.place.epoch.toNat)).reassign n t

/-- R128 and step 3 of R188, from the current panel frame: substitutes for the pictures of the streams hit; the ray tiles
in flight, which may have read them, are abandoned where they are of the panel scene. (DESIGN CHOICE, unsafe: log entry 32.) -/
def State.losePics (s : State) (hit : StreamId → Bool) : State :=
  let panel := if s.pget 0x03000001 = 0 then none else s.ingest.scenes.find? (fun (x : Scene) => x.obj == s.pget 0x03000001)
  let scenes := s.ingest.scenes.map (fun (x : Scene) => { x with
    queue := x.queue.map (fun (f : SFrame) => { f with pics := s.lostPics hit f.seq x.slot f.pics })
    shown := x.shown.map (fun (h : Shown) => { h with pics := s.lostPics hit h.seq x.slot h.pics }) })
  let fix (o : Option FrameFix) : Option FrameFix := match panel with
    | some x => o.map (s.lostFix hit x)
    | none => o
  let reads := panel.any (fun x => s.dec.streams.any (fun (y : DStream) => y.id.slot == x.slot && hit y.id))
  let s := { s with
    ingest := { s.ingest with scenes := scenes }
    synth := { s.synth with cur := fix s.synth.cur, next := fix s.synth.next } }
  if reads then (List.range 48).foldl State.abandonTile s else s

/-- Streams that lose their buffers wait for a random-access point (R128, R129).  DECODE_CONCEAL for each carries the last
accepted FRAME and no CTU. (DESIGN CHOICE, unsafe: log entry 85.) -/
def State.starveStreams (s : State) (hit : StreamId → Bool) (reason : Nat) (raise_ : Bool) : State :=
  let ids := (s.dec.streams.filter (fun x => hit x.id && x.state != 0)).map (·.id)
  let s := { s with dec := { s.dec with streams := s.dec.streams.map (fun (x : DStream) => if hit x.id then x.starve reason else x) } }
  let s := s.startQueued
  if raise_ then ids.foldl (fun s d => s.decodeConceal d ((s.ingest.scenes.find? (fun x => x.slot == d.slot)).elim 0 (·.last)) reason 0) s else s

/-- Baskets that lost their one copy take a new place under R172. -/
def State.reallot (s : State) (a : Alloc) (take : Basket → Bool) : List Basket → Alloc × List Basket
  | [] => (a, [])
  | b :: bs =>
    let (a, b) := if take b && b.live == 0 then (let (a, cs) := s.allotOne false 0 a; (a, { b with chans := cs })) else (a, b)
    let (a, out) := s.reallot a take bs
    (a, b :: out)

/-- Stream baskets of scenes and scratch reservations without a copy are placed again. -/
def State.reallotAll (s : State) : State :=
  let a : Alloc := { used := s.usage, pos := 0, free := s.free }
  let (a, os) := s.objs.objs.foldl (fun (acc : Alloc × List Obj) o =>
    if o.cls = 1 then
      let (a, bs) := s.reallot acc.1 (fun b => b.cls == 1) o.baskets
      (a, acc.2 ++ [{ o with baskets := bs }])
    else (acc.1, acc.2 ++ [o])) (a, [])
  let (a, rs) := s.reallot a (fun b => b.cls == 2) s.place.reserved
  { s with objs := { s.objs with objs := os }, place := { s.place with reserved := rs }, free := a.free }

/-- Baskets that need a place: single critical ones with no copy under way, and stream and scratch ones of the reservations
without a copy. -/
def State.placeNeed (s : State) : Nat :=
  countP Basket.wantsMirror s.allBaskets
    + countP (fun b => b.live == 0 && b.cls == 1 && (b.item == 1 || b.item == 2 || b.item == 3)) s.allBaskets
    + countP (fun b => b.chans.isEmpty && b.cls == 2) s.place.reserved

/-- PLACE_EVICT (Table 7.8). -/
def State.placeEvict (s : State) (obj what : Nat) : State :=
  ({ s with place := { s.place with evicted := s.place.evicted + 1 } } : State).raise 7 5 2 obj (s.arg2f + what * 256)

/-- Region staging is released. -/
def State.freeStaging (s : State) (job : Nat) : State :=
  s.unreserve (fun b => b.item == 17 && b.a == job)

/-- A region update ends. -/
def State.endRegion (s : State) (job status : Nat) : State :=
  let s := { s with panel := { s.panel with regions := s.panel.regions.filter (fun (r : Region) => r.job != job) } }
  (s.freeStaging job).endJob job status []

/-- A user of scratch baskets that R190 may end: a compression job, a region update, an encoder stream.  Taps, the record of
hb and reassembly are made again at once, so that nothing is freed. (DESIGN CHOICE, unsafe: log entry 32.) -/
inductive ScratchUser where
  | job (j : CmpJob)
  | region (job : Nat)
  | enc (n : Nat)
  deriving DecidableEq, Repr

/-- A user of scratch baskets ends as in step 4 of R188, and its baskets are free. -/
def State.endScratch (s : State) (u : ScratchUser) : State :=
  match u with
  | .job j => (s.failCmpJob j stNoResource).placeEvict j.obj 1
  | .region id => (s.endRegion id stNoResource).placeEvict 0 1
  | .enc n => ((s.encStop n 2).unreserve (fun b => b.item == 15 + n)).placeEvict 0 1

/-- R190 step 2: end users of scratch baskets, in ascending PRIORITY, while space is short. -/
def State.evictScratch (s : State) : List ScratchUser → State
  | [] => s
  | u :: us => if s.placeNeed ≤ s.freeBaskets then s else (s.endScratch u).evictScratch us

/-- R190 step 3: cut the stream reservations of scenes while space is short. -/
def State.cutScenes (s : State) : List Scene → State
  | [] => s
  | x :: xs =>
    if s.placeNeed ≤ s.freeBaskets then s
    else
      let s := s.giveUp x.obj ((s.obj? x.obj).elim [] (fun o => o.baskets.filter (fun b => b.cls == 1)))
      let s := s.modObj x.obj (fun o => { o with baskets := o.baskets.filter (fun b => b.cls != 1) })
      let s := { s with place := { s.place with cut := x.obj :: s.place.cut } }
      let s := s.starveStreams (fun d => d.slot == x.slot) 0x0D false
      (s.placeEvict x.obj 2).cutScenes xs

/-- PRIORITY of an object. -/
def State.priorityOf (s : State) (id : Nat) : Nat := match s.obj? id with
  | some o => o.priority
  | none => 1

/-- Users of scratch baskets in ascending PRIORITY; those that are no object have the reset value 1. -/
def State.scratchUsers (s : State) : List ScratchUser :=
  (List.range 4).flatMap (fun p =>
    (s.comp.jobs.filter (fun j => s.priorityOf j.obj == p)).map ScratchUser.job ++
    (if p = 1 then
      s.panel.regions.map (fun (r : Region) => ScratchUser.region r.job) ++
      ([0, 1].filter (fun n => s.place.reserved.any (fun b => b.item == 15 + n && !b.chans.isEmpty))).map ScratchUser.enc
    else []))

/-- Scratch users and scenes in the order of R190: ascending PRIORITY, scenes then by descending slot and the panel scene last.
(DESIGN CHOICE, unsafe: log entry 32.) -/
def State.evictOrder (s : State) : State :=
  let s := s.evictScratch s.scratchUsers
  let panel := s.pget 0x03000001
  let slots := (List.range 4).reverse
  let xs := (List.range 4).flatMap (fun p => slots.filterMap (fun n =>
    s.ingest.scenes.find? (fun x => x.slot == n && x.obj != panel && s.priorityOf x.obj == p && !s.place.cut.contains x.obj)))
  let last := s.ingest.scenes.filter (fun x => x.obj == panel && !s.place.cut.contains x.obj)
  s.cutScenes (xs ++ last)

/-- PLACE_MIRROR_SHORT where a basket must stay single (R190). -/
def State.mirrorShortCheck (s : State) : State :=
  if !s.critical.any Basket.wantsMirror then s
  else
    let had := s.place.mirrorShort
    let s := s.mapBaskets (fun b => { b with short := b.short || b.wantsMirror })
    let s := { s with place := { s.place with mirrorShort := true } }
    if had then s else s.raise 7 6 3 (s.singles * 2 ^ 32 + s.freeBaskets) s.arg2f

/-- The tap buffers are allotted afresh (R210): COMP_TAP_RESET. -/
def State.loseTaps (s : State) (ch : Nat) : State :=
  ({ s with comp := { s.comp with taps := s.comp.taps.map (fun t => { t with frame := none, done := [], run := [] })
                                  monTaps := s.comp.monTaps.map (fun t => { t with done := [] }) } } : State).raise 8 1 2
    (packNat [at' 63 56 (0x0F : Nat), at' 55 48 ch]) s.arg2f

/-- The record of hb is lost (Table 12.9): its tiles are no longer tracked. -/
def State.loseHbRecord (s : State) : State :=
  let ts := sumN (tileNums.map (fun t => if (s.tile t).img.isSome then 2 ^ t else 0))
  if ts = 0 then s
  else
    ({ s with panel := { s.panel with tiles := s.panel.tiles.map (fun d => { d with img := none }) } } : State).raise 0x0C 7 1
      (packNat [at' 63 56 3, at' 55 40 ts, at' 31 0 s.panel.visitsEntry]) s.arg2f

/-- The buffers of an encoder stream are lost (Table 14.3). -/
def State.loseEncBuffers (s : State) (n : Nat) : State := (s.encDropRunning n 3).modEnc n (fun e => { e with idrNext := true })

/-- Step 4 of R188 for the device's own scratch baskets: taps (R210), encoder buffers (Table 14.3), region staging and
the record of hb (Table 12.9), reassembly (R407). -/
def State.loseScratch (s : State) (ch : Nat) (lost : List Basket) : State :=
  let hit (n : Nat) : Bool := lost.any (fun b => b.item == n)
  let s := if hit 10 then s.loseTaps ch else s
  let s := if hit 14 then s.loseHbRecord else s
  let s := [0, 1].foldl (fun s n => if hit (15 + n) then s.loseEncBuffers n else s) s
  let fs := (s.time.flows.filter (fun f => lost.any (fun b => b.item == 18 && b.a == f.n))).map (·.n)
  let s := fs.foldl State.loseFlowBaskets s
  let rs := s.panel.regions.filter (fun r => lost.any (fun b => b.item == 17 && b.a == r.job))
  (rs.map (·.job)).foldl (fun s j => s.endRegion j stNoResource) s

/-- The run of mirror restoration that a loss begins, or that goes on with it (R189). -/
def State.joinRestoration (s : State) (ch : Nat) : State :=
  if s.singles == 0 && s.place.restoration.isNone then s
  else { s with place := { s.place with restoration := some (match s.place.restoration with
    | some r => { r with latest := ch }
    | none => { t0 := s.now, latest := ch }) } }

/-- Mirror restoration starts, ahead of the copies under way (R177, R189, R190). -/
def State.beginRestoration (s : State) (ch : Nat) : State :=
  ((({ s with place := { s.place with copyEnd := s.now } } : State).mirrorAll).mirrorShortCheck).joinRestoration ch

/-- R191 and step 5 of R188, once the baskets of the channel are gone: `crit`, `strm` and `scr` baskets of each class. -/
def State.settleLoss (s : State) (ch crit strm scr : Nat) (fault : Bool) : State :=
  let map_ := s.place.reserved.any (fun b => b.item == 13 && b.live == 0)
  let tab := s.place.tables.any (fun b => b.live == 0)
  let s := if map_ || tab then s.placeLost 0 else s
  -- step 5
  let s := s.raise 7 1 2 (packNat [at' 63 56 ch, at' 55 40 crit, at' 39 24 strm, at' 23 8 scr]) s.arg2f
  let s := if s.placeNeed ≤ s.freeBaskets then s else s.makeRoom.evictOrder
  let s := s.reallotAll
  let s := [0, 1].foldl (fun s n =>
    if s.place.reserved.any (fun b => b.item == 15 + n && b.chans.isEmpty) then s.encStop n 2 else s) s
  let s := (s.beginRestoration ch).capacityCheck
  if fault || map_ || tab then s.safeByFault else s

/-- The placer acts on a channel marked FAILED (R188). -/
def State.placeChannelLoss (s : State) (ch : Nat) : State :=
  let crit := countP (fun b => b.live == 2) (s.onChannel ch 0)
  let strm := s.onChannel ch 1
  let scr := s.onChannel ch 2
  let hits : List (Nat × List Basket) := s.ingest.scenes.map (fun x => (x.slot, match s.obj? x.obj with
    | some o => o.baskets.filter (fun (b : Basket) => b.cls == 1 && b.chans.contains ch && !b.saved ch)
    | none => []))
  let pics := hits.map (fun h => (h.1, h.2.filter (fun b => b.item == 1)))
  let jobs := s.comp.jobs.filter (fun j => match s.obj? j.obj with
    | some o => o.baskets.any (fun b => b.chans.contains ch)
    | none => false)
  let lostScratch := s.place.reserved.filter (fun b => b.cls == 2 && b.chans.contains ch)
  let e := s.nextEpoch
  let s := { s with place := { s.place with
    marked := s.place.marked.filter (· != ch)
    leaving := s.place.leaving.map (fun (p : Nat × Basket) => (p.1, p.2.lose ch e)) } }
  let s := s.mapBaskets (Basket.lose ch e)
  -- step 3
  let s := s.starveStreams (fun d => hits.any (fun h => sceneHit h.1 h.2 d)) 0x0C true
  let s := s.losePics (fun d => pics.any (fun h => sceneHit h.1 h.2 d))
  -- step 4
  let s := jobs.foldl (fun s j => s.failCmpJob j stNoResource) s
  let s := if jobs.isEmpty then s else s.raise 9 2 2 (packNat [at' 63 56 2, at' 55 48 jobs.length]) 0
  let s := s.loseScratch ch lostScratch
  -- R191
  let ran := s.loseAll (s.objs.objs.filter Obj.gone) false
  ran.1.settleLoss ch crit strm.length scr.length ran.2

/-- Table 1.4 for a fall of the working channels below 8 while SHUTDOWN runs. -/
def State.shutdownChannels (s : State) : State :=
  if s.dev.state == .shutdown && decide (s.channels < 8) then s.enter .safe 3 else s

def execChannelFailedMark (ch : Nat) (s : State) : Host.Outcome State Fault Refusal :=
  .next (if s.place.marked.contains ch then ((s.placeChannelLoss ch).shutdownChannels).evaluate else s)

/-- Every single critical basket has been mirrored again (R189): one PLACE_REMIRROR_DONE for the run. -/
def execMirrorRestorationComplete (s : State) : Host.Outcome State Fault Refusal :=
  .next (match s.place.restoration with
    | none => s
    | some r =>
      if s.critical.any (fun b => b.chans.length == 1) then s
      else
        ({ s with place := { s.place with restoration := none } } : State).raise 7 2 1
          (packNat [at' 63 56 r.latest, at' 55 40 r.restored, at' 31 0 (Nat.min 0xFFFFFFFF ((s.now - r.t0) / 1000))]) s.arg2f)

end Sys2Proof.Machine
end

