-- ==== Sys2Proof/Machine/StartOps.lean ====
section
/-! DEFINITION. Self-test, calibration, domains that fail, channels that fail, and the end of SHUTDOWN, as shared
operations (spec/17 section 17.1, spec/19). -/

namespace Sys2Proof.Machine

/-! ### Calibration reports (R460, R461) -/

/-- One run of a calibration step, 1 to 8. (DEDUCED, unsafe: log entry 27.) -/
def State.calRun (s : State) (step : Nat) (ok : Bool) : State :=
  { s with start := { s.start with cal := updAt s.start.cal (step - 1) (fun c => { c with
      result := if ok then (if c.result = 2 then 2 else 1) else 2
      failed := if ok then c.failed else c.failed + 1
      count := if c.count.toNat = 0xFFFF then c.count else c.count + 1
      t := s.now }) } }

/-- A calibration step fails on a unit: CAL_FAIL once per unit and BOOT. (DEDUCED, unsafe: log entry 27.) -/
def State.calFail (s : State) (step unit_ consequence : Nat) : State :=
  if s.start.calRaised.contains (step, unit_) then s
  else
    ({ s with start := { s.start with calRaised := (step, unit_) :: s.start.calRaised } } : State).raise 0x16 4 3
      (packNat [at' 63 56 step, at' 55 48 unit_, at' 47 40 consequence]) s.startArg2

/-! ### Self-test (R462 to R467) -/

/-- The record of a sector, and a change of it. -/
def Start.rec_ (t : Start) (b : Bool) : Option Record := if b then t.recB else t.recA

def Start.setRec (t : Start) (b : Bool) (r : Option Record) : Start := if b then { t with recB := r } else { t with recA := r }

/-- A run begins: its sector does not hold the newest valid record and is erased first where it is not (R467). -/
def State.startSelfTest (s : State) (occasion : Nat) : State :=
  let b := match s.start.newest with
    | some (_, b) => !b
    | none => false
  let st := (s.start.setRec b none)
  let s := s.emit (.pmbus (s.pget 0x13000002) 0x21 800)
  { s with
    start := { st with selftest := some { occasion := occasion, sectorB := b, t0 := s.now }
                       erasedA := st.erasedA || !b, erasedB := st.erasedB || b }
    pwr := { s.pwr with v := 800 } }

/-- Change the record of the running test. -/
def State.modRecord (s : State) (f : Record → Record) : State :=
  match s.start.selftest with
  | none => s
  | some x => { s with start := s.start.setRec x.sectorB ((s.start.rec_ x.sectorB).map f) }

/-- Program one domain's result into the record. -/
def setDom (r : Record) (d result cause sig count : Nat) : Record :=
  { r with doms := r.doms.map (fun x => if x.d = d then { x with result := result, cause := cause, sig := sig, count := count } else x) }

/-- The overall result (R464). -/
def overall (r : Record) : Nat :=
  if r.doms.any (fun x => x.result == 2) then 2
  else if r.doms.any (fun x => x.result == 4) then 4
  else if r.doms.any (fun x => x.result == 3) then 3
  else 1

/-- SELFTEST_ABORT (Table 19.10). -/
def State.testAbort (s : State) (d cause count : Nat) : State :=
  s.raise 0x16 3 1 (packNat [at' 63 56 d, at' 55 48 cause, at' 31 0 count]) s.startArg2

/-- Synthesis start-up begins once a geometry is in force in BLANKET and no start test runs (R141, Table 19.5). -/
def State.maybeStartSynth (s : State) : State :=
  if s.start.synth = 0 ∧ s.dev.state = .blanket ∧ s.geom.isSome = true ∧ s.start.selftest.isNone = true then
    ({ s with start := { s.start with synth := 1 } } : State).powerSync
  else s

/-- The end of SHUTDOWN: the final response, then OFF (R468). -/
def State.finishShutdown (s : State) (seq result : Nat) : State :=
  let ids := s.jobIds (fun j => j.key == .shutdown)
  let w := packW [at' 127 96 seq, at' 95 88 result]
  let s := ids.foldl (fun s i => s.endJob i stOk [w]) s
  let s := s.stopGrid
  let s := { s with dev := { s.dev with fwReady := false }, saf := { s.saf with safeStateLow := true } }
  let low := s.faultLow
  let s := (s.emit (.pin "SAFE_STATE_N" false)).enter .off 1
  -- FAULT_N falls (R47, R428)
  if low then s else s.setPend 0

/-- A run ends, complete or stopped: the record's overall result, SELFTEST_RESULT, and what follows it.
(DESIGN CHOICE, unsafe: log entry 70.) -/
def State.finishSelfTest (s : State) (whole : Bool) : State :=
  match s.start.selftest with
  | none => s
  | some x =>
    let s := s.modRecord (fun r => { r with result := overall r, duration := (s.now - x.t0) / 1000000
                                            clkMin := x.clkMin, clkMax := x.clkMax, vMin := x.vMin, vMax := x.vMax })
    match s.start.rec_ x.sectorB with
    | none => s
    | some r =>
      -- an abort of PD02 waits for PD02 to be up again (Table 19.13)
      let s := match r.doms.find? (fun y => y.d == 2) with
        | some y => if y.result = 3 ∧ y.cause = 1 then s.testAbort 2 1 y.count else s
        | none => s
      let sev := if r.result = 1 then 1 else if r.result = 2 then 3 else 2
      let s := s.raise 0x16 2 sev (packNat [at' 63 56 r.result, at' 55 48 r.occasion, at' 47 40 (countP (fun y => y.result == 2) r.doms),
        at' 39 32 (countP (fun y => y.result == 3) r.doms), at' 31 0 r.seq.toNat]) s.startArg2
      let s := ({ s with start := { s.start with selftest := none }, pwr := { s.pwr with v := 750 } } : State).emit
        (.pmbus (s.pget 0x13000002) 0x21 750)
      if x.occasion = 2 then
        let s := ({ s with start := { s.start with forceFull := s.start.forceFull && !whole } } : State).eraseOther
        ((s.milestone 5).startReconciles.powerSync).maybeStartSynth
      else if s.dev.state == .shutdown then s.finishShutdown r.seq.toNat r.result
      else s

/-- A domain's test is cut short, at a count and with a signature that the spec leaves open; SELFTEST_ABORT, which waits for PD02
to be up again where PD02 is the domain (Table 19.13).
(DESIGN CHOICE, safe: log entry 3; DESIGN CHOICE, unsafe: log entry 70.) -/
def State.cutTest (s : State) (d result cause : Nat) : State :=
  let n := s.takeFree (Config.fullCount d)
  let sig := n.1.takeFree (2 ^ 32)
  let s := sig.1.modRecord (fun r => setDom r d result (if result = 3 then cause else 0) sig.2 n.2)
  if d = 2 ∧ cause = 1 then s else s.testAbort d cause n.2

/-- The run stops: the domains under test take one result, the untested ones INCOMPLETE with a cause (Table 19.11). -/
def State.stopSelfTest (s : State) (result cause : Nat) : State :=
  match s.start.selftest with
  | none => s
  | some x =>
    let later := domainsFrom x.occasion (if x.header then x.phase + 1 else 0)
    let s := x.running.foldl (fun s d => s.cutTest d result cause) s
    let s := later.foldl (fun s d => s.modRecord (fun r => setDom r d 3 cause 0 0)) s
    s.finishSelfTest false

/-- The next phase begins, or the run ends, once no domain of the present one is left. -/
def State.nextPhase (s : State) : State :=
  match s.start.selftest with
  | none => s
  | some x =>
    if !x.running.isEmpty then s
    else
      match (testOrder x.occasion)[x.phase + 1]? with
      | some p => { s with start := { s.start with selftest := some { x with phase := x.phase + 1, running := phaseDomains p } } }.startReconciles
      | none => s.finishSelfTest true

/-- A service request stops a domain's test (R465): INCOMPLETE, cause 1; the domain is powered up. -/
def State.serviceRequest (s : State) (d : Nat) : State :=
  match s.start.selftest with
  | none => s
  | some x =>
    if !x.running.contains d then s
    else
      let s := s.cutTest d 3 1
      let s := { s with start := { s.start with selftest := some { x with running := x.running.filter (· != d) }, served := d :: s.start.served } }
      (s.modDomain d (Domain.request s.now true)).nextPhase

/-- A command that waits for PD02 or PD04 stops their tests (R465). -/
def State.serveCore (s : State) : State :=
  if !s.start.service then s
  else (({ s with start := { s.start with service := false } } : State).serviceRequest 4).serviceRequest 2

/-- SHUTDOWN goes on once no tile is powered and no switchover runs (R468): self-test, or its end. -/
def State.shutdownStep (s : State) : State :=
  if s.dev.state ≠ .shutdown ∨ s.panel.tiles.any (·.powered) = true ∨ s.pair.switch.isSome = true then s
  else
    let s := s.stopGrid
    if s.start.selftest.isSome then s
    else if s.start.shutTest then
      (({ s with start := { s.start with shutTest := false } } : State).startSelfTest 1).powerSync
    else s.finishShutdown 0 0

/-! ### The loss of the cross-link (R439, R443) -/

def State.modPair (s : State) (f : PairSt → PairSt) : State := { s with pair := f s.pair }

/-- Jobs of PAIR_CTRL end with a status. -/
def State.endPairJobs (s : State) (status : Nat) : State := s.endJobs (s.jobIds (fun j => j.key == .pairCtrl)) status

/-- A planned switchover whose boundary is not reached is not made (Table 18.12). -/
def State.dropPlanned (s : State) : State :=
  match s.pair.switch with
  | none => s
  | some w =>
    if w.stage ≠ 0 then s
    else
      let s := (s.modPair (fun p => { p with switch := none, yielded := if w.yield then false else p.yielded })).endPairJobs stAborted
      if !w.toUs && s.dev.state == .shutdown then
        let s := tileNums.foldl (fun s t => s.orderlyOff t 3) s.leavePair
        (if s.tim.on && s.panel.tiles.any (·.powered) then s else s.stopGrid).shutdownStep
      else s

/-- The cross-link goes up or down. -/
def State.xlinkGo (s : State) (up : Bool) (cause : Nat) : State :=
  if (s.pair.xlink == 2) == up then s
  else
    let s := s.modPair (fun p => { p with xlink := if up then 2 else 0 })
    s.raise 0x15 2 (if up then 1 else 2) (packNat [at' 63 56 (b2n up), at' 55 48 cause]) s.arg2f

/-- What the loss of the cross-link brings about. -/
def State.xlinkDown (s : State) (cause : Nat) : State :=
  let s := s.xlinkGo false cause
  let s := s.modPair (fun p => { p with partnerReady := false, ready := false, d := none, agree := false, mismatch := false, rankAt := none, aloneAt := s.now })
  let s := s.dropPlanned
  if s.pair.role = 1 then s.roleGo 3 3 else s

/-! ### Ports (R400) -/

def State.netPort (s : State) (p : Nat) : NetPort := s.time.ports.getD p {}

/-- NET_LINK (Table 16.23). -/
def State.netLink (s : State) (p : Nat) (up : Bool) : State :=
  if (s.netPort p).up == up then s
  else
    (s.modNet p (fun x => { x with up := up })).raise 0x12 1 (if up then 1 else 2)
      (packNat [at' 63 56 p, at' 55 48 (b2n up), at' 47 40 (s.netP p 0)]) 0

/-! ### Channels and domains that fail (R342, R411) -/

/-- Change one memory channel. -/
def State.modChan (s : State) (ch : Nat) (f : MemChan → MemChan) : State := { s with mem := { s.mem with chans := updAt s.mem.chans ch f } }

def State.chan (s : State) (ch : Nat) : MemChan := s.mem.chans.getD ch {}

/-- A channel is marked FAILED (R340, R342); the placer acts on the mark. -/
def State.failChannel (s : State) (ch where_ : Nat) : State :=
  if (s.chan ch).state = 3 then s
  else
    let s := s.modChan ch (fun c => { c with state := 3, pass := none, result := none })
    let s := { s with
      mem := { s.mem with writebacks := s.mem.writebacks.filter (fun w => w.ch != ch) }
      place := { s.place with marked := s.place.marked ++ [ch] } }
    s.raise 0x0D 4 3 (packNat [at' 63 56 ch, at' 55 48 s.channels, at' 47 40 where_]) s.arg2f

/-- A ray cluster is FAILED until the next BOOT (R159, R185). -/
def State.failCluster (s : State) (n : Nat) : State :=
  let c := s.synth.clusters.getD n {}
  if c.failed then s
  else
    let s := { s with synth := { s.synth with clusters := updAt s.synth.clusters n (fun (c : Cluster) => { c with failed := true, list := [], disp := [] }) } }
    let s := s.raise 6 4 3 (packNat [at' 63 56 n, at' 55 48 (countP (fun c => !c.failed && !c.disabled) s.synth.clusters)]) s.arg2f
    s.spreadTiles (c.disp ++ c.list)

/-- A decode core is FAILED until the next BOOT (R117). -/
def State.failCore (s : State) (n : Nat) : State :=
  let c := s.dec.cores.getD n {}
  if c.failed then s
  else
    let s := { s with dec := { s.dec with
      cores := updAt s.dec.cores n (fun (c : DCore) => { c with failed := true })
      streams := s.dec.streams.map (fun (x : DStream) => if x.team.contains n then { x with reform := true } else x) } }
    s.raise 4 6 3 (packNat [at' 63 56 n, at' 55 48 (countP (fun c => !c.failed && !c.disabled) s.dec.cores)]) 0

/-- The domains whose failure is a safety fault (R411). -/
def domainCritical (d : Nat) : Bool := (decide (2 ≤ d) && decide (d ≤ 5)) || d == 26 || d == 27 || d == 30 || d == 46

/-- The blocks of a FAILED domain (R411). -/
def State.domainBlocks (s : State) (d : Nat) : State :=
  let four (f : State → Nat → State) (first : Nat) : State := [0, 1, 2, 3].foldl (fun s i => f s (first + i)) s
  if 6 ≤ d ∧ d ≤ 17 then four State.failCluster (4 * (d - 6))
  else if 18 ≤ d ∧ d ≤ 23 then four State.failCore (4 * (d - 18))
  else if 32 ≤ d ∧ d ≤ 39 then (four (fun s c => s.failChannel c (if s.dev.state == .boot then 1 else 2)) (4 * (d - 32))).evaluate
  else if 40 ≤ d ∧ d ≤ 43 then four (fun s t => s.portGo t 0 1) (4 * (d - 40))
  else if d = 44 then (s.modPair (fun p => { p with xlock := false })).xlinkDown 2
  else if d = 45 then four (fun s p => s.netLink p false) 0
  else if domainCritical d then s.safeByFault
  else s

/-- A domain is forced off and FAILED until the next BOOT (R409, R411). (DEDUCED, unsafe: log entry 27.) -/
def State.failDomain (s : State) (d : Nat) : State :=
  (s.modDomain d (fun x => { x with st := 0, failed := true, wantUp := false, held := none, since := s.now })).domainBlocks d

end Sys2Proof.Machine
end

