-- ==== Sys2Proof/Machine/MonOps.lean ====
section
/-! DEFINITION. The monitor output as shared operations: when it runs, when it stops, the start of a link training
(R198, R361, R362, Table 14.9). -/

namespace Sys2Proof.Machine

def State.modMon (s : State) (f : Mon → Mon) : State := { s with enc := { s.enc with mon := f s.enc.mon } }

/-- MON_LINK: 0 idle, 2 up, 3 FAILED, with the cause. -/
def State.monLink (s : State) (what cause : Nat) : State :=
  s.raise 0x0F 1 (if what = 2 then 1 else 2) (packNat [at' 63 56 what, at' 55 48 s.enc.mon.rate, at' 47 40 cause]) (s.tim.monFrame.toNat * 2 ^ 16)

/-- The monitor output is to run: enabled, not stopped by sag stage or throttle, its domain ON, not held by the safety
monitor. -/
def State.monWanted (s : State) : Bool :=
  s.pget 0x0B000013 == 1 && decide (s.sagSeen < 2) && (s.domain 31).st == 2 && !s.saf.monIdle

/-- The main link goes to electrical idle (R362). -/
def State.monIdleNow (s : State) (cause : Nat) : State :=
  if s.enc.mon.link = 0 then s else (s.modMon (fun m => { m with link := 0, intended := none })).monLink 0 cause

/-- The monitor stops: 0 off, 2 by sag stage (Table 11.6). -/
def State.monStop (s : State) (st cause : Nat) : State :=
  let s := { s with tim := { s.tim with monState := st, monBegun := false } }
  s.monIdleNow cause

/-- A training begins where a sink is present (R362). (DEDUCED, unsafe: log entry 66.) -/
def State.monTrain (s : State) (cause : Nat) : State :=
  if s.monWanted && s.enc.mon.hpd then s.modMon (fun m => { m with link := 1, cause := cause, rate := s.pget 0x0F000002, trainAt := s.now }) else s

/-- The monitor generator starts, and with it the link training. -/
def State.monBegin (s : State) (cause : Nat) : State :=
  if s.monWanted && s.tim.monState != 1 then
    ({ s with tim := { s.tim with monState := 1, monBegun := false, monT0 := s.now } } : State).monTrain cause
  else s

end Sys2Proof.Machine
end

