-- ==== Sys2Proof/Machine/PwrRows.lean ====
section
/-! DEFINITION. Power domains, sag stages, the voltage loop, telemetry and temperature: commands and events (spec/17). -/

namespace Sys2Proof.Machine

open Sys2Proof

def State.modPwr (s : State) (f : Pwr → Pwr) : State := { s with pwr := f s.pwr }

/-! ### Shedding (Table 17.2, R198, R234, R359, R380, R420) -/

/-- What follows when the stage that rules naming S1 and S2 see has changed from `old`; then Table 1.4. -/
def State.sagReact (s : State) (old : Nat) : State :=
  let new := s.sagSeen
  let s := if old = 0 ∧ 0 < new then s.encStopAll 1 else if new = 0 then s.encResume else s
  let s :=
    if old < 2 ∧ 2 ≤ new then
      let s := (s.endCmpJobs stNoResource 1).g2dForce 0x0A
      if s.tim.monState = 1 then s.monStop 2 5 else s
    else s
  s.powerSync.evaluate

/-! ### Sag stages (R412, R413) -/

/-- The mean of the last samples, rounded down. (DESIGN CHOICE, unsafe: log entry 28.) -/
def meanN (xs : List Nat) : Nat := if xs.isEmpty then 0 else sumN xs / xs.length

/-- One sample at every site; a site without one keeps its samples. -/
def pushSites : List Site → List Nat → List Nat → List Site
  | [], _, _ => []
  | x :: xs, v :: vs, p :: ps => { vcore := (v :: x.vcore).take 4, pace := (p :: x.pace).take 4 } :: pushSites xs vs ps
  | xs, _, _ => xs

/-- The lowest of a list and its place, the first of equals. -/
def lowest : List Nat → Nat → Nat × Nat
  | [], _ => (0, 0)
  | [x], n => (x, n)
  | x :: xs, n => let (y, m) := lowest xs (n + 1); if x ≤ y then (x, n) else (y, m)

/-- The stage of an input in mV (Table 17.2). -/
def sagLevel (mv : Nat) : Nat :=
  if mv < 640 then 6 else if mv < 655 then 5 else if mv < 670 then 4 else if mv < 685 then 3 else if mv < 700 then 2
  else if mv < 715 then 1 else 0

/-- The threshold of stage k in mV. -/
def sagThreshold (k : Nat) : Nat := 730 - 15 * k

/-- The dwell of a stage begins with a sample at or above its threshold + 10 mV; S6 and a held S4 have none (R413). -/
def Pwr.dwells (p : Pwr) (k : Nat) : Bool :=
  !(k == 0 || k == 6 || (p.warnLow && k == 4)) && decide (sagThreshold k + 10 ≤ p.input)

/-- The dwell of a stage entered now. -/
def Pwr.keepsAbove (p : Pwr) (k now : Nat) : Option Nat := if p.dwells k then some now else none

/-- The stage changes: PWR_SAG, then what it sheds. -/
def State.setStage (s : State) (new cause : Nat) : State :=
  let old := s.pwr.stage
  if old = new then s
  else
    let seen := s.sagSeen
    let s := s.modPwr (fun p => { p with stage := new, above := p.keepsAbove new s.now, sagRises := if old < new then p.sagRises + 1 else p.sagRises })
    let sev := if new = 6 then 3 else if old < new then 2 else 1
    let s := s.raise 0x13 1 sev
      (packNat [at' 63 56 new, at' 55 48 old, at' 47 40 cause, at' 39 32 s.pwr.inputMon, at' 15 0 s.pwr.input]) s.arg2f
    let s := if new = 6 then s.stopSelfTest 4 3 else s
    s.sagReact seen

/-- The stage after a new input (R413). (DESIGN CHOICE, unsafe: log entry 28.) -/
def State.sagStep (s : State) : State :=
  let p := s.pwr
  let lv := sagLevel p.input
  let want := if p.warnLow then Nat.max lv 4 else lv
  if p.stage < want then s.setStage want (if want = lv then 1 else 2)
  else if !p.dwells p.stage then s.modPwr (fun p => { p with above := none })
  else if p.above.any (fun t => decide (t + 200000 ≤ s.now)) then s.setStage (p.stage - 1) 3
  else s.modPwr (fun p => { p with above := some (p.above.getD s.now) })

/-- SAG_SAMPLE: VCORE and pace of the 48 sites of PD46, 10 µs after the last sample. -/
def execSagSample (vcore pace : List Nat) (s : State) : Host.Outcome State Fault Refusal :=
  .next (
    if s.dev.state == .off || (s.domain 46).st != 2 then s
    else
      let s := s.advanceTo (s.pwr.sagAt + 10000)
      let sites := pushSites s.pwr.sites vcore pace
      let (v, n) := lowest (sites.map (fun x => meanN x.vcore)) 0
      (s.modPwr (fun p => { p with sites := sites, input := v, inputMon := n, sagAt := s.now })).sagStep)

/-- SUPPLY_WARN_N goes low: at least S4; a self-test takes it as a failed voltage condition (Table 19.11). -/
def execSupplyWarnNFall (s : State) : Host.Outcome State Fault Refusal :=
  .next (
    if s.pwr.warnLow then s
    else
      let s := s.modPwr (fun p => { p with warnLow := true, warnFalls := p.warnFalls + 1, above := none })
      let s := s.stopSelfTest 4 3
      if s.pwr.stage < 4 then s.setStage 4 2 else s)

/-- SUPPLY_WARN_N rises; the dwell of the falling rule begins. -/
def execSupplyWarnNRise (s : State) : Host.Outcome State Fault Refusal :=
  .next (if s.pwr.warnLow then s.modPwr (fun p => { p with warnLow := false, above := none }) else s)

/-! ### The voltage loop (R414 to R416) -/

def State.avsAddr (s : State) : Nat := s.pget 0x13000002

/-- The lowest pace of all monitors and its monitor. -/
def State.paceMin (s : State) : Nat × Nat := lowest (s.pwr.sites.map (fun x => meanN x.pace)) 0

def State.avsCeiling (s : State) : Nat :=
  if 2 ≤ s.pwr.level then Nat.min (s.pget 0x13000005) (s.pget 0x13000008) else s.pget 0x13000005

def State.avsFloor (s : State) : Nat := Nat.min (s.pget 0x13000004) s.avsCeiling

/-- v of R415 at the next period. -/
def State.avsNext (s : State) : Nat :=
  let c := s.avsCeiling
  let f := s.avsFloor
  if s.dev.state == .parasol then f
  else if s.pget 0x13000001 = 0 then c
  else
    let p := s.paceMin.1
    let t := s.pget 0x13000003
    clampN (if p < t then s.pwr.v + 5 else if t + 0x100 < p then s.pwr.v - 5 else s.pwr.v) f c

/-- PWR_AVS. -/
def State.pwrAvs (s : State) (cause addr status : Nat) : State :=
  s.raise 0x13 2 2 (packNat [at' 63 56 cause, at' 55 48 addr, at' 47 32 status, at' 15 0 s.pwr.v]) s.arg2f

/-- Transactions of an exchange that failed (R416, Table 17.7). -/
def pmbFailed (fail times : Nat) : Nat := if fail = 0 then 0 else Nat.min 3 times

/-- A transaction has failed 3 times in a row (R416). -/
def pmbDead (fail times : Nat) : Bool := pmbFailed fail times == 3

/-- Three failed transactions of the regulator, or a VOUT_MODE that is not LINEAR16, freeze the loop (R416).
(DESIGN CHOICE, unsafe: log entry 29.) -/
def State.avsFreeze (s : State) (r : PmbRead) : State :=
  let s := s.modPwr (fun p => { p with frozen := true })
  s.pwrAvs (if pmbDead r.fail r.times then r.fail else 5) s.avsAddr r.status

/-- The readings of an exchange, and the output check. -/
def State.avsRead (s : State) (r : PmbRead) : State :=
  let s := s.modPwr (fun p => { p with vRead := r.vout, iout := r.iout })
  if s.pwr.v + 20 < r.vout ∨ r.vout + 20 < s.pwr.v then s.pwrAvs 4 s.avsAddr r.status else s

/-- The loop runs: outside OFF and self-test. -/
def State.avsRuns (s : State) : Bool := s.dev.state != .off && s.start.selftest.isNone

/-- A period of the loop, or a retry of the frozen loop: TB0 goes on by it from the last one; failed transactions are counted. -/
def State.avsWait (s : State) (period : Nat) (r : PmbRead) : State :=
  let s := s.advanceTo (s.pwr.avsAt + period)
  s.modPwr (fun p => { p with avsAt := s.now, pmbErrors := p.pmbErrors + BitVec.ofNat 32 (pmbFailed r.fail r.times) })

/-- AVS_TICK: a period of `pwr.avs.period_us` (R415). -/
def execAvsTick (r : PmbRead) (s : State) : Host.Outcome State Fault Refusal :=
  .next (
    if !s.avsRuns || s.pwr.frozen then s
    else
      let s := s.avsWait (s.pget 0x13000006 * 1000) r
      if pmbDead r.fail r.times || !r.linear16 then s.avsFreeze r
      else
        let s := s.modPwr (fun p => { p with v := s.avsNext })
        (s.emit (.pmbus s.avsAddr 0x21 s.pwr.v)).avsRead r)

/-- AVS_RETRY: 1 s after the loop froze or was retried last (R416). (DESIGN CHOICE, unsafe: log entry 29.) -/
def execAvsRetry (r : PmbRead) (s : State) : Host.Outcome State Fault Refusal :=
  .next (
    if !s.avsRuns || !s.pwr.frozen then s
    else
      let s := s.avsWait 1000000000 r
      if pmbDead r.fail r.times || !r.linear16 then s.avsFreeze r
      else (s.modPwr (fun p => { p with frozen := false })).avsRead r)

/-- PMB_ALERT_N falls: STATUS_WORD is read and CLEAR_FAULTS sent. -/
def execPmbAlertNFall (status : Nat) (s : State) : Host.Outcome State Fault Refusal :=
  .next (if s.dev.state == .off then s else (s.emit (.pmbus s.avsAddr 0x03 0)).pwrAvs 3 s.avsAddr status)

/-! ### Telemetry (R417) -/

/-- Address of entry k of `pwr.tele_addrs`. -/
def State.teleAddr (s : State) (k : Nat) : Nat := bits (s.pget 0x13000007) (8 * k + 6) (8 * k)

/-- One regulator's reading; three failed transactions raise PWR_AVS, and freeze the loop where the regulator is its own.
(DESIGN CHOICE, unsafe: log entry 28; DESIGN CHOICE, unsafe: log entry 29.) -/
def State.teleOne (s : State) (k : Nat) (r : PmbRail) : State :=
  let a := s.teleAddr k
  let s := if a = 0 then s else s.modPwr (fun p => { p with pmbErrors := p.pmbErrors + BitVec.ofNat 32 (pmbFailed r.fail r.times) })
  if a = 0 then s
  else if pmbDead r.fail r.times then
    let s := s.modPwr (fun p => { p with frozen := p.frozen || a == s.avsAddr })
    s.pwrAvs r.fail a r.status
  else
    s.modPwr (fun p => { p with rails := updAt p.rails k (fun _ => { mv := r.mv, cur := r.cur, temp := r.temp, status := r.status, t := some s.now }) })

def State.teleAll (s : State) : Nat → List PmbRail → State
  | _, [] => s
  | k, r :: rs => (s.teleOne k r).teleAll (k + 1) rs

/-- TELEMETRY_TICK: 100 ms after the last one. (DESIGN CHOICE, unsafe: log entry 29.) -/
def execTelemetryTick (reads : List PmbRail) (s : State) : Host.Outcome State Fault Refusal :=
  .next (
    if s.dev.state == .off then s
    else
      let s := s.advanceTo (s.pwr.teleAt + 100000000)
      (s.modPwr (fun p => { p with teleAt := s.now })).teleAll 0 (reads.take 8))

/-! ### Temperature (R418 to R421) -/

/-- The mean of the neighbours' samples, as sum and count. (DESIGN CHOICE, unsafe: log entry 28.) -/
def nearMean (temps : List Int) (n : Nat) : Int × Nat :=
  let near := Config.sensorNear n
  ((near.map (fun k => temps.getD k 0)).foldl (· + ·) 0, near.length)

/-- |t - mean| > 15. -/
def farOff (t : Int) (m : Int × Nat) : Bool := m.2 != 0 && decide ((15 * m.2 : Nat) < (t * m.2 - m.1).natAbs)

/-- THERM_SENSOR, the sensor excluded; at power-up also step 2 of Table 19.8. -/
def State.excludeSensor (s : State) (n cause : Nat) (first : Bool) : State :=
  let s := s.modPwr (fun p => { p with sensors := updAt p.sensors n (fun x => { x with excluded := true }) })
  let s := s.raise 0x13 5 3 (packNat [at' 63 56 n, at' 55 48 cause, at' 47 40 (countP (fun (x : Sensor) => x.excluded) s.pwr.sensors)]) s.arg2f
  if first then (s.calRun 2 false).calFail 2 n 2 else s

/-- One sensor's sample. (DESIGN CHOICE, unsafe: log entry 28.) -/
def State.sensorStep (s : State) (temps : List Int) (first : Bool) (n : Nat) (t : Int) : State :=
  let x := s.pwr.sensors.getD n {}
  let diff := if farOff t (nearMean temps n) then x.diff + 1 else 0
  let s := s.modPwr (fun p => { p with sensors := updAt p.sensors n (fun x => { x with t := t, diff := diff, hot := decide ((120 : Int) ≤ t) }) })
  if x.excluded then s
  else if t < -40 ∨ 150 < t then s.excludeSensor n 1 first
  else if 10 ≤ diff then s.excludeSensor n 2 first
  else s

def State.sensorAll (s : State) (temps : List Int) (first : Bool) : Nat → List Int → State
  | _, [] => s
  | n, t :: ts => (s.sensorStep temps first n t).sensorAll temps first (n + 1) ts

/-- The reported maximum of R419 and its source: included sensors as 0 to 31, packages as 32 to 39. -/
def State.tempMax (s : State) : Int × Nat :=
  let die := (List.range 32).filterMap (fun n => match s.pwr.sensors[n]? with
    | some x => if x.excluded then none else some (x.t, n)
    | none => none)
  let pkg := (List.range 8).map (fun p => (s.mem.temps.getD p 0, 32 + p))
  (die ++ pkg).foldl (fun (a : Int × Nat) b => if a.1 < b.1 then b else a) ((die ++ pkg).headD (0, 32))

/-- The reported maximum is taken. -/
def State.takeTmax (s : State) : State := s.modPwr (fun p => { p with tmax := s.tempMax.1, tsource := s.tempMax.2 })

/-- A thermal level is set (Table 17.5). -/
def levelHolds (level : Nat) (t : Int) (l : Nat) : Bool :=
  let set_ : Int := if l = 1 then 95 else if l = 2 then 102 else 112
  let clear : Int := if l = 1 then 90 else 97
  decide (set_ ≤ t) || (decide (l ≤ level) && (l == 3 || decide (clear < t)))

/-- The level after a new maximum. -/
def thermLevel (level : Nat) (t : Int) : Nat :=
  if levelHolds level t 3 then 3 else if levelHolds level t 2 then 2 else if levelHolds level t 1 then 1 else 0

/-- The thermal level follows the reported maximum (R419): THERM_LEVEL, throttle, SHUTDOWN at level 3. -/
def State.thermalUpdate (s : State) : State :=
  let (t, src) := s.tempMax
  let s := s.takeTmax
  let old := s.pwr.level
  let new := thermLevel old t
  if new = old then s
  else
    let seen := s.sagSeen
    let s := s.modPwr (fun p => { p with
      level := new
      warnings := if old = 0 then p.warnings + 1 else p.warnings
      throttles := if old < 2 ∧ new = 2 then p.throttles + 1 else p.throttles })
    let sev := if new < old then 1 else if new = 1 then 2 else 3
    let s := s.raise 0x13 4 sev (packNat [at' 63 56 new, at' 55 48 old, at' 47 40 src, at' 39 32 (sfield 8 t)]) s.arg2f
    let s := if new = 3 then s.stopSelfTest 3 4 else s
    s.sagReact seen

/-- PD01 drives THERMTRIP_N low (R421). -/
def State.trip (s : State) : State :=
  if s.pwr.tripLow then s else (s.modPwr (fun p => { p with tripLow := true })).emit (.pin "THERMTRIP_N" false)

/-- Some sensor read 120 °C or more in the last sample and in this one. (DESIGN CHOICE, unsafe: log entry 28.) -/
def hotTwice : List Sensor → List Int → Bool
  | x :: xs, t :: ts => (x.hot && decide ((120 : Int) ≤ t)) || hotTwice xs ts
  | _, _ => false

/-- THERMAL_SAMPLE: the 32 die sensors, 1 ms after the last sample; in OFF only the reported maximum follows (R28). (DESIGN CHOICE, safe: log entry 6.) -/
def execThermalSample (temps : List Int) (s : State) : Host.Outcome State Fault Refusal :=
  .next (
    let temps := temps.take 32
    let s := s.advanceTo (s.pwr.thermAt + 1000000)
    let s := s.modPwr (fun p => { p with thermAt := s.now })
    let s := if hotTwice s.pwr.sensors temps then s.trip else s
    if s.dev.state == .off then
      (s.modPwr (fun p => { p with sensors := (List.range 32).map (fun n =>
        let x := p.sensors.getD n {}
        match temps[n]? with
        | some t => { x with t := t, hot := decide ((120 : Int) ≤ t) }
        | none => x) })).takeTmax
    else
      let first := s.dev.state == .boot && (s.start.cal.getD 1 {}).result == 0
      let s := if first then s.calRun 2 true else s
      let n := countP (fun (x : Sensor) => x.excluded) s.pwr.sensors
      let s := s.sensorAll temps first 0 temps
      let s := if 2 ≤ s.pwr.level then s.modPwr (fun p => { p with throttleMs := p.throttleMs + 1 }) else s
      let s := s.thermalUpdate
      let m := countP (fun (x : Sensor) => x.excluded) s.pwr.sensors
      if n < 4 ∧ 4 ≤ m then s.safeByFault else s)

/-- SHUTDOWN at level 3 has not reached OFF within 1 s. -/
def execThermtripShutdownTimeout (s : State) : Host.Outcome State Fault Refusal :=
  .next (if s.dev.state == .shutdown && s.start.shutReason == 5 then (s.advanceTo (s.start.shutAt + 1000000000)).trip else s)

/-- R422, 100 ms after the last time: n corrections are applied at idle boundaries of their blocks. -/
def execTempCompensationTick (n : Nat) (s : State) : Host.Outcome State Fault Refusal :=
  .next (
    if s.dev.state == .off then s
    else
      let s := s.advanceTo (s.pwr.compAt + 100000000)
      s.modPwr (fun p => { p with compAt := s.now, corrections := p.corrections + BitVec.ofNat 32 n }))

/-! ### Domains (R409 to R411) -/

/-- A power-up on demand ends the test of its domain (R465); those of BOOT and of the synthesis start-up wait for it
(Table 19.5). (DESIGN CHOICE, unsafe: log entry 70.) -/
def State.upRequests (s : State) : State :=
  [24, 25, 28, 29, 31].foldl (fun s d => if (s.domain d).wantUp then s.serviceRequest d else s) s

/-- DOMAIN_UP_START: the lowest pending power-up, 20 µs after the last one at the earliest.
(DEDUCED, unsafe: log entry 27.) -/
def execDomainUpStart (s : State) : Host.Outcome State Fault Refusal :=
  .next (
    let s := s.powerSync.upRequests
    match ((List.range 50).map (· + 1)).find? (fun d => (s.domain d).wantUp && (s.domain d).st == 0 && !s.testBlocks d) with
    | none => s
    | some d =>
      let s := match s.pwr.lastUp with
        | some t => s.advanceTo (t + 20000)
        | none => s
      (s.modDomain d (fun x => { x with st := 1, wantUp := false, since := s.now })).modPwr (fun p => { p with lastUp := some s.now }))

/-- Calibration steps of Table 19.8 that a domain's power-up runs. -/
def upSteps (d : Nat) : List Nat :=
  if d = 46 then [1, 3]
  else if 40 ≤ d ∧ d ≤ 45 then [1, 4, 5]
  else if d = 30 ∨ d = 31 then [1, 7]
  else if d = 48 then [1, 8]
  else [1]

/-- PWR_DOMAIN: 1 UP, 2 DOWN; severity 4 where R411 enters SAFE. -/
def State.pwrDomain (s : State) (d what : Nat) : State :=
  s.raise 0x13 3 (if domainCritical d then 4 else 3) (packNat [at' 63 56 d, at' 55 48 what]) s.arg2f

/-- Power-up and power-down maximum of a domain in ns (Table 17.1); where the table gives none, no time bounds the change. -/
def upMax (d : Nat) : Option Nat :=
  if d = 2 ∨ d = 3 then some 5000000 else if d = 4 ∨ d = 5 then some 1000000
  else if 6 ≤ d ∧ d ≤ 17 then some 200000 else if 18 ≤ d ∧ d ≤ 23 then some 300000
  else if d = 24 ∨ d = 25 then some 400000 else if d = 26 ∨ d = 27 then some 200000
  else if 28 ≤ d ∧ d ≤ 30 then some 100000 else if d = 31 then some 2000000
  else if 32 ≤ d ∧ d ≤ 39 then some 5000000 else if 40 ≤ d ∧ d ≤ 44 then some 2000000
  else if d = 45 then some 10000000 else if d = 46 ∨ d = 47 ∨ d = 50 then some 100000
  else if d = 48 ∨ d = 49 then some 200000 else none

def downMax (d : Nat) : Option Nat :=
  if 2 ≤ d ∧ d ≤ 5 then some 1000000
  else if 6 ≤ d ∧ d ≤ 17 then some 50000 else if 18 ≤ d ∧ d ≤ 23 then some 1100000
  else if d = 24 ∨ d = 25 then some 2000000 else if 26 ≤ d ∧ d ≤ 29 then some 100000
  else if d = 30 then some 50000 else if d = 31 then some 500000
  else if 32 ≤ d ∧ d ≤ 39 then some 100000 else if 40 ≤ d ∧ d ≤ 44 then some 50000
  else if d = 45 then some 1000000 else if 47 ≤ d ∧ d ≤ 50 then some 50000 else none

/-- The change that a domain makes has taken more than its maximum. -/
def State.domainLate (s : State) (d : Nat) : Bool :=
  let x := s.domain d
  match (if x.st = 1 then upMax d else downMax d) with
  | some m => decide (x.since + m < s.now)
  | none => false

/-- UP or DOWN has exceeded its maximum: the domain is forced off and FAILED (R409). -/
def State.domainTimeout (s : State) (d : Nat) : State := (s.pwrDomain d (if (s.domain d).st = 1 then 1 else 2)).failDomain d

/-- A domain finishes UP; `fail` is the calibration step that failed, 0 for none; past its maximum it is FAILED instead.
(DEDUCED, unsafe: log entry 27.) -/
def execDomainUpComplete (d fail : Nat) (s : State) : Host.Outcome State Fault Refusal :=
  .next (
    if (s.domain d).st ≠ 1 then s
    else if s.domainLate d then s.domainTimeout d
    else
      let s := (upSteps d).foldl (fun s k => s.calRun k (k != fail)) s
      let bad := (upSteps d).contains fail
      let down := bad && fail != 4 && fail != 5 && fail != 8
      let s :=
        if bad then s.calFail fail d (if fail = 4 ∨ fail = 5 then 3 else if down && domainCritical d then 5 else 1)
        else s
      if down then (s.pwrDomain d 1).failDomain d
      else
        let s := if bad && fail == 8 then s.stopSelfTest 4 3 else s
        let s := s.modDomain d (fun x => if x.held = some false then { x with st := 3, held := none, since := s.now }
          else { x with st := 2, held := none, since := s.now })
        if d = 31 then s.monBegin (if s.tim.monState = 2 then 5 else 4) else s)

/-- A domain is off, within its maximum; a held enable makes it pending. -/
def execDomainDownComplete (d : Nat) (s : State) : Host.Outcome State Fault Refusal :=
  .next (
    if (s.domain d).st ≠ 3 then s
    else if s.domainLate d then s.domainTimeout d
    else s.modDomain d (fun x => { x with st := 0, wantUp := x.held == some true, held := none }))

/-- UP or DOWN exceeds its maximum; a change to which Table 17.1 sets none has no time-out. -/
def execDomainTransitionTimeout (d : Nat) (s : State) : Host.Outcome State Fault Refusal :=
  .next (
    let x := s.domain d
    if x.st ≠ 1 ∧ x.st ≠ 3 then s
    else
      match (if x.st = 1 then upMax d else downMax d) with
      | none => s
      | some m => (s.advanceTo (x.since + m + 1)).domainTimeout d)

/-! ### Commands (Tables 17.6 to 17.9) -/

/-- AVS of PWR_STATUS. -/
def State.avsState (s : State) : Nat :=
  if s.pwr.frozen then 4
  else if s.pget 0x13000001 = 0 then 0
  else if s.pwr.v ≤ s.avsFloor then 2
  else if s.avsCeiling ≤ s.pwr.v then 3
  else 1

/-- The states of the 50 domains, two bits each, from bit 0. -/
def domainBits : List Domain → Nat
  | [] => 0
  | x :: xs => x.st % 4 + 4 * domainBits xs

def pwrStatusWords (s : State) : List Word :=
  let p := s.pwr
  [packW [at' 127 120 p.stage, at' 119 112 p.level, at' 111 104 s.avsState, at' 103 96 (b2n p.warnLow), at' 95 80 p.input,
      at' 79 64 p.v, at' 63 48 p.vRead, at' 47 32 p.iout, at' 31 0 (p.vRead * p.iout / 10)],
   packW [at' 99 0 (domainBits p.domains)],
   packW [at' 49 0 (maskOf (fun (x : Domain) => x.failed) p.domains)],
   packW [at' 127 96 p.sagRises.toNat, at' 95 64 p.warnFalls.toNat, at' 63 32 p.throttleMs.toNat, at' 31 0 p.pmbErrors.toNat]]

def pwrStatusBody (c : Cmd) (s : State) : Ran :=
  if !c.okBits 1 1 then refuse s stBadArg
  else
    answer (if c.f 1 0 0 = 1 then s.modPwr (fun p => { p with sagRises := 0, warnFalls := 0, throttleMs := 0, pmbErrors := 0 }) else s)
      (pwrStatusWords s)

def execPwrStatus (c : Cmd) (s : State) : Host.Outcome State Fault Refusal :=
  .next (hostCmdWith (.pwrStatus c) { op := 0x1301 } pwrStatusBody (fun _ s => s.serveCore) c s)

/-- Word 2 + k of PACE_REPORT: monitors 4k to 4k + 3. -/
def paceWord (s : State) (k : Nat) : Word :=
  packW ((List.range 4).flatMap (fun i =>
    let x := s.pwr.sites.getD (4 * k + i) {}
    [at' (127 - 32 * i) (112 - 32 * i) (meanN x.pace), at' (111 - 32 * i) (96 - 32 * i) (meanN x.vcore)]))

def paceReportWords (s : State) : List Word :=
  let (p, n) := s.paceMin
  let (v, m) := lowest (s.pwr.sites.map (fun x => meanN x.vcore)) 0
  packW [at' 127 112 p, at' 111 104 n, at' 103 88 v, at' 87 80 m] :: (List.range 12).map (paceWord s)

def execPaceReport (c : Cmd) (s : State) : Host.Outcome State Fault Refusal :=
  .next (hostCmdWith (.paceReport c) { op := 0x1302 } (fun _ s => answer s (paceReportWords s)) (fun _ s => s.serveCore) c s)

def thermStatusWords (s : State) : List Word :=
  let p := s.pwr
  let ts (k : Nat) : Word := packW ((List.range 16).map (fun i =>
    let x := p.sensors.getD (16 * k + i) {}
    at' (8 * i + 7) (8 * i) (if x.excluded then 0x80 else sfield 8 x.t)))
  [packW [at' 127 120 p.level, at' 119 112 (sfield 8 p.tmax), at' 111 104 p.tsource,
      at' 103 96 (countP (fun (x : Sensor) => x.excluded) p.sensors), at' 95 64 (maskOf (fun (x : Sensor) => x.excluded) p.sensors),
      at' 63 0 (packNat ((List.range 8).map (fun i => at' (8 * i + 7) (8 * i) (sfield 8 (s.mem.temps.getD i 0)))))],
   ts 0, ts 1,
   packW [at' 127 96 p.warnings.toNat, at' 95 64 p.throttles.toNat, at' 63 32 p.corrections.toNat]]

def thermStatusBody (c : Cmd) (s : State) : Ran :=
  if !c.okBits 1 1 then refuse s stBadArg
  else
    answer (if c.f 1 0 0 = 1 then s.modPwr (fun p => { p with warnings := 0, throttles := 0 }) else s) (thermStatusWords s)

def execThermStatus (c : Cmd) (s : State) : Host.Outcome State Fault Refusal :=
  .next (hostCmdWith (.thermStatus c) { op := 0x1303 } thermStatusBody (fun _ s => s.serveCore) c s)

/-- A word of RAIL_STATUS; an unused entry reads 0. -/
def railWord (s : State) (k : Nat) : Word :=
  let a := s.teleAddr k
  let r := s.pwr.rails.getD k {}
  if a = 0 then 0
  else
    packW [at' 127 120 a, at' 119 104 r.mv, at' 103 88 r.cur, at' 87 80 r.temp, at' 79 64 r.status,
      at' 63 32 (match r.t with | some t => (s.now - t) / 1000000 | none => 0)]

def execRailStatus (c : Cmd) (s : State) : Host.Outcome State Fault Refusal :=
  .next (hostCmdWith (.railStatus c) { op := 0x1304 } (fun _ s => answer s ((List.range 8).map (railWord s))) (fun _ s => s.serveCore) c s)

end Sys2Proof.Machine
end

