-- ==== Sys2Proof/Machine/StartRows.lean ====
section
/-! DEFINITION. Start-up, calibration, self-test and shutdown: commands and events (spec/19). -/

namespace Sys2Proof.Machine

open Sys2Proof

/-! ### PORST_N, VAON, the AON counter (R450, R456, R457) -/

/-- PORST_N goes low: everything but what VAON holds, the fuses and the flash is reset, and every TILE_PWR_EN is low. -/
def execPorstNAssert (s : State) : Host.Outcome State Fault Refusal :=
  .next (
    let up := tileNums.filter (fun t => (s.tile t).powered)
    let trip := s.pwr.tripLow
    let s := s.porKeep
    let s := { s with
      dev := { s.dev with state := .off }
      start := { s.start with porLow := true }
      saf := { s.saf with safeStateLow := true }
      pwr := { s.pwr with domains := (List.range 50).map (fun i => ({ st := if i < 1 then 2 else 0 } : Domain)) } }
    let s := s.emits (up.map (fun t => Out.pin (pinName t) false))
    let s := s.emit (.pin "SAFE_STATE_N" false)
    if trip then s.emit (.pin "THERMTRIP_N" true) else s)

/-- PORST_N rises: the straps are sampled and the device enters BOOT. -/
def execPorstNRelease (sideB : Bool) (strapBoot : Nat) (s : State) : Host.Outcome State Fault Refusal :=
  .next (
    if !s.start.porLow then s
    else
      let s := s.porKeep
      let s := { s with
        dev := { s.dev with sideB := sideB }
        start := { s.start with strapBoot := strapBoot % 4, porLow := false } }
      s.bootEntry .off false)

/-- VAON is applied (section 19.3). -/
def execVaonPowerOn (s : State) : Host.Outcome State Fault Refusal :=
  .next { s with start := { s.start with aon := 0, forceFull := true } }

def execAonCounterTick (s : State) : Host.Outcome State Fault Refusal :=
  .next { s with start := { s.start with aon := s.start.aon + 1 } }

/-! ### Firmware (R66, R454, R455) -/

/-- The slots that STRAP_BOOT has the boot ROM try, in order (Table 19.4). -/
def State.bootOrder (s : State) : List Nat :=
  match s.start.strapBoot with
  | 0 => [s.fw.choice, 1 - s.fw.choice]
  | 2 => [0]
  | 3 => [1]
  | _ => []

/-- BOOT_IMAGE for each slot that was tried and is not valid. -/
def State.bootImages (s : State) (bad : List (Nat × Nat)) (recovery : Bool) : State :=
  bad.foldl (fun s b => s.raise 0x16 5 2 (packNat [at' 63 56 b.1, at' 55 48 b.2, at' 47 40 (b2n recovery)]) s.startArg2) s

/-- The slots after slot n boots: as a trial where it was activated, else as the active one (R66). -/
def bootSlots (f : Firmware) (n : Nat) (version : Reg) (trial : Bool) : Firmware :=
  let other := f.slot (1 - n)
  let f := f.setSlot n { version := version, state := if trial then 2 else 3 }
  let f := if trial then f else f.setSlot (1 - n) { other with state := if other.state = 2 ∨ other.state = 3 then 1 else other.state }
  { f with running := n, activate := none }

/-- The firmware of slot n runs. -/
def State.bootFirmware (s : State) (n : Nat) (version : Reg) (bad : List (Nat × Nat)) : State :=
  let f := s.fw
  let old := f.slot f.running
  let trial := s.start.strapBoot == 0 && f.activate == some n
  let reverted := s.start.strapBoot == 0 && f.activate.isNone && old.state == 2 && n != f.running
  let s := { s with
    fw := bootSlots (bad.foldl (fun (f : Firmware) (b : Nat × Nat) => f.setSlot b.1 {}) f) n version trial
    dev := { s.dev with fwVersion := version, fwReady := true, trial := trial } }
  let s := s.milestone 1
  let s := s.bootImages bad false
  let s := if trial then s.raise 1 4 1 (version.toNat * 2 ^ 32 + n) 0 else s
  let s := if reverted then s.raise 1 5 2 (version.toNat * 2 ^ 32 + old.version.toNat) 0 else s
  let s := if s.start.full then (s.startSelfTest 2).powerSync else s
  s.startReconciles.evaluate

/-- Recovery firmware runs: SAFE, MB0 only (R455). -/
def State.bootRecovery (s : State) (bad : List (Nat × Nat)) : State :=
  let s := { s with
    fw := { bad.foldl (fun (f : Firmware) (b : Nat × Nat) => f.setSlot b.1 {}) s.fw with recovery := true }
    dev := { s.dev with fwVersion := 0, fwReady := true } }
  let s := s.milestone 1
  ((s.bootImages bad true).enter .safe 7).startReconciles

/-- The boot ROM has read the slots that it tries: r0 and r1 are what it finds in slots 0 and 1. -/
def execFirmwareLoadComplete (r0 r1 : SlotRead) (s : State) : Host.Outcome State Fault Refusal :=
  .next (
    if s.dev.state != .boot || s.dev.fwReady then s
    else
      let r (n : Nat) : SlotRead := if n = 0 then r0 else r1
      let order := s.bootOrder
      let bad := (order.takeWhile (fun n => (r n).cause != 0)).map (fun n => (n, (r n).cause))
      match order.find? (fun n => (r n).cause == 0) with
      | some n => s.bootFirmware n (r n).version bad
      | none => s.bootRecovery bad)

/-! ### Memory training at BOOT, synthesis start-up (R340, R141) -/

/-- Margins as kept. -/
def marginsOf (m : TrainMargins) : Margins := { ok := m.ok, rd := m.rd, wr := m.wr, vref := m.vref }

/-- A channel ends BOOT training: it joins the pool or is FAILED. -/
def execChannelTrainingComplete (ch : Nat) (m0 m1 : TrainMargins) (s : State) : Host.Outcome State Fault Refusal :=
  .next (
    if 32 ≤ ch ∨ (s.chan ch).state ≠ 0 ∨ s.dev.state == .off then s
    else
      let ok := m0.ok || m1.ok
      let s := s.calRun 6 ok
      let s := s.modChan ch (fun c => { c with m0 := marginsOf m0, m1 := marginsOf m1, lastFull := s.now, trackAt := s.now })
      let s := if ok then s.modChan ch (fun c => { c with state := 1 }) else (s.calFail 6 ch 4).failChannel ch 1
      let s := if 8 ≤ s.channels then s.milestone 2 else s
      let s := if s.trainingDone then s.milestone 3 else s
      s.evaluate)

/-- Synthesis start-up finishes. -/
def execSynthesisStartupComplete (s : State) : Host.Outcome State Fault Refusal :=
  .next (
    if s.start.synth = 1 then (({ s with start := { s.start with synth := 2 } } : State).milestone 6).evaluate else s)

/-- The safety monitor core's start checks pass (R428). -/
def execSmcStartChecksPass (s : State) : Host.Outcome State Fault Refusal :=
  .next (if s.dev.state == .boot then { s with saf := { s.saf with smcOk := true } } else s)

/-! ### Self-test (R462 to R467) -/

/-- The record of a run as its header leaves it: every result field erased, which reads INCOMPLETE, cause 2.
(DESIGN CHOICE, unsafe: log entry 70.) -/
def State.newRecord (s : State) (occasion : Nat) : Record :=
  let seq := match s.start.newest with
    | some (r, _) => r.seq + 1
    | none => 1
  let tested := domainsFrom occasion 0
  { seq := seq
    result := 3
    occasion := occasion
    quickDays := s.pget 0x16000001
    fw := s.dev.fwVersion
    aon := s.start.aon
    doms := (List.range 50).map (fun i =>
      if tested.contains (i + 1) then ({ d := i + 1, result := 3, cause := 2, full := Config.fullCount (i + 1) } : DomResult)
      else { d := i + 1 })
    train := s.mem.chans.map (fun (c : MemChan) => ({ m0 := c.m0, m1 := c.m1 } : TrainRec)) }

/-- Header and training results are programmed; phase 1 of the occasion begins. -/
def execRecordSectorProgrammed (s : State) : Host.Outcome State Fault Refusal :=
  .next (match s.start.selftest with
    | none => s
    | some x =>
      if x.header then s
      else
        let r := s.newRecord x.occasion
        let st := s.start.setRec x.sectorB (some r)
        { s with start := { st with
            selftest := some { x with header := true, running := phaseDomains ((testOrder x.occasion).getD 0 0) }
            erasedA := st.erasedA && x.sectorB, erasedB := st.erasedB && !x.sectorB } })

/-- The lowest seen so far; 0 stands for none. -/
def lowOf (old new : Nat) : Nat := if old = 0 then new else Nat.min old new

/-- The conditions of R462: PD48 ON, test clock in 0.1 MHz, lowest and highest die sense in mV. -/
def execSelftestConditionCheck (clk vMin vMax : Nat) (s : State) : Host.Outcome State Fault Refusal :=
  .next (match s.start.selftest with
    | none => s
    | some x =>
      if !x.header then s
      else
        let x := { x with clkMin := lowOf x.clkMin clk, clkMax := Nat.max x.clkMax clk, vMin := lowOf x.vMin vMin, vMax := Nat.max x.vMax vMax }
        let s := { s with start := { s.start with selftest := some x } }
        if (s.domain 48).st ≠ 2 ∨ clk < 5700 ∨ 6300 < clk ∨ vMin < 780 ∨ 820 < vMax ∨ s.pwr.warnLow = true then s.stopSelfTest 4 3
        else s.serveCore)

/-- A domain's test ends with a signature and a count (R464). (DESIGN CHOICE, safe: log entry 6.) -/
def execSelftestDomainComplete (d sig count : Nat) (s : State) : Host.Outcome State Fault Refusal :=
  .next (match s.start.selftest with
    | none => s
    | some x =>
      if !x.running.contains d then s
      else
        let result := if count < Config.fullCount d then 3 else if sig = Config.fusedSignature d then 1 else 2
        let s := s.modRecord (fun r => setDom r d result 0 sig count)
        let s := { s with start := { s.start with selftest := some { x with running := x.running.filter (· != d) } } }
        let s := if result = 2 ∧ x.occasion = 2 then s.failDomain d else s
        s.nextPhase)

/-! ### Commands (Tables 19.9, 19.12, 19.14) -/

/-- DESIGN CHOICE, unsafe: log entry 70. -/
def shutdownBody (c : Cmd) (s : State) : Ran :=
  if !c.okBits 1 1 then refuse s stBadArg
  else if s.start.selftest.isSome then refuse s stBadState
  else accept s .shutdown

/-- SHUTDOWN: after ACCEPTED, the state and what it ends. -/
def execShutdown (c : Cmd) (s : State) : Host.Outcome State Fault Refusal :=
  .next (hostCmdWith (.shutdown c) { op := 0x1601 } shutdownBody
    (fun c s =>
      let s := { s with start := { s.start with shutTest := c.f 1 0 0 == 0 } }
      (s.enter .shutdown 2).shutdownStep) c s)

/-- The words of a record (Table 19.12); 52 words of zeros without one. (DESIGN CHOICE, unsafe: log entry 70.) -/
def recordReport (s : State) : Option Record → List Word
  | none => List.replicate 52 0
  | some r =>
    [packW [at' 127 96 r.seq.toNat, at' 95 88 r.result, at' 87 80 r.occasion, at' 79 72 r.quickDays, at' 63 32 r.fw.toNat, at' 31 0 r.aon],
     packW [at' 127 112 r.clkMin, at' 111 96 r.clkMax, at' 95 80 r.vMin, at' 79 64 r.vMax, at' 63 32 r.duration,
       at' 31 0 (if s.start.aon < r.aon then 0xFFFFFFFF else s.start.aon - r.aon)]] ++
    r.doms.map (fun x => packW [at' 127 120 x.d, at' 119 112 x.result, at' 111 104 (if x.result = 3 then x.cause else 0),
      at' 95 64 x.sig, at' 63 32 x.count, at' 31 0 x.full])

def selftestRecordBody (c : Cmd) (s : State) : Ran :=
  if !c.okBits 1 1 then refuse s stBadArg
  else
    let r := match s.start.newest with
      | none => none
      | some (r, b) => if c.f 1 0 0 = 0 then some r else s.start.rec_ (!b)
    answer s (recordReport s r)

def execSelftestRecord (c : Cmd) (s : State) : Host.Outcome State Fault Refusal :=
  .next (hostCmdWith (.selftestRecord c) { op := 0x1602 } selftestRecordBody (fun _ s => s.serveCore) c s)

/-- Word n of CAL_STATUS; COUNT and TIME read 0 outside BOOT, SAFE, SHUTDOWN and SAFETY_TEST (R461). -/
def calWord (s : State) (n : Nat) : Word :=
  let c := s.start.cal.getD (n - 1) {}
  let valid := s.dev.state == .boot || s.dev.state == .safe || s.dev.state == .shutdown || s.saf.test.isSome
  let k := b2n (valid && c.result != 0)
  packW [at' 127 120 n, at' 119 112 c.result, at' 111 96 c.failed.toNat, at' 95 80 (k * c.count.toNat), at' 79 0 (k * time80 c.t)]

def execCalStatus (c : Cmd) (s : State) : Host.Outcome State Fault Refusal :=
  .next (hostCmdWith (.calStatus c) { op := 0x1603 } (fun _ s => answer s ((List.range 8).map (fun i => calWord s (i + 1)))) (fun _ s => s.serveCore) c s)

end Sys2Proof.Machine
end

