-- ==== Sys2Proof/Machine/MemRows.lean ====
section
/-! DEFINITION. In-package memory: commands and events (spec/13). -/

namespace Sys2Proof.Machine

open Sys2Proof

def State.modMem (s : State) (f : Mem → Mem) : State := { s with mem := f s.mem }

/-! ### Long stalls and training passes (R335, R341, R342) -/

/-- A long stall of n ns may start: the tolerance last reported admits it, and it ends before the next refresh window (R335).
(DESIGN CHOICE, safe: log entry 73.) -/
def State.stallFits (s : State) (n : Nat) : Bool :=
  decide (n + 10000 ≤ s.tim.ltrNow) && decide (s.now + n < s.mem.refreshAt + s.mem.refi)

/-- A long stall closes open rows (R339). -/
def closeRows (c : MemChan) : MemChan := { c with banks := c.banks.map (fun (b : Bank) => { b with openRow := none }) }

/-- MEM_RETRAIN: 1 begun, 2 ended with a setting. -/
def State.memRetrainEvent (s : State) (ch what cause : Nat) : State :=
  s.raise 0x0D 3 1 (packNat [at' 63 56 ch, at' 55 48 what, at' 47 40 cause]) s.arg2f

/-- A full pass runs on a channel. -/
def MemChan.fullRuns (c : MemChan) : Bool := match c.pass with
  | some p => p.kind == 1
  | none => false

/-- A full retraining begins, unless one runs, a set-point request is pending or no pass may run (R341, R344). -/
def State.beginFull (s : State) (ch cause : Nat) : State :=
  let c := s.chan ch
  if c.state ≠ 1 ∨ c.fullRuns = true ∨ s.mem.request.isSome = true ∨ s.mem.selfRefresh = true then s
  else
    (s.modChan ch (fun c => { c with pass := some { kind := 1, other := false, steps := 0, cause := cause } })).memRetrainEvent ch 1 cause

/-- TRACKING_PASS_TIMER, `mem.track_ms` after the one before: every 16th pass of a channel trains the other set point. -/
def execTrackingPassTimer (ch : Nat) (s : State) : Host.Outcome State Fault Refusal :=
  .next (
    if (s.chan ch).state ≠ 1 ∨ s.mem.selfRefresh = true ∨ s.dev.state = .off then s
    else
      let s := s.advanceTo ((s.chan ch).trackAt + s.pget 0x0D000006 * 1000000)
      let s := s.modChan ch (fun c => { c with trackAt := s.now })
      if (s.chan ch).pass.isSome ∨ s.mem.request.isSome then s
      else s.modChan ch (fun c => { c with
        tracks := c.tracks + 1
        pass := some { kind := 0, other := (c.tracks.toNat + 1) % 16 == 0, steps := 0, cause := 0 } }))

/-- Margins below the fused minimum (R341). -/
def belowMin (m : Margins) : Bool :=
  decide (m.rd.toNat < Config.fusedMargins 0 ∨ m.wr.toNat < Config.fusedMargins 1 ∨ m.vref.toNat < Config.fusedMargins 2)

/-- What a tracking pass has found is kept for the start of the next refresh window; margins below the minimum begin a
full retraining. -/
def State.trackDone (s : State) (ch : Nat) (p : MemPass) (m : Margins) : State :=
  let c := s.chan ch
  let first := (s.mem.setpoint == 0) != p.other
  let s := s.modChan ch (fun x => { x with pass := none, result := some (if first then (m, c.m1) else (c.m0, m)) })
  if belowMin m then s.beginFull ch 4 else s

/-- TRAINING_STEP: one long stall of a channel; the last step of a tracking pass carries what it found.
(DESIGN CHOICE, safe: log entry 73.) -/
def execTrainingStep (ch ns : Nat) (done : Option TrainMargins) (s : State) : Host.Outcome State Fault Refusal :=
  .next (match (s.chan ch).pass with
    | none => s
    | some p =>
      if s.mem.selfRefresh || !s.stallFits ns || decide ((if p.kind = 0 then 8 else 2048) ≤ p.steps) then s
      else
        let s := s.modMem (fun m => { m with stalls := m.stalls + 1 })
        let s := s.modChan ch (fun c => closeRows { c with pass := some { p with steps := p.steps + 1 } })
        match done with
        | some m => if p.kind = 0 then s.trackDone ch p (marginsOf m) else s
        | none => s)

/-- The job of a host's full retraining ends. -/
def State.endRetrainJob (s : State) (ch status : Nat) : State :=
  s.endJobs (s.jobIds (fun j => j.key == .memRetrain ch)) status

/-- FULL_RETRAINING_END: settings at the two set points, or FAILED. (DESIGN CHOICE, safe: log entry 14.) -/
def execFullRetrainingEnd (ch : Nat) (m0 m1 : TrainMargins) (s : State) : Host.Outcome State Fault Refusal :=
  .next (match (s.chan ch).pass with
    | none => s
    | some p =>
      if p.kind ≠ 1 then s
      else
        let ok := if s.mem.setpoint = 0 then m0.ok else m1.ok
        let s := s.modChan ch (fun c => { c with pass := none, fulls := c.fulls + 1, lastFull := s.now })
        if ok then
          let s := s.modChan ch (fun c => { c with result := some (marginsOf m0, marginsOf m1) })
          (s.memRetrainEvent ch 2 p.cause).endRetrainJob ch stOk
        else ((s.failChannel ch 2).endRetrainJob ch stNoResource).evaluate)

/-! ### Refresh, temperatures (R334) -/

/-- A bank in a refresh window: its row closes and up to 2 neighbour refreshes are executed. -/
def Bank.refresh (b : Bank) : Bank × Nat := ({ b with openRow := none, queue := b.queue.drop 2 }, Nat.min 2 b.queue.length)

/-- A working channel in a refresh window: pass results apply at its start; any other channel has none. -/
def MemChan.window (clear : Bool) (c : MemChan) : MemChan × Nat :=
  if c.state ≠ 1 then (c, 0)
  else
    let c := match c.result with
      | some (a, b) => { c with m0 := a, m1 := b, result := none }
      | none => c
    let c := if clear then { c with banks := c.banks.map (fun b => { b with table := [], queue := [] }) } else c
    let rs := c.banks.map Bank.refresh
    let n := sumN (rs.map (·.2))
    ({ c with banks := rs.map (·.1), guard := c.guard + BitVec.ofNat 32 n }, n)

/-- The neighbour refreshes of a window: channel, bank, row, radius (R338). -/
def State.neighbours (s : State) : List Out :=
  if s.mem.guardClear then []
  else s.workList.flatMap (fun ch => (List.range 16).flatMap (fun bank =>
    ((((s.chan ch).banks.getD bank {}).queue.take 2).map (fun row => Out.dram ch bank 1 [row, s.pget 0x0D000004]))))

/-- All banks of all working channels refresh; a change of the rate holds from the next window. -/
def State.refreshAll (s : State) : State :=
  let rs := s.mem.chans.map (MemChan.window s.mem.guardClear)
  s.modMem (fun m => { m with
    chans := rs.map (·.1), guardClear := false, guard := m.guard + BitVec.ofNat 32 (sumN (rs.map (·.2)))
    refreshAt := s.now, refi := if m.doubled then 1952 else 3904 })

/-- REFRESH_WINDOW, tREFI after the one before. -/
def execRefreshWindow (s : State) : Host.Outcome State Fault Refusal :=
  .next (
    if s.mem.selfRefresh || s.dev.state == .off then s
    else
      let s := s.advanceTo (s.mem.refreshAt + s.mem.refi)
      (s.emits s.neighbours).refreshAll)

/-- The highest of a list of temperatures. -/
def maxInt : List Int → Int
  | [] => 0
  | [x] => x
  | x :: xs => if x ≤ maxInt xs then maxInt xs else x

/-- DRAM_TEMPERATURE_READ: the eight packages; a change of the refresh rate, and the thermal level (R419);
in OFF only the reported maximum follows (R28). -/
def execDramTemperatureRead (temps : List Int) (s : State) : Host.Outcome State Fault Refusal :=
  .next (
    let ts := padTo (0 : Int) 8 temps
    if s.dev.state == .off then (s.modMem (fun m => { m with temps := ts })).takeTmax
    else
      let d := if s.mem.doubled then ts.any (fun t => decide (82 < t)) else ts.any (fun t => decide (85 < t))
      let was := s.mem.doubled
      let s := s.modMem (fun m => { m with temps := ts, doubled := d })
      let s := if d = was then s else s.raise 0x0D 6 1 (packNat [at' 63 56 (b2n d), at' 55 48 (sfield 8 (maxInt ts))]) s.arg2f
      s.thermalUpdate)

/-! ### Disturbance mitigation and pages (R336 to R339) -/

/-- ROWGUARD_TABLE_CLEAR: every bank's activate table is emptied. -/
def execRowguardTableClear (s : State) : Host.Outcome State Fault Refusal :=
  .next (s.modMem (fun m => { m with chans := m.chans.map (fun (c : MemChan) =>
    { c with banks := c.banks.map (fun (b : Bank) => { b with table := [] }) }) }))

/-- The smallest count of a table. -/
def minCount : List RowCount → Nat
  | [] => 0
  | [x] => x.count
  | x :: xs => Nat.min x.count (minCount xs)

/-- Replace the first entry with a count. -/
def replaceFirst (c : Nat) (new : RowCount) : List RowCount → List RowCount
  | [] => []
  | x :: xs => if x.count = c then new :: xs else x :: replaceFirst c new xs

/-- The table after an activate of row r (R337). -/
def countRow (table : List RowCount) (r : Nat) : List RowCount :=
  if table.any (fun x => x.row == r) then table.map (fun x => if x.row = r then { x with count := x.count + 1 } else x)
  else if table.length < 64 then table ++ [{ row := r, count := 1 }]
  else replaceFirst (minCount table) { row := r, count := minCount table + 1 } table

/-- Counted mode: the table, and a neighbour refresh at the threshold. -/
def Bank.count (b : Bank) (r threshold : Nat) : Bank :=
  let t := countRow b.table r
  if t.any (fun x => x.row == r && decide (threshold ≤ x.count)) then
    { b with table := t.map (fun x => if x.row = r then { x with count := 0 } else x), queue := b.queue ++ [r] }
  else { b with table := t }

/-- A time lies within the second before now. (DEDUCED, unsafe: log entry 30.) -/
def lastSecond (now t : Nat) : Bool := decide (now < t + 1000000000)

/-- An event of a channel may be raised again: it was not, in the last second. -/
def mayRaise (now : Nat) (last : Option Nat) : Bool := !last.any (lastSecond now)

/-- An activate waits on a bank whose queue is full: MEM_ROWGUARD at most once per channel and second, with the activates held in the
last one (R338). -/
def State.rowHeld (s : State) (ch bank : Nat) : State :=
  let s := s.modChan ch (fun c => { c with heldActs := s.now :: c.heldActs.filter (lastSecond s.now) })
  let c := s.chan ch
  if mayRaise s.now c.heldRaised then
    (s.modChan ch (fun c => { c with heldRaised := some s.now })).raise 0x0D 7 2
      (packNat [at' 63 56 ch, at' 55 48 bank, at' 31 0 c.heldActs.length]) s.arg2f
  else s

/-- An access to a bank restarts its idle timer (R339). -/
def State.touch (s : State) (ch bank : Nat) : State :=
  s.modChan ch (fun c => { c with banks := updAt c.banks bank (fun b => { b with idle := s.pget 0x0D000005, at_ := s.now }) })

/-- BANK_ACTIVATE. (DESIGN CHOICE, safe: log entry 3.) -/
def execBankActivate (ch bank row : Nat) (s : State) : Host.Outcome State Fault Refusal :=
  .next (
    let b := (s.chan ch).banks.getD bank {}
    let mode := s.pget 0x0D000001
    let put (s : State) (f : Bank → Bank) : State := s.modChan ch (fun c => { c with banks := updAt c.banks bank f })
    if 8 ≤ b.queue.length then s.rowHeld ch bank
    else
      let s := put (s.touch ch bank) (fun b => { b with openRow := some row })
      if mode = 2 then put s (fun b => b.count row (s.pget 0x0D000003))
      else if mode = 1 then
        -- the LFSR's step is not in the spec: a free value decides (log entry 3)
        let ran := s.takeFree (2 ^ 32)
        let s := ran.1
        let v := ran.2
        let s := put s (fun b => { b with lfsr := v })
        if v % 2 ^ s.pget 0x0D000002 = 0 then put s (fun b => { b with queue := b.queue ++ [row] }) else s
      else s)

/-- PAGE_IDLE_TIMEOUT: the row of a bank that has been idle for its time closes. -/
def execPageIdleTimeout (ch bank : Nat) (s : State) : Host.Outcome State Fault Refusal :=
  .next (
    let b := (s.chan ch).banks.getD bank {}
    if b.openRow.isNone then s
    else
      let s := s.advanceTo (b.at_ + b.idle)
      s.modChan ch (fun c => { c with banks := updAt c.banks bank (fun b => { b with openRow := none }) }))

/-! ### Check code and scrubbing (R329 to R333) -/

/-- Codewords of a working channel: 16 banks of 2^28 bytes, eight codewords in nine bursts.
(DEDUCED, unsafe: log entry 30.) -/
def channelCodewords : Nat := 16 * 3728264

/-- A scrub round begins, a span of `mem.scrub_h` after the one before began (R333). (DEDUCED, unsafe: log entry 30.) -/
def State.scrubBegin (s : State) : State :=
  let s := s.advanceTo (s.mem.scrubAt + s.mem.scrubNs)
  s.modMem (fun m => { m with
    scrubOn := true, scrubAt := s.now, scrubNs := s.pget 0x0D000009 * 3600000000000, chans := m.chans.map (fun c => { c with scrubbed := 0 }) })

/-- Working channels whose codewords the round has not read to the end. -/
def State.scrubLeft (s : State) : List Nat := s.workList.filter (fun c => decide ((s.chan c).scrubbed < channelCodewords))

/-- SCRUB_TICK: the patrol scrubber reads the next codeword of the lowest channel that has one; a round has ended when every
working channel is read. (DEDUCED, unsafe: log entry 30.) -/
def execScrubTick (s : State) : Host.Outcome State Fault Refusal :=
  .next (
    if s.mem.selfRefresh || s.workList.isEmpty then s
    else
      let s := if s.mem.scrubOn then s else s.scrubBegin
      let s := match s.scrubLeft.head? with
        | some ch => s.modChan ch (fun c => { c with scrubbed := c.scrubbed + 1 })
        | none => s
      if s.scrubLeft.isEmpty then s.modMem (fun m => { m with scrubOn := false, scrubs := m.scrubs + 1 }) else s)

/-- The bytes of a codeword as numbers. -/
def cwNats (cw : List Byte) : List Nat := (padTo (0 : Byte) 72 cw).map (·.toNat)

/-- A data unit with the bytes that a writer puts into it. -/
def mergeUnit (data : List Nat) (m : Merge) : List Nat := data.take m.off ++ m.bytes.map (·.toNat) ++ data.drop (m.off + m.bytes.length)

/-- A whole data unit is written with its check bytes; a corrected codeword of the same place that waits is not written back
(R329, R331). -/
def State.writeUnit (s : State) (ch bank addr : Nat) (data : List Nat) : State :=
  ((s.modMem (fun m => { m with writebacks := m.writebacks.filter (fun w => !(w.ch == ch && w.bank == bank && w.addr == addr)) })).emit
    (.dram ch bank 0 (addr :: rsEncode data))).touch ch bank

/-- A corrected read is counted, and MEM_CE raised at most once in a second, with the corrected reads of the last one
(Table 13.12). (DEDUCED, unsafe: log entry 30.) -/
def State.countCe (s : State) (ch symbols : Nat) : State :=
  let s := (s.modMem (fun m => { m with ce := m.ce + 1 })).modChan ch (fun c => { c with
    ce := c.ce + 1, ceReads := (s.now, symbols) :: c.ceReads.filter (fun r => lastSecond s.now r.1) })
  let c := s.chan ch
  if mayRaise s.now c.ceRaised then
    (s.modChan ch (fun c => { c with ceRaised := some s.now })).raise 0x0D 1 1
      (packNat [at' 63 56 ch, at' 55 48 (maxN (c.ceReads.map (·.2))), at' 47 16 c.ceReads.length]) s.arg2f
  else s

/-- What follows a corrected read: its write-back waits, or the merge of a read-modify-write is written (R329, R331). -/
def State.afterCorrected (s : State) (ch bank addr : Nat) (data : List Nat) : Option Merge → State
  | some m => s.writeUnit ch bank addr (mergeUnit data m)
  | none => s.modMem (fun m => { m with writebacks := m.writebacks ++ [{ ch := ch, bank := bank, addr := addr, data := data }] })

/-- A full retraining where the corrected reads of the last second exceed `mem.ce_retrain`. -/
def State.ceLimit (s : State) (ch : Nat) : State :=
  if s.pget 0x0D000007 ≠ 0 ∧ s.pget 0x0D000007 < (s.chan ch).ceReads.length then s.beginFull ch 2 else s

/-- CORRECTED_READ: at most 4 symbols in error. (DEDUCED, unsafe: log entry 30.) -/
def execCorrectedRead (ch bank addr : Nat) (cw : List Byte) (merge : Option Merge) (s : State) : Host.Outcome State Fault Refusal :=
  .next (match rsDecode (cwNats cw) with
    | none => s
    | some [] => s
    | some fixes =>
      ((((s.countCe ch fixes.length).touch ch bank).afterCorrected ch bank addr ((rsApply fixes (cwNats cw)).take 64) merge).ceLimit ch))

/-- CORRECTED_WRITEBACK: the bank is idle, and its oldest corrected codeword is written back. -/
def execCorrectedWriteback (ch bank : Nat) (s : State) : Host.Outcome State Fault Refusal :=
  .next (match s.mem.writebacks.find? (fun w => w.ch == ch && w.bank == bank) with
    | none => s
    | some w => s.writeUnit ch bank w.addr w.data)

/-- A picture takes the mark of R126. -/
def YPic.mark (frame : Nat) (p : YPic) : YPic := if p.frame = frame then { p with concealed := true } else p

/-- The pictures of a stream for one frame, marked in a list of a scene frame. -/
def markPics (d : StreamId) (frame : Nat) (ps : List FPic) : List FPic :=
  ps.map (fun p => if p.anchor = d.anchor ∧ p.layer = d.layer ∧ p.kind = d.kind then { p with pic := p.pic.mark frame } else p)

/-- The layer inputs of an anchor, marked. -/
def markLayers (d : StreamId) (frame : Nat) : Nat → List LayerIn → List LayerIn
  | _, [] => []
  | n, x :: xs =>
    (if n = d.layer then (if d.kind = 0 then { x with tex := x.tex.mark frame } else { x with depth := x.depth.mark frame }) else x) ::
      markLayers d frame (n + 1) xs

/-- The inputs of a panel frame, marked. -/
def markFix (d : StreamId) (frame : Nat) (f : FrameFix) : FrameFix :=
  { f with anchors := f.anchors.map (fun a => if a.n = d.anchor then { a with layers := markLayers d frame 0 a.layers } else a) }

/-- A picture or prepared texture is concealed from here onward (Table 13.3, R126). -/
def State.concealPicture (s : State) (d : StreamId) (frame : Nat) : State :=
  let panel := s.ingest.scenes.any (fun x => x.slot == d.slot && x.obj == s.pget 0x03000001)
  { s with
    ingest := { s.ingest with scenes := s.ingest.scenes.map (fun (x : Scene) =>
      if x.slot = d.slot then { x with
        queue := x.queue.map (fun (f : SFrame) => { f with pics := markPics d frame f.pics })
        shown := x.shown.map (fun (h : Shown) => { h with pics := markPics d frame h.pics }) }
      else x) }
    dec := { s.dec with streams := s.dec.streams.map (fun (x : DStream) =>
      if x.id = d then { x with
        prev := x.prev.map (YPic.mark frame)
        dpb := x.dpb.map (fun (p : DpbPic) => if p.frame = frame ∧ p.received then { p with concealed := true } else p) }
      else x) }
    synth := if panel then { s.synth with cur := s.synth.cur.map (markFix d frame), next := s.synth.next.map (markFix d frame) } else s.synth }

/-- MEM_UE. (DEDUCED, unsafe: log entry 30.) -/
def State.memUe (s : State) (obj ch cls outcome : Nat) : State :=
  s.raise 0x0D 2 3 obj (packNat [at' 47 16 s.tim.frame.toNat, at' 15 8 ch, at' 7 4 cls, at' 3 0 outcome])

/-- An object has no good copy of a codeword: LOST (R191). (DEDUCED, unsafe: log entry 30.) -/
def State.ueLost (s : State) (o : Obj) : State :=
  if o.lost then s
  else
    let ran := s.loseObj o
    let s := ran.1
    let fault := ran.2
    if fault then s.safeByFault else s

/-- An OBJECT_READ that meets the codeword completes with INTEGRITY. -/
def State.ueReader (s : State) (reader : Option Nat) : State :=
  match reader with
  | none => s
  | some id =>
    match s.job? id with
    | some j => (match j.key with | .objectRead _ _ _ _ _ => s.endJob id stIntegrity [] | _ => s)
    | none => s

/-- A basket has no good copy beside the one on a channel. -/
def Basket.lastCopy (b : Basket) (ch : Nat) : Bool := b.chans.all (· == ch)

/-- Uncorrectable baskets of an encoder's buffers (Table 14.3): its baskets are allotted anew, or it stops. -/
def State.encRenew (s : State) (n : Nat) : State :=
  ((s.encDropRunning n 3).modEnc n (fun e => { e with idrNext := true })).encAllot n

/-- What an uncorrectable read does by its place (Table 13.3). (DEDUCED, unsafe: log entry 30.) -/
def State.ueOutcome (s : State) (ch : Nat) (at_ : UePlace) (both : Bool) (reader : Option Nat) : State :=
  match at_ with
  | .table =>
    if both then ((s.memUe 0 ch 3 4).placeLost 0).safeByFault else s.memUe 0 ch 3 1
  | .reserved i =>
    match s.basket? 0 i with
    | none => s
    | some b =>
      if b.cls = 0 then (if both || b.lastCopy ch then ((s.memUe 0 ch 0 4).placeLost 0).safeByFault else s.memUe 0 ch 0 1)
      else if b.item = 15 ∨ b.item = 16 then (s.memUe 0 ch 2 3).encRenew (b.item - 15)
      else (s.memUe 0 ch 2 3).loseScratch ch [b]
  | .picture o i d frame =>
    match s.basket? o i with
    | none => s
    | some _ => (s.memUe o ch 1 2).concealPicture d frame
  | .object o i =>
    match s.obj? o, s.basket? o i with
    | some x, some b =>
      if b.cls = 0 then
        (if both || b.lastCopy ch then ((s.memUe o ch 0 4).ueLost x).ueReader reader else s.memUe o ch 0 1)
      else if x.cls = 8 then
        match s.comp.jobs.find? (fun j => j.obj == o) with
        | some j => (s.memUe o ch 2 3).failCmpJob j stIntegrity
        | none => s.memUe o ch 2 3
      else if reader.isSome then (s.memUe o ch 1 3).ueReader reader
      else ((s.memUe o ch 1 4).ueLost x)
    | _, _ => s

/-- An uncorrectable read is counted, of the device and of its channel. -/
def State.countUe (s : State) (ch : Nat) : State :=
  (s.modMem (fun m => { m with ue := m.ue + 1 })).modChan ch (fun c => { c with
    ue := c.ue + 1, ueReads := s.now :: c.ueReads.filter (lastSecond s.now) })

/-- The merge of a read-modify-write is written with fresh check bytes (R329). -/
def State.mergeBad (s : State) (ch bank addr : Nat) (cw : List Byte) : Option Merge → State
  | some m => s.writeUnit ch bank addr (mergeUnit ((cwNats cw).take 64) m)
  | none => s

/-- A full retraining where the uncorrectable reads of the last second reach `mem.ue_retrain`. -/
def State.ueLimit (s : State) (ch : Nat) : State := if s.pget 0x0D000008 ≤ (s.chan ch).ueReads.length then s.beginFull ch 3 else s

/-- UNCORRECTABLE_READ: a codeword without a solution. -/
def execUncorrectableRead (ch bank addr : Nat) (at_ : UePlace) (both : Bool) (reader : Option Nat) (cw : List Byte)
    (merge : Option Merge) (s : State) : Host.Outcome State Fault Refusal :=
  .next (
    if (rsDecode (cwNats cw)).isSome then s
    else ((((s.countUe ch).touch ch bank).mergeBad ch bank addr cw merge).ueOutcome ch at_ both reader).ueLimit ch)

/-! ### Set point (R343, R344) -/

/-- Some working channel has no working setting at a set point. -/
def State.noSetting (s : State) (target : Nat) : Bool :=
  s.mem.chans.any (fun c =>
    let (a, b) := c.result.getD (c.m0, c.m1)
    c.state == 1 && !(if target = 0 then a.ok else b.ok))

def State.endSetpointJob (s : State) (status : Nat) : State := s.endJobs (s.jobIds (fun j => j.key == .memSetpoint)) status

/-- SETPOINT_SWITCH: no pass runs and R335 admits the switch. (DESIGN CHOICE, safe: log entry 73.) -/
def execSetpointSwitch (ns : Nat) (s : State) : Host.Outcome State Fault Refusal :=
  .next (match s.mem.request with
    | none => s
    | some r =>
      if s.mem.chans.any (fun c => c.pass.isSome) || (!s.mem.selfRefresh && !s.stallFits ns) || decide (r.t0 + 50000000 ≤ s.now) then s
      else if s.noSetting r.target then (s.modMem (fun m => { m with request := none })).endSetpointJob stNoResource
      else
        let s := s.modMem (fun m => { m with request := none, setpoint := r.target, stalls := m.stalls + 1, chans := m.chans.map closeRows })
        (s.setpointEvent r 0).endSetpointJob stOk)

/-- SETPOINT_TIMEOUT: 50 ms after the request. -/
def execSetpointTimeout (s : State) : Host.Outcome State Fault Refusal :=
  .next (match s.mem.request with
    | none => s
    | some r =>
      let s := (s.advanceTo (r.t0 + 50000000)).modMem (fun m => { m with request := none })
      (s.setpointEvent r 1).endSetpointJob stTimeout)

/-- DESIGN CHOICE, unsafe: log entry 31. -/
def memSetpointBody (c : Cmd) (s : State) : Ran :=
  let t := c.f 1 0 0
  if !c.okBits 1 1 then refuse s stBadArg
  else if t = 1 ∧ s.dev.state ≠ .blanket ∧ s.dev.state ≠ .parasol then refuse s stBadState
  else if s.mem.request.isSome then refuse s stBusy
  else if t = s.mem.setpoint then answer s []
  else if s.noSetting t then refuse s stNoResource
  else accept (s.modMem (fun m => { m with request := some { target := t, requester := 1, t0 := s.now } })) .memSetpoint

def execMemSetpoint (c : Cmd) (s : State) : Host.Outcome State Fault Refusal :=
  .next (hostCmd (.memSetpoint c) { op := 0x0D03 } memSetpointBody c s)

/-! ### The other commands (Tables 13.8 to 13.10, R347) -/

/-- DESIGN CHOICE, unsafe: log entry 31. -/
def memRetrainBody (c : Cmd) (s : State) : Ran :=
  let ch := c.f 1 4 0
  let x := s.chan ch
  if !c.okBits 1 (mask 4 0) then refuse s stBadArg
  else if x.state = 3 then refuse s stNoResource
  else if s.dev.state = .parasol then refuse s stBadState
  else if x.fullRuns || x.state == 0 || s.mem.request.isSome then refuse s stBusy
  else accept s (.memRetrain ch)

def execMemRetrain (c : Cmd) (s : State) : Host.Outcome State Fault Refusal :=
  .next (hostCmdWith (.memRetrain c) { op := 0x0D04 } memRetrainBody (fun c s => s.beginFull (c.f 1 4 0) 1) c s)

/-- MEM_STATUS response; the measured traffic is a free value (log entry 3). (DESIGN CHOICE, safe: log entry 3.) -/
def memStatusWords (s : State) (traffic : Nat) : List Word :=
  let m := s.mem
  [packW [at' 127 120 m.setpoint, at' 119 112 s.channels, at' 111 104 (b2n m.doubled), at' 103 96 (s.pget 0x0D000001),
      at' 95 88 (sfield 8 (maxInt m.temps)), at' 63 32 m.ce.toNat, at' 31 0 m.ue.toNat],
   packW [at' 127 96 (maskOf (fun (c : MemChan) => c.state == 3) m.chans), at' 95 64 (maskOf (fun (c : MemChan) => c.pass.isSome) m.chans),
      at' 63 32 traffic, at' 31 0 m.guard.toNat],
   packW [at' 127 96 m.scrubs.toNat, at' 95 64 m.masked.toNat, at' 63 32 m.stalls.toNat]]

def memStatusBody (c : Cmd) (s : State) : Ran :=
  if !c.okBits 1 1 then refuse s stBadArg
  else
    let ran := s.takeFree (2 ^ 32)
    let s' := ran.1
    let traffic := ran.2
    answer (if c.f 1 0 0 = 1 then s'.modMem (fun m => { m with ce := 0, ue := 0, guard := 0, stalls := 0 }) else s') (memStatusWords s traffic)

def execMemStatus (c : Cmd) (s : State) : Host.Outcome State Fault Refusal :=
  .next (hostCmd (.memStatus c) { op := 0x0D01 } memStatusBody c s)

/-- STATE of MEM_CHANNEL. -/
def State.chanState (s : State) (c : MemChan) : Nat :=
  if c.state = 3 then 3 else if c.state = 1 ∧ s.mem.selfRefresh = true then 4 else if c.fullRuns then 2 else c.state

/-- A margin, 0 without a working setting. -/
def Margins.show (m : Margins) (v : BitVec 16) : Nat := if m.ok then v.toNat else 0

def memChannelWords (s : State) (ch : Nat) : List Word :=
  let c := s.chan ch
  [packW [at' 127 120 (s.chanState c), at' 119 112 (ch / 4), at' 111 104 (sfield 8 (s.mem.temps.getD (ch / 4) 0)),
      at' 95 64 c.ce.toNat, at' 63 32 c.ue.toNat, at' 31 0 c.guard.toNat],
   packW [at' 127 112 (c.m0.show c.m0.rd), at' 111 96 (c.m0.show c.m0.wr), at' 95 80 (c.m0.show c.m0.vref),
      at' 63 48 (c.m1.show c.m1.rd), at' 47 32 (c.m1.show c.m1.wr), at' 31 16 (c.m1.show c.m1.vref)],
   packW [at' 127 96 ((s.now - c.lastFull) / 1000000000), at' 95 64 c.tracks.toNat, at' 63 32 c.fulls.toNat]]

def memChannelBody (c : Cmd) (s : State) : Ran :=
  let ch := c.f 1 4 0
  if !c.okBits 1 (mask 8 8 + mask 4 0) then refuse s stBadArg
  else
    answer (if c.f 1 8 8 = 1 then s.modChan ch (fun x => { x with ce := 0, ue := 0, guard := 0 }) else s) (memChannelWords s ch)

def execMemChannel (c : Cmd) (s : State) : Host.Outcome State Fault Refusal :=
  .next (hostCmd (.memChannel c) { op := 0x0D02 } memChannelBody c s)

end Sys2Proof.Machine
end

