-- ==== Sys2Proof/Machine/HostEvRows.lean ====
section
/-! DEFINITION. Events at the host interface: ring pointers, ring configuration, the event queue, interrupts, DMA failures,
the PCI Express link (spec/02). -/

namespace Sys2Proof.Machine

open Sys2Proof

def State.modHost (s : State) (f : HostIf → HostIf) : State := { s with host := f s.host }

def State.modEq (s : State) (f : EventQueue → EventQueue) : State := s.modHost (fun h => { h with eq := f h.eq })

/-! ### Mailboxes (R44, R48, R50) -/

/-- RING_ERROR: a mailbox stops with a cause of Table 2.47; what it has fetched runs to its end.
(DEDUCED, unsafe: log entry 19.) -/
def State.stopMb (s : State) (mb cause : Nat) : State :=
  let s := s.modMb mb (fun m => { m with err := true, active := false, errCause := BitVec.ofNat 8 cause })
  s.raise 2 2 2 (packNat [at' 63 56 mb, at' 55 48 cause, at' 15 0 (s.mailbox mb).cmdHead.toNat]) 0

/-- MB_CMD_TAIL_WRITE: ignored while EN = 0; a stopped mailbox raises no further RING_ERROR.
(DESIGN CHOICE, unsafe: log entry 83.) -/
def execMbCmdTailWrite (mb : Nat) (v : BitVec 16) (s : State) : Host.Outcome State Fault Refusal :=
  .next (
    let m := s.mailbox mb
    if 8 ≤ mb ∨ m.en = false then s
    else
      let s := s.modMb mb (fun m => { m with cmdTail := v })
      if m.active && decide (2 ^ m.cmdLog2.toNat < wsub 16 v.toNat m.cmdHead.toNat) then s.stopMb mb 1 else s)

/-- MB_RSP_HEAD_WRITE: the responses up to the new index are consumed. -/
def execMbRspHeadWrite (mb : Nat) (v : BitVec 16) (s : State) : Host.Outcome State Fault Refusal :=
  .next (s.modMb mb (fun m => { m with rspHead := v }))

/-- PENDING_RESPONSE_WRITE: the oldest held response is written once its ring has room (R39). -/
def execPendingResponseWrite (mb : Nat) (s : State) : Host.Outcome State Fault Refusal :=
  .next (
    let m := s.mailbox mb
    match m.held with
    | [] => s
    | r :: rs => if !m.writes || m.rspFull then s else ((s.modMb mb (fun m => { m with held := rs })).putRsp mb r).freeJobs)

/-- EN rises: all four indices are 0, and the mailbox is served if both sizes are in range (R48). -/
def Mailbox.enable (m : Mailbox) (cmdLog2 rspLog2 : BitVec 4) : Mailbox :=
  let ok := decide (4 ≤ cmdLog2.toNat ∧ cmdLog2.toNat ≤ 10 ∧ 4 ≤ rspLog2.toNat ∧ rspLog2.toNat ≤ 10)
  { m with
    cmdTail := 0, cmdHead := 0, rspHead := 0, rspTail := 0, cmdLog2 := cmdLog2, rspLog2 := rspLog2
    en := true, active := ok, cfgErr := m.cfgErr || !ok, ring := [], held := [] }

/-- MB_CFG_WRITE. -/
def execMbCfgWrite (mb : Nat) (v : BitVec 32) (s : State) : Host.Outcome State Fault Refusal :=
  .next (
    let m := s.mailbox mb
    let cl := BitVec.ofNat 4 (bits v.toNat 11 8)
    let rl := BitVec.ofNat 4 (bits v.toNat 15 12)
    let en := bit v.toNat 0
    if 8 ≤ mb then s
    else if !m.en then
      s.modMb mb (fun m => if en then m.enable cl rl else { m with cmdLog2 := cl, rspLog2 := rl })
    else
      let s := if cl ≠ m.cmdLog2 ∨ rl ≠ m.rspLog2 then s.modMb mb (fun m => { m with cfgErr := true }) else s
      if en then s else s.disableMb mb)

/-- A ring fetch fails (R44): CMD_HEAD stays at its slot. -/
def State.ringFail (s : State) (mb cause : Nat) : State := if (s.mailbox mb).active then s.stopMb mb cause else s

def execRingFetchError (mb : Nat) (s : State) : Host.Outcome State Fault Refusal := .next (s.ringFail mb 2)

/-! ### The event queue (Tables 2.32 to 2.34, R63) -/

/-- EQ_CFG_WRITE: the rising edge of EN sets both indices to 0. -/
def execEqCfgWrite (v : BitVec 32) (s : State) : Host.Outcome State Fault Refusal :=
  .next (
    if !bit v.toNat 0 then s.modEq (fun q => { q with en := false })
    else if s.host.eq.en then s
    else (s.modEq (fun q => { q with en := true, head := 0, tail := 0, holdoffPassed := false })).reportDrops)

/-- EQ_HEAD_WRITE: taken only from the present EQ_HEAD up to EQ_TAIL, counted forward. -/
def execEqHeadWrite (v : BitVec 16) (s : State) : Host.Outcome State Fault Refusal :=
  .next (
    let q := s.host.eq
    let n := wsub 16 v.toNat q.head.toNat
    if n = 0 ∨ q.unread < n then s
    else (s.modEq (fun q => { q with head := v, holdoffPassed := false })).reportDrops)

/-- EQ_HOLDOFF_EXPIRY. -/
def execEqHoldoffExpiry (s : State) : Host.Outcome State Fault Refusal :=
  .next (if s.host.eq.unread = 0 then s else (s.modEq (fun q => { q with holdoffPassed := true })).setPend 1)

/-- EVENT_QUEUE_WRITE: the next held record, and EVENTS_DROPPED once space has returned (R35). -/
def execEventQueueWrite (s : State) : Host.Outcome State Fault Refusal := .next s.writeHeld.reportDrops

/-! ### Interrupts (R47) -/

/-- The cause of a vector still holds; the others are edges. (DEDUCED, unsafe: log entry 23.) -/
def State.causeHolds (s : State) (v : Nat) : Bool :=
  if v = 0 then s.faultLow
  else if v = 1 then s.host.eq.moderated
  else if 2 ≤ v ∧ v ≤ 9 then (s.mailbox (v - 2)).rspTail != (s.mailbox (v - 2)).rspHead
  else if v = 18 then s.direct.g2d.done
  else if 19 ≤ v ∧ v ≤ 22 then !(s.time.tsq.getD (v - 19) {}).entries.isEmpty
  else false

def State.modIrq (s : State) (f : Irq → Irq) : State := s.modHost (fun h => { h with irq := f h.irq })

/-- IRQ_STATUS_WRITE: written ones clear PEND; a cause that still holds sets it again with a new message.
(DEDUCED, unsafe: log entry 23.) -/
def execIrqStatusWrite (hi : Bool) (v : BitVec 32) (s : State) : Host.Outcome State Fault Refusal :=
  .next (
    let w := if hi then v.toNat * 2 ^ 32 else v.toNat
    let gone := (List.range 64).filter (fun n => bit w n && bit s.host.irq.status.toNat n)
    let s := s.modIrq (fun q => { q with status := q.status &&& ~~~(BitVec.ofNat 64 w) })
    gone.foldl (fun s n => if s.causeHolds n then s.setPend n else s) s)

/-- IRQ_MASK_WRITE: each MASK bit that falls while its PEND bit is set sends one message. -/
def execIrqMaskWrite (hi : Bool) (v : BitVec 32) (s : State) : Host.Outcome State Fault Refusal :=
  .next (
    let old := s.host.irq.mask.toNat
    let new := if hi then v.toNat * 2 ^ 32 + old % 2 ^ 32 else old / 2 ^ 32 * 2 ^ 32 + v.toNat
    let due := (List.range 64).filter (fun n => bit old n && !bit new n && bit s.host.irq.status.toNat n)
    let s := s.modIrq (fun q => { q with mask := BitVec.ofNat 64 new })
    due.foldl State.irqMsg s)

/-- MSIX_ENTRY_UNMASK. (PRESUMED, unsafe: log entry 2.) -/
def execMsixEntryUnmask (vector : Nat) (s : State) : Host.Outcome State Fault Refusal :=
  .next (
    if 64 ≤ vector ∨ bit s.host.irq.msixMask.toNat vector = false then s
    else
      let s := s.modIrq (fun q => { q with msixMask := BitVec.ofNat 64 (putBit q.msixMask.toNat vector false) })
      if bit s.host.irq.status.toNat vector then s.irqMsg vector else s)

/-! ### Function-level reset and the link (R49, R68) -/

/-- FUNCTION_LEVEL_RESET. (PRESUMED, unsafe: log entry 2; DEDUCED, unsafe: log entry 25.) -/
def execFunctionLevelReset (s : State) : Host.Outcome State Fault Refusal :=
  .next (
    let s := s.hostStop.g2dForce 9
    { s with
      direct := { cvu := s.direct.cvu.map (fun _ => {}) }
      time := { s.time with latches := s.time.latches.map (fun (_ : Latch) => {}), tsq := s.time.tsq.map (fun (_ : TsQueue) => {}) } })

/-- HOST_LINK. (DEDUCED, unsafe: log entry 25.) -/
def State.hostLink (s : State) (up : Bool) : State :=
  s.raise 2 4 (if up then 1 else 3) (packNat [at' 63 56 (b2n up), at' 55 48 s.host.pcie.speed, at' 47 40 s.host.pcie.width]) 0

/-- PCIE_LINK_DOWN. (DEDUCED, unsafe: log entry 25.) -/
def execPcieLinkDown (s : State) : Host.Outcome State Fault Refusal :=
  .next (
    if !s.host.pcie.up then s
    else (s.hostStop.modHost (fun h => { h with pcie := { h.pcie with up := false } })).hostLink false)

/-- PCIE_LINK_UP, at a speed and a width. (DEDUCED, unsafe: log entry 25.) -/
def execPcieLinkUp (speed width : Nat) (s : State) : Host.Outcome State Fault Refusal :=
  .next (
    if s.host.pcie.up then s
    else (s.modHost (fun h => { h with pcie := { h.pcie with up := true, speed := speed, width := width } })).hostLink true)

/-- PCIE_ERROR, with the AER status image and the running count. -/
def execPcieError (correctable : Bool) (aer : Nat) (s : State) : Host.Outcome State Fault Refusal :=
  .next (
    let p := s.host.pcie
    let p := if correctable then { p with corr := p.corr + 1 } else { p with uncorr := p.uncorr + 1 }
    let n := if correctable then p.corr else p.uncorr
    (s.modHost (fun h => { h with pcie := p })).raise 2 3 (if correctable then 1 else 3) (packNat [at' 63 32 aer, at' 31 0 n.toNat]) 0)

end Sys2Proof.Machine
end

