-- ==== Sys2Proof/Machine/DirectRows.lean ====
section
/-! DEFINITION. The direct window (R45, Table 2.2): check-value units, 2D engine, writes and reads of its registers
(spec/02, spec/15, spec/16 section 16.2, spec/18 section 18.4). -/

namespace Sys2Proof.Machine

open Sys2Proof

/-! ### Check-value units (R365 to R369) -/

def State.modCvu (s : State) (n : Nat) (f : Cvu → Cvu) : State := { s with direct := { s.direct with cvu := updAt s.direct.cvu n f } }

/-- An access to a unit needs PD02 (R465). -/
def State.onCvu (s : State) (n : Nat) (f : Cvu → Cvu) : State := (s.serviceRequest 2).modCvu n f

/-- CVU_RESET: RESET of CVUn_CTRL. -/
def execCvuReset (n : Nat) (v : BitVec 32) (s : State) : Host.Outcome State Fault Refusal :=
  .next (if bit v.toNat 0 then s.onCvu n Cvu.doReset else s.serviceRequest 2)

def execCvuData8 (n : Nat) (v : BitVec 8) (s : State) : Host.Outcome State Fault Refusal :=
  .next (s.onCvu n (fun u => u.feed v.toNat))

def execCvuData16 (n : Nat) (v : BitVec 16) (s : State) : Host.Outcome State Fault Refusal :=
  .next (s.onCvu n (fun u => (u.feed (bits v.toNat 7 0)).feed (bits v.toNat 15 8)))

def execCvuData32 (n : Nat) (v : BitVec 32) (s : State) : Host.Outcome State Fault Refusal :=
  .next (s.onCvu n (fun u =>
    (((u.feed (bits v.toNat 7 0)).feed (bits v.toNat 15 8)).feed (bits v.toNat 23 16)).feed (bits v.toNat 31 24)))

/-- CVU_FINAL: PEND of vector 10 + n where a result was latched; the value written is ignored. -/
def execCvuFinal (n : Nat) (_v : BitVec 32) (s : State) : Host.Outcome State Fault Refusal :=
  .next (
    let u := s.direct.cvu.getD n {}
    let s := s.onCvu n Cvu.final
    if 8 ≤ n ∨ u.cfgErr = true then s else s.setPend (10 + n))

/-! ### 2D engine (R374 to R380) -/

def State.modG2d (s : State) (f : G2d → G2d) : State := { s with direct := { s.direct with g2d := f s.direct.g2d } }

/-- A side breaks the alignment rule of Table 15.18. (DEDUCED, unsafe: log entry 67.) -/
def G2dSide.misaligned (g : G2dSide) : Bool :=
  g.host && (g.addr % 16 != 0 || g.pitch % 16 != 0 || decide (g.pitch < 16 ∨ 131072 < g.pitch) ||
    ((g.format == 0 || g.format == 3) && (g.addr + g.y * g.pitch + g.x * g2dSize g.format) % 16 != 0))

/-- A side's rectangle leaves its surface. -/
def G2dSide.outside (g : G2dSide) (w h : Nat) : Bool := !g.host && decide (g.w < g.x + w ∨ g.h < g.y + h)

/-- The first check of Table 15.18 that the latched operation fails, 0 for none. (DEDUCED, unsafe: log entry 67.) -/
def State.g2dCheck (s : State) : Nat :=
  let r := s.direct.g2d.lat
  let op := bits r.op.toNat 2 0
  let w := bits r.size.toNat 15 0
  let h := bits r.size.toNat 31 16
  if !s.dev.state.run then 0x0B
  else if decide (2 ≤ s.sagSeen) || (s.domain 29).failed then 0x0A
  else if op < 1 ∨ 4 < op then 0x01
  else
    match s.g2dSides with
    | none => 0x02
    | some (a, d) =>
      let px := match a with
        | some x => Nat.max (g2dSize x.format) (g2dSize d.format)
        | none => g2dSize d.format
      let any (p : G2dSide → Bool) : Bool := p d || (match a with | some x => p x | none => false)
      if op == 1 && (match a with | some x => x.format != d.format | none => false) then 0x03
      else if w < 1 ∨ 16384 < w ∨ h < 1 ∨ 16384 < h ∨ 65536 < w * px then 0x06
      else if any G2dSide.misaligned then 0x04
      else if any (fun g => g.outside w h) then 0x05
      else 0

/-- G2D_START: the registers are latched and checked; while BUSY the START is ignored (R375). -/
def execG2dStart (v : BitVec 32) (s : State) : Host.Outcome State Fault Refusal :=
  .next (
    if !bit v.toNat 0 then s
    else if s.direct.g2d.busy then s.modG2d (fun g => { g with ignored := true })
    else
      let s := (s.serviceRequest 29).modG2d (fun g => { g with lat := g.reg })
      let e := s.g2dCheck
      if e ≠ 0 then s.g2dFinish e else (s.modG2d (fun g => { g with busy := true, rowsDone := 0, startAt := s.now })).powerSync)

/-- G2D_ABORT: the running operation ends at a row boundary, after the rows given. -/
def execG2dAbort (rows : List G2dHostRow) (s : State) : Host.Outcome State Fault Refusal :=
  .next (if s.direct.g2d.busy then (s.g2dEnd rows 0 {} 9).powerSync else s)

/-- Bytes a row moves through device memory: a surface read once for each use, a surface written in both copies (R379, R381). -/
def g2dTraffic (op w : Nat) (a : Option G2dSide) (d : G2dSide) : Nat :=
  let side (g : G2dSide) (n : Nat) : Nat := if g.host then 0 else n * w * g2dSize g.format
  (match a with | some g => side g 1 | none => 0) + side d (if op = 3 then 3 else 2)

/-- The time before which rows cannot have moved under `g2d.cap_gbps`, averaged over any 1 ms (R381).
(DEDUCED, unsafe: log entry 67.) -/
def State.g2dPaced (s : State) (rows : Nat) : State :=
  match s.g2dSides with
  | none => s
  | some (a, d) =>
    let r := s.direct.g2d.lat
    let ms := ceilDiv (rows * g2dTraffic (bits r.op.toNat 2 0) (bits r.size.toNat 15 0) a d) (s.pget 0x11000001 * 1000000)
    s.advanceTo (s.direct.g2d.startAt + (ms - 1) * 1000000)

/-- G2D_OPERATION_END: all rows, or an error 7 or 8 after some of them, the next one partly written (R379). -/
def execG2dOperationEnd (rows : List G2dHostRow) (error part : Nat) (next : G2dHostRow) (s : State) : Host.Outcome State Fault Refusal :=
  .next (
    if !s.direct.g2d.busy || (s.domain 29).st != 2 then s
    else if error = 7 ∨ error = 8 then ((s.g2dPaced rows.length).g2dEnd rows part next error).powerSync
    else
      let h := bits s.direct.g2d.lat.size.toNat 31 16
      ((s.g2dPaced h).g2dEnd (padTo ({} : G2dHostRow) h rows) 0 {} 0).powerSync)

/-! ### Writes of registers without a behaviour of their own (R45) -/

/-- The low or the high half of a 64-bit value replaced. -/
def putHalf (x : Word64) (hi : Bool) (v : Nat) : Word64 :=
  BitVec.ofNat 64 (if hi then v * 2 ^ 32 + x.toNat % 2 ^ 32 else x.toNat / 2 ^ 32 * 2 ^ 32 + v)

/-- A ring or queue address [31:12], its reserved bits 0. -/
def pageBits (v : Nat) : Nat := v / 4096 * 4096

/-- A write to a mailbox's base registers or status; register offset r from 0x200 + 0x20·n. -/
def Mailbox.write (m : Mailbox) (r v : Nat) : Mailbox :=
  if r = 0x14 then (if bit v 2 then { m with cfgErr := false } else m)
  else if 0x10 ≤ r then m
  else if m.en then { m with cfgErr := true }
  else if r = 0x00 then { m with cmdBase := putHalf m.cmdBase false (pageBits v) }
  else if r = 0x04 then { m with cmdBase := putHalf m.cmdBase true v }
  else if r = 0x08 then { m with rspBase := putHalf m.rspBase false (pageBits v) }
  else { m with rspBase := putHalf m.rspBase true v }

/-- A write to an event-queue register without a row of its own. -/
def EventQueue.write (q : EventQueue) (r v : Nat) : EventQueue :=
  match r with
  | 0x00 => if q.en then q else { q with base := putHalf q.base false (pageBits v) }
  | 0x04 => if q.en then q else { q with base := putHalf q.base true v }
  | 0x0C => { q with holdoff := BitVec.ofNat 16 (bits v 31 16), count := BitVec.ofNat 16 v }
  | 0x18 => if bit v 1 then { q with droppedFlag := false } else q
  | _ => q

/-- A write to a configuration register of a check-value unit. -/
def CvuCfg.write (c : CvuCfg) (r v : Nat) : CvuCfg :=
  match r with
  | 0x00 => { c with poly := putHalf c.poly false v }
  | 0x04 => { c with poly := putHalf c.poly true v }
  | 0x08 => { c with init := putHalf c.init false v }
  | 0x0C => { c with init := putHalf c.init true v }
  | 0x10 => { c with xorout := putHalf c.xorout false v }
  | 0x14 => { c with xorout := putHalf c.xorout true v }
  | 0x18 => { c with cfg := BitVec.ofNat 32 (v &&& 0x77F) }
  | _ => c

/-- A write to an operation register of the 2D engine; reserved bits stay 0. -/
def G2dRegs.write (g : G2dRegs) (r v : Nat) : G2dRegs :=
  let x : Reg := BitVec.ofNat 32 v
  let desc : Reg := BitVec.ofNat 32 (v &&& (mask 31 31 + mask 29 28 + mask 17 0))
  match r with
  | 0x00 => { g with op := BitVec.ofNat 32 (v &&& 0x107) }
  | 0x10 => { g with size := x }
  | 0x14 => { g with fillLo := x }
  | 0x18 => { g with fillHi := x }
  | 0x20 => { g with srcLo := x }
  | 0x24 => { g with srcHi := x }
  | 0x28 => { g with srcDesc := desc }
  | 0x2C => { g with srcXy := x }
  | 0x30 => { g with dstLo := x }
  | 0x34 => { g with dstHi := x }
  | 0x38 => { g with dstDesc := desc }
  | 0x3C => { g with dstXy := x }
  | _ => g

/-- W1C of G2D_STATUS. -/
def G2d.clear (g : G2d) (v : Nat) : G2d := { g with done := g.done && !bit v 1, ignored := g.ignored && !bit v 2 }

/-- A register write; a reserved offset, a read-only register and a register with a row of its own are unchanged. -/
def State.writeReg (s : State) (off v : Nat) : State :=
  if off % 4 ≠ 0 then s
  else if 0x200 ≤ off ∧ off < 0x300 then s.modMb ((off - 0x200) / 0x20) (fun m => m.write (off % 0x20) v)
  else if off = 0x100C then
    let t := s.modEq (fun q => q.write 0x0C v)
    if !s.host.eq.moderated && t.host.eq.moderated then t.setPend 1 else t
  else if 0x1000 ≤ off ∧ off < 0x1020 then s.modEq (fun q => q.write (off - 0x1000) v)
  else if 0x4000 ≤ off ∧ off < 0x4800 then
    s.onCvu ((off - 0x4000) / 0x100) (fun u => { u with reg := u.reg.write (off % 0x100) v })
  else if off = 0x5008 then (s.serviceRequest 29).modG2d (fun g => g.clear v)
  else if 0x5000 ≤ off ∧ off < 0x5040 then (s.serviceRequest 29).modG2d (fun g => { g with reg := g.reg.write (off - 0x5000) v })
  else if 0x6100 ≤ off ∧ off < 0x6180 then
    let s := s.serviceRequest 50
    if off % 0x20 = 0 ∧ bit v 8 = true then
      { s with time := { s.time with tsq := updAt s.time.tsq ((off - 0x6100) / 0x20) (fun q => { q with overflow := false }) } }
    else s
  else s

/-- REGISTER_WRITE. -/
def execRegisterWrite (offset : Nat) (v : BitVec 32) (s : State) : Host.Outcome State Fault Refusal :=
  .next (s.writeReg offset v.toNat)

/-! ### What a register reads as (R45, R365, R374, R397, R435) -/

/-- DEV_STATE (Table 2.7). -/
def State.devStateReg (s : State) : Nat :=
  packNat [at' 7 7 (b2n s.dev.trial), at' 6 6 (b2n s.dev.pairCfg), at' 5 5 (b2n s.dev.sideB), at' 4 4 (b2n s.dev.fwReady), at' 3 0 s.dev.state.code]

/-- IN_FLIGHT: accepted commands whose first response waits for room (R39, R53). -/
def Mailbox.inFlight (m : Mailbox) : Nat := Nat.min 16 (countP (fun r => r.first) m.held)

/-- A mailbox's pointer registers. -/
def Mailbox.readPtr (m : Mailbox) (r : Nat) : Nat :=
  match r with
  | 0x0 => m.cmdTail.toNat
  | 0x4 => m.cmdHead.toNat
  | 0x8 => m.rspHead.toNat
  | _ => m.rspTail.toNat

/-- A mailbox's configuration registers. -/
def Mailbox.readCfg (m : Mailbox) (r : Nat) : Nat :=
  match r with
  | 0x00 => m.cmdBase.toNat % 2 ^ 32
  | 0x04 => m.cmdBase.toNat / 2 ^ 32
  | 0x08 => m.rspBase.toNat % 2 ^ 32
  | 0x0C => m.rspBase.toNat / 2 ^ 32
  | 0x10 => packNat [at' 15 12 m.rspLog2.toNat, at' 11 8 m.cmdLog2.toNat, at' 0 0 (b2n m.en)]
  | 0x14 => packNat [at' 23 16 m.errCause.toNat, at' 15 8 m.inFlight, at' 2 2 (b2n m.cfgErr), at' 1 1 (b2n m.err), at' 0 0 (b2n m.active)]
  | _ => 0

def EventQueue.read (q : EventQueue) (r : Nat) : Nat :=
  match r with
  | 0x00 => q.base.toNat % 2 ^ 32
  | 0x04 => q.base.toNat / 2 ^ 32
  | 0x08 => b2n q.en
  | 0x0C => packNat [at' 31 16 q.holdoff.toNat, at' 15 0 q.count.toNat]
  | 0x10 => q.head.toNat
  | 0x14 => q.tail.toNat
  | 0x18 => packNat [at' 2 2 (b2n (q.unread == 4096)), at' 1 1 (b2n q.droppedFlag), at' 0 0 (b2n q.en)]
  | _ => 0

def Cvu.read (u : Cvu) (r : Nat) : Nat :=
  match r with
  | 0x00 => u.reg.poly.toNat % 2 ^ 32
  | 0x04 => u.reg.poly.toNat / 2 ^ 32
  | 0x08 => u.reg.init.toNat % 2 ^ 32
  | 0x0C => u.reg.init.toNat / 2 ^ 32
  | 0x10 => u.reg.xorout.toNat % 2 ^ 32
  | 0x14 => u.reg.xorout.toNat / 2 ^ 32
  | 0x18 => u.reg.cfg.toNat
  | 0x30 => packNat [at' 4 4 (b2n u.cfgErr), at' 3 0 u.alive.toNat]
  | 0x34 => u.result.toNat % 2 ^ 32
  | 0x38 => u.result.toNat / 2 ^ 32
  | 0x3C => u.count.toNat
  | _ => 0

def G2d.read (g : G2d) (r : Nat) : Nat :=
  match r with
  | 0x00 => g.reg.op.toNat
  | 0x08 => packNat [at' 31 16 g.ops.toNat, at' 15 8 g.error.toNat, at' 2 2 (b2n g.ignored), at' 1 1 (b2n g.done), at' 0 0 (b2n g.busy)]
  | 0x0C => g.rowsDone.toNat
  | 0x10 => g.reg.size.toNat
  | 0x14 => g.reg.fillLo.toNat
  | 0x18 => g.reg.fillHi.toNat
  | 0x20 => g.reg.srcLo.toNat
  | 0x24 => g.reg.srcHi.toNat
  | 0x28 => g.reg.srcDesc.toNat
  | 0x2C => g.reg.srcXy.toNat
  | 0x30 => g.reg.dstLo.toNat
  | 0x34 => g.reg.dstHi.toNat
  | 0x38 => g.reg.dstDesc.toNat
  | 0x3C => g.reg.dstXy.toNat
  | _ => 0

/-- RUNNING, LOCKED, HOLDOVER and MASTER of a disciplined base. -/
def TimeBase.stateBits (b : TimeBase) : Nat :=
  packNat [at' 0 0 (b2n b.running), at' 1 1 (b2n b.locked), at' 2 2 (b2n b.holdover), at' 3 3 (b2n (b.portState == 6))]

/-- TIME_STATE: TB3 runs with its source and shows its source's other bits. -/
def State.timeStateReg (s : State) : Nat :=
  let t1 := s.time.tb1.stateBits
  let t2 := s.time.tb2.stateBits
  let src := if s.time.tb3.source = 1 then t1 / 2 * 2 else if s.time.tb3.source = 2 then t2 / 2 * 2 else 0
  packNat [at' 3 0 1, at' 7 4 t1, at' 11 8 t2, at' 15 12 (src + b2n (s.baseV 3).isSome)]

def Latch.read (l : Latch) (r : Nat) : Nat :=
  match r with
  | 0x0 => l.sec % 2 ^ 32
  | 0x4 => packNat [at' 31 16 l.epoch.toNat, at' 15 0 (l.sec / 2 ^ 32)]
  | 0x8 => l.ns
  | _ => l.frac

def TsQueue.read (q : TsQueue) (r : Nat) : Nat :=
  match r, q.entries.head? with
  | 0x00, _ => packNat [at' 8 8 (b2n q.overflow), at' 5 0 q.entries.length]
  | 0x04, _ => q.drops.toNat
  | 0x08, some e => packNat [at' 31 24 e.domain, at' 23 20 e.type, at' 19 16 e.base, at' 15 0 e.seqId]
  | 0x0C, some e => e.sec % 2 ^ 32
  | 0x10, some e => packNat [at' 31 16 e.epoch.toNat, at' 15 0 (e.sec / 2 ^ 32)]
  | 0x14, some e => e.ns
  | _, _ => 0

/-- SAFE_STATUS (Table 18.5). -/
def State.safeStatusReg (s : State) : Nat :=
  packNat [at' 19 16 s.dev.state.code, at' 15 12 s.pair.role, at' 6 6 (b2n s.saf.hbLost), at' 5 5 (b2n s.saf.test.isSome),
    at' 4 4 (b2n (s.saf.smcOk && !s.saf.lockstepFail)), at' 3 3 (b2n s.instrument), at' 2 2 (b2n s.faultLow),
    at' 1 1 (b2n (s.dev.state == .safe)), at' 0 0 (b2n s.saf.latch)]

/-- The safety mirror (Table 18.4). -/
def State.readSafe (s : State) (r : Nat) : Nat :=
  match r with
  | 0x00 => s.safeStatusReg
  | 0x04 => s.saf.lastSeq.toNat
  | 0x08 => s.saf.lastCode.toNat
  | 0x0C => s.saf.count.toNat
  | 0x10 => s.saf.alive.toNat
  | 0x14 => s.saf.hostHb.toNat
  | 0x18 => s.pair.epoch
  | _ => 0

/-- What a read of a direct-window offset returns; a reserved offset returns 0 (R45). -/
def State.readReg (s : State) (off : Nat) : Nat :=
  if off % 4 ≠ 0 then 0
  else if off < 0x100 then
    match off with
    | 0x00 => 0x00018144
    | 0x04 => 0x00004231
    | 0x08 => s.dev.fwVersion.toNat
    | 0x0C => s.devStateReg
    | 0x10 => packNat [at' 16 16 (b2n s.dev.gradeS), at' 15 8 0x3F, at' 2 0 7]
    | 0x18 => s.dev.serial.toNat % 2 ^ 32
    | 0x1C => s.dev.serial.toNat / 2 ^ 32
    | _ => 0
  else if off < 0x180 then (s.mailbox ((off - 0x100) / 0x10)).readPtr (off % 0x10)
  else if 0x200 ≤ off ∧ off < 0x300 then (s.mailbox ((off - 0x200) / 0x20)).readCfg (off % 0x20)
  else if 0x1000 ≤ off ∧ off < 0x1020 then s.host.eq.read (off - 0x1000)
  else if off = 0x2000 then s.host.irq.status.toNat % 2 ^ 32
  else if off = 0x2004 then s.host.irq.status.toNat / 2 ^ 32
  else if off = 0x2008 then s.host.irq.mask.toNat % 2 ^ 32
  else if off = 0x200C then s.host.irq.mask.toNat / 2 ^ 32
  else if 0x4000 ≤ off ∧ off < 0x4800 then (s.direct.cvu.getD ((off - 0x4000) / 0x100) {}).read (off % 0x100)
  else if 0x5000 ≤ off ∧ off < 0x5040 then s.direct.g2d.read (off - 0x5000)
  else if off = 0x6004 then s.timeStateReg
  else if 0x6010 ≤ off ∧ off < 0x6050 then (s.time.latches.getD ((off - 0x6010) / 0x10) {}).read (off % 0x10)
  else if 0x6100 ≤ off ∧ off < 0x6180 then (s.time.tsq.getD ((off - 0x6100) / 0x20) {}).read (off % 0x20)
  else if 0x7000 ≤ off ∧ off < 0x7020 then s.readSafe (off - 0x7000)
  else 0

end Sys2Proof.Machine
end

