-- ==== Sys2Proof/Machine/SafRows.lean ====
section
/-! DEFINITION. The safety monitor core: commands and events (spec/18, sections 18.1 to 18.5). -/

namespace Sys2Proof.Machine

open Sys2Proof

def State.modSaf (s : State) (f : Saf → Saf) : State := { s with saf := f s.saf }

/-! ### Commands -/

/-- Four 32-bit registers as a response word, from [127:96] down. -/
def regs4 (a b c d : Nat) : Word := packW [at' 127 96 a, at' 95 64 b, at' 63 32 c, at' 31 0 d]

def safetyStatusBody (_ : Cmd) (s : State) : Ran :=
  answer s [regs4 (s.readSafe 0x00) (s.readSafe 0x04) (s.readSafe 0x08) (s.readSafe 0x0C),
            regs4 (s.readSafe 0x10) (s.readSafe 0x14) (s.readSafe 0x18) 0]

/-- SAFETY_STATUS (Table 18.14). -/
def execSafetyStatus (c : Cmd) (s : State) : Host.Outcome State Fault Refusal :=
  .next (hostCmdWith (.safetyStatus c) { op := 0x1401 } safetyStatusBody (fun _ s => s.serveCore) c s)

/-- A latched condition still holds (R430). -/
def State.safetyHolds (s : State) : Bool :=
  s.ingest.scenes.any (·.staleRaised) || s.saf.tileHeld != 0 || s.saf.monIdle || s.saf.hbLost

/-- R430. -/
def safetyClearBody (_ : Cmd) (s : State) : Ran :=
  if s.dev.state == .safe then refuse s stBadState
  else if s.safetyHolds then refuse s stBusy
  else
    let s := s.modSaf (fun x => { x with latch := false })
    answer (s.raise 0x14 2 1 (s.saf.lastSeq.toNat * 2 ^ 32 + s.saf.count.toNat) s.arg2f) []

/-- SAFETY_CLEAR (R430). -/
def execSafetyClear (c : Cmd) (s : State) : Host.Outcome State Fault Refusal :=
  .next (hostCmd (.safetyClear c) { op := 0x1402 } safetyClearBody c s)

/-- R433. -/
def safetyTestBody (c : Cmd) (s : State) : Ran :=
  let m := c.f 1 7 0
  if s.dev.state != .service || s.instrument then refuse s stBadState
  else if !c.okBits 1 0xFF || !(([5, 7, 8, 9, 12, 17] : List Nat).contains m) then refuse s stBadArg
  else if s.saf.test.isSome then refuse s stBusy
  else accept (s.modSaf (fun x => { x with test := some { job := s.host.nextJob, mech := m, t0 := s.now } })) .safetyTest

/-- SAFETY_TEST (R433). -/
def execSafetyTest (c : Cmd) (s : State) : Host.Outcome State Fault Refusal :=
  .next (hostCmd (.safetyTest c) { op := 0x1403 } safetyTestBody c s)

/-- A panel frame and a subframe of the timing in force in µs, rounded up; a monitor frame in µs. -/
def State.frameUs (s : State) : Nat := ceilDiv 1000000 s.tim.fps

def State.subframeUs (s : State) : Nat := ceilDiv 1000000 (s.tim.fps * s.tim.sCount)

/-- Monitor frame time: H_TOTAL × V_TOTAL over the pixel clock in kHz (Table 11.7). -/
def State.monFrameUs (s : State) : Nat :=
  ceilDiv (bits (s.pget 0x0B000010) 47 32 * bits (s.pget 0x0B000011) 47 32 * 1000) (s.pget 0x0B000012)

/-- Detection time of a mechanism in µs (Table 18.2). (DEDUCED, unsafe: log entry 44.) -/
def State.detectUs (s : State) (m : Nat) : Nat :=
  match m with
  | 5 => s.frameUs + 2000
  | 7 => s.frameUs + 1000
  | 8 => s.subframeUs + 1100
  | 9 => s.subframeUs + 1000
  | 12 => (s.pget 0x0F000003 + 1) * s.monFrameUs
  | _ => s.pget 0x14000002 * 1000

/-- The event of a mechanism: source and code (Table 18.2). (DEDUCED, unsafe: log entry 44.) -/
def mechEvent (m : Nat) : Nat × Nat :=
  match m with
  | 7 => (0x0B, 3)
  | 8 => (0x0C, 3)
  | 9 => (0x0C, 4)
  | 12 => (0x0F, 2)
  | _ => (0x14, 1)

/-- A running SAFETY_TEST ends: the injected fault was detected, or its detection time has passed (R433).
(DEDUCED, unsafe: log entry 44.) -/
def execSafetyTestCompletion (hit : Option SafetyHit) (s : State) : Host.Outcome State Fault Refusal :=
  .next (
    match s.saf.test with
    | none => s
    | some t =>
      let lim := s.detectUs t.mech
      let s := s.advanceTo (t.t0 + 1000 * (match hit with | some h => Nat.min h.us lim | none => lim))
      let found := match hit with
        | some h => decide (h.us ≤ lim)
        | none => false
      let us := match hit with
        | some h => if found then h.us else lim
        | none => lim
      let s := s.modSaf (fun x => { x with test := none })
      let s := match hit with
        | some h => if found then s.raise (mechEvent t.mech).1 (mechEvent t.mech).2 1 h.arg h.arg2 else s
        | none => s
      let s := s.raise 0x14 3 1 (packNat [at' 63 56 t.mech, at' 55 48 (b2n (!found)), at' 31 0 us]) s.arg2f
      s.endJob t.job (if found then stOk else stTimeout) [packW [at' 31 0 us]])

/-! ### Mechanisms -/

/-- The 10-bit code of a channel of a word (R155): the drive path with gains of 1, the output LUT of the frame in progress, dither
off. (DEDUCED, unsafe: log entry 44.) -/
def State.probeCode (s : State) (ch v : Nat) : Nat :=
  let lut := s.synth.cur.bind (·.lut)
  dither 0 10 (corrCode lut ch (corrY 0x4000 s.panel.abl v)) 0 0 0

/-- Two numbers differ by at most n. -/
def within (n a b : Nat) : Bool := decide (a ≤ b + n ∧ b ≤ a + n)

/-- A probe's word meets the tolerances of R155. -/
def State.probeOk (s : State) (p : RayProbe) : Bool :=
  let flag (w : Nat) : Nat := bits w 7 0
  let tol := if p.near then 4 else 1
  let colour (ch hi : Nat) : Bool := within tol (s.probeCode ch (bits p.got hi (hi - 15))) (s.probeCode ch (bits p.own hi (hi - 15)))
  colour 0 127 && colour 1 111 && colour 2 95 && bits p.got 15 8 == bits p.own 15 8 && flag p.got &&& 0x16 == flag p.own &&& 0x16 &&
    (p.near || (bits p.got 79 16 == bits p.own 79 16 && flag p.got &&& 0x09 == flag p.own &&& 0x09))

/-- The probe rays of a cluster: `safety.probe_rays` in each panel frame. -/
def State.probesOf (s : State) (probes : List RayProbe) (n : Nat) : List RayProbe := (probes.filter (fun p => p.cluster == n)).take (s.pget 0x14000003)

/-- SM05: a cluster's word lies outside the tolerances. -/
def State.probeFault (s : State) (n : Nat) : State :=
  if s.instrument then s.safetyFault 4 n
  else s.raise 0x14 1 3 (packNat [at' 63 56 4, at' 55 48 n, at' 31 0 s.tim.frame.toNat]) s.arg2f

/-- The probe rays of the frame have been computed again (R431, SM05). (DEDUCED, unsafe: log entry 44.) -/
def execRayProbeComplete (probes : List RayProbe) (s : State) : Host.Outcome State Fault Refusal :=
  .next (
    if !s.dev.state.run then s
    else
      let bad := (List.range 48).filter (fun n => (s.probesOf probes n).any (fun p => !s.probeOk p))
      let ran := s.takeFree (2 ^ 32)
      bad.foldl State.probeFault (ran.1.modSaf (fun x => { x with lfsr := ran.2 })))

/-- SM01: PD01 drives FAULT_N and SAFE_STATE_N low (R428). (DEDUCED, unsafe: log entry 44.) -/
def execLockstepMismatch (s : State) : Host.Outcome State Fault Refusal :=
  .next (
    if s.dev.state == .off then s
    else
      let low := s.saf.safeStateLow
      let s := s.modSaf (fun x => { x with lockstepFail := true, safeStateLow := true })
      (if low then s else s.emit (.pin "SAFE_STATE_N" false)).safetyFault 1 0xFF)

/-- SM03. -/
def execFabricParityError (s : State) : Host.Outcome State Fault Refusal :=
  .next (if s.dev.state == .off then s else s.safetyFault 3 0xFF)

/-- SM02: 5 ms without the firmware heartbeat. -/
def execControlProcessorWatchdog (s : State) : Host.Outcome State Fault Refusal :=
  .next (if s.dev.state == .off then s else s.safetyFault 2 0xFF)

/-- A write of HOST_HB (R434): one that changes the value clears HB_LOST. (DEDUCED, unsafe: log entry 45.) -/
def execHostHbWrite (v : BitVec 32) (s : State) : Host.Outcome State Fault Refusal :=
  .next (
    if s.dev.state == .off ∨ s.saf.hostHb = v then s
    else s.modSaf (fun x => { x with hostHb := v, hbLost := false, hbAt := s.now }))

/-- SM17 (R434). (DEDUCED, unsafe: log entry 45.) -/
def execHostHbTimeout (s : State) : Host.Outcome State Fault Refusal :=
  .next (
    let ms := s.pget 0x14000002
    if ms = 0 ∨ s.saf.hbLost = true ∨ s.dev.state == .off then s
    else
      let s := s.advanceTo (s.saf.hbAt + ms * 1000000)
      let s := s.modSaf (fun x => { x with hbLost := true })
      s.raise 0x14 1 4 (packNat [at' 63 56 6, at' 55 48 0xFF, at' 31 0 s.tim.frame.toNat]) s.arg2f)

/-- SMC_ALIVE counts every 1 ms while SMC_OK (Table 18.7). -/
def execSmcAliveTick (s : State) : Host.Outcome State Fault Refusal :=
  .next (
    if s.saf.smcOk && !s.saf.lockstepFail then
      let s := s.advanceTo (s.saf.aliveAt + 1000000)
      s.modSaf (fun x => { x with alive := x.alive + 1, aliveAt := s.now })
    else s)

end Sys2Proof.Machine
end

