-- ==== Sys2Proof/Machine/PairRows.lean ====
section
/-! DEFINITION. The redundant pair: roles, cross-link, switchover, commands and events (spec/18, sections 18.6 to 18.9). -/

namespace Sys2Proof.Machine

open Sys2Proof

/-! ### Digest, READY (R436, R439) -/

/-- CRC-32C of the bytes of an object, 0 for none. -/
def State.objCrc (s : State) (id : Nat) : Nat :=
  match s.obj? id with
  | some o => crc32c o.data
  | none => 0

/-- The configuration digest of R439; each CRC counts as four bytes. (DEDUCED, unsafe: log entry 60.) -/
def State.pairDigest (s : State) : Nat :=
  let v (id : Nat) : List Byte := leBytes 8 (s.pget id)
  let c (id : Nat) : List Byte := leBytes 4 (s.objCrc (s.pget id))
  crc32c (c 0x05000001 ++ v 0x0B000001 ++ v 0x0A000001 ++ v 0x09000001 ++ v 0x0C000020 ++ v 0x14000001
    ++ c 0x0C000001 ++ c 0x0C000003 ++ c 0x0C000002)

/-- BLANKET, SERVICE or REDUCED. -/
def DevState.joins (d : DevState) : Bool := d == .blanket || d == .service || d == .reduced

/-- The port of every tile that the geometry names is ACTIVE with agreeing CAPS. -/
def State.portsAgree (s : State) : Bool :=
  match s.geom with
  | none => true
  | some g => g.tiles.all (fun e =>
      let p := s.port e.tile
      p.state == 5 && p.mismatch == 0 && (s.geomDiffers e.tile).isNone)

/-- READY (R436, R438). -/
def State.readyNow (s : State) : Bool :=
  s.dev.pairCfg && s.pair.role == 2 && s.dev.state.joins && s.pair.xlink == 2 && s.pair.agree
    && decide (s.pair.gridErr.natAbs ≤ 1000) && s.portsAgree && !s.pair.yielded

/-! ### Switchover (R442, R443, R447, R448) -/

/-- READY as the last check found it; a side that leaves READY drops a planned switchover to it. -/
def State.refreshReady (s : State) : State :=
  let r := s.readyNow
  let s := s.modPair (fun p => { p with ready := r })
  match s.pair.switch with
  | some w => if w.toUs && !r && decide (w.kind = 1 ∨ w.kind = 4) then s.dropPlanned else s
  | none => s

/-- What each tile shows after a claim: content at the next boundary where it shows a mask, else reconcile (Table 18.11). -/
def State.claimShow (s : State) (fault : Bool) : State :=
  tileNums.foldl (fun s t =>
    if !s.ownActive t then s
    else if !fault && (s.port t).tstate == 1 then
      s.modTile t (fun d => { d with mode := 4, recon := 1, firstDue := false, stop := 0, tries := 0 })
    else (s.modTile t (fun d => { d with stop := 0, tries := 0 })).reconcile t) s

/-- This side claims every tile in a switchover. -/
def State.claimBy (s : State) (kind : Nat) (t0 : Nat) (cause : Nat) : State :=
  let s := s.claimAll
  let s := s.modPair (fun p => { p with switch := some { kind := kind, t0 := t0, toUs := true, stage := 2 } })
  let s := s.roleGo (if s.pair.xlink = 2 then 1 else 3) cause
  s.claimShow (kind == 2)

/-- PAIR_SWITCHOVER: a switchover has ended. -/
def State.switched (s : State) (w : Switch) (epoch : Nat) : State :=
  let s := s.modPair (fun p => { p with switch := none, switchovers := p.switchovers + 1 })
  s.raise 0x15 4 2 (packNat [at' 63 56 w.kind, at' 55 48 (if w.toUs then b2n s.dev.sideB else b2n (!s.dev.sideB)), at' 31 0 epoch])
    (packNat [at' 47 16 s.tim.frame.toNat, at' 15 0 (Nat.min 0xFFFF ((s.now - w.t0) / 1000))])

/-- Every reachable tile reports the owner code and, above or at it, an epoch. -/
def State.tilesReport (s : State) (owner : Nat) (p : Port → Bool) : Bool :=
  tileNums.all (fun t => (s.port t).state != 5 || ((s.port t).owner == owner && p (s.port t)))

/-- A switchover ends when every reachable tile reports OWNER as the new side (R442, R443, R438). -/
def State.switchCheck (s : State) : State :=
  match s.pair.switch with
  | none => s
  | some w =>
    if w.toUs then
      if w.stage = 2 ∧ s.tilesReport s.ownerCode (fun p => p.ownEpoch == s.pair.epoch) = true then s.switched w s.pair.epoch else s
    else if w.stage = 1 ∧ s.tilesReport (3 - s.ownerCode) (fun p => after 32 p.ownEpoch s.pair.epoch) = true then
      let e := ((s.link.ports.filter (fun p => p.state == 5)).map (·.ownEpoch)).headD s.pair.epochSeen
      let s := (s.switched w e).disownAll
      if s.dev.state == .shutdown then
        let s := s.roleGo 0 4
        (tileNums.foldl (fun s t => if (s.tile t).powered then s.powerLow t else s) s).stopGrid.shutdownStep
      else (if w.yield then s.roleGo 0 5 else s.roleGo 2 2).endPairJobs stOk
    else s

/-- R444: a tile names another owner at a higher epoch outside a switchover from this side. -/
def State.lostOwnership (s : State) (t : Nat) : State :=
  let p := s.port t
  let planned := match s.pair.switch with
    | some w => !w.toUs && w.stage == 1
    | none => false
  if s.dev.pairCfg && (s.pair.role == 1 || s.pair.role == 3) && !planned && p.owner != 0 && p.owner != s.ownerCode
      && after 32 p.ownEpoch s.pair.epoch then
    s.disownAll.roleGo 2 6
  else s

/-! ### Roles (Table 18.9) -/

/-- This side is preferred by `pair.prefer`. -/
def State.preferred (s : State) : Bool := s.pget 0x15000002 == b2n s.dev.sideB

/-- The transitions that a STATE message brings about. -/
def State.joinRoles (s : State) : State :=
  let p := s.pair
  match p.role with
  | 0 =>
    if !s.dev.state.joins || p.yielded then s
    else if p.partnerRole = 1 ∨ p.partnerRole = 3 then s.roleGo 2 1
    else if p.partnerRole = 0 ∧ s.preferred = true then (s.claimAll.roleGo 1 1).claimShow false
    else s
  | 1 => if p.partnerRole = 0 then s.roleGo 3 3 else s
  | 3 => if p.partnerRole = 2 then s.roleGo 1 3 else s
  | _ => s

/-! ### The cross-link (R439, R440) -/

/-- SERVICE above REDUCED above BLANKET, by the codes of Table 1.3. -/
def stateRank (code : Nat) : Nat := if code = 3 then 3 else if code = 4 then 2 else if code = 2 then 1 else 0

/-- A grid that follows the owner's: STANDBY, or yielded. (DESIGN CHOICE, unsafe: log entry 61.) -/
def State.followsGrid (s : State) : Bool := s.pair.role == 2 || (s.pair.role == 0 && s.pair.yielded)

/-- R440: the grid is slewed toward the owner's boundaries, by at most `tim.servo_ppm` of the time since the last STATE, or
re-phased.
(DESIGN CHOICE, safe: log entry 3; DESIGN CHOICE, unsafe: log entry 61.) -/
def State.followGrid (s : State) (err : Int) : State :=
  if !s.followsGrid || !s.tim.on then s
  else
    let lim := s.pget 0x0B000005
    if lim ≠ 0 ∧ lim * 1000 < err.natAbs then { s with tim := { s.tim with rephaseDue := true } }
    else
      let ran := s.takeFree (s.pget 0x0B000004 * (s.now - s.pair.stateAt) / 1000000 + 1)
      let s := ran.1
      let f := ran.2
      let step := Nat.min f err.natAbs
      { s with tim := { s.tim with t0 := if 0 < err then s.tim.t0 - step else s.tim.t0 + step } }

/-- The digests are compared at an aligned selection point: PAIR_MISMATCH once for each episode (R439). -/
def State.checkDigest (s : State) : State :=
  let own := s.pairDigest
  let s := s.modPair (fun p => { p with digest := own, agree := own == p.partnerDigest })
  if own = s.pair.partnerDigest then s.modPair (fun p => { p with mismatch := false })
  else if s.pair.mismatch then s
  else (s.modPair (fun p => { p with mismatch := true })).raise 0x15 3 3 (own * 2 ^ 32 + s.pair.partnerDigest) s.arg2f

/-- A selection point of a pair whose grids are aligned within ±1 µs (R436, R439). -/
def State.pairSelection (s : State) : State :=
  if s.dev.pairCfg && s.pair.xlink == 2 && decide (s.pair.gridErr.natAbs ≤ 1000) then s.checkDigest.refreshReady else s

/-- A READY STANDBY ranks above the owner, by SERVICE above REDUCED above BLANKET (Table 18.11, kind 4): this side is the owner,
or the STANDBY. -/
def State.ranksAbove (s : State) : Bool :=
  let own := stateRank s.dev.state.code
  let other := stateRank s.pair.partnerState
  (s.pair.role == 1 && s.pair.partnerReady && decide (own < other)) || (s.readyNow && decide (other < own) && s.pair.partnerRole == 1)

/-- D of R440, fixed once the grids are aligned. -/
def State.fixD (s : State) (m : XState) : State :=
  if s.pair.d.isSome || decide (1000 < m.gridErr.natAbs) then s
  else
    let own := s.tim.frame.toNat
    s.modPair (fun p => { p with d := some (if s.dev.sideB then sdiff 32 m.frame own else sdiff 32 own m.frame) })

/-- A STATE message arrives (R437, R439, R440). -/
def execXlinkState (m : XState) (s : State) : Host.Outcome State Fault Refusal :=
  .next (
    if !s.dev.pairCfg || (s.domain 44).st != 2 then s
    else
      let s := s.xlinkGo true 3
      let s := s.modPair (fun p => { p with
        xlock := true, partnerRole := m.role, partnerState := m.devState, partnerReady := m.ready, partnerDigest := m.digest
        epochSeen := Nat.max p.epochSeen m.epoch, gridErr := m.gridErr })
      let s := s.followGrid m.gridErr
      let s := (s.fixD m).modPair (fun p => { p with stateAt := s.now })
      let s := s.joinRoles
      let s := s.refreshReady
      let s := s.modPair (fun p => { p with rankAt := if s.ranksAbove then some (p.rankAt.getD s.now) else none })
      match s.pair.switch with
      | some w => if !w.toUs && !m.ready then s.dropPlanned else s
      | none => s)

/-- STATE is sent every 100 µs. -/
def execXlinkStateSend (s : State) : Host.Outcome State Fault Refusal :=
  .next (
    if !s.dev.pairCfg || !s.pair.xlock then s
    else
      let s := s.advanceTo (s.pair.sentAt + 100000)
      let s := (s.modPair (fun p => { p with digest := s.pairDigest, sentAt := s.now })).refreshReady
      s.emit (.xlink 1 s.stateWords))

/-- No valid STATE for 1 ms (R439). -/
def execXlinkStateTimeout (s : State) : Host.Outcome State Fault Refusal :=
  .next (if !s.dev.pairCfg || s.pair.xlink != 2 then s else (s.advanceTo (s.pair.stateAt + 1000000)).xlinkDown 1)

/-- A LEDGER message of the owning side (R310, R447). (DEDUCED, unsafe: log entry 54.) -/
def execLedger (frame sf : Nat) (settled : Bool) (rows : List LedgerRow) (s : State) : Host.Outcome State Fault Refusal :=
  .next (
    if !s.dev.pairCfg || s.owns then s
    else
      let s := s.modPair (fun p => { p with ledgerFrame := frame, ledgerSf := sf, ledgerSettled := settled })
      rows.foldl (fun (s : State) (r : LedgerRow) => s.modTile r.tile (fun d => { d with
        l0 := r.l0
        l1 := r.l1
        drive := if settled then none
                 else some { frame := frame % 2 ^ 32, sf := sf % 256, k := 0, dl0 := r.dl0, dl1 := r.dl1 } })) s)

/-- A HANDOVER message: kind 2 makes the READY side claim at once; kinds 1 and 4 announce a planned one (R442). -/
def execHandover (kind epoch : Nat) (s : State) : Host.Outcome State Fault Refusal :=
  .next (
    if !s.dev.pairCfg || s.pair.xlink != 2 then s
    else
      let s := s.modPair (fun p => { p with epochSeen := Nat.max p.epochSeen epoch })
      if s.pair.role ≠ 2 ∨ s.readyNow = false then s
      else if kind = 2 then s.claimBy 2 s.now 2
      else if (kind = 1 ∨ kind = 4) ∧ s.pair.switch.isNone = true then s.beginSwitch kind true false
      else s)

/-- The HELLO exchange ends bring-up (section 18.7). -/
def execHello (epoch : Nat) (s : State) : Host.Outcome State Fault Refusal :=
  .next (
    if !s.dev.pairCfg || (s.domain 44).st != 2 then s
    else
      let s := s.modPair (fun p => { p with xlock := true, epochSeen := Nat.max p.epochSeen epoch })
      let s := s.modPair (fun p => { p with stateAt := s.now })
      (s.emit (.xlink 3 [s.pair.epochSeen])).xlinkGo true 3)

/-- `pair.join_ms` without a cross-link (Table 18.9, R445): SOLO at once where every tile reports OWNER none. -/
def execPairJoinTimeout (s : State) : Host.Outcome State Fault Refusal :=
  .next (
    if !s.dev.pairCfg || s.pair.role != 0 || !s.dev.state.joins || s.pair.xlink == 2 || s.pair.yielded then s
    else
      let s := s.advanceTo (s.pair.aloneAt + s.pget 0x15000003 * 1000000)
      let s := s.modPair (fun p => { p with joinExpired := true })
      let up := s.link.ports.filter (fun p => p.state == 5)
      if !up.isEmpty && up.all (fun p => p.owner == 0) then s.claimBy 3 s.now 1 else s)

/-- The moment from which the witness of R445 holds: at once where every tile reports OWNER none, else one subframe period of the
mode in force and 2 ms after the last newer drive. -/
def State.witnessWait (s : State) : State :=
  let up := s.link.ports.filter (fun p => p.state == 5)
  if !up.isEmpty && up.all (fun p => p.owner == 0) then s
  else s.advanceTo (s.pair.advancedAt + ceilDiv 1000000000 (s.tim.fps * s.tim.sCount) + 2000000)

/-- The witness of R445. -/
def execWitnessTimeout (s : State) : Host.Outcome State Fault Refusal :=
  .next (
    let free := s.pair.role = 2 ∨ (s.pair.role = 0 ∧ s.pair.joinExpired = true)
    if !s.dev.pairCfg || s.pair.xlink == 2 || s.pair.yielded || !s.dev.state.joins || !decide free then s
    else
      let s := s.witnessWait
      if s.pair.role = 2 then s.claimBy 3 s.now 2 else s.claimBy 3 s.now 1)

/-- Kind 4 of Table 18.11: the STANDBY's state has ranked above the owner's for 1 s. -/
def execAutoDegradeTimer (s : State) : Host.Outcome State Fault Refusal :=
  .next (
    match s.pair.rankAt with
    | none => s
    | some t =>
      if !s.dev.pairCfg || s.pget 0x15000004 != 1 || s.pair.switch.isSome || !s.ranksAbove then s
      else (s.advanceTo (t + 1000000000)).beginSwitch 4 (s.pair.role != 1) false)

/-- The new owner of a planned or degrade switchover claims 20 µs after its boundary (Table 18.11).
(DEDUCED, unsafe: log entry 60.) -/
def execSwitchoverClaim (s : State) : Host.Outcome State Fault Refusal :=
  .next (
    match s.pair.switch with
    | none => s
    | some w =>
      match w.bound with
      | none => s
      | some b => if w.toUs && w.stage == 1 then (s.advanceTo (b + 20000)).claimBy w.kind w.t0 2 else s)

/-! ### Commands -/

/-- Table 18.14. -/
def pairStatusBody (_ : Cmd) (s : State) : Ran :=
  let p := s.pair
  let x := if p.xlink = 2 then 2 else if (s.domain 44).st = 2 ∧ p.xlock = false then 1 else 0
  answer s
    [packW [at' 127 120 p.role, at' 119 112 p.partnerRole, at' 104 104 (b2n s.readyNow), at' 105 105 (b2n p.partnerReady), at' 103 96 x,
       at' 95 64 p.epoch, at' 63 32 (sfield 32 (p.d.getD 0)), at' 31 0 s.pairDigest],
     packW [at' 127 96 p.partnerDigest, at' 95 64 p.switchovers.toNat, at' 63 32 (sfield 32 p.gridErr)]]

/-- PAIR_STATUS (Table 18.14). -/
def execPairStatus (c : Cmd) (s : State) : Host.Outcome State Fault Refusal :=
  .next (hostCmdWith (.pairStatus c) { op := 0x1501 } pairStatusBody (fun _ s => s.serveCore) c s)

/-- R438, R442, Table 18.14. (DEDUCED, unsafe: log entry 60.) -/
def pairCtrlBody (c : Cmd) (s : State) : Ran :=
  let a := c.f 1 7 0
  if !s.dev.pairCfg then refuse s stBadState
  else if !c.okBits 1 0xFF || a = 0 || decide (3 < a) then refuse s stBadArg
  else if a = 3 then
    let was := s.pair.yielded
    let s := s.modPair (fun p => { p with yielded := false })
    { s := s, a := { status := if was then stOk else stWarn } }
  else if !s.pair.partnerReady || (a = 2 && s.pair.role == 3) then refuse s stBadState
  else if s.pair.switch.isSome then refuse s stBusy
  else if s.owns then
    accept ((s.modPair (fun p => { p with yielded := p.yielded || a == 2 })).beginSwitch 1 false (a == 2)) .pairCtrl
  else if a = 2 then answer ((s.modPair (fun p => { p with yielded := true })).roleGo 0 5) []
  else refuse s stBadState

/-- PAIR_CTRL (R438, R442). (DEDUCED, unsafe: log entry 60.) -/
def execPairCtrl (c : Cmd) (s : State) : Host.Outcome State Fault Refusal :=
  .next (hostCmd (.pairCtrl c) { op := 0x1502 } pairCtrlBody c s)

end Sys2Proof.Machine
end

