-- ==== Sys2Proof/Machine/TimeRows.lean ====
section
/-! DEFINITION. Time bases, compares, pulses, PTP and transmit-timestamp queues: commands and events (spec/16, sections
16.1 to 16.6). -/

namespace Sys2Proof.Machine

open Sys2Proof

/-! ### The bases -/

/-- TB1 or TB2. -/
def State.tb (s : State) (n : Nat) : TimeBase := if n = 1 then s.time.tb1 else s.time.tb2

def State.modTb (s : State) (n : Nat) (f : TimeBase → TimeBase) : State :=
  if n = 1 then s.modTime (fun t => { t with tb1 := f t.tb1 })
  else if n = 2 then s.modTime (fun t => { t with tb2 := f t.tb2 }) else s

/-- Step epoch of a base. -/
def State.epochOf (s : State) (n : Nat) : BitVec 16 :=
  match n with
  | 1 => s.time.tb1.epoch
  | 2 => s.time.tb2.epoch
  | 3 => s.time.tb3.epoch
  | _ => 0

/-- A base's rate against TB0, in parts per 10^9. -/
def State.rateOf (s : State) (n : Nat) : Int :=
  let r (k : Nat) : Int := match k with
    | 1 => s.time.tb1.rate
    | 2 => s.time.tb2.rate
    | _ => 0
  if n = 3 then r s.time.tb3.source else r n

/-- ns of TB0 until a base has gone on by d ns, within 1 µs of it (R393). (DEDUCED, unsafe: log entry 62.) -/
def State.tbWait (s : State) (n d : Nat) : Nat :=
  if d = 0 then 0 else ceilDiv (d * 1000000000) (1000000000 + s.rateOf n).toNat + 1

/-- The rates of the disciplined bases stay within `time.slew_ppm` (R387). -/
def State.limitRates (s : State) : State :=
  let m : Int := s.pget 0x12000050 * 1000
  s.modTime (fun t => { t with tb1 := { t.tb1 with rate := clampI t.tb1.rate (-m) m }, tb2 := { t.tb2 with rate := clampI t.tb2.rate (-m) m } })

/-! ### Compares (R393, R394) -/

/-- TIME_MATCH: flags bit 0 LATE, bit 1 STEPPED, bit 2 RANGE. -/
def State.timeMatch (s : State) (slot : Nat) (c : Compare) (flags : Nat) : State :=
  s.raise 0x12 5 0 (packNat [at' 63 56 slot, at' 55 48 c.base, at' 47 40 flags, at' 39 0 (short40 c.t)]) 0

def State.modCompare (s : State) (slot : Nat) (f : Compare → Compare) : State :=
  s.modTime (fun t => { t with compares := updAt t.compares slot f })

/-- A slot fires: it disarms, vector 23, TIME_MATCH. -/
def State.fireCompare (s : State) (slot flags : Nat) : State :=
  let c := s.time.compares.getD slot {}
  ((s.modCompare slot (fun c => { c with armed := false })).setPend 23).timeMatch slot c flags

/-- The armed slots of a stepped base (R394). (DEDUCED, unsafe: log entry 62.) -/
def State.stepCompares (s : State) (n : Nat) : State :=
  (List.range 8).foldl (fun s k =>
    let c := s.time.compares.getD k {}
    match s.baseNs n with
    | none => s
    | some v =>
      if !c.armed || c.base != n then s
      else if c.t ≤ v then s.fireCompare k 2
      else if 2 ^ 39 ≤ c.t - v then (s.modCompare k (fun c => { c with armed := false })).timeMatch k c 4
      else s) s

/-! ### Steps (R386, R389) -/

/-- TIME_STEP of a base by d units of 2^-16 ns. -/
def State.timeStep (s : State) (n : Nat) (d : Int) : State :=
  (s.raise 0x12 3 2 (packNat [at' 63 56 n, at' 55 40 (s.epochOf n).toNat]) (sfield 48 (d / 65536000))).stepCompares n

/-- A step of TB3 by d units of 2^-16 ns; the scenes take note of it (R98). (DEDUCED, unsafe: log entry 62.) -/
def State.stepTb3 (s : State) (d : Int) : State :=
  let s := { s with ingest := { s.ingest with scenes := s.ingest.scenes.map (fun (x : Scene) => { x with stepped := true }) } }
  (s.modTime (fun t => { t with tb3 := { t.tb3 with epoch := t.tb3.epoch + 1 } })).timeStep 3 d

/-- TB1 or TB2 is stepped to a time in ns; a base that TB3 follows steps TB3 too. (DEDUCED, unsafe: log entry 62.) -/
def State.stepTb (s : State) (n ns : Nat) : State :=
  let d : Int := (ns * 65536 : Nat) - (s.tb n).v
  let s := s.modTb n (fun b => { b with v := ns * 65536, epoch := b.epoch + 1 })
  let s := s.timeStep n d
  if s.time.tb3.source = n then s.stepTb3 d else s

/-- A new source or offset of TB3 takes effect (R386). -/
def State.tb3Params (s : State) : State :=
  let src := s.pget 0x12000051
  let ofs := sgn 64 (s.pget 0x12000052)
  if s.time.tb3.source = src ∧ s.time.tb3.offset = ofs then s
  else
    let old := s.baseV 3
    let s := s.modTime (fun t => { t with tb3 := { t.tb3 with source := src, offset := ofs } })
    match old, s.baseV 3 with
    | some a, some b => if a = b then s else s.stepTb3 ((b : Int) - (a : Int))
    | _, _ => s

/-! ### Commands -/

/-- OBJECT and TB name the same base (R406). -/
def timeObjOk (c : Cmd) : Bool := c.object.toNat == 0 || c.object.toNat == 0x0700000000000000 + c.f 1 127 120

/-- TIME_SET may set the base (R390). -/
def State.mayTimeSet (s : State) (n : Nat) : Bool :=
  if n = 3 then s.pget 0x12000051 == 3
  else
    let p := s.pget (0x12000000 + n)
    bits p 31 24 == 0 || bits p 7 0 == 1 || (s.tb n).portState == 6

/-- R390, R389, R385. (DEDUCED, unsafe: log entry 62.) -/
def timeSetBody (c : Cmd) (s : State) : Ran :=
  let n := c.f 1 127 120
  if !c.okBits 1 (mask 127 104 + mask 79 0) || c.f 1 119 104 != 0 || n = 0 || decide (3 < n) || !timeObjOk c then refuse s stBadArg
  else
    match time80Ns (c.f 1 79 0) with
    | none => refuse s stBadArg
    | some t =>
      if !s.mayTimeSet n then refuse s stBadState
      else if n = 3 then
        let was := s.time.tb3.hostRunning
        let d : Int := (t * 65536 : Nat) - s.time.tb3.hostV
        let s := s.modTime (fun x => { x with tb3 := { x.tb3 with hostRunning := true, hostV := t * 65536 } })
        answer (if was then s.stepTb3 d else s) []
      else if (s.tb n).running then answer (s.stepTb n t) []
      else answer (s.modTb n (fun b => { b with running := true, v := t * 65536 })) []

/-- TIME_SET (R390). (DEDUCED, unsafe: log entry 62.) -/
def execTimeSet (c : Cmd) (s : State) : Host.Outcome State Fault Refusal :=
  .next (hostCmd (.timeSet c) { op := 0x1204, obj := none } timeSetBody c s)

/-- R393. -/
def timeCompareBody (c : Cmd) (s : State) : Ran :=
  let n := c.f 1 127 120
  let k := c.f 1 119 112
  let op := c.f 1 111 104
  if !c.okBits 1 (mask 127 104 + mask 79 0) || decide (3 < n ∨ 7 < k ∨ 1 < op) || !timeObjOk c then refuse s stBadArg
  else if op = 0 then answer (s.modCompare k (fun x => { x with armed := false })) []
  else
    match time80Ns (c.f 1 79 0), s.baseNs n with
    | none, _ => refuse s stBadArg
    | _, none => refuse s stBadState
    | some t, some v =>
      if 2 ^ 39 ≤ t - v ∨ 2 ^ 39 ≤ v - t then refuse s stBadArg
      else
        let s := s.modCompare k (fun _ => { armed := true, base := n, t := t })
        answer (if t ≤ v then s.fireCompare k 1 else s) []

/-- TIME_COMPARE (R393). -/
def execTimeCompare (c : Cmd) (s : State) : Host.Outcome State Fault Refusal :=
  .next (hostCmd (.timeCompare c) { op := 0x1205, obj := none } timeCompareBody c s)

/-- An offset in a signed field of 32 bits, saturating. -/
def sat32 (i : Int) : Nat := sfield 32 (clampI i (-2147483648) 2147483647)

/-- Word 1 + n of TIME_STATUS. -/
def State.timeWord (s : State) (n : Nat) : Word :=
  let b : TimeBase := if n = 1 ∨ n = 2 then s.tb n else {}
  packW [at' 127 120 (bits s.timeStateReg (4 * n + 3) (4 * n)), at' 119 112 b.portState, at' 111 96 (s.epochOf n).toNat,
    at' 95 64 (sat32 b.offset), at' 63 0 b.gm.toNat]

/-- TIME_STATUS (R406). -/
def execTimeStatus (c : Cmd) (s : State) : Host.Outcome State Fault Refusal :=
  .next (hostCmd (.timeStatus c) { op := 0x1203 } (fun _ s => answer s [s.timeWord 0, s.timeWord 1, s.timeWord 2, s.timeWord 3]) c s)

/-! ### Compares, latches, pulses -/

/-- An armed slot's base reaches its time. (DESIGN CHOICE, unsafe: log entry 9; DEDUCED, unsafe: log entry 62.) -/
def execCompareFire (slot : Nat) (s : State) : Host.Outcome State Fault Refusal :=
  .next (
    let c := s.time.compares.getD slot {}
    match s.baseNs c.base with
    | none => s
    | some v =>
      if !c.armed || decide (8 ≤ slot) then s
      else (s.advance (s.tbWait c.base (c.t - v))).fireCompare slot 0)

/-- What a latch of a base stores (R398). -/
def State.latchOf (s : State) (n : Nat) : Latch :=
  match s.baseV n with
  | none => {}
  | some v =>
    let ns := v / 65536
    { sec := ns / 1000000000 % 2 ^ 48, epoch := s.epochOf n, ns := ns % 1000000000, frac := v % 65536 }

/-- TIME_LATCH (Table 16.5, R398). -/
def execTimeLatch (v : BitVec 32) (s : State) : Host.Outcome State Fault Refusal :=
  .next (
    if s.dev.state == .off then s
    else s.modTime (fun t => { t with latches := t.latches.zipIdx.map (fun (l, n) =>
      if bit v.toNat n then s.latchOf n else l) }))

/-- TSQp_POP (R399). -/
def execTsqPop (p : Nat) (s : State) : Host.Outcome State Fault Refusal :=
  .next (if s.dev.state == .off then s else s.modTime (fun t => { t with tsq := updAt t.tsq p (fun q => { q with entries := q.entries.drop 1 }) }))

/-- PPS_OUT at the base's next whole second (R395): it rises, and falls after its width. -/
def execPpsOutPulse (s : State) : Host.Outcome State Fault Refusal :=
  .next (
    let k := bits (s.pget 0x12000053) 7 0
    match (if k = 0 then none else s.baseNs (k - 1)) with
    | none => s
    | some v =>
      let d := s.tbWait (k - 1) ((1000000000 - v % 1000000000) % 1000000000)
      let soon := match s.time.ppsOutLast with
        | some l => decide (s.now + d < l + 500000000)
        | none => false
      let s := s.advance (if soon then d + s.tbWait (k - 1) 1000000000 else d)
      let s := s.modTime (fun t => { t with ppsOutLast := some s.now })
      s.emit (.pulse "PPS_OUT" (bits (s.pget 0x12000053) 31 16)))

/-- SHORT40 of a base, 0 while it does not run. -/
def State.baseShort (s : State) (n : Nat) : Nat :=
  match s.baseNs n with
  | some v => short40 v
  | none => 0

/-- A rising edge of PPS_IN (R396). -/
def execPpsInEdge (s : State) : Host.Outcome State Fault Refusal :=
  .next (
    let soon := match s.time.ppsInLast with
      | some l => decide (s.now < l + 500000000)
      | none => false
    if s.pget 0x12000054 ≠ 1 ∨ soon = true then s
    else (s.modTime (fun t => { t with ppsInLast := some s.now })).raise 0x12 6 0 (s.baseShort 1) (s.baseShort 2))

/-! ### PTP (R385, R387, R388, R391, R399) -/

/-- `time.tbN.ptp` in force. -/
def State.ptpCfg (s : State) (n : Nat) : Nat := s.pget (0x12000000 + n)

/-- Base n runs PTP on a port whose link is up. -/
def State.ptpOn (s : State) (n : Nat) : Bool :=
  (n == 1 || n == 2) && bits (s.ptpCfg n) 31 24 != 0 && (s.time.ports.getD (bits (s.ptpCfg n) 15 8) {}).up

/-- PTP_STATE where the port state or LOCKED has changed. -/
def State.ptpReport (s : State) (n : Nat) (old : TimeBase) : State :=
  let b := s.tb n
  if b.portState = old.portState ∧ b.locked = old.locked then s
  else
    let worse := (old.portState == 9 && b.portState != 9) || (old.locked && !b.locked)
    s.raise 0x12 4 (if worse then 2 else 1) b.gm.toNat
      (packNat [at' 47 40 n, at' 39 32 b.portState, at' 31 24 old.portState, at' 23 16 (b2n b.locked)])

/-- A new port state; a base that is no more SLAVE loses LOCKED and stays in holdover while it runs. -/
def TimeBase.toPort (b : TimeBase) (st : Nat) : TimeBase :=
  if st = 9 then { b with portState := st, holdover := false }
  else { b with portState := st, locked := false, within := 0, holdover := b.running && (b.holdover || b.portState == 9) && st != 6 }

/-- A role admits a port state: no MASTER in slave-only, no SLAVE in master-only. (PRESUMED, unsafe: log entry 63.) -/
def roleAdmits (role st : Nat) : Bool := !((role == 0 && st == 6) || (role == 1 && (st == 9 || st == 8)))

/-- `time.tbN.ptp` has changed: PTP off clears the port state, PTP on listens, and so does a port in a state that its new role
does not admit. -/
def State.ptpParams (s : State) (n : Nat) : State :=
  let old := s.tb n
  let on := bits (s.ptpCfg n) 31 24 != 0
  let s := s.modTb n (fun b =>
    if !on then { b.toPort 0 with gm := 0 }
    else if b.portState = 0 ∨ roleAdmits (bits (s.ptpCfg n) 7 0) b.portState = false then b.toPort 4 else b)
  s.ptpReport n old

/-- LOCKED after a measured offset: 16 within 1 µs set it, one outside 10 µs clears it. -/
def TimeBase.measure (b : TimeBase) (ofs : Int) : TimeBase :=
  let w := if ofs.natAbs ≤ 1000 then Nat.min 16 (b.within + 1) else 0
  { b with offset := ofs, within := w, locked := if 10000 < ofs.natAbs then false else b.locked || w == 16 }

/-- A measurement against the master's time in ns: first synchronisation, step, or a new rate within `time.slew_ppm`.
(PRESUMED, unsafe: log entry 63.) -/
def State.ptpMeasure (s : State) (n m : Nat) : State :=
  let b := s.tb n
  if !b.running then s.modTb n (fun b => ({ b with running := true, v := m * 65536 } : TimeBase).measure 0)
  else
    let ofs : Int := ((b.v / 65536 : Nat) : Int) - (m : Int)
    if s.pget (0x12000030 + n) = 1 ∧ s.pget (0x12000040 + n) < ofs.natAbs then
      (s.stepTb n m).modTb n (fun b => { b.measure ofs with offset := 0 })
    else
      let ran := s.takeFree (s.pget 0x12000050 * 1000 + 1)
      let s := ran.1
      let f := ran.2
      s.modTb n (fun b => { b.measure ofs with rate := if ofs = 0 then 0 else if 0 < ofs then -(f : Int) else (f : Int) })

/-- A received PTP message (R391). (PRESUMED, unsafe: log entry 63.) -/
def execPtpMessage (base : Nat) (r : PtpRx) (s : State) : Host.Outcome State Fault Refusal :=
  .next (
    if !s.ptpOn base then s
    else
      let cfg := s.ptpCfg base
      let old := s.tb base
      let s := s.modTime (fun t => { t with ports := updAt t.ports (bits cfg 15 8) (fun x => { x with
        rxFrames := x.rxFrames + 1, txFrames := x.txFrames + (if r.answer.isSome then 1 else 0) }) })
      let s := if roleAdmits (bits cfg 7 0) r.portState then s.modTb base (fun b => { b.toPort r.portState with gm := r.gm }) else s
      let s := match r.master with
        | some m => if (s.tb base).portState = 9 then s.ptpMeasure base m else s
        | none => s
      let s := s.ptpReport base old
      match r.answer with
      | some fs => s.emit (.ether (bits cfg 15 8) 0 fs)
      | none => s)

/-- A transmit timestamp enters its port's queue (R399). -/
def State.pushTs (s : State) (p : Nat) (e : TsEntry) : State :=
  let q := s.time.tsq.getD p {}
  if q.entries.length < 32 then
    let s := s.modTime (fun t => { t with tsq := updAt t.tsq p (fun q => { q with entries := q.entries ++ [e] }) })
    if q.entries.isEmpty then s.setPend (19 + p) else s
  else
    let s := s.modTime (fun t => { t with tsq := updAt t.tsq p (fun q => { q with drops := q.drops + 1, overflow := true }) })
    if q.overflow then s else s.raise 0x12 7 2 (packNat [at' 63 56 p, at' 31 0 (q.drops + 1).toNat]) 0

/-- A message interval in ns, from the signed log₂ of its seconds. -/
def log2Ns (v : Nat) : Nat :=
  let k := sgn 8 v
  if k < 0 then 1000000000 / 2 ^ k.natAbs else 1000000000 * 2 ^ k.natAbs

/-- TB0 goes on to the message interval of `time.tbN.intervals` since the last Sync, or since the last Delay_Req to a free moment
within twice its interval, which is a mean (IEEE 1588). (PRESUMED, unsafe: log entry 63.) -/
def State.ptpWait (s : State) (n type : Nat) : State :=
  let iv := s.pget (0x12000020 + n)
  if type = 0 then
    match (s.tb n).lastSync with
    | some t => s.advanceTo (t + log2Ns (bits iv 15 8))
    | none => s
  else
    match (s.tb n).lastReq with
    | some t =>
      let ran := s.takeFree (2 * log2Ns (bits iv 7 0) + 1)
      ran.1.advanceTo (t + ran.2)
    | none => s

/-- The timestamp of an event message in its base: within ±8 ns of the moment, by a free value (R392). -/
def State.ptpStamp (s : State) (n : Nat) : State × Latch :=
  let ran := s.takeFree 17
  let v := ((s.baseV n).getD 0 + ran.2 * 65536) - 8 * 65536
  let ns := v / 65536
  (ran.1, { sec := ns / 1000000000 % 2 ^ 48, epoch := s.epochOf n, ns := ns % 1000000000, frac := v % 65536 })

/-- The moment of a Sync or a Delay_Req is kept. -/
def State.ptpMark (s : State) (base type : Nat) : State :=
  s.modTb base (fun b => if type = 0 then { b with lastSync := some s.now } else { b with lastReq := some s.now })

/-- An event message with its timestamp `l` goes out on a port, a Sync's Follow_Up after it, and the timestamp is queued. -/
def State.ptpOut (s : State) (base type seq : Nat) (l : Latch) : State :=
  let p := bits (s.ptpCfg base) 15 8
  let dom := bits (s.ptpCfg base) 23 16
  let follow : List Out := if type = 0 then [.ether p 0 [8, base, dom, seq, l.sec, l.ns, l.frac]] else []
  let s := s.emits (.ether p 0 [type, base, dom, seq] :: follow)
  let s := s.modTime (fun t => { t with ports := updAt t.ports p (fun x => { x with txFrames := x.txFrames + (if type = 0 then 2 else 1) }) })
  s.pushTs p { domain := dom, type := type, base := base, seqId := seq % 65536, sec := l.sec, epoch := l.epoch, ns := l.ns }

/-- A PTP event message is sent at its message interval, 0 Sync or 1 Delay_Req, and its transmit timestamp queued (R391,
R399); a Sync is followed by its Follow_Up. -/
def execPtpSend (base type seq : Nat) (s : State) : Host.Outcome State Fault Refusal :=
  .next (
    let st := (s.tb base).portState
    if !s.ptpOn base || !((type == 0 && st == 6) || (type == 1 && (st == 9 || st == 8))) then s
    else
      let ran := ((s.ptpWait base type).ptpMark base type).ptpStamp base
      ran.1.ptpOut base type seq ran.2)

/-- Announce messages stop arriving: LOCKED is lost, the base enters holdover; a port that may be master becomes one.
(PRESUMED, unsafe: log entry 63.) -/
def execAnnounceReceiptTimeout (base gm : Nat) (s : State) : Host.Outcome State Fault Refusal :=
  .next (
    let old := s.tb base
    if !s.ptpOn base || old.portState == 6 then s
    else
      let master := bits (s.ptpCfg base) 7 0 != 0
      let s := s.modTb base (fun b =>
        let b := b.toPort 4
        if master then { b with portState := 6, gm := BitVec.ofNat 64 gm } else b)
      s.ptpReport base old)

end Sys2Proof.Machine
end

