-- ==== Sys2Proof/Machine/NetRows.lean ====
section
/-! DEFINITION. Ethernet ports, flows and QSS over UDP: commands and events (spec/16, sections 16.7 to 16.9). -/

namespace Sys2Proof.Machine

open Sys2Proof

/-! ### Ports (R400) -/

/-- A port's link goes up or down; it cannot be up while its mode is 0 or its domain is off. -/
def execNetLinkChange (port : Nat) (up : Bool) (s : State) : Host.Outcome State Fault Refusal :=
  .next (
    if 4 ≤ port ∨ (up = true ∧ (s.netP port 0 = 0 ∨ (s.domain 45).st ≠ 2)) then s else s.netLink port up)

/-- `net.p.mode` or `net.p.fec` has changed: the port retrains, so its link is down meanwhile. -/
def State.netRetrain (s : State) (p : Nat) : State := (s.netLink p false).powerSync

def netStatusBody (c : Cmd) (s : State) : Ran :=
  if !c.okBits 1 0x103 then refuse s stBadArg
  else
    let p := c.f 1 1 0
    let x := s.netPort p
    let ws := [
      packW [at' 127 120 (b2n x.up), at' 119 112 (s.netP p 0), at' 111 104 (s.netP p 1), at' 95 64 x.rxFrames.toNat,
        at' 63 32 x.rxErrors.toNat, at' 31 0 x.txFrames.toNat],
      packW [at' 127 96 x.rxDropped.toNat, at' 95 64 x.txDropped.toNat, at' 63 32 x.fecCorr.toNat, at' 31 0 x.fecUncorr.toNat],
      packW [at' 47 0 (s.time.mac + p)]]
    answer (if c.f 1 8 8 = 1 then s.modNet p (fun x => { x with
      rxFrames := 0, rxErrors := 0, txFrames := 0, rxDropped := 0, txDropped := 0, fecCorr := 0, fecUncorr := 0 }) else s) ws

/-- NET_STATUS (section 16.9). -/
def execNetStatus (c : Cmd) (s : State) : Host.Outcome State Fault Refusal :=
  .next (hostCmd (.netStatus c) { op := 0x1201 } netStatusBody c s)

/-- An ICMP echo request or an ARP request is answered. (DEDUCED, unsafe: log entry 64.) -/
def execIcmpEcho (port : Nat) (arp : Bool) (s : State) : Host.Outcome State Fault Refusal :=
  .next (
    if !(s.netPort port).up then s.modNet port (fun x => { x with rxDropped := x.rxDropped + 1 })
    else
      (s.modNet port (fun x => { x with rxFrames := x.rxFrames + 1, txFrames := x.txFrames + 1 })).emit
        (.ether port (if arp then 2 else 1) [s.netP port 4 / 2 ^ 32]))

/-! ### Flows (R401, R405, R407) -/

/-- A multicast group. -/
def multicast (ip : Nat) : Bool := bits ip 31 28 == 0xE

/-- The fields of NET_FLOW for receive and transmit (Table 16.20). -/
def flowArgsOk (c : Cmd) : Bool :=
  let rx := c.f 1 119 112 == 1
  let um := c.f 2 31 0
  c.okBits 2 (mask 31 0) && c.f 1 47 32 != 0 && decide (c.f 1 111 104 ≤ 3) &&
  (if rx then c.f 1 103 96 == 0 && c.f 1 63 48 == 0 && (c.f 1 31 0 == 0 || multicast (c.f 1 31 0))
      && decide (65536 ≤ um ∧ um ≤ 33554448) && um % 16 == 0
   else decide (c.f 1 103 96 ≤ 63) && c.f 1 95 64 != 0 && c.f 1 63 48 != 0 && c.f 1 31 0 == 0 && um == 0)

/-- An enabled encoder stream sends on a flow. -/
def State.flowEncodes (s : State) (n : Nat) : Bool :=
  [0, 1].any (fun k => s.encP k 1 == 1 && s.encP k 10 == 1 && s.encP k 11 == n)

/-- A receive flow takes its buffer and joins its multicast group. -/
def State.bindRx (s : State) (f : Flow) (ps : List Basket) : State :=
  let s := s.reserve ps
  let s := s.modTime (fun t => { t with flows := t.flows ++ [f] })
  if f.group = 0 then s
  else (s.modNet f.port (fun x => { x with groups := (f.group, f.remoteIp) :: x.groups })).emit (.ether f.port 3 [1, f.group, f.remoteIp])

/-- R407. -/
def netFlowBody (c : Cmd) (s : State) : Ran :=
  let n := c.f 1 127 120
  let op := c.f 1 119 112
  let port := c.f 1 111 104
  let lport := c.f 1 47 32
  let group := c.f 1 31 0
  let rip := c.f 1 95 64
  let scene := s.ingest.scenes.find? (fun x => x.obj == c.object.toNat)
  let bound := s.time.flows.any (fun f => f.port == port && f.localPort == lport)
  let f : Flow := { n := n, op := op, port := port, dscp := c.f 1 103 96, remoteIp := rip, remotePort := c.f 1 63 48
                    localPort := lport, group := group, unitMax := c.f 2 31 0, scene := c.object.toNat }
  if 15 < n ∨ 2 < op then refuse s stBadArg
  else if op ≠ 1 ∧ c.object.toNat ≠ 0 then refuse s stBadObject
  else if op = 0 ∧ c.okBits 2 (mask 31 0) = false then refuse s stBadArg
  else if op = 0 then (if s.flowEncodes n then refuse s stBusy else answer (s.clearFlow n) [])
  else if op = 2 then
    if !flowArgsOk c then refuse s stBadArg
    else if (s.flow? n).isSome then refuse s stBusy
    else if bound then refuse s stBadArg
    else answer (s.modTime (fun t => { t with flows := t.flows ++ [f] })) []
  else
    match scene with
    | none => refuse s stBadObject
    | some x =>
      let ps := flowPlan n (4 * c.f 2 31 0)
      if !flowArgsOk c || x.source != 1 || s.time.flows.any (fun f => f.op == 1 && f.scene == x.obj) then refuse s stBadArg
      else if (s.flow? n).isSome then refuse s stBusy
      else if bound then refuse s stBadArg
      else if s.freeBaskets < planNeed ps then refuse s stNoSpace
      else
        answer (s.bindRx f ps) []

/-- NET_FLOW (R407). -/
def execNetFlow (c : Cmd) (s : State) : Host.Outcome State Fault Refusal :=
  .next (hostCmd (.netFlow c) { op := 0x1202, obj := none } netFlowBody c s)

/-! ### Reports at a frame (R405) -/

/-- A frame has begun: losses gathered since are reported (R405). -/
def State.netFrame (s : State) : State :=
  let s := s.modTime (fun t => { t with flows := t.flows.map (fun f => { f with raised := false }) })
  (s.time.flows.map (·.n)).foldl State.netLoss s

/-! ### Reassembly (R402 to R404) -/

/-- A unit holds every byte from 0 to its end. -/
def NetUnit.complete (u : NetUnit) : Bool :=
  match u.endAt with
  | none => false
  | some e => sumN ((u.frags.filter (fun g => decide (g.off + g.len ≤ e))).map (·.len)) == e

def Flow.unit? (f : Flow) (u : Nat) : Option NetUnit := f.units.find? (fun x => x.num == u)

def Flow.dropUnit (f : Flow) (u : Nat) : Flow := { f with units := f.units.filter (fun x => x.num != u) }

/-- A unit goes to ingest as a carrier of its scene (R402). -/
def State.deliverUnit (s : State) (scene len : Nat) : State :=
  { s with ingest := { s.ingest with scenes := s.ingest.scenes.map (fun x =>
      if x.obj == scene && x.state == 0 then { x with carriers := x.carriers ++ [{ len := len }] } else x) } }

/-- The next unit leaves: delivered if complete, abandoned otherwise unless it was abandoned before. -/
def State.passUnit (s : State) (f : Flow) (cause : Nat) : State × Flow :=
  let n := f.next.getD 0
  let on := { f.dropUnit n with next := some ((n + 1) % 2 ^ 32) }
  match f.unit? n with
  | some u =>
    if u.gone then (s, on)
    else if u.complete then (s.deliverUnit f.scene (u.endAt.getD 0), on)
    else (s, on.abandon n cause)
  | none => (s, on.abandon n cause)

/-- Pass k units. -/
def State.passUnits (s : State) (f : Flow) (cause : Nat) : Nat → State × Flow
  | 0 => (s, f)
  | k + 1 =>
    let ran := s.passUnit f cause
    let s := ran.1
    let f := ran.2
    s.passUnits f cause k

/-- Deliver complete units, and step over abandoned ones, from the next unit on; at most k. -/
def State.drainUnits (s : State) (f : Flow) : Nat → State × Flow
  | 0 => (s, f)
  | k + 1 =>
    match f.next with
    | none => (s, f)
    | some n =>
      match f.unit? n with
      | some u =>
        if u.gone || u.complete then
          let ran := s.passUnit f 1
          let s := ran.1
          let f := ran.2
          s.drainUnits f k
        else (s, f)
      | none => (s, f)

/-- Two runs of bytes share a byte. -/
def Frag.meets (a b : Frag) : Bool := decide (a.off < b.off + b.len ∧ b.off < a.off + a.len)

/-- The runs of missing DSEQ without d, each one datagram later (R405). -/
def missAfter (d : Nat) : List MissingSeq → List MissingSeq
  | [] => []
  | m :: ms =>
    let k := wsub 32 d m.dseq
    let rest := missAfter d ms
    if k < m.n then
      let lo : MissingSeq := { m with n := k, later := m.later + 1 }
      let hi : MissingSeq := { dseq := (d + 1) % 2 ^ 32, n := m.n - k - 1, later := m.later + 1 }
      ([lo, hi].filter (fun x => x.n != 0)) ++ rest
    else { m with later := m.later + 1 } :: rest

/-- A new run of k missing values from e on. -/
def newMiss (e k : Nat) : List MissingSeq := if k = 0 then [] else [{ dseq := e, n := k, later := 1 }]

/-- DSEQ of a datagram is taken (R405). -/
def Flow.takeSeq (f : Flow) (d : Nat) : Flow :=
  let f := { f with missing := missAfter d f.missing }
  let f := match f.dseq with
    | none => { f with dseq := some ((d + 1) % 2 ^ 32) }
    | some e =>
      let k := wsub 32 d e
      if k < 2 ^ 31 then
        { f with dseq := some ((d + 1) % 2 ^ 32), missing := f.missing ++ newMiss e k }
      else f
  { f with lost := f.lost + sumN ((f.missing.filter (fun (m : MissingSeq) => decide (64 ≤ m.later))).map (fun (m : MissingSeq) => m.n))
           missing := f.missing.filter (fun (m : MissingSeq) => decide (m.later < 64)) }

/-- A fragment of unit u enters its rebuild; a fragment that repeats bytes is discarded (R403). -/
def Flow.addFrag (f : Flow) (now u : Nat) (g : Frag) (last : Bool) : Flow :=
  let f := if (f.unit? u).isSome then f else { f with units := f.units ++ [{ num := u, t0 := now }] }
  { f with units := f.units.map (fun x =>
      if x.num != u || x.frags.any g.meets then x
      else { x with frags := x.frags ++ [g], endAt := if last && x.endAt.isNone then some (g.off + g.len) else x.endAt }) }

/-- A datagram is malformed for its flow (R403). -/
def Flow.malformed_ (f : Flow) (d : Udp) : Bool :=
  let h := d.header
  let len := d.len - 16
  let off := bits h 31 0
  decide (d.len ≤ 16) || bits h 127 120 != 1 || bits h 119 113 != 0 || bits h 111 96 != 0 || len % 16 != 0 || off % 16 != 0
    || decide (f.unitMax < off + len)
    || (match f.unit? (bits h 63 32) with
        | some u => (match u.endAt with | some e => decide (e < off + len) | none => false)
        | none => false)

/-- A datagram of a flow (R403 to R405). -/
def State.flowDatagram (s : State) (f : Flow) (d : Udp) : State :=
  let put (s : State) (g : Flow) : State := s.modFlow f.n (fun _ => g)
  if f.malformed_ d then put s { f with malformed := f.malformed + 1 }
  else
    let h := d.header
    let u := bits h 63 32
    let f := f.takeSeq (bits h 95 64)
    let n := f.next.getD u
    let f := { f with next := some n }
    let k := sdiff 32 u n
    let gone := match f.unit? u with | some x => x.gone | none => false
    if (-1023 ≤ k ∧ k < 0) ∨ gone = true then put s { f with late := f.late + 1 }
    else
      let ran :=
        if 1024 ≤ k.natAbs then
          let live := f.units.filter (fun x => !x.gone)
          let f := live.foldl (fun (f : Flow) x => f.abandon x.num 3) f
          (s, { f with units := [], next := some u, cause := if f.cause = 0 then 3 else f.cause
                       firstAbandoned := if f.abandoned = 0 then n else f.firstAbandoned })
        else if 4 ≤ k then s.passUnits f 2 (k - 3).toNat
        else (s, f)
      let s := ran.1
      let f := ran.2
      let f := f.addFrag s.now u { off := bits h 31 0, len := d.len - 16 } (bit h 112)
      let ran := s.drainUnits f 4
      let s := ran.1
      let f := ran.2
      (put s f).netLoss f.n

/-- A flow takes a datagram (R401). (DEDUCED, unsafe: log entry 64.) -/
def State.flowTakes (s : State) (port : Nat) (d : Udp) (f : Flow) : Bool :=
  f.op == 1 && f.port == port && d.dport == f.localPort
    && (d.dst == s.netP port 4 / 2 ^ 32 || (f.group != 0 && d.dst == f.group))
    && (f.remoteIp == 0 || d.src == f.remoteIp)

/-- A received datagram (R400, R401, R404). (DEDUCED, unsafe: log entry 64.) -/
def execUdpDatagram (port : Nat) (d : Udp) (s : State) : Host.Outcome State Fault Refusal :=
  .next (
    if !(s.netPort port).up || !d.room || d.frag || d.vid != bits (s.netP port 3) 11 0 then s.modNet port (fun x => { x with rxDropped := x.rxDropped + 1 })
    else
      let s := s.modNet port (fun x => { x with rxFrames := x.rxFrames + 1 })
      match s.time.flows.find? (s.flowTakes port d) with
      | none => s.modNet port (fun x => { x with rxDropped := x.rxDropped + 1 })
      | some f => s.flowDatagram f d)

/-- An incomplete unit is abandoned `net.reasm_ms` after its first datagram (R404). -/
def execReassemblyTimeout (flow unit_ : Nat) (s : State) : Host.Outcome State Fault Refusal :=
  .next (
    match s.flow? flow with
    | none => s
    | some f =>
      match f.unit? unit_ with
      | none => s
      | some u =>
        if u.gone || u.complete then s
        else
          let s := s.advanceTo (u.t0 + s.pget 0x12000055 * 1000000)
          let f := f.abandon unit_ 1
          let f := { f with units := f.units.map (fun x => if x.num == unit_ then { x with gone := true, frags := [] } else x) }
          let ran := s.drainUnits f 4
          let s := ran.1
          let f := ran.2
          (s.modFlow flow (fun _ => f)).netLoss flow)

end Sys2Proof.Machine
end

