-- ==== Sys2Proof/Machine/EncRows.lean ====
section
/-! DEFINITION. Return encoding and monitor output: commands and events (spec/14), the start of a monitor frame apart. -/

namespace Sys2Proof.Machine

open Sys2Proof

/-! ### Disabling and changes (R350, R357, R359) -/

/-- `enc.n.enable` goes to 0. -/
def State.encDisable (s : State) (n : Nat) : State :=
  let s := s.encDropRunning n 4
  let s := s.modEnc n (fun e => { e with state := 0, team := 0, level := 0 })
  s.unreserve (fun b => b.item == 15 + n)

/-- Parameters of a running stream changed (Table 14.3): an IDR where a code other than BITRATE, SLICE_MAX_BYTES and
IDR_PERIOD did; a new SIZE takes new buffers. -/
def State.encChanged (s : State) (n : Nat) (size other : Bool) : State :=
  let s := s.modEnc n (fun e => { e with
    idrNext := e.idrNext || size || other, team := encTeam (s.encW n) (s.encH n) s.modeFps (s.encP n 5) })
  if size then s.encAllot n else s

/-! ### Pictures (R354 to R358) -/

/-- The budget Bp of a picture in whole bytes: BITRATE × RATE_DIV / F bits (section 14.3). -/
def State.encBudget (s : State) (n : Nat) : Nat := s.encP n 6 * 1000 * s.encP n 5 / s.modeFps / 8

/-- A picture of the panel frame in progress as it starts to code, with the parameters in force (R354, R355). -/
def State.newCoding (s : State) (n : Nat) (idr : Bool) : Coding :=
  let codec := s.encP n 2
  { frame := s.tim.frame, idr := idr, tf := s.tim.curTf, slices := s.encSlices n, rows := s.encP n 7
    ctuRows := ctuRows codec (s.encH n), ctuCols := ceilDiv (s.encW n) (ctuSize codec)
    maxBytes := s.encP n 8, budget := s.encBudget n, qpMax := if codec = 2 then 63 else 51 }

/-- A picture starts to code; an IDR is preceded by PARAMS, and goes as a whole where PARAMS finds no room.
(DEDUCED, unsafe: log entry 65.) -/
def State.encBegin (s : State) (n : Nat) (params : List Byte) : State :=
  let e := s.encS n
  let per := s.encP n 9
  let idr := e.idrNext || (per != 0 && decide (per ≤ e.sinceIdr))
  let tf := s.tim.curTf
  let c := s.newCoding n idr
  let s := s.modEnc n (fun e => { e with
    coding := some c, idrNext := false, sinceIdr := if idr then 1 else e.sinceIdr + 1, phase := s.encP n 5
    level := if idr then s.encLevel n else e.level })
  if !idr then s
  else
    let ran := s.encRecord n 1 0 s.tim.frame.toNat tf 1 0 48 params
    let s := ran.1
    let ok := ran.2
    if ok then s
    else s.encPictureEnd n { c with dropped := c.slices, cause := if s.encP n 10 = 1 then 2 else 1 }

/-- The domains of the cores that serve a stream are ON (Table 17.1). -/
def State.encPowered (s : State) (n : Nat) : Bool :=
  [24, 25].all (fun d => !(d == 24 + n || (s.encS n).team == 2) || (s.domain d).st == 2)

/-- A stream's picture falls due (R356). -/
def execEncPictureDue (n : Nat) (params : List Byte) (s : State) : Host.Outcome State Fault Refusal :=
  .next (
    let e := s.encS n
    if e.state ≠ 1 ∨ e.phase ≠ 0 ∨ s.tim.begun = false ∨ s.encPowered n = false then s
    else if e.coding.isSome then
      let k := e.skippedSince + 1
      (s.modEnc n (fun e => { e with skipped := e.skipped + 1, skippedSince := k, phase := s.encP n 5 })).encEvent 3 2
        (packNat [at' 63 56 n, at' 31 0 k])
    else s.encBegin n params)

/-- What R355 lets the next slice of a picture be: neither budget exceeded, every CTU in its fallback form once the reserve of
Bp has been met. `bp`: this slice meets it. -/
def Coding.admits (c : Coding) (bytes qp fallback : Nat) (bp : Bool) : Bool :=
  let m := c.ctus c.next
  decide (bytes ≤ c.maxBytes ∧ c.coded + bytes ≤ c.budget ∧ qp ≤ c.qpMax ∧ fallback ≤ m) && (!c.rest || fallback == m) &&
    (!bp || decide (0 < fallback))

/-- The next slice of the picture is coded and emitted, the slices before it being coded (R354): it is written as a record, or
dropped (R358); the last one ends the picture. A slice that R355 does not admit cannot come about.
(DESIGN CHOICE, safe: log entry 17.) -/
def execEncSliceComplete (n : Nat) (data : List Byte) (qp fallback : Nat) (bp : Bool) (s : State) : Host.Outcome State Fault Refusal :=
  .next (
    match (s.encS n).coding with
    | none => s
    | some c =>
      let last := decide (c.slices ≤ c.next + 1)
      if !c.admits data.length qp fallback bp then s
      else
        let ran :=
          if 0 < c.dropped then (s, false)
          else s.encRecord n 2 c.next c.frame.toNat c.tf (b2n c.idr + 2 * b2n last) qp 48 data
        let s := ran.1
        let ok := ran.2
        let c := { c with
          next := c.next + 1
          bytes := if ok then c.bytes + data.length else c.bytes
          coded := c.coded + data.length
          rest := c.rest || bp
          fallback := c.fallback + fallback
          qpSum := c.qpSum + qp * c.ctus c.next
          exhausted := c.exhausted || decide (0 < fallback)
          dropped := if ok then 0 else c.dropped + 1
          cause := if ok ∨ 0 < c.dropped then c.cause else if s.encP n 10 = 1 then 2 else 1 }
        if last then s.encPictureEnd n c else s.modEnc n (fun e => { e with coding := some c }))

/-- A panel frame begins: RATE_DIV counts. (DESIGN CHOICE, safe: log entry 17.) -/
def State.encFrame (s : State) : State :=
  { s with enc := { s.enc with streams := s.enc.streams.map (fun e => { e with phase := e.phase - 1 }) } }

/-! ### Encoder commands (Table 14.4) -/

def encRingBody (c : Cmd) (s : State) : Ran :=
  let n := c.f 1 127 120
  let l := c.f 1 119 112
  if !c.okBits 1 (mask 127 112 + mask 63 0) || decide (1 < n ∨ l < 20 ∨ 28 < l) || c.f 1 11 0 != 0 then refuse s stBadArg
  else if s.encP n 1 = 1 then refuse s stBusy
  else answer (s.modEnc n (fun e => { e with ring := some (c.f 1 63 0, l), tail := 0, head := 0, starts := [] })) []

/-- ENC_RING. -/
def execEncRing (c : Cmd) (s : State) : Host.Outcome State Fault Refusal :=
  .next (hostCmd (.encRing c) { op := 0x0E01 } encRingBody c s)

def encReleaseBody (c : Cmd) (s : State) : Ran :=
  let n := c.f 1 127 120
  let h := c.f 1 31 0
  let e := s.encS n
  if !c.okBits 1 (mask 127 120 + mask 31 0) || decide (1 < n) || !(h == e.tail || h == e.head || e.starts.contains h) then refuse s stBadArg
  else
    let live := e.starts.filter (fun x => decide (wsub 32 h e.head ≤ wsub 32 x e.head))
    answer (s.modEnc n (fun e => { e with head := h, starts := live })) [packW [at' 63 32 e.tail, at' 31 0 h]]

/-- ENC_RELEASE. -/
def execEncRelease (c : Cmd) (s : State) : Host.Outcome State Fault Refusal :=
  .next (hostCmd (.encRelease c) { op := 0x0E02 } encReleaseBody c s)

def encIdrBody (c : Cmd) (s : State) : Ran :=
  let n := c.f 1 127 120
  if !c.okBits 1 (mask 127 120) || decide (1 < n) then refuse s stBadArg
  else answer (s.modEnc n (fun e => { e with idrNext := true })) []

/-- ENC_IDR. -/
def execEncIdr (c : Cmd) (s : State) : Host.Outcome State Fault Refusal :=
  .next (hostCmd (.encIdr c) { op := 0x0E03 } encIdrBody c s)

def encWord (e : EncStream) : Word :=
  packW [at' 127 120 e.state, at' 119 112 e.team, at' 111 104 e.level, at' 95 64 e.pictures.toNat, at' 63 32 e.exhausted.toNat,
    at' 31 16 e.skipped.toNat, at' 15 0 e.dropped.toNat]

/-- ENC_STATUS. -/
def execEncStatus (c : Cmd) (s : State) : Host.Outcome State Fault Refusal :=
  .next (hostCmd (.encStatus c) { op := 0x0E04 } (fun _ s => answer s [encWord (s.encS 0), encWord (s.encS 1)]) c s)

/-! ### Monitor link (R360 to R362) -/

/-- Rate of a code of `mon.link` in Mbit/s. -/
def monRate (code : Nat) : Nat := if code = 0 then 10000 else if code = 1 then 13500 else 20000

/-- R361 for a pixel clock in kHz and bits of a component. -/
def monFits (khz depth code : Nat) : Bool := decide (khz * 3 * depth * 132 * 100 ≤ 4 * monRate code * 1000 * 128 * 97)

/-- MON_HPD rises: the sink's highest rate is read and the link trained. -/
def execMonHpdRise (sinkMax : Nat) (s : State) : Host.Outcome State Fault Refusal :=
  .next (
    let s := s.monIdleNow 1
    (s.modMon (fun m => { m with hpd := true, sinkMax := sinkMax })).monTrain 1)

/-- IRQ_HPD: the link status is read, and a lost link is trained again. -/
def execIrqHpd (lost : Bool) (s : State) : Host.Outcome State Fault Refusal :=
  .next (if lost && s.enc.mon.link == 2 then (s.monIdleNow 2).monTrain 2 else s)

/-- Training ends within 100 ms: up at `mon.link` or at a lower rate that the sink offers and that passes R361, else FAILED.
(DEDUCED, unsafe: log entry 66.) -/
def execMonLinkTrainingEnd (best : Option Nat) (s : State) : Host.Outcome State Fault Refusal :=
  .next (
    if s.enc.mon.link ≠ 1 then s
    else
      let want := s.pget 0x0F000002
      let m := s.enc.mon
      let ok (r : Nat) : Bool := decide (r ≤ m.sinkMax ∧ s.now ≤ m.trainAt + 100000000) && (r == want || (decide (r < want) && monFits (s.pget 0x0B000012) (bits (s.pget 0x08000006) 15 8) r))
      match best with
      | some r =>
        if ok r then (s.modMon (fun m => { m with link := 2, rate := r })).monLink 2 s.enc.mon.cause
        else (s.modMon (fun m => { m with link := 3 })).monLink 3 s.enc.mon.cause
      | none => (s.modMon (fun m => { m with link := 3 })).monLink 3 s.enc.mon.cause)

/-- MON_STATUS. -/
def execMonStatus (c : Cmd) (s : State) : Host.Outcome State Fault Refusal :=
  .next (hostCmd (.monStatus c) { op := 0x0F01 } (fun _ s =>
    let m := s.enc.mon
    answer s [packW [at' 127 120 m.link, at' 119 112 m.rate, at' 111 104 m.sinkMax, at' 103 96 (b2n m.hpd), at' 95 64 m.checked.toNat,
      at' 63 32 m.mismatches.toNat, at' 31 0 m.lastChecked.toNat]]) c s)

def monRetrainBody (_ : Cmd) (s : State) : Ran :=
  if s.tim.monState ≠ 1 then refuse s stBadState
  else
    let s := s.modSaf (fun x => { x with monIdle := false })
    answer ((s.monIdleNow 3).monTrain 3) []

/-- MON_RETRAIN (R362); it ends the MON reaction of Table 18.3. -/
def execMonRetrain (c : Cmd) (s : State) : Host.Outcome State Fault Refusal :=
  .next (hostCmd (.monRetrain c) { op := 0x0F02 } monRetrainBody c s)

end Sys2Proof.Machine
end

