-- ==== Sys2Proof/Machine/InflateMath.lean ====
section
/-! DEFINITION. The decoder of a raw RFC 1951 stream, as INFLATE uses it (spec/09 R230). -/

namespace Sys2Proof.Machine

/-- A place in a byte string: the bytes left, and the bits of the first already taken. -/
structure BitPos where
  bs : List Nat
  n : Nat
  deriving DecidableEq, Repr

/-- The next bit, least significant first. -/
def BitPos.bit (p : BitPos) : Option (Nat × BitPos) :=
  match p.bs with
  | [] => none
  | b :: bs => some ((b >>> p.n) % 2, if p.n = 7 then { bs := bs, n := 0 } else { p with n := p.n + 1 })

/-- A field of k bits, least significant first. -/
def BitPos.take : Nat → BitPos → Option (Nat × BitPos)
  | 0, p => some (0, p)
  | k + 1, p =>
    match p.bit with
    | none => none
    | some (b, p) =>
      match BitPos.take k p with
      | none => none
      | some (v, p) => some (b + 2 * v, p)

/-- The start of the next whole byte. -/
def BitPos.align (p : BitPos) : BitPos := if p.n = 0 then p else { bs := p.bs.drop 1, n := 0 }

/-- Bytes that have been begun. -/
def BitPos.used (total : Nat) (p : BitPos) : Nat := total - p.align.bs.length

/-- A prefix code: how many codes of each length 1 to 15, and the symbols in the order of their codes. -/
structure Prefix where
  counts : List Nat
  syms : List Nat
  deriving DecidableEq, Repr

/-- Symbols of one code length, rising. -/
def symsOf (len : Nat) : List Nat → Nat → List Nat
  | [], _ => []
  | l :: ls, s => if l = len then s :: symsOf len ls (s + 1) else symsOf len ls (s + 1)

/-- Codes left free after the lengths so far; none when a length holds too many. -/
def codeRoom : List Nat → Nat → Option Nat
  | [], r => some r
  | c :: cs, r => if 2 * r < c then none else codeRoom cs (2 * r - c)

/-- The prefix code of a list of code lengths; none where it is over-subscribed, or incomplete with more than one code. -/
def mkPrefix (lens : List Nat) : Option Prefix :=
  let counts := (List.range 15).map (fun i => lens.count (i + 1))
  match codeRoom counts 1 with
  | none => none
  | some r =>
    if r ≠ 0 ∧ 1 < sumN counts then none
    else some { counts := counts, syms := (List.range 15).flatMap (fun i => symsOf (i + 1) lens 0) }

/-- Decode one symbol: code read so far, first code and index of the present length. -/
def decodeSym (syms : List Nat) : List Nat → Nat → Nat → Nat → BitPos → Option (Nat × BitPos)
  | [], _, _, _, _ => none
  | c :: cs, code, first, index, p =>
    match p.bit with
    | none => none
    | some (b, p) =>
      let code := 2 * code + b
      if code < first + c then
        match syms[index + (code - first)]? with
        | none => none
        | some s => some (s, p)
      else decodeSym syms cs code (2 * (first + c)) (index + c) p

def Prefix.sym (x : Prefix) (p : BitPos) : Option (Nat × BitPos) := decodeSym x.syms x.counts 0 0 0 p

/-- Base and extra bits of the length symbols 257 to 285. -/
def lenBase : List (Nat × Nat) :=
  [(3, 0), (4, 0), (5, 0), (6, 0), (7, 0), (8, 0), (9, 0), (10, 0), (11, 1), (13, 1), (15, 1), (17, 1), (19, 2), (23, 2), (27, 2),
   (31, 2), (35, 3), (43, 3), (51, 3), (59, 3), (67, 4), (83, 4), (99, 4), (115, 4), (131, 5), (163, 5), (195, 5), (227, 5), (258, 0)]

/-- Base and extra bits of the distance symbols 0 to 29. -/
def distBase : List (Nat × Nat) :=
  [(1, 0), (2, 0), (3, 0), (4, 0), (5, 1), (7, 1), (9, 2), (13, 2), (17, 3), (25, 3), (33, 4), (49, 4), (65, 5), (97, 5), (129, 6),
   (193, 6), (257, 7), (385, 7), (513, 8), (769, 8), (1025, 9), (1537, 9), (2049, 10), (3073, 10), (4097, 11), (6145, 11),
   (8193, 12), (12289, 12), (16385, 13), (24577, 13)]

/-- Copy n bytes from distance d; the output is held newest first. -/
def copyBack (d : Nat) : Nat → List Nat → List Nat
  | 0, out => out
  | n + 1, out => copyBack d n (out.getD (d - 1) 0 :: out)

/-- The symbols of a compressed block up to its end. -/
def inflateCodes (lit dist : Prefix) : Nat → BitPos → List Nat → Option (BitPos × List Nat)
  | 0, _, _ => none
  | fuel + 1, p, out =>
    match lit.sym p with
    | none => none
    | some (s, p) =>
      if s < 256 then inflateCodes lit dist fuel p (s :: out)
      else if s = 256 then some (p, out)
      else
        match lenBase[s - 257]? with
        | none => none
        | some (lb, le) =>
          match p.take le with
          | none => none
          | some (lx, p) =>
            match dist.sym p with
            | none => none
            | some (ds, p) =>
              match distBase[ds]? with
              | none => none
              | some (db, de) =>
                match p.take de with
                | none => none
                | some (dx, p) =>
                  if out.length < db + dx then none
                  else inflateCodes lit dist fuel p (copyBack (db + dx) (lb + lx) out)

/-- The code lengths of a dynamic block, by the code-length code: lengths so far, newest first. -/
def readLens (x : Prefix) (total : Nat) : Nat → BitPos → List Nat → Option (BitPos × List Nat)
  | 0, _, _ => none
  | fuel + 1, p, acc =>
    if total < acc.length then none
    else if total = acc.length then some (p, acc.reverse)
    else
      match x.sym p with
      | none => none
      | some (s, p) =>
        if s < 16 then readLens x total fuel p (s :: acc)
        else
          let (e, base) := if s = 16 then (2, 3) else if s = 17 then (3, 3) else (7, 11)
          match p.take e with
          | none => none
          | some (v, p) =>
            if s = 16 ∧ acc = [] then none
            else readLens x total fuel p (List.replicate (base + v) (if s = 16 then acc.headD 0 else 0) ++ acc)

/-- The order in which the code lengths of the code-length code stand. -/
def clOrder : List Nat := [16, 17, 18, 0, 8, 7, 9, 6, 10, 5, 11, 4, 12, 3, 13, 2, 14, 1, 15]

/-- n fields of 3 bits. -/
def takeThrees : Nat → BitPos → Option (List Nat × BitPos)
  | 0, p => some ([], p)
  | n + 1, p =>
    match p.take 3 with
    | none => none
    | some (v, p) =>
      match takeThrees n p with
      | none => none
      | some (vs, p) => some (v :: vs, p)

/-- The two prefix codes of a dynamic block. -/
def dynamicCodes (p : BitPos) : Option (Prefix × Prefix × BitPos) :=
  match p.take 14 with
  | none => none
  | some (h, p) =>
    let nl := h % 32 + 257
    let nd := h / 32 % 32 + 1
    let nc := h / 1024 + 4
    match takeThrees nc p with
    | none => none
    | some (cl, p) =>
      let lens := (List.range 19).map (fun s => match findIdx? (· == s) clOrder 0 with | some i => cl.getD i 0 | none => 0)
      match mkPrefix lens with
      | none => none
      | some x =>
        match readLens x (nl + nd) 400 p [] with
        | none => none
        | some (p, ls) =>
          match mkPrefix (ls.take nl), mkPrefix (ls.drop nl) with
          | some a, some b => if 286 < nl ∨ 30 < nd ∨ ls.getD 256 0 = 0 then none else some (a, b, p)
          | _, _ => none

/-- Code lengths of the fixed block. -/
def fixedLens : List Nat := List.replicate 144 8 ++ List.replicate 112 9 ++ List.replicate 24 7 ++ List.replicate 8 8

/-- A stored block. -/
def inflateStored (p : BitPos) (out : List Nat) : Option (BitPos × List Nat) :=
  let bs := p.align.bs
  match bs with
  | a :: b :: c :: d :: rest =>
    let n := a + 256 * b
    if n + (c + 256 * d) ≠ 65535 ∨ rest.length < n then none
    else some ({ bs := rest.drop n, n := 0 }, (rest.take n).reverse ++ out)
  | _ => none

/-- The blocks of a stream; `fixed`: fixed Huffman blocks are taken. -/
def inflateBlocks (fixed : Bool) : Nat → BitPos → List Nat → Option (BitPos × List Nat)
  | 0, _, _ => none
  | fuel + 1, p, out =>
    match p.take 3 with
    | none => none
    | some (h, p) =>
      let r : Option (BitPos × List Nat) :=
        match h / 2 with
        | 0 => inflateStored p out
        | 1 =>
          if !fixed then none
          else
            match mkPrefix fixedLens, mkPrefix (List.replicate 32 5) with
            | some a, some b => inflateCodes a b (8 * p.bs.length + 1) p out
            | _, _ => none
        | 2 =>
          match dynamicCodes p with
          | some (a, b, p) => inflateCodes a b (8 * p.bs.length + 1) p out
          | none => none
        | _ => none
      match r with
      | none => none
      | some (p, out) => if h % 2 = 1 then some (p, out) else inflateBlocks fixed fuel p out

/-- The output of a stream and the bytes that it takes. -/
def inflateBy (fixed : Bool) (bs : List Nat) : Option (List Nat × Nat) :=
  match inflateBlocks fixed (8 * bs.length + 1) { bs := bs, n := 0 } [] with
  | none => none
  | some (p, out) => some (out.reverse, p.used bs.length)

/-- INFLATE: the output and the bytes that the stream takes; none for an invalid stream.
(DESIGN CHOICE, safe: log entry 5.) -/
def inflate (bs : List Nat) : Option (List Nat × Nat) := inflateBy true bs

/-! ### DEFLATE (R230) -/

/-- A stream of stored blocks of at most 65,535 bytes. -/
def storedBlocks : Nat → List Nat → List Nat
  | 0, _ => []
  | fuel + 1, src =>
    let part := src.take 65535
    let rest := src.drop 65535
    let n := part.length
    [b2n rest.isEmpty, n % 256, n / 256, (65535 - n) % 256, (65535 - n) / 256] ++ part ++
      (if rest.isEmpty then [] else storedBlocks fuel rest)

/-- Bytes that DEFLATE may answer with: a whole raw stream of the source, of stored and dynamic blocks. -/
def deflateOk (src out : List Nat) : Bool := inflateBy false out == some (src, out.length)

/-- DEFLATE: a fixed function of the source and the effort level, of which the spec says no more than R230; where the free
choice is no such stream, stored blocks. (DESIGN CHOICE, safe: log entry 5.) -/
def deflate (level : Nat) (src : List Nat) : List Nat :=
  let out := (Config.deflate level src).map (· % 256)
  if deflateOk src out then out else storedBlocks (src.length + 1) src

end Sys2Proof.Machine
end

