-- ==== Sys2Proof/Machine/CmpRows.lean ====
section
/-! DEFINITION. Composition status and compression jobs: commands and events (spec/08, spec/09). -/

namespace Sys2Proof.Machine

open Sys2Proof

def State.modComp (s : State) (f : Comp → Comp) : State := { s with comp := f s.comp }

/-! ### COMP_STATUS -/

def compStatusBody (_ : Cmd) (s : State) : Ran :=
  let tap (t : Nat) : Nat := ((s.comp.taps.getD t {}).frame).getD 0xFFFFFFFF
  answer s
    [packW [at' 127 120 s.comp.visible, at' 119 112 (if s.tim.monState = 1 then s.comp.monVisible else 0xFF),
       at' 111 104 (if s.sagSeen = 0 then s.comp.retVisible else 0xFF)],
     packW [at' 127 96 (tap 0), at' 95 64 (tap 1), at' 63 32 (tap 2), at' 31 0 (tap 3)]]

/-- COMP_STATUS (Table 8.9). -/
def execCompStatus (c : Cmd) (s : State) : Host.Outcome State Fault Refusal :=
  .next (hostCmd (.compStatus c) { op := 0x0801 } compStatusBody c s)

/-! ### What a job computes (R229, R230, R233) -/

/-- The output of a job: bytes, whether it is intact, warnings, block modes. -/
structure CmpOut where
  bytes : List Byte
  ok : Bool := true
  warn : Nat := 0
  modes : List Nat := [0, 0, 0, 0]
  deriving DecidableEq, Repr

/-- Blocks in each mode. -/
def modeCounts (form : Nat) (blks : List Nat) : List Nat :=
  (List.range 4).map (fun m => countP (fun b => blockMode form b == m) blks)

/-- A pixel of a pixel image, its samples clamped to the form's largest code. -/
def imagePx (form w : Nat) (bs : List Byte) (x y : Nat) : Px :=
  let at_ (k : Nat) : Int := ((Nat.min (bytesAt bs (6 * (y * w + x) + 2 * k) 2) (2 ^ formN form - 1) : Nat) : Int)
  { r := at_ 0, g := at_ 1, b := at_ 2 }

/-- Samples of a pixel image above the form's largest code. -/
def clampCount (form : Nat) (bs : List Byte) : Nat :=
  countP (fun i => decide (2 ^ formN form ≤ bytesAt bs (2 * i) 2)) (List.range (bs.length / 2))

/-- BLOCK_ENCODE. -/
def blockEncode (form w h : Nat) (src : List Byte) : CmpOut :=
  let rows := (List.range (h / 2)).map (fun r => (List.range (w / 8)).map (fun b => encodeBlock form (blockPixels (imagePx form w src) r b)))
  { bytes := rows.flatMap (fun bs => bs.flatMap (blockBytes form)) ++ rows.flatMap (fun bs => leBytes 4 (reconCrc form bs))
    warn := clampCount form src
    modes := modeCounts form rows.flatten }

/-- BLOCK_DECODE; a row whose CRC differs makes it invalid. -/
def blockDecode (form w h : Nat) (src : List Byte) : CmpOut :=
  let n := formB form / 8
  let per := w / 8
  let rows := (List.range (h / 2)).map (fun r => (List.range per).map (fun b => bytesAt src ((r * per + b) * n) n))
  let base := per * (h / 2) * n
  let crcs := (List.range (h / 2)).map (fun r => bytesAt src (base + 4 * r) 4)
  let line (blks : List (List Px)) (y : Nat) : List Byte :=
    blks.flatMap (fun px => serialBlock (slice px (8 * y) 8))
  { bytes := rows.flatMap (fun bs =>
      let px := bs.map (decodeBlock form)
      line px 0 ++ line px 1)
    ok := (rows.map (reconCrc form)) == crcs
    modes := modeCounts form rows.flatten }

/-- Bytes as numbers. -/
def asNats (bs : List Byte) : List Nat := bs.map (·.toNat)

/-- Numbers as bytes. -/
def asBytes (ns : List Nat) : List Byte := ns.map (BitVec.ofNat 8)

/-- What the operation of a job makes of its source. (DESIGN CHOICE, safe: log entry 5.) -/
def CmpJob.run (j : CmpJob) (src : List Byte) : CmpOut :=
  match j.op with
  | 1 => blockEncode j.code j.w j.h src
  | 2 => blockDecode j.code j.w j.h src
  | 3 => { bytes := asBytes (deflate j.code (asNats src)) }
  | _ =>
    match inflate (asNats src) with
    | none => { bytes := [], ok := false }
    | some (out, used) => { bytes := asBytes out, warn := src.length - used }

/-! ### The life of a job (R231 to R234) -/

/-- Exact output size of BLOCK_ENCODE and BLOCK_DECODE, 0 for the others. (DESIGN CHOICE, safe: log entry 5.) -/
def cmpExact (op form w h : Nat) : Nat :=
  if op = 1 then blockImageSize w h form else if op = 2 then w * h * 6 else 0

/-- Table 9.7. -/
def cmpArgsOk (c : Cmd) : Bool :=
  let op := c.f 1 127 120
  let code := c.f 1 119 112
  let fl := c.f 1 111 104
  let src := c.f 2 63 0
  let dst := c.f 3 63 0
  let sl := c.f 4 127 96
  let dl := c.f 4 95 64
  let w := c.f 4 63 48
  let h := c.f 4 47 32
  c.okBits 1 (mask 127 104 + mask 63 0) && c.okBits 2 (mask 63 0) && c.okBits 3 (mask 63 0) && c.okBits 4 (mask 127 32)
    && decide (1 ≤ op ∧ op ≤ 4 ∧ fl ≤ 3 ∧ 1 ≤ sl ∧ sl ≤ 268435456 ∧ 16 ≤ dl ∧ dl ≤ 268435456)
    && (bit fl 0 || c.f 1 63 32 == 0) && (bit fl 1 || c.f 1 31 0 == 0)
    && src % 16 == 0 && dst % 16 == 0 && decide (src + sl ≤ dst ∨ dst + dl ≤ src)
    && (if op ≤ 2 then
          decide (code ≤ 1 ∧ 8 ≤ w ∧ w ≤ 16384 ∧ 2 ≤ h ∧ h ≤ 16384) && w % 8 == 0 && h % 2 == 0
            && sl == (if op = 1 then w * h * 6 else blockImageSize w h code)
        else w == 0 && h == 0 && (if op = 3 then decide (1 ≤ code ∧ code ≤ 3) else code == 0))

/-- CMP_JOB before acceptance, in the order of Table 9.5. -/
def cmpJobBody (c : Cmd) (s : State) : Ran :=
  if !cmpArgsOk c then refuse s stBadArg
  else
    let op := c.f 1 127 120
    let dl := c.f 4 95 64
    let ps := plan 0 (ceilDiv dl basketBytes) 2 0 0 0
    if dl < cmpExact op (c.f 1 119 112) (c.f 4 63 48) (c.f 4 47 32) ∨ s.freeBaskets < planNeed ps then refuse s stNoSpace
    else if 2 ≤ s.sagSeen ∨ (s.domain 28).failed = true then refuse s stNoResource
    else
      let id := s.nextId 8
      let s := s.addObj { id := id, cls := 8, size := dl, data := [], creating := false } ps
      let j : CmpJob := { obj := id, op := op, code := c.f 1 119 112, checkSrc := bit (c.f 1 111 104) 0, checkDst := bit (c.f 1 111 104) 1
                          srcCrc := c.f 1 63 32, dstCrc := c.f 1 31 0, src := c.f 2 63 0, dst := c.f 3 63 0, srcLen := c.f 4 127 96
                          dstLen := dl, w := c.f 4 63 48, h := c.f 4 47 32 }
      let s := (s.modComp (fun x => { x with jobs := x.jobs ++ [j], jobAt := if x.jobs.isEmpty then s.now else x.jobAt })).powerSync
      { s := s, a := { status := stAccepted, object := some id, job := some (.cmpJob id) } }

/-- CMP_JOB (R231); a ninth waits in its ring. -/
def execCmpJob (c : Cmd) (s : State) : Host.Outcome State Fault Refusal :=
  .next (hostCmd (.cmpJob c) { op := 0x0901 } cmpJobBody c s)

/-- A job commits or fails, and PD28 follows. -/
def State.closeCmpJob (s : State) (j : CmpJob) (status : Nat) (payload : List Word) : State := (s.endCmpJob j status payload).powerSync

/-- The time before which a phase of the running job cannot have moved n bytes under `cmp.job_cap_gbps`, averaged over any 1 ms
(R234). (DESIGN CHOICE, unsafe: log entry 74.) -/
def State.jobPaced (s : State) (n : Nat) : State :=
  s.advanceTo (s.comp.jobAt + (ceilDiv n (s.pget 0x09000002 * 1000000) - 1) * 1000000)

/-- The oldest job has its whole output in staging; the checks of R233. -/
def execCmpJobOutputComplete (src : List Byte) (s : State) : Host.Outcome State Fault Refusal :=
  .next (
    match s.comp.jobs with
    | [] => s
    | j :: js =>
      if j.out.isSome || 2 ≤ s.sagSeen || (s.domain 28).st != 2 then s
      else
        let src := padTo (0 : Byte) j.srcLen src
        let got := crc32c src
        let r := j.run src
        let s := s.jobPaced r.bytes.length
        let dcrc := crc32c r.bytes
        let bad (st : Nat) : State := s.closeCmpJob j st (cmpPayload 0 got 0 0 [])
        if (j.checkSrc = true ∧ got ≠ j.srcCrc) ∨ r.ok = false then bad stIntegrity
        else if j.dstLen < r.bytes.length then bad stNoSpace
        else if j.checkDst = true ∧ dcrc ≠ j.dstCrc then s.closeCmpJob j stIntegrity (cmpPayload 0 got dcrc 0 [])
        else s.modComp (fun x => { x with jobAt := s.now, jobs := { j with out := some r.bytes, warn := r.warn, gotSrcCrc := got, modes := r.modes } :: js }))

/-- The copy to DST ends: the job commits (R232). -/
def execCmpJobCopyComplete (s : State) : Host.Outcome State Fault Refusal :=
  .next (
    match s.comp.jobs with
    | [] => s
    | j :: _ =>
      match j.out with
      | none => s
      | some out =>
        ((s.jobPaced out.length).emit (.hostWrite j.dst out)).closeCmpJob j (if 0 < j.warn then stWarn else stOk)
          (cmpPayload out.length j.gotSrcCrc (crc32c out) j.warn j.modes))

def cmpCancelBody (c : Cmd) (s : State) : Ran :=
  if !s.dev.state.run then refuse s stBadState
  else
    match s.comp.jobs.find? (fun j => j.obj == c.object.toNat) with
    | none => refuse s stBadObject
    | some j => answer (s.closeCmpJob j stAborted (cmpPayload 0 j.gotSrcCrc 0 0 [])) []

/-- CMP_CANCEL (R234). -/
def execCmpCancel (c : Cmd) (s : State) : Host.Outcome State Fault Refusal :=
  .next (hostCmd (.cmpCancel c) { op := 0x0902, obj := some 8, lostOk := true } cmpCancelBody c s)

def cmpStatusBody (c : Cmd) (s : State) : Ran :=
  if !c.okBits 1 1 then refuse s stBadArg
  else
    let x := s.comp
    let unit_ := if 2 ≤ s.sagSeen then 2 else if x.jobs.isEmpty then 0 else 1
    let ws := [
      packW [at' 127 120 (s.pget 0x09000001), at' 119 112 x.jobs.length, at' 111 104 unit_, at' 95 64 x.jobsOk.toNat, at' 63 32 x.jobsFailed.toNat],
      packW [at' 127 96 (x.modes.getD 0 0), at' 95 64 (x.modes.getD 1 0), at' 63 32 (x.modes.getD 2 0), at' 31 0 (x.modes.getD 3 0)],
      packW [at' 127 112 x.maxErr]]
    answer (if c.f 1 0 0 = 1 then s.modComp (fun x => { x with jobsOk := 0, jobsFailed := 0 }) else s) ws

/-- CMP_STATUS (Table 9.9). -/
def execCmpStatus (c : Cmd) (s : State) : Host.Outcome State Fault Refusal :=
  .next (hostCmd (.cmpStatus c) { op := 0x0903 } cmpStatusBody c s)

end Sys2Proof.Machine
end

