-- ==== Sys2Proof/Machine/PanelOps.lean ====
section
/-! DEFINITION. The effective gain map as shared operations (R299, R300), the swap of the effective gain map, and the
end of a region update and of PARASOL (spec/12). -/

namespace Sys2Proof.Machine

/-! ### The effective gain map (R299) -/

/-- Ef of a counter on a channel's curve. -/
def decayAt (bs : List Byte) (ch s : Nat) : Nat :=
  let k := countP (fun i => decide (decayStress bs ch i ≤ s)) (List.range 64) - 1
  if k = 63 then decayEff bs ch 63
  else
    let e0 : Int := decayEff bs ch k
    let e1 : Int := decayEff bs ch (k + 1)
    let d := decayStress bs ch (k + 1) - decayStress bs ch k
    ((Frac.mk' (e0 * d + (e1 - e0) * ((s - decayStress bs ch k : Nat) : Int)) d).rne).toNat

/-- -rne(512 * log2(G / BASE)) for 0 < G ≤ BASE, 256 where it is above 255: by the bits of n from `k` down, the largest n
that is still too small, plus 1. -/
def eBits (g b : Nat) : Nat → Nat → Nat
  | 0, n => n
  | k + 1, n => if g ^ 1024 * 2 ^ (2 * (n + 2 ^ k) - 1) < b ^ 1024 then eBits g b k (n + 2 ^ k) else eBits g b k n

/-- E of a cell before its clamp: none below 0. -/
def gainE (g b : Nat) : Option Nat :=
  if g = 0 then none
  else
    let n := eBits g b 9 0
    if n ≤ 255 then some (255 - n) else none

/-- A field of a cell of a UNIFORMITY map or COUNTERS object: k bytes a cell, n bytes the field. -/
def cellField (bs : List Byte) (k n t cell ch : Nat) : Option Nat :=
  let w1 := wordAt bs 1
  (findIdx? (fun x => x == t) (mapTiles k bs) 0).map (fun i =>
    bytesAt bs (32 + i * cellStride k (bits w1 127 112) (bits w1 111 96) + 16 + k * cell + n * ch) n)

/-- The bytes of the object that a parameter names. (DESIGN CHOICE, safe: log entry 80.) -/
def State.objBytes (s : State) (id : Nat) : Option (List Byte) :=
  if id = 0 then none else (s.obj? id).map (·.data)

/-- G and A of a cell and channel (R299). -/
def gainG (uni decay counters : Option (List Byte)) (target boost t cell ch : Nat) : Nat × Nat :=
  let u := match uni with
    | some bs => (cellField bs 6 2 t cell ch).getD 0x4000
    | none => 0x4000
  let ef := match decay, counters with
    | some d, some c => decayAt d ch ((cellField c 12 4 t cell ch).getD 0)
    | _, _ => 0x8000
  let a := Nat.min boost (rneDiv (target * 2 ^ 14) ef)
  (Nat.min (rneDiv (u * a) (2 ^ 14)) 0xFFFF, a)

/-- The entry of one tile with its clipped and boosted cells. -/
def buildTile (uni decay counters : Option (List Byte)) (target boost cells t : Nat) : TileGain × Nat × Nat :=
  let ga (c ch : Nat) := gainG uni decay counters target boost t c ch
  let base := [0, 1, 2].map (fun ch => Nat.max 1 (maxN ((List.range cells).map (fun c => (ga c ch).1))))
  let e (c ch : Nat) := gainE (ga c ch).1 (base.getD ch 1)
  ({ tile := t, base := base, e := (List.range cells).flatMap (fun c => [0, 1, 2].map (fun ch => (e c ch).getD 0)) },
   countP (fun c => [0, 1, 2].any (fun ch => (e c ch).isNone)) (List.range cells),
   countP (fun c => [0, 1, 2].any (fun ch => (ga c ch).2 == boost)) (List.range cells))

/-- The rebuild of R299 with the values that `get` gives. (DESIGN CHOICE, unsafe: log entry 58.) -/
def State.buildGain (s : State) (get : Nat → Nat) : GainMap :=
  match s.geomOf (get 0x05000001) with
  | none => {}
  | some g =>
    let cells := g.tileW * g.tileH / 16
    let ts := g.tiles.map (fun e => buildTile (s.objBytes (get 0x0C000001)) (s.objBytes (get 0x0C000003)) (s.objBytes (get 0x0C000004))
      (get 0x0C000005) (get 0x0C000006) cells e.tile)
    { tiles := ts.map (·.1), clipped := sumN (ts.map (·.2.1)), boosted := sumN (ts.map (·.2.2)) }

/-- A trigger of R300, with the job of the COMMIT that it is for. -/
def State.askRebuild (s : State) (job : Option Nat) : State :=
  match s.panel.rebuild with
  | none => { s with panel := { s.panel with rebuild := some { job := job } } }
  | some r =>
    if r.result.isSome then { s with panel := { s.panel with rebuildNext := some (job.or (s.panel.rebuildNext.getD none)) } }
    else { s with panel := { s.panel with rebuild := some { job := job.or r.job } } }

/-! ### Region updates and PARASOL end (R326 to R328) -/

def State.modRegion (s : State) (job : Nat) (f : Region → Region) : State :=
  { s with panel := { s.panel with regions := s.panel.regions.map (fun (r : Region) => if r.job = job then f r else r) } }

/-- PANEL_PARASOL. -/
def State.panelParasol (s : State) (kind tiles : Nat) : State :=
  s.raise 0x0C 7 1 (packNat [at' 63 56 kind, at' 55 40 tiles, at' 31 0 s.panel.visitsEntry]) s.arg2f

/-- A visit runs on a tile: its port is awake for it, or wakes (R322). -/
def State.inVisit (s : State) (t : Nat) : Bool :=
  let p := s.port t
  (s.tile t).visit != 0 && (p.state == 5 || p.state == 6 || p.state == 7 || p.fromL2)

/-- An owned port leaves L1 or L2 (R255). -/
def State.wakePort (s : State) (t : Nat) : State :=
  let p := s.port t
  if p.state = 7 then
    (s.modPort t (fun p => { p with fromL2 := true, wakeAt := s.now })).toTrain t 8
  else s

/-- A pending set-point request gives way with ABORTED. -/
def State.dropSetRequest (s : State) : State :=
  if s.mem.request.isNone then s
  else ({ s with mem := { s.mem with request := none } } : State).endJobs (s.jobIds (fun j => j.key == .memSetpoint)) stAborted

/-- The switch to FSP0 that a wake makes. -/
def State.toFsp0 (s : State) : State :=
  if s.mem.setpoint = 0 then s
  else ({ s with mem := { s.mem with setpoint := 0, stalls := s.mem.stalls + 1 } } : State).setpointEvent { target := 0, requester := 3, t0 := s.now } 0

/-- On wake the device switches to FSP0, with no deferral; a request that was pending gives way (R346).
(DEDUCED, unsafe: log entry 59.) -/
def State.wakeSetpoint (s : State) : State := s.dropSetRequest.toFsp0

/-- The host's wake (R328): updates end, the state of Table 1.4, every owned port wakes, the grid starts again.
(DEDUCED, unsafe: log entry 59.) -/
def State.wakeNow (s : State) : State :=
  let s := (s.panel.regions.map (·.job)).foldl (fun s j => s.endRegion j stAborted) s
  let ids := s.jobIds (fun j => j.key == .parasolWake)
  let s := s.stopGrid
  let s := (s.selfRefreshGo false).wakeSetpoint
  let s := { s with
    mem := { s.mem with masked := 0 }
    panel := { s.panel with enterStage := 0 } }
  let s := s.enter s.wakeTarget 2
  let s := { s with tim := { s.tim with wakeFirst := true } }
  let ts := tileNums.filter (fun t => (s.port t).own && ((s.port t).state == 6 || (s.port t).state == 7))
  let s := s.panelParasol 2 (sumN ((tileNums.filter (fun t => (s.port t).own)).map (fun t => 2 ^ t)))
  let s := ts.foldl (fun s t =>
    let s := s.modTile t (fun d => { d with visit := 0 })
    let s := if (s.port t).state = 6 then s.modPort t (fun p => { p with wakeL1 := true }) else s
    s.wakePort t) s
  (s.endJobs ids stOk).evaluate

/-- The visit in progress is over: the channels refresh themselves again (R346), or a wake that waited for it proceeds (R327),
which Table 1.4 admits at sag stage S4 or lower only.
(DEDUCED, unsafe: log entry 59.) -/
def State.wakeIfDue (s : State) : State :=
  if s.dev.state != .parasol || tileNums.any s.inVisit then s
  else if s.host.jobs.any (fun j => j.key == .parasolWake) then
    (if 5 ≤ s.pwr.stage then (s.selfRefreshGo true).endJobs (s.jobIds (fun j => j.key == .parasolWake)) stNoResource else s.wakeNow)
  else s.selfRefreshGo true

end Sys2Proof.Machine
end

