-- ==== Sys2Proof/Machine/LinkRows.lean ====
section
/-! DEFINITION. Tile links: bring-up, packets from the tiles, acknowledgements, the link commands and the eye scan
(spec/10), with what spec/12 makes of them. -/

namespace Sys2Proof.Machine

open Sys2Proof

/-! ### CAPS (R252, R254, R259, R263) -/

/-- A CAPS reply (Table 10.11). -/
def parseCaps (w0 w1 w2 : Nat) : Caps :=
  { port := bits w0 119 112, version := bits w0 111 104, ownEpoch := bits w0 95 64
    w := bits w1 127 112, h := bits w1 111 96, nu := bits w1 95 92, nw := bits w1 91 88, sx := bits w1 87 84, sy := bits w1 83 80
    rates := bits w1 79 72, codes := bits w1 71 64, maskCols := bits w1 63 48, maskRows := bits w1 47 32, settle := bits w1 31 16
    owner := bits w1 15 12, state := bits w1 11 8, flags := bits w1 7 0
    vendor := bits w2 127 112, model := bits w2 111 96, fw := bits w2 95 64, serial := bits w2 63 0 }

/-- Fields within their ranges (R242). -/
def Caps.ok (c : Caps) : Bool :=
  decide (c.port ≤ 1 ∧ 1 ≤ c.nu ∧ c.nu ≤ 8 ∧ 1 ≤ c.nw ∧ c.nw ≤ 8 ∧ 1 ≤ c.sx ∧ c.sx ≤ 2 ∧ 1 ≤ c.sy ∧ c.sy ≤ 2 ∧ c.owner ≤ 2 ∧ c.state ≤ 6)

/-- HCRC and PCRC of a packet with two payload words are right (R242). -/
def packetOk (w0 w1 w2 : Nat) : Bool := hdrOk w0 && bits w0 63 32 == crc32c (leBytes 16 w1 ++ leBytes 16 w2)

/-- A packet from a tile is discarded and counted. -/
def State.countHcrc (s : State) (t : Nat) : State := s.modPort t (fun p => { p with hcrc := p.hcrc + 1 })

/-- LINK_CAPS_MISMATCH's item with required and tile value (Table 10.23), none where the CAPS serve.
(DEDUCED, unsafe: log entry 52.) -/
def State.capsItem (s : State) (c : Caps) : Option (Nat × Nat × Nat) :=
  let r := s.linkRate
  let code := s.pget 0x09000001
  if c.version ≠ 1 then some (3, 1, c.version)
  else if !bit c.rates r then some (1, r, c.rates)
  else if !bit c.codes code then some (2, code, c.codes)
  else if s.dev.pairCfg && !bit c.flags 0 then some (4, 1, c.flags % 2)
  else none

/-- Bring the mismatch in force of a port in line with its CAPS. (DEDUCED, unsafe: log entry 52.) -/
def State.checkCaps (s : State) (t : Nat) : State :=
  match (s.port t).caps with
  | none => s
  | some c =>
    match s.capsItem c with
    | none => s.modPort t (fun p => { p with mismatch := 0 })
    | some (i, a, b) =>
      if (s.port t).mismatch = i then s
      else (s.modPort t (fun p => { p with mismatch := i })).raise 0x0A 4 3
        (packNat [at' 63 56 t, at' 55 48 i, at' 47 32 a, at' 31 16 b]) s.arg2f

/-- hb of block `i` of a stored image from its serialisation (R319). -/
def hbOf (i : Nat) (ser : List Byte) : Nat := crc32c (leBytes 4 i ++ ser)

/-- hb of every block of a black image (R319). -/
def blackImage (c : Caps) : List Nat := (List.range (c.w / 8 * (c.h / 2))).map (fun i => hbOf i (List.replicate 96 (0 : Byte)))

/-- The XOR of a list. -/
def xorN (l : List Nat) : Nat := l.foldl (fun (a b : Nat) => a ^^^ b) 0

/-- The claim of a tile as its port becomes ACTIVE: one above its first OWN_EPOCH in the single configuration (R259), by
the role in a pair. (DEDUCED, unsafe: log entry 60.) -/
def State.claimTile (s : State) (t ownEpoch : Nat) : State :=
  if s.dev.pairCfg then
    let s := { s with pair := { s.pair with epochSeen := if after 32 ownEpoch s.pair.epochSeen then ownEpoch else s.pair.epochSeen } }
    s.modPort t (fun p => { p with own := s.owns, epoch := if s.owns then some s.pair.epoch else p.epoch })
  else s.modPort t (fun p => { p with own := true, epoch := some (p.epoch.getD ((ownEpoch + 1) % 2 ^ 32)) })

/-- A valid CAPS reply: ACTIVE, or TRAIN again at `link.rate` (R252, R254). -/
def State.takeCaps (s : State) (t : Nat) (c : Caps) : State :=
  let was := (s.port t).state
  let s := (s.modPort t (fun p => { p with caps := some c, tstate := c.state })).claimTile t c.ownEpoch
  if (s.port t).rate ≠ s.linkRate ∧ bit c.rates s.linkRate = true then
    (s.modPort t (fun p => { p with fails := 0, fromL2 := false })).toTrain t 7
  else
    let s := if was = 5 then s else s.portGo t 5 1
    let s := s.modPort t (fun p => { p with
      tries := 0, fails := 0, fromL2 := false, heard := false, statusAt := s.now, geomBad := p.geomBad && was == 5 })
    let s := if was = 5 then s else s.sendHeartbeat t
    let s := (s.checkCaps t).checkGeomMatch t
    let s := if c.state = 0 ∧ ((s.tile t).wasActive = false ∨ s.dev.state = .parasol) then
        s.modTile t (fun d => { d with img := some (blackImage c) })
      else s
    (s.decideShow t c.state c.owner c.ownEpoch).evaluate

/-- CAPS request, every 1 ms (Table 10.16). -/
def execCapsRequest (tile : Nat) (s : State) : Host.Outcome State Fault Refusal :=
  .next (
    let p := s.port tile
    if p.state = 4 ∨ (p.state = 5 ∧ p.fromL2 = true) then s.sendCaps tile else s)

/-- A packet with the KIND of a CAPS reply (R242, R252, R254). -/
def State.capsPacket (s : State) (t w0 w1 w2 : Nat) : State :=
  let p := s.port t
  let c := parseCaps w0 w1 w2
  if !(p.state == 4 || (p.state == 5 && p.fromL2)) then s
  else if !packetOk w0 w1 w2 then s.countHcrc t
  else if !c.ok then s
  else s.takeCaps t c

/-! ### Bring-up (R249 to R253) -/

/-- Signal on all four receive lanes: DETECT ends, at the end of the wait of R249. -/
def execSignalDetect (tile : Nat) (s : State) : Host.Outcome State Fault Refusal :=
  .next (
    let p := s.port tile
    if p.state ≠ 1 ∨ (s.tile tile).powered = false then s
    else if p.waiting then s.modPort tile (fun p => { p with signal := true })
    else s.toTrain tile 1)

/-- The wait between attempts: 1 ms, from the eighth return in a row on 100 ms (R249). -/
def Port.retryNs (p : Port) : Nat := if 8 ≤ p.tries then 100000000 else 1000000

/-- The wait between attempts ends (R249). -/
def execDetectRetryWait (tile : Nat) (s : State) : Host.Outcome State Fault Refusal :=
  .next (
    let p := s.port tile
    if p.state ≠ 1 ∨ p.waiting = false then s
    else
      let s := s.advanceTo (p.since + p.retryNs)
      let s := s.modPort tile (fun p => { p with waiting := false })
      if p.signal then s.toTrain tile 1 else s)

/-- TB0 in ns at which a port's state ends by its timeout (Table 10.16); the exit from L2 has 2 ms in all (R255). -/
def Port.limit (p : Port) : Option Nat :=
  if p.fromL2 then some (p.wakeAt + 2000000)
  else match p.state with
    | 2 => some (p.since + 50000000)
    | 3 => some (p.since + 10000000)
    | 4 => some (p.since + 10000000)
    | _ => none

/-- The timeout of a port's state has expired. -/
def State.expired (s : State) (t : Nat) : Bool := (s.port t).limit.any (fun n => decide (n ≤ s.now))

/-- A state's timeout expires: back to DETECT, an exit from L2 as a failed TRAIN (R249, R255). -/
def State.portExpires (s : State) (t : Nat) : State := (s.portReturn t 2).wakeIfDue

/-- TRAIN ends: LOCK, or DETECT by a lane that received another lane's number (R250). -/
def execTrainComplete (tile : Nat) (laneOrder : Bool) (s : State) : Host.Outcome State Fault Refusal :=
  .next (
    if (s.port tile).state ≠ 2 then s
    else if s.expired tile then s.portExpires tile
    else if !laneOrder then s.portReturn tile 9
    else (s.modPort tile (fun p => { p with fails := 0 })).portGo tile 3 1)

/-- A port is ACTIVE again from L1 or L2 (R255, R322, R328). -/
def State.wakeActive (s : State) (t : Nat) : State :=
  let inVisit := s.dev.state == .parasol
  let s := (s.portGo t 5 8).modPort t (fun p => { p with tries := 0, heard := false, wakeL1 := !p.fromL2 })
  let s := s.modTile t (fun d => { d with visit := if inVisit && d.visit == 1 then 2 else d.visit })
  s.sendHeartbeat t

/-- LOCK ends: CAPS, or ACTIVE on the exit from L2 (R255). -/
def execLockComplete (tile : Nat) (s : State) : Host.Outcome State Fault Refusal :=
  .next (
    let p := s.port tile
    if p.state ≠ 3 then s
    else if s.expired tile then s.portExpires tile
    else if p.fromL2 then (s.wakeActive tile).sendCaps tile
    else s.portGo tile 4 1)

/-- A state's timeout expires (Table 10.16). -/
def execPortStateTimeout (tile : Nat) (s : State) : Host.Outcome State Fault Refusal :=
  .next (
    match (s.port tile).limit with
    | none => s
    | some n => (s.advanceTo n).portExpires tile)

/-- The first offset that qualifies (R253). -/
def slipOffset : List SlipCount → Nat → Option Nat
  | [], _ => none
  | x :: xs, n => if decide (4090 ≤ x.valid) && x.tail then some n else slipOffset xs (n + 1)

/-- Lane rate of a code in Gbit/s (Table 10.1). -/
def laneRate (code : Nat) : Nat := match code with
  | 0 => 16
  | 1 => 25
  | 2 => 28
  | _ => 32

/-- ns of one offset of a search: 4,096 blocks and 40 µs (R253). -/
def State.slipNs (s : State) (t : Nat) : Nat := 4096 * 132 / laneRate (s.port t).rate + 40000

/-- A lane's bit-slip search ends, 10 ms into TRAIN and one time span for each offset (R253). -/
def execBitslipSearch (tile lane : Nat) (offsets : List SlipCount) (s : State) : Host.Outcome State Fault Refusal :=
  .next (
    if (s.port tile).state ≠ 2 ∨ s.pget 0x0A000004 = 0 then s
    else
      let found := slipOffset (offsets.take 132) 0
      let s := s.advanceTo ((s.port tile).since + 10000000 + (found.elim 132 (· + 1)) * s.slipNs tile)
      match found with
      | some o => s.raise 0x0A 7 1 (packNat [at' 63 56 tile, at' 55 48 lane, at' 47 40 o]) s.arg2f
      | none => s.portReturn tile 10)

/-- No STATUS for `link.status_timeout_ms` (R251). (DESIGN CHOICE, safe: log entry 14.) -/
def execStatusTimeout (tile : Nat) (s : State) : Host.Outcome State Fault Refusal :=
  .next (
    if (s.port tile).state ≠ 5 then s
    else ((s.advanceTo ((s.port tile).statusAt + s.pget 0x0A000003 * 1000000)).toTrain tile 4).wakeIfDue)

/-- The wake from L1 has made the port ACTIVE (R255). -/
def execL1WakeActive (tile : Nat) (s : State) : Host.Outcome State Fault Refusal :=
  .next (
    if (s.port tile).state = 6 ∧ ((s.tile tile).visit = 1 ∨ (s.port tile).wakeL1 = true) then s.wakeActive tile else s)

/-! ### Acknowledgements (R262) -/

/-- A tile's power-off has ended (Table 12.6): its ball low; a TILE_POWER on that came meanwhile follows. -/
def State.offDone (s : State) (t : Nat) : State :=
  let again := (s.tile t).again
  let s := s.powerLow t
  let s := if again then s.powerUp t 2 else s
  s.powerSync.shutdownStep

/-- Bit t of the mode change's wait is cleared. -/
def State.changeClear (s : State) (t : Nat) : State :=
  match s.tim.change with
  | none => s
  | some m => { s with tim := { s.tim with change := some { m with awaiting := putBit m.awaiting t false } } }

/-- The neutral pairs of a timing mode change have their ACKs: EMIT_OFF follows where the lane rate changes (Table 11.2,
R264). -/
def State.changeNext (s : State) : State :=
  match s.tim.change with
  | none => s
  | some m =>
    if m.stage ≠ 3 ∨ m.awaiting ≠ 0 then s
    else if !m.rate then { s with tim := { s.tim with change := some { m with stage := 4 } } }
    else
      let ts := s.ownTiles
      let b := sumN (ts.map (fun t => 2 ^ t))
      let s := { s with tim := { s.tim with change := some { m with stage := 4, emitOff := b, awaiting := b } } }
      let s := ts.foldl (fun s t => (s.modTile t (fun d => { d with mode := 0, recon := 0, firstDue := false })).sendPower t 2 0 0 9) s
      -- step 2 for the ports of tiles that the partner owns
      (tileNums.filter (fun t => (s.port t).state == 5 && !(s.port t).own)).foldl (fun s t => s.toTrain t 7) s

/-- What follows a command: its RESULT, 0xFF where no ACK came (R262, R314 to R317, R264, R266).
(DEDUCED, unsafe: log entry 53.) -/
def State.acked (s : State) (t : Nat) (a : AckWait) (r : Nat) : State :=
  match a.why with
  | 1 =>
    if (s.tile t).mode ≠ 1 then s
    else if r = 0 then
      let s := s.modTile t (fun d => { d with mode := 2, recon := 1 })
      (s.panelPower t 2 (s.tile t).cause).evaluate
    else (s.reconcileFailed t r).evaluate
  | 2 =>
    if (s.tile t).mode ≠ 3 then s
    else if r = 0 then s.modTile t (fun d => { d with mode := 4, firstDue := true })
    else (s.reconcileFailed t r).evaluate
  | 3 => (s.changeClear t).changeNext
  | 4 => s.sendPower t 2 0 0 5
  | 5 => s.sendPower t 3 0 0 6
  | 6 => s.offDone t
  | 7 => s.toTrain t 6
  | 8 => (s.portGo t 0 6).powerSync
  | 9 => (s.changeClear t).toTrain t 7
  | 10 =>
    if r = 0 then
      ((s.portGo t (if a.op = 5 then 7 else 6) 8).modTile t (fun d => { d with visit := 0 })).wakeIfDue
    else (s.modTile t (fun d => { d with visit := 0 })).wakeIfDue
  | 12 => s.handoverStep
  | _ => s

/-- A wait is over. -/
def State.dropAck (s : State) (t : Nat) (a : AckWait) : State :=
  s.modPort t (fun p => { p with acks := p.acks.filter (fun (b : AckWait) => b != a) })

/-- A packet with the KIND of an ACK (Table 10.14). -/
def State.ackPacket (s : State) (t w0 : Nat) : State :=
  if (s.port t).state ≠ 5 then s
  else if !hdrOk w0 then s.countHcrc t
  else if 4 < bits w0 103 96 then s
  else
    match (s.port t).acks.find? (fun (a : AckWait) => a.tag == bits w0 119 112 && a.kind == bits w0 111 104) with
    | none => s
    | some a => (s.dropAck t a).acked t a (bits w0 103 96)

/-- LINK_ACK_TIMEOUT, and the command counts as not executed (R262). (DEDUCED, unsafe: log entry 53.) -/
def State.ackLost (s : State) (t : Nat) (a : AckWait) : State :=
  let s := s.advanceTo a.due
  let s := s.dropAck t a
  let s := s.raise 0x0A 5 3 (packNat [at' 63 56 t, at' 55 48 a.kind, at' 47 40 a.tag, at' 39 32 a.op]) s.arg2f
  s.acked t a 0xFF

/-- The wait that ends first, DISCHARGE apart (R262). -/
def firstDue (l : List AckWait) : Option AckWait :=
  match l with
  | [] => none
  | a :: as =>
    match firstDue as with
    | none => some a
    | some b => if b.due < a.due then some b else some a

/-- No ACK by 5 ms after its bound. (DESIGN CHOICE, safe: log entry 14.) -/
def execAckTimeout (tile : Nat) (s : State) : Host.Outcome State Fault Refusal :=
  .next (
    match firstDue ((s.port tile).acks.filter (fun (a : AckWait) => a.why != 6)) with
    | none => s
    | some a => s.ackLost tile a)

/-- 205 ms after DISCHARGE without its ACK (Table 12.6). -/
def execDischargeTimeout (tile : Nat) (s : State) : Host.Outcome State Fault Refusal :=
  .next (
    match (s.port tile).acks.find? (fun (a : AckWait) => a.why == 6) with
    | none => s
    | some a => s.ackLost tile a)

/-- 100 ms after a failed reconcile (R315). -/
def execReconcileRetry (tile : Nat) (s : State) : Host.Outcome State Fault Refusal :=
  .next (if (s.tile tile).mode = 7 ∧ s.ownActive tile = true then s.reconcile tile else s)

/-! ### Tile power in BOOT (R26, R311) -/

/-- The next enabled tile's ball rises, `panel.pwr_stagger_ms` after the one before. -/
def execTilePwrEnStagger (s : State) : Host.Outcome State Fault Refusal :=
  .next (
    if s.dev.state != .boot then s
    else
      let next := s.enabledTiles.find? (fun t =>
        (s.port t).state == 0 && !(s.domain (40 + t / 4)).failed && !((s.tile t).powered && decide (0 < (s.tile t).rise)))
      match next with
      | none => s
      | some t =>
        let s := if s.panel.tiles.any (·.powered) then
            s.advanceTo (maxN (s.panel.tiles.map (·.rise)) + s.pget 0x0C00000E * 1000000) else s
        (s.powerUp t 1).powerSync)

/-- 1 s after its ball rose, a tile whose port is not ACTIVE is waited for no more (R26).
(DEDUCED, unsafe: log entry 71.) -/
def execBootTileTimeout (tile : Nat) (s : State) : Host.Outcome State Fault Refusal :=
  .next (
    if s.dev.state != .boot || !(s.tile tile).powered || (s.port tile).state == 5 then s
    else
      let s := s.advanceTo ((s.tile tile).rise + 1000000000)
      (s.modTile tile (fun d => { d with late := true })).evaluate)

/-! ### STATUS (R245, R257, R260, R308, R320) -/

/-- The reaction TILE of Table 18.3. (DEDUCED, unsafe: log entry 53.) -/
def State.tileReact (s : State) (t : Nat) : State :=
  let s := { s with saf := { s.saf with tileHeld := putBit s.saf.tileHeld t true } }
  let s := s.modTile t (fun d => { d with mode := 6, recon := 0, firstDue := false })
  s.sendPower t 2 0 0 11

/-- PANEL_FM_MISMATCH; SM08 makes it a TILE reaction in instrument mode (R320, Table 18.2). -/
def State.fmMismatch (s : State) (t k context got want : Nat) : State :=
  let s := { s with panel := { s.panel with fmFail := s.panel.fmFail + 1 } }
  let s := s.raise 0x0C 3 (if s.instrument then 4 else 3) (packNat [at' 63 56 t, at' 55 48 k, at' 47 40 context, at' 31 0 (want ^^^ got)]) s.arg2f
  if s.instrument then s.tileReact t else s

/-- LINK_OWNER (R257). -/
def State.takeOwner (s : State) (t owner ownEpoch : Nat) (conflict : Bool) : State :=
  let p := s.port t
  let s := s.modPort t (fun p => { p with owner := owner, ownEpoch := ownEpoch, conflict := conflict })
  let arg := packNat [at' 63 56 t, at' 55 52 owner, at' 51 51 (b2n conflict), at' 31 0 ownEpoch]
  if conflict && !p.conflict then s.raise 0x0A 3 3 arg s.arg2f
  else if owner ≠ p.owner then s.raise 0x0A 3 1 arg s.arg2f
  else s

/-- The increments of the row counters since the last STATUS: RCRC_ERR, MISSING, LATE, HCRC_ERR. -/
def Port.rises (p : Port) (n : TileCounts) : Nat × Nat × Nat × Nat :=
  match p.counts with
  | none => (0, 0, 0, 0)
  | some o => (wsub 16 n.rcrc o.rcrc, wsub 16 n.missing o.missing, wsub 16 n.late o.late, wsub 16 n.hcrc o.hcrc)

/-- Take the counters; LINK_ROW_ERRORS at most once for each tile and panel frame, for the frame that the STATUS names, as
Table 10.15 shows. -/
def State.takeCounts (s : State) (t frame : Nat) (n : TileCounts) : State :=
  let (r, m, l, h) := (s.port t).rises n
  let s := s.modPort t (fun p => { p with
    counts := some n, rcrc := p.rcrc + r, missing := p.missing + m, hcrc := p.hcrc + h
    rowRcrc := p.rowRcrc + r, rowMissing := p.rowMissing + m, rowLate := p.rowLate + l })
  let s := if 0 < r + m + l + h then s.modTile t (fun d => { d with visitRise := true }) else s
  -- a rise leaves the state shown unchecked (R320)
  let s := if 0 < r + m + l then s.modTile t (fun d => { d with
      exp := match d.recent with
        | x :: _ => updAt d.exp x.k (fun (_ : Option Nat) => none)
        | [] => d.exp
      recent := d.recent.map (fun (x : Drive) => { x with fm := none }) })
    else s
  let p := s.port t
  if p.rowLast = some frame ∨ p.rowRcrc + p.rowMissing + p.rowLate = 0 then s
  else
    (s.modPort t (fun p => { p with rowRcrc := 0, rowMissing := 0, rowLate := 0, rowLast := some frame })).raise 0x0A 2 2
      (packNat [at' 63 56 t, at' 47 32 p.rowRcrc, at' 31 16 p.rowMissing, at' 15 0 p.rowLate]) (frame * 2 ^ 16)

/-- A STATUS that names (frame, sf) shows that a drive was made (R308). (DEDUCED, unsafe: log entry 54.) -/
def Drive.reached (x : Drive) (frame sf : Nat) : Bool :=
  after 32 frame x.frame || (frame == x.frame && notBefore 8 sf x.sf)

/-- The drive in flight counts as made (R308). (DEDUCED, unsafe: log entry 54.) -/
def TileDrive.mark (d : TileDrive) (frame sf : Nat) : TileDrive :=
  { d with drive := d.drive.map (fun (x : Drive) => { x with made := x.made || x.reached frame sf }) }

/-- FM_CHECK of every STATUS that names a checked subframe, against its expected value (R320). -/
def State.checkFm (s : State) (t frame sf fm : Nat) : State :=
  let hit (x : Drive) : Bool := x.frame == frame && x.sf == sf
  match (s.tile t).recent.find? hit with
  | none => s
  | some x =>
    match x.fm with
    | none => s
    | some want => if want = fm then s else s.fmMismatch t x.k 1 fm want

/-- A tile that has gone dark of itself (R260, R314): the report, and a new reconcile.
(DEDUCED, unsafe: log entry 53.) -/
def State.takeTileState (s : State) (t old st frame : Nat) : State :=
  let d := s.tile t
  let s := if (st = 3 ∨ st = 6) ∧ old ≠ st then s.raise 0x0A 6 3 (packNat [at' 63 56 t, at' 55 48 st, at' 31 0 frame]) s.arg2f else s
  let shows := d.mode == 4 || d.mode == 3
  let again := shows && ((decide (st = 3 ∨ st = 6) && (old != st || d.seen)) || (st == 0 && d.seen))
  let s := s.modTile t (fun d => { d with seen := if st = 1 ∧ shows = true then true else if again then false else d.seen })
  if again && (s.port t).own && (s.dev.state == .boot || s.dev.state == .blanket || s.dev.state.full) && s.tim.change.isNone then
    (s.modTile t (fun d => { d with tries := 0 })).reconcile t
  else s

/-- POWER_CMD of R321: L1 or L2 with the stored image shown. -/
def State.standby (s : State) (t : Nat) : State := s.sendPower t (4 + s.pget 0x0C000010) 1 3 10

/-! ### Region rows in a visit (R322 to R326) -/

/-- Blocks in a row of the tile's stored image. -/
def State.tileBlocks (s : State) (t : Nat) : Nat :=
  match (s.port t).caps with
  | some c => c.w / 8
  | none => 0

/-- hb of each block of a row from block `first` of block row `row` (R319). (DESIGN CHOICE, unsafe: log entry 79.) -/
def rowHb (wide form row first : Nat) (blks : List Nat) : List Nat :=
  (List.range blks.length).map (fun i => hbOf (row * wide + first + i) (serialBlock (decodeBlock form (blks.getD i 0))))

/-- BLOCK_ROW (Table 10.5). (DESIGN CHOICE, unsafe: log entry 79.) -/
def State.sendRow (s : State) (t tag k code row first : Nat) (blks : List Nat) (rcrc : Nat) : State :=
  let bs := blks.flatMap (blockBytes code)
  let hd := linkHdr 0x11 [at' 119 112 tag, at' 111 108 k, at' 107 107 code, at' 103 88 row, at' 87 76 first, at' 75 64 blks.length, at' 63 32 rcrc]
  s.sendTile t 0x11 (hd :: (List.range (ceilDiv bs.length 16)).map (wordAt bs))

/-- A tile's tracked image after a run of blocks is written. (DESIGN CHOICE, unsafe: log entry 79.) -/
def putImage (img : List Nat) (at_ : Nat) (hbs : List Nat) : List Nat := img.take at_ ++ hbs ++ img.drop (at_ + hbs.length)

/-- An update has rows due on a tile: it is staged, and no older update of its region is left. -/
def State.regionDue (s : State) (t : Nat) (r : Region) : Bool :=
  r.tile == t && r.rows.isSome && (r.started || !r.superseded) &&
    ((s.panel.regions.takeWhile (fun (x : Region) => x.job != r.job)).all (fun (x : Region) => x.region != r.region))

/-- Send the rows of one update in this visit. -/
def State.sendRegion (s : State) (tag : Nat) (r : Region) : State :=
  let rows := (r.rows.getD []).drop r.next |>.take (s.pget 0x0C000011)
  let n := rows.length
  let s := (List.range n).foldl (fun s i =>
    match rows[i]? with
    | some (blks, crc) => s.sendRow r.tile tag 0 r.code (r.y / 2 + r.next + i) (r.x / 8) blks crc
    | none => s) s
  s.modRegion r.job (fun r => { r with sent := n, started := true })

/-- The image of a tile once the rows sent in this visit are committed. -/
def regionImage (wide : Nat) (img : List Nat) (rs : List Region) : List Nat :=
  rs.foldl (fun img (r : Region) =>
    (List.range r.sent).foldl (fun img i =>
      match (r.rows.getD [])[r.next + i]? with
      | some (blks, _) =>
        let row := r.y / 2 + r.next + i
        putImage img (row * wide + r.x / 8) (rowHb wide r.code row (r.x / 8) blks)
      | none => img) img) img

/-- The subframe of a visit that sends SUBFRAME_STARTs, one for every port (R248, Table 10.4). -/
def State.visitCount (s : State) : State :=
  if s.panel.visitTag.isSome then s
  else
    let tag := (s.tim.tag + 1) % 256
    { s with tim := { s.tim with tag := tag }, panel := { s.panel with visitTag := some tag } }

/-- The SUBFRAME_START of a visit to a tile, with rows or as a repeat; its confirmation is awaited. -/
def State.visitStart (s : State) (t : Nat) (rows : Bool) : State :=
  let s := s.visitCount
  let tag := s.panel.visitTag.getD 0
  let s := s.sendStart t s.tim.frame.toNat tag 0 (b2n (!rows)) 1 s.modeDark none
  s.modTile t (fun d => { d with visit := if rows then 3 else 4, visitSf := tag, visitFrame := s.tim.frame.toNat, visitRise := false })

/-- Step 2 of R322: the rows due, then one SUBFRAME_START, a repeat on a tile for which none are; in a visit without rows, step 3.
(DEDUCED, unsafe: log entry 56.) -/
def State.visitRows (s : State) (t : Nat) : State :=
  match s.panel.visitTag with
  | none => s.standby t
  | some tag =>
    let due := s.panel.regions.filter (s.regionDue t)
    (due.foldl (fun s r => s.sendRegion tag r) s).visitStart t (!due.isEmpty)

/-- 20 ms after the port's return to ACTIVE the visit of a tile that has not confirmed it ends (R322).
(DEDUCED, unsafe: log entry 56.) -/
def State.visitOver (s : State) (t : Nat) : State :=
  if s.dev.state == .parasol && (s.tile t).visit != 0 && (s.port t).state == 5
      && !(s.port t).acks.any (fun (a : AckWait) => a.why == 10) && decide ((s.port t).since + 20000000 ≤ s.now) then s.standby t
  else s

/-- TB0 goes on to a free moment within `link.hb_us` of a port's last HEARTBEAT, or of its entry to ACTIVE (R256; log entry 9).
(DESIGN CHOICE, unsafe: log entry 9.) -/
def State.heartbeatWait (s : State) (t : Nat) : State :=
  let p := s.port t
  let ran := s.takeFree (s.pget 0x0A000002 * 1000 + 1)
  ran.1.advanceTo (Nat.max p.hbAt p.since + ran.2)

/-- HEARTBEAT at least every `link.hb_us` on every ACTIVE port (R256). -/
def execHeartbeat (tile : Nat) (s : State) : Host.Outcome State Fault Refusal :=
  .next (if (s.port tile).state = 5 then ((s.heartbeatWait tile).sendHeartbeat tile).visitOver tile else s)

/-- An update whose region covers the whole tile makes it tracked (R321). -/
def State.regionTracks (s : State) (t : Nat) (r : Region) : Bool :=
  match (s.port t).caps with
  | some c => r.x == 0 && r.y == 0 && r.w == c.w && r.h == c.h
  | none => false

/-- The rows of a visit are committed, or failed (R325, R326). -/
def State.visitCommit (s : State) (t fm : Nat) : State :=
  let d := s.tile t
  let wide := s.tileBlocks t
  let sent := s.panel.regions.filter (fun (r : Region) => r.tile == t && decide (0 < r.sent))
  let img := d.img.map (fun i => regionImage wide i sent)
  let want := img.map xorN
  let bad := d.visitRise || (match want with | some w => w != fm | none => false)
  if bad then
    -- the rows go again; after the third failure the update ends
    sent.foldl (fun s (r : Region) =>
      if r.superseded then s.endRegion r.job stSuperseded
      else if 3 ≤ r.fails + 1 then
        let s := s.fmMismatch t 0 3 fm (want.getD fm)
        s.endRegion r.job stIntegrity
      else s.modRegion r.job (fun x => { x with fails := x.fails + 1, sent := 0 })) s
  else
    let s := s.modTile t (fun d => { d with img := img })
    sent.foldl (fun s (r : Region) =>
      let next := r.next + r.sent
      if next = (r.rows.getD []).length then
        let s := if s.regionTracks t r && (s.tile t).img.isNone then
            let hbs := (List.range (r.rows.getD []).length).flatMap (fun i => match (r.rows.getD [])[i]? with
              | some (blks, _) => rowHb wide r.code i 0 blks
              | none => [])
            (s.modTile t (fun d => { d with img := some hbs })).panelParasol 4 (2 ^ t)
          else s
        s.endRegion r.job stOk
      else if r.superseded then s.endRegion r.job stSuperseded
      else s.modRegion r.job (fun x => { x with next := next, sent := 0, fails := 0 })) s

/-- What a STATUS brings about in PARASOL: the confirmation of the entry (R321) and the steps of a visit (R322). -/
def State.parasolStatus (s : State) (t frame sf fm : Nat) : State :=
  let d := s.tile t
  if d.visit = 2 then
    let s := match d.img with
      | some i => if xorN i = fm then s else s.fmMismatch t 0 2 fm (xorN i)
      | none => s
    if (s.tile t).mode = 2 then
      (s.sendPower t 1 0 0 2).modTile t (fun d => { d with mode := 3 })
    else if (s.tile t).mode = 1 ∨ (s.tile t).mode = 3 ∨ (s.tile t).mode = 7 ∨ (s.tile t).mode = 8 then s
    else if (s.tile t).mode = 4 ∧ (s.tile t).firstDue = true then
      (s.visitStart t false).modTile t (fun d => { d with firstDue := false })
    else s.visitRows t
  else if d.visit = 3 ∨ d.visit = 4 then
    if frame = d.visitFrame ∧ sf = d.visitSf then
      let s := if d.visit = 3 then s.visitCommit t fm else s
      s.standby t
    else s
  else s

/-- A valid STATUS. -/
def State.takeStatus (s : State) (t w0 w1 w2 : Nat) : State :=
  let p := s.port t
  let frame := bits w1 95 64
  let sf := bits w1 63 56
  let st := bits w1 51 48
  let fm := bits w1 31 0
  let s := s.takeOwner t (bits w1 55 52) (bits w0 95 64) (bit (bits w0 103 96) 0)
  let s := s.modPort t (fun p => { p with
    tstate := st, temp := bits w1 47 40, shownFrame := frame, shownSf := sf, heard := true, statusAt := s.now
    rtt := Nat.min 0xFFFF (wsub 32 s.now (bits w1 127 96)) })
  let newer := !p.heard || after 32 frame p.shownFrame || (frame == p.shownFrame && decide (p.shownSf < sf))
  let s := if newer then { s with pair := { s.pair with advancedAt := s.now } } else s
  let s := if s.dev.pairCfg && after 32 (bits w0 95 64) s.pair.epochSeen then
      { s with pair := { s.pair with epochSeen := bits w0 95 64 } } else s
  let s := s.takeCounts t frame { rcrc := bits w2 127 112, missing := bits w2 111 96, late := bits w2 95 80, hcrc := bits w2 79 64, nonOwner := bits w2 63 48 }
  let s := s.modTile t (fun d => d.mark frame sf)
  let s := if s.dev.state == .parasol then s else s.checkFm t frame sf fm
  let s := if p.wakeL1 then
      (s.modPort t (fun p => { p with wakeL1 := false })).decideShow t st (bits w1 55 52) (bits w0 95 64)
    else s.takeTileState t p.tstate st frame
  let s := (s.lostOwnership t).switchCheck
  let s := match (s.tile t).drive with
    | some x =>
      if s.dev.state == .parasol && s.panel.enterStage == 3 && s.ownActive t && x.made && (s.tile t).visit == 0
          && !(s.port t).acks.any (fun (a : AckWait) => a.why == 10) then s.standby t else s
    | none => s
  if s.dev.state == .parasol then (s.parasolStatus t frame sf fm).visitOver t else s

/-- A packet with the KIND of a STATUS (Table 10.12). -/
def State.statusPacket (s : State) (t w0 w1 w2 : Nat) : State :=
  if (s.port t).state ≠ 5 then s
  else if !packetOk w0 w1 w2 then s.countHcrc t
  else if 1 < bits w0 119 112 ∨ 2 < bits w1 55 52 ∨ 6 < bits w1 51 48 then s
  else s.takeStatus t w0 w1 w2

/-! ### The receiver (R237 to R240, R251) -/

/-- A packet that a port has received, by its KIND (Table 10.3). -/
def State.takePacket (s : State) (t : Nat) (ws : List Nat) : State :=
  match ws with
  | [w0] => if bits w0 127 120 = 0x22 then s.ackPacket t w0 else s
  | [w0, w1, w2] =>
    if bits w0 127 120 = 0x20 then s.capsPacket t w0 w1 w2
    else if bits w0 127 120 = 0x21 then s.statusPacket t w0 w1 w2
    else s
  | _ => s

/-- An ACTIVE port returns to TRAIN: a lane has received 8 invalid sync headers within 64 blocks, or more sync errors within a
second than `link.err_retrain` (R251). -/
def State.lockCheck (s : State) (t : Nat) : State :=
  let p := s.port t
  if p.state ≠ 5 then s
  else if p.lanes.any RxLane.lost then (s.toTrain t 3).wakeIfDue
  else if s.pget 0x0A000005 ≠ 0 ∧ p.lanes.any (fun l => decide (s.pget 0x0A000005 < l.errs.length)) = true then
    (s.toTrain t 5).wakeIfDue
  else s

/-- Blocks that a port in CAPS or ACTIVE receives: the packets they complete are handled in their order. -/
def State.receive (s : State) (t : Nat) (rx : List LinkBlock) : State :=
  let p := s.port t
  if p.state ≠ 4 ∧ p.state ≠ 5 then s
  else
    let ran := rx.foldl (Port.block s.now) (p, [])
    (ran.2.foldl (fun s ws => s.takePacket t ws) (s.modPort t (fun _ => ran.1))).lockCheck t

/-- A CAPS reply arrives (R252, R254). -/
def execCapsReply (tile : Nat) (rx : List LinkBlock) (s : State) : Host.Outcome State Fault Refusal := .next (s.receive tile rx)

/-- A STATUS arrives (Table 10.12). -/
def execStatus (tile : Nat) (rx : List LinkBlock) (s : State) : Host.Outcome State Fault Refusal := .next (s.receive tile rx)

/-- An ACK arrives (Table 10.14). -/
def execAck (tile : Nat) (rx : List LinkBlock) (s : State) : Host.Outcome State Fault Refusal := .next (s.receive tile rx)

/-- A lane loses its lock (R251).  Tile 16 stands for the cross-link, which loses it alike (R439). -/
def execBlockLockLoss (tile : Nat) (rx : List LinkBlock) (s : State) : Host.Outcome State Fault Refusal :=
  .next (
    if tile = 16 then
      if s.pair.xlock && (rx.foldl (Port.block s.now) ({}, [])).1.lanes.any RxLane.lost then
        (s.modPair (fun p => { p with xlock := false })).xlinkDown 2
      else s
    else s.receive tile rx)

/-! ### Commands (R265, R266) -/

/-- LINK_CTRL on one port. (DEDUCED, unsafe: log entry 51.) -/
def State.linkCtrlTile (s : State) (op t : Nat) : State :=
  let p := s.port t
  let release (s : State) : State :=
    let s := { s with saf := { s.saf with tileHeld := putBit s.saf.tileHeld t false } }
    s.modTile t (fun d => { d with mode := if d.mode = 5 ∨ d.mode = 6 then 0 else d.mode, tries := 0 })
  if op = 1 then
    let s := release s
    if p.state = 5 then
      if p.own then
        (s.modTile t (fun d => { d with mode := 0, firstDue := false })).sendPower t 2 0 0 7
      else s.toTrain t 6
    else if p.state = 0 ∨ (s.tile t).powered = false then s
    else s.toDetect t 6
  else if op = 2 then
    if p.state = 5 ∧ p.own = true then (s.modTile t (fun d => { d with mode := 0, firstDue := false })).sendPower t 2 0 0 8
    else (s.portGo t 0 6).powerSync
  else if p.state = 0 ∧ (s.tile t).powered = true then (s.toDetect t 6).powerSync
  else s

/-- DEDUCED, unsafe: log entry 51. -/
def linkCtrlBody (c : Cmd) (s : State) : Ran :=
  let op := c.f 1 127 120
  let ts := c.f 1 15 0
  if s.dev.state == .safe || s.dev.state == .shutdown then refuse s stBadState
  else if !c.okBits 1 (mask 127 120 + mask 15 0) || decide (op = 0 ∨ 3 < op ∨ ts = 0) then refuse s stBadArg
  else answer ((maskTiles ts).foldl (fun s t => s.linkCtrlTile op t) s) []

/-- LINK_CTRL (R266). -/
def execLinkCtrl (c : Cmd) (s : State) : Host.Outcome State Fault Refusal :=
  .next (hostCmd (.linkCtrl c) { op := 0x0A01 } linkCtrlBody c s)

/-- Table 10.20. -/
def linkWord (p : Port) : Word :=
  packW [at' 127 124 p.state, at' 123 120 p.rate, at' 119 116 p.owner, at' 115 112 p.tstate, at' 111 104 (satN 8 p.retrains),
    at' 103 96 (b2n p.conflict + 2 * b2n (p.mismatch != 0) + 4 * b2n p.geomBad), at' 95 64 p.ownEpoch, at' 63 48 p.rcrc,
    at' 47 32 p.missing, at' 31 16 p.hcrc, at' 15 0 p.rtt]

def linkStatusBody (c : Cmd) (s : State) : Ran :=
  if !c.okBits 1 1 then refuse s stBadArg
  else
    let ws := s.link.ports.map linkWord
    let s' := if c.f 1 0 0 = 1 then
        { s with link := { s.link with ports := s.link.ports.map (fun (p : Port) => { p with retrains := 0, rcrc := 0, missing := 0, hcrc := 0 }) } }
      else s
    answer s' ws

/-- LINK_STATUS (Table 10.20). -/
def execLinkStatus (c : Cmd) (s : State) : Host.Outcome State Fault Refusal :=
  .next (hostCmd (.linkStatus c) { op := 0x0A02 } linkStatusBody c s)

/-- Points of a scan (Table 10.21). -/
def eyePoints (c : Cmd) : Int :=
  let ph := sgn 8 (c.f 1 87 80) - sgn 8 (c.f 1 95 88)
  let v := sgn 8 (c.f 1 63 56) - sgn 8 (c.f 1 71 64)
  (ph / (c.f 1 79 72 : Int) + 1) * (v / (c.f 1 55 48 : Int) + 1)

def eyeArgsOk (c : Cmd) : Bool :=
  let phMin := sgn 8 (c.f 1 95 88)
  let phMax := sgn 8 (c.f 1 87 80)
  c.okBits 1 (mask 127 104 + mask 95 48) && c.okBits 2 (mask 63 0) && decide (c.f 1 127 120 ≤ 15 ∧ c.f 1 119 112 ≤ 3)
    && decide (20 ≤ c.f 1 111 104 ∧ c.f 1 111 104 ≤ 40) && decide (-32 ≤ phMin ∧ phMin ≤ phMax ∧ phMax ≤ 31)
    && decide (1 ≤ c.f 1 79 72 ∧ c.f 1 79 72 ≤ 63) && decide (sgn 8 (c.f 1 71 64) ≤ sgn 8 (c.f 1 63 56))
    && decide (1 ≤ c.f 1 55 48) && c.f 2 3 0 == 0 && decide (eyePoints c ≤ 4096)

def eyeScanBody (c : Cmd) (s : State) : Ran :=
  let t := c.f 1 127 120
  if s.dev.state == .safe || s.dev.state == .shutdown then refuse s stBadState
  else if !eyeArgsOk c then refuse s stBadArg
  else if (s.port t).state ≠ 5 then refuse s stBadState
  else if s.link.eye.isSome then refuse s stBusy
  else
    accept { s with link := { s.link with eye := some {
      job := s.host.nextJob, tile := t, lane := c.f 1 119 112, points := (eyePoints c).toNat, dwell := c.f 1 111 104
      dest := c.f 2 63 0, t0 := s.now } } } .eyeScan

/-- EYE_SCAN (R265). -/
def execEyeScan (c : Cmd) (s : State) : Host.Outcome State Fault Refusal :=
  .next (hostCmd (.eyeScan c) { op := 0x0A03 } eyeScanBody c s)

/-- The scan ends: the error counts are written, and its points and time reported (R265). -/
def execEyeScanCompletion (counts : List Nat) (s : State) : Host.Outcome State Fault Refusal :=
  .next (
    match s.link.eye with
    | none => s
    | some e =>
      let ns := e.points * (2 ^ e.dwell / laneRate (s.port e.tile).rate + 20000)
      let s := s.advanceTo (e.t0 + ns)
      let s := { s with link := { s.link with eye := none } }
      let s := s.emit (.hostWrite e.dest ((padTo 0 e.points counts).flatMap (leBytes 4)))
      s.endJob e.job stOk [packW [at' 127 96 e.points, at' 95 64 ((s.now - e.t0) / 1000000)]])

end Sys2Proof.Machine
end

