-- ==== Sys2Proof/Machine/CommitOps.lean ====
section
/-! DEFINITION. COMMIT: the checks of R59, the values that take effect at each boundary class (R60), and PANEL_MODE
(R289). -/

namespace Sys2Proof.Machine

open Sys2Proof

/-! ### Checks (R59 and the rules that refer to it) -/

/-- An ID where a condition fails. -/
def offends (bad : Bool) (id : Nat) : List Nat := if bad then [id] else []

/-- The lane payload of R263 fits. -/
def laneFits (g : Geom) (fps rate code : Nat) : Bool :=
  decide (g.tileW * g.tileH * g.states * fps * formN code * 100 ≤ 375 * laneRate rate * 1000000000)

/-- The CAPS of an ACTIVE port. -/
def State.activeCaps (s : State) (t : Nat) : Option Caps := if (s.port t).state = 5 then (s.port t).caps else none

/-- R9, R140, R144, R263, R280 and the phase's range. (DEDUCED, unsafe: log entry 76.) -/
def State.checkTiming (s : State) (v : Nat → Nat) (ch : Nat → Bool) (allTiles : Bool) : List Nat :=
  let mode := v 0x0B000001
  let fps := bits mode 7 0
  let rate := v 0x0A000001
  let code := v 0x09000001
  let some' (p : Geom → Bool) : Bool := match s.geomOf (v 0x05000001) with
    | some g => p g
    | none => false
  let states := match s.geomOf (v 0x05000001) with
    | some g => g.states
    | none => 1
  let any := ch 0x05000001 || ch 0x0B000001 || ch 0x0A000001 || ch 0x09000001
  let named (t : Nat) : Bool := allTiles || some' (fun g => (g.entry t).isSome)
  let caps (p : Caps → Bool) : Bool := tileNums.any (fun t => named t && match s.activeCaps t with
    | some c => p c
    | none => false)
  offends ((ch 0x05000001 || ch 0x0B000001) && some' (fun g => decide (rayBudget < rayRate g fps))) (if ch 0x05000001 then 0x05000001 else 0x0B000001) ++
  offends (ch 0x05000001 && tileNums.any (fun t => match s.activeCaps t with
    | some c => some' (fun g => (g.entry t).isSome && (capsDiffer g c).isSome)
    | none => false)) 0x05000001 ++
  offends (any && some' (fun g => !laneFits g fps rate code)) 0x0A000001 ++
  offends (any && caps (fun c => !bit c.rates rate)) 0x0A000001 ++
  offends (any && caps (fun c => !bit c.codes code)) 0x09000001 ++
  offends ((ch 0x05000001 || ch 0x0B000001) && !decide (bits mode 31 16 * 4 * states * fps < 1000000)) 0x0B000001 ++
  offends ((ch 0x0B000003 || ch 0x0B000001) && !decide (v 0x0B000003 * fps < 1000000000)) 0x0B000003

/-- R196 for the value of a `src` in a composition: 1 PANEL, 2 MONITOR, 3 RETURN. -/
def State.srcOk (s : State) (comp v : Nat) : Bool :=
  if v = 0 then true
  else if 0xFF00000000000000 ≤ v then decide (v ≤ 0xFF00000000000006)
  else if 0xFE00000000000000 ≤ v then comp != 1 && decide (v ≤ 0xFE00000000000003)
  else
    match s.obj? v with
    | none => false
    | some o => o.cls == 6 || (o.cls == 2 && comp != 1 && decide ((surfHeader o.data).2.1 ≤ 8192))

/-- Width and height of a tap over a geometry (R207). -/
def tapSize (g : Geom) (v : Nat) : Nat × Nat :=
  let d := 2 ^ bits v 55 52
  (g.cols * g.tileW / g.nu / d * (bits v 51 50 + 1), g.rows * g.tileH / g.nw / d * (bits v 49 48 + 1))

/-- The views of a tap's cells (R207). -/
def tapViews (v : Nat) : List Nat :=
  (List.range (bits v 49 48 + 1)).flatMap (fun r => (List.range (bits v 51 50 + 1)).map (fun c => bits v 47 40 + c * bits v 39 32 + r * bits v 31 24))

/-- R196 and R208. -/
def State.checkComp (s : State) (v : Nat → Nat) (ch : Nat → Bool) : List Nat :=
  let srcs := [1, 2, 3].flatMap (fun k => (List.range 8).map (fun n => (k, 0x08000010 + 0x100 * k + n)))
  let bad := srcs.filter (fun x => ch x.2 && !s.srcOk x.1 (v x.2))
  let tapIds := (List.range 4).map (fun t => 0x08000010 + t)
  let on := tapIds.filter (fun i => bits (v i) 63 56 != 0)
  let any := ch 0x05000001 || tapIds.any ch
  let taps : List Nat := match s.geomOf (v 0x05000001) with
    | none => on
    | some g =>
      on.filter (fun i => (tapViews (v i)).any (fun n => decide (g.nax * g.nay ≤ n)) || decide (8192 < (tapSize g (v i)).1)) ++
      (if 8388608 < sumN (on.map (fun i => (tapSize g (v i)).1 * (tapSize g (v i)).2)) then on.take 1 else [])
  bad.map (·.2) ++ (if any then taps else [])

/-- R287 and R361. -/
def checkMon (v : Nat → Nat) (ch : Nat → Bool) : List Nat :=
  let h := v 0x0B000010
  let w := v 0x0B000011
  let ha := bits h 63 48
  let ht := bits h 47 32
  let va := bits w 63 48
  let vt := bits w 47 32
  let khz := v 0x0B000012
  let sync (a t st wd : Nat) : Bool := decide (st ≤ a) || decide (t < st + wd)
  if !(ch 0x0B000010 || ch 0x0B000011 || ch 0x0B000012 || ch 0x0B000013 || ch 0x0F000002 || ch 0x08000006) then []
  else
    offends (decide (ha < 640 ∨ 8192 < ha ∨ ht < ha + 80) || ha % 8 != 0 || sync ha ht (bits h 31 16) (bits h 15 0)) 0x0B000010 ++
    offends (decide (va < 480 ∨ 4320 < va ∨ vt < va + 8) || sync va vt (bits w 31 16) (bits w 15 0)) 0x0B000011 ++
    offends (decide (khz * 1000 < 23 * ht * vt ∨ 121 * ht * vt < khz * 1000)) 0x0B000012 ++
    offends (!monFits khz (bits (v 0x08000006) 15 8) (v 0x0F000002)) 0x0B000012

/-- TILE_W, TILE_H and tile numbers of a map agree with a geometry (R295). -/
def mapAgrees (g : Geom) (k : Nat) (bs : List Byte) : Bool :=
  bits (wordAt bs 1) 127 112 == g.tileW && bits (wordAt bs 1) 111 96 == g.tileH && mapTiles k bs == g.tiles.map (·.tile)

/-- R295. -/
def State.checkMaps (s : State) (v : Nat → Nat) (ch : Nat → Bool) : List Nat :=
  let kind (id k : Nat) : List Nat := match s.obj? (v id) with
    | some o => offends (ch id && v id != 0 && mapKind o != k) id
    | none => []
  let bad (g : Geom) (id k : Nat) : Bool := match s.objBytes (v id) with
    | some bs => !mapAgrees g k bs
    | none => false
  kind 0x0C000001 1 ++ kind 0x0C000002 3 ++ kind 0x0C000003 2 ++
  (match s.geomOf (v 0x05000001) with
   | none => []
   | some g =>
     if (ch 0x05000001 || ch 0x0C000001 || ch 0x0C000004) && (bad g 0x0C000001 6 || bad g 0x0C000004 12) then
       [if ch 0x05000001 then 0x05000001 else if ch 0x0C000001 then 0x0C000001 else 0x0C000004]
     else [])

/-- R349, R351, R355 and R407 for one stream. -/
def State.checkEnc (s : State) (v : Nat → Nat) (n : Nat) : List Nat :=
  let e (k : Nat) := v (encId n k)
  let w := bits (e 3) 31 16
  let h := bits (e 3) 15 0
  let rw := bits (v 0x0800000C) 31 16
  let rh := bits (v 0x0800000C) 15 0
  let ow := if bit (e 4) 0 then h else w
  let oh := if bit (e 4) 0 then w else h
  let ratio (o i : Nat) : Bool := decide (i ≤ 8 * o ∧ o ≤ 2 * i)
  let codec := e 2
  let ctus := Nat.min (e 7) (ctuRows codec h) * ceilDiv w (ctuSize codec)
  let least := 256 + 4 * ctus
  let slices := sliceCount codec h (e 7)
  let held := countP (fun (b : Basket) => b.item == 15 + n) s.place.reserved
  let flow := s.time.flows.find? (fun (f : Flow) => f.n == e 11 && f.op == 2)
  let flowOk := flow.isSome
  -- R358: the flow's payload limit, `net.p.mtu` − 28 bytes
  let limit := match flow with
    | some f => v (0x12000102 + 0x10 * f.port) - 28
    | none => 0
  offends (e 10 == 1 && !flowOk) (encId n 11) ++
  (if e 1 = 0 then []
   else
     offends (!ratio ow rw || !ratio oh rh) (encId n 3) ++
     offends (codec == 0 && bits (v 0x0800000A) 15 8 == 10) (encId n 2) ++
     offends (decide (2 < encTeam w h (bits (v 0x0B000001) 7 0) (e 5))) (encId n 3) ++
     offends (decide (s.freeBaskets + held < encBaskets w h)) (encId n 1) ++
     offends (e 10 == 0 && (s.encS n).ring.isNone) (encId n 1) ++
     offends (e 10 == 1 && flowOk && decide (limit < e 8 + 32)) (encId n 8) ++
     offends (decide (e 8 < least)) (encId n 8) ++
     offends (decide (e 6 * 1000 * e 5 < 8 * least * slices * bits (v 0x0B000001) 7 0)) (encId n 6))

/-- The encoder's share of the checks. -/
def State.checkEncs (s : State) (v : Nat → Nat) (ch : Nat → Bool) : List Nat :=
  let near (n : Nat) : Bool := (List.range 11).any (fun k => ch (encId n (k + 1)))
  let team (n : Nat) : Nat :=
    if v (encId n 1) = 0 then 0
    else encTeam (bits (v (encId n 3)) 31 16) (bits (v (encId n 3)) 15 0) (bits (v 0x0B000001) 7 0) (v (encId n 5))
  let need (n : Nat) : Nat := if v (encId n 1) = 0 then 0 else encBaskets (bits (v (encId n 3)) 31 16) (bits (v (encId n 3)) 15 0)
  let held := countP (fun (b : Basket) => b.item == 15 || b.item == 16) s.place.reserved
  let all := ch 0x0800000A || ch 0x0800000C || ch 0x0B000001 || (List.range 4).any (fun p => ch (0x12000102 + 0x10 * p))
  [0, 1].flatMap (fun n => if near n || all then s.checkEnc v n else []) ++
  offends ((near 0 || near 1 || all) && (decide (2 < team 0 + team 1) || decide (s.freeBaskets + held < need 0 + need 1)))
    (if near 0 then encId 0 1 else encId 1 1)

/-- R167, R425 and the AVS limits (section 17.10). (DEDUCED, unsafe: log entry 22; DEDUCED, unsafe: log entry 76.) -/
def checkRest (v : Nat → Nat) (ch : Nat → Bool) : List Nat :=
  offends ((ch 0x0600000F || ch 0x06000010) && decide (v 0x0600000F < v 0x06000010)) (if ch 0x0600000F then 0x0600000F else 0x06000010) ++
  offends ((ch 0x13000004 || ch 0x13000005) && decide (v 0x13000005 < v 0x13000004)) (if ch 0x13000004 then 0x13000004 else 0x13000005) ++
  offends ((ch 0x14000001 || ch 0x0B000001) && v 0x14000001 == 1 && !(([48, 50, 60] : List Nat).contains (bits (v 0x0B000001) 7 0)))
    (if ch 0x14000001 then 0x14000001 else 0x0B000001)

/-- Spec/16: PPS_OUT names a base that runs (R385); two bases on one port have different domains (R391); Clause 108 FEC stands
with mode 2 (Table 16.22). (DEDUCED, unsafe: log entry 62.) -/
def State.checkTime (s : State) (v : Nat → Nat) (ch : Nat → Bool) : List Nat :=
  let pps := bits (v 0x12000053) 7 0
  let on (n : Nat) : Bool := bits (v (0x12000000 + n)) 31 24 != 0
  offends (ch 0x12000053 && pps != 0 && (s.baseV (pps - 1)).isNone) 0x12000053 ++
  offends ((ch 0x12000001 || ch 0x12000002) && on 1 && on 2 && bits (v 0x12000001) 23 8 == bits (v 0x12000002) 23 8)
    (if ch 0x12000001 then 0x12000001 else 0x12000002) ++
  (List.range 4).flatMap (fun p =>
    let m := 0x12000100 + 0x10 * p
    offends ((ch m || ch (m + 1)) && v (m + 1) == 2 && v m != 2) (if ch (m + 1) then m + 1 else m))

/-- Values of a COMMIT that name a LOST object (R191), by the ID that names it. -/
def State.checkLost (s : State) (v : Nat → Nat) (ch : Nat → Bool) : List Nat :=
  s.par.staged.flatMap (fun p => offends (ch p.id && (paramDef p.id).any (fun d =>
    (valueObject d (v p.id)).any (fun o => (s.obj? o).any (·.lost)))) p.id)

/-- The first offending parameter: the lowest ID (R59).
(DESIGN CHOICE, unsafe: log entry 21; DEDUCED, unsafe: log entry 76.) -/
def State.offendingId (s : State) (v : Nat → Nat) (ch : Nat → Bool) : Option Nat :=
  let ids := s.checkTiming v ch false ++ s.checkComp v ch ++ checkMon v ch ++ s.checkMaps v ch ++ s.checkEncs v ch ++ checkRest v ch ++ s.checkTime v ch ++ s.checkLost v ch
  match ids with
  | [] => none
  | i :: is => some (minN i (i :: is))

/-! ### Values take effect (R60) -/

/-- The COMMIT completes once its last value has taken effect. -/
def State.finishCommit (s : State) : State :=
  match s.par.commit with
  | none => s
  | some c =>
    if c.panel.isEmpty && c.monitor.isEmpty && c.swap.isEmpty && !c.waits then
      ({ s with par := { s.par with commit := none } } : State).endJob c.job stOk
        [packW [at' 63 32 (c.panelDone.getD 0xFFFFFFFF), at' 31 0 (c.monitorDone.getD 0xFFFFFFFF)]]
    else s

/-- A geometry differs structurally from the one in force; the first one after BOOT does (R142). -/
def State.structuralTo (s : State) (id : Nat) : Bool :=
  match s.geom, s.geomOf id with
  | some a, some b => structural a b
  | none, some _ => true
  | _, none => false

/-- The encoder after its parameters (R350, Table 14.3). -/
def State.encTake (s : State) (old : State) (n : Nat) : State :=
  let differ (k : Nat) : Bool := old.encP n k != s.encP n k
  if old.encP n 1 = 0 ∧ s.encP n 1 = 1 then (if s.dev.state == .boot then s else s.encEnable n)
  else if old.encP n 1 = 1 ∧ s.encP n 1 = 0 then s.encDisable n
  else if s.encP n 1 = 1 then
    let other := [2, 4, 5, 7, 10, 11].any differ || old.pget 0x0800000A != s.pget 0x0800000A
    if differ 3 || other then s.encChanged n (differ 3) other else s
  else s

/-- The monitor after its parameters (R288, R362). -/
def State.monTake (s : State) (old : State) : State :=
  let differ (id : Nat) : Bool := old.pget id != s.pget id
  if differ 0x0B000013 then
    if s.pget 0x0B000013 = 0 then s.monStop 0 4 else s.monBegin 4
  else if s.pget 0x0B000013 = 0 then s
  else
    let raster := differ 0x0B000010 || differ 0x0B000011 || differ 0x0B000012
    let s := if raster then
        let h := s.pget 0x0B000010
        let v := s.pget 0x0B000011
        let mhz := s.pget 0x0B000012 * 1000000 / (bits h 47 32 * bits v 47 32)
        let s := { s with tim := { s.tim with monFrame := 0, monBegun := false, monT0 := s.now } }
        s.raise 0x0B 6 1 (packNat [at' 63 48 (bits h 63 48), at' 47 32 (bits v 63 48), at' 31 0 mhz]) 0
      else s
    if (differ 0x0F000001 || differ 0x0F000002) && s.tim.monState == 1 then (s.monIdleNow 4).monTrain 4 else s

/-- A new geometry in force (R141, R142, R144). -/
def State.geomTake (s : State) (old : State) : State :=
  if old.pget 0x05000001 = s.pget 0x05000001 then s
  else
    let st := old.structuralTo (s.pget 0x05000001)
    let s := s.raise 5 1 1 (s.pget 0x05000001) (s.arg2f + b2n st * 2 ^ 8)
    (tileNums.foldl (fun s t => if (s.port t).state = 5 then s.checkGeomMatch t else s) s).maybeStartSynth

/-- A parameter has another value in force than it had. -/
def State.differs (s old : State) (id : Nat) : Bool := old.pget id != s.pget id

/-- Another code: CMP_CODE_APPLIED (R227). -/
def State.codeTake (s old : State) : State :=
  if s.differs old 0x09000001 then s.raise 9 1 1 (s.pget 0x09000001 * 2 ^ 56) s.arg2f else s

/-- Another code or link rate is held against the CAPS of every ACTIVE tile (R263). -/
def State.linkTake (s old : State) : State :=
  if s.differs old 0x09000001 || s.differs old 0x0A000001 then
    tileNums.foldl (fun s t => if (s.port t).state = 5 then s.checkCaps t else s) s
  else s

/-- Another rowguard mode empties tables and queues at the next refresh window (R338); a value of `safety.host_hb_ms` begins its
time (R434). -/
def State.guardTake (s old : State) (ids : List Nat) : State :=
  { s with
    mem := { s.mem with guardClear := s.mem.guardClear || s.differs old 0x0D000001 }
    saf := { s.saf with hbAt := if ids.contains 0x14000002 then s.now else s.saf.hbAt } }

/-- The time bases and the network ports (spec/16). -/
def State.timeTake (s old : State) (ids : List Nat) : State :=
  let s := if ids.contains 0x12000051 || ids.contains 0x12000052 then s.tb3Params else s
  let s := if s.differs old 0x12000050 then s.limitRates else s
  let s := [1, 2].foldl (fun s n => if s.differs old (0x12000000 + n) then s.ptpParams n else s) s
  (List.range 4).foldl (fun s p =>
    if s.differs old (0x12000100 + 0x10 * p) || s.differs old (0x12000101 + 0x10 * p) then s.netRetrain p else s) s

/-- What parameters bring about as they come into force.
(DEDUCED, unsafe: log entry 22; DESIGN CHOICE, unsafe: log entry 78.) -/
def State.takeEffects (s : State) (old : State) (ids : List Nat) : State :=
  let s := ((s.geomTake old).codeTake old).linkTake old
  let s := (s.guardTake old ids).timeTake old ids
  let s := ((s.encTake old 0).encTake old 1).monTake old
  (if ids.contains 0x07000004 then s.capacityCheck else s).powerSync

/-- Values come into force together. -/
def State.bring (s : State) (vals : List PVal) : State :=
  if vals.isEmpty then s
  else (vals.foldl (fun s (p : PVal) => s.pset p.id p.v) s).takeEffects s (vals.map (·.id))

/-- The parameters whose values take effect at the swap of R300 (Table 12.12). (DEDUCED, unsafe: log entry 22.) -/
def swapIds : List Nat := [0x0C000001, 0x0C000003, 0x0C000004, 0x0C000005, 0x0C000006]

/-- The present state permits a value: in PARASOL no structural change (R143) and no change of the code (R228); the other
states that serve a COMMIT permit every value (Table 2.26). -/
def State.permits (s : State) (p : PVal) : Bool :=
  if s.dev.state != .parasol then true
  else if p.id = 0x09000001 then p.v == s.pget p.id
  else if p.id = 0x05000001 then p.v == s.pget p.id || !s.structuralTo p.v
  else true

/-- The PANEL_FRAME values of the pending COMMIT take effect at frame f (R60, R295, R300).
(DEDUCED, unsafe: log entry 22.) -/
def State.applyPanel (s : State) (f : Nat) : State :=
  match s.par.commit with
  | none => s
  | some c =>
    if c.panel.isEmpty then s
    else if c.panel.any (fun (p : PVal) => !s.permits p) then s.dropCommit stBadState
    else
      let old := s
      let corr := c.panel.filter (fun (p : PVal) => swapIds.contains p.id)
      let rest := c.panel.filter (fun (p : PVal) => !swapIds.contains p.id)
      let s := { s with par := { s.par with
        commit := some { c with panel := [], panelDone := some f }
        mark := if rest.any (fun (p : PVal) => p.id == 0x01000001) then f else s.par.mark } }
      let s := s.bring rest
      let newGeom := old.pget 0x05000001 != s.pget 0x05000001
      let newCorr := corr.any (fun (p : PVal) => s.pget p.id != p.v)
      if s.geom.isNone || (!newGeom && !newCorr) then (s.bring corr).finishCommit
      else
        let s := match s.par.commit with
          | some c => { s with par := { s.par with commit := some { c with swap := corr, waits := true } } }
          | none => s
        s.askRebuild (some c.job)

/-- The MONITOR_FRAME values take effect at monitor frame f. (DEDUCED, unsafe: log entry 22.) -/
def State.applyMonitor (s : State) (f : Nat) : State :=
  match s.par.commit with
  | none => s
  | some c =>
    if c.monitor.isEmpty then s
    else if c.monitor.any (fun (p : PVal) => !s.permits p) then s.dropCommit stBadState
    else
      let s := { s with par := { s.par with commit := some { c with monitor := [], monitorDone := some f } } }
      (s.bring c.monitor).finishCommit

/-- The rebuild ends, with the values of the COMMIT it is for; its result waits for the swap (R300).
(DEDUCED, unsafe: log entry 22; DESIGN CHOICE, unsafe: log entry 58.) -/
def State.endRebuild (s : State) : State :=
  match s.panel.rebuild with
  | none => s
  | some r =>
    if r.result.isSome then s
    else
      let own : List PVal := match s.par.commit with
        | some c => if r.job = some c.job then c.swap else []
        | none => []
      let m := s.buildGain (fun id => (pfind own id).getD (s.pget id))
      { s with panel := { s.panel with rebuild := some { r with result := some m, at_ := s.openFrame } } }

/-- The swap: PANEL_GAIN_MAP, the COMMIT whose values the rebuild used, and a further rebuild where a trigger waits
(R300). (DEDUCED, unsafe: log entry 22.) -/
def State.gainSwap (s : State) (f : Nat) : State :=
  match s.panel.rebuild with
  | none => s
  | some r =>
    match r.result with
    | none => s
    | some m =>
      let next := s.panel.rebuildNext
      let s := { s with panel := { s.panel with gain := m, swapAt := s.now, rebuild := none, rebuildNext := none } }
      let s := s.raise 0x0C 6 (if m.clipped = 0 then 1 else 2) (Nat.min 0xFFFFFFFF m.clipped * 2 ^ 32 + Nat.min 0xFFFFFFFF m.boosted) s.arg2f
      let s := match s.par.commit with
        | none => s
        | some c =>
          if r.job ≠ some c.job then s
          else
            let s := { s with par := { s.par with commit := some { c with swap := [], waits := false, panelDone := if c.mode then c.panelDone else some f } } }
            (s.bring c.swap).finishCommit
      match next with
      | some j => s.askRebuild j
      | none => s

/-! ### COMMIT (R59 to R62, R274) -/

/-- The staged values that a COMMIT takes. -/
def State.commitTakes (s : State) (m : Nat) : List PVal :=
  s.par.staged.filter (fun (p : PVal) => maskTakes m p.id && match paramDef p.id with
    | some d => decide (d.cls ≠ .restart)
    | none => false)

/-- The values of one boundary class. -/
def ofClass (k : PClass) (l : List PVal) : List PVal :=
  l.filter (fun (p : PVal) => match paramDef p.id with
    | some d => decide (d.cls = k)
    | none => false)

/-- The number of frames after the next one that the first beginning a pair lies, among n (R274). -/
def Tim.firstBegin (t : Tim) : Nat → Nat → Nat
  | 0, j => j
  | n + 1, j => if t.begins j then j else t.firstBegin n (j + 1)

/-- The frame that begins a pair and whose window has closed, where the values wait for it (R60, R274).
(DEDUCED, unsafe: log entry 22.) -/
def State.missedFrame (s : State) : Option Nat :=
  let j := s.tim.firstBegin 2 0
  if s.tim.on && decide (s.tim.tfNs j ≤ s.now + 500000) then some ((s.tim.nextFrame.toNat + j) % 2 ^ 32) else none

/-- A target frame as frames begin pairs (R274). (DEDUCED, unsafe: log entry 22.) -/
def State.targetFrame (s : State) (t : Nat) : Nat :=
  let d := sdiff 32 t s.tim.nextFrame.toNat
  if 0 ≤ d ∧ s.tim.begins d.toNat = false then (t + 1) % 2 ^ 32 else t

/-- ns of a monitor frame. -/
def State.monPeriod (s : State) : Nat := ceilDiv (bits (s.pget 0x0B000010) 47 32 * bits (s.pget 0x0B000011) 47 32 * 1000000) (s.pget 0x0B000012)

/-- The monitor generator runs, so that MONITOR_FRAME values wait for a blanking (R288). -/
def State.monRuns (s : State) : Bool := s.pget 0x0B000013 == 1 && s.tim.monState == 1

/-- The number of the next monitor frame, and whether its window has closed. -/
def State.nextMon (s : State) : Nat × Bool :=
  ((if s.tim.monBegun then s.tim.monFrame.toNat + 1 else 0) % 2 ^ 32,
   s.tim.monBegun && decide (s.tim.monT0 + s.monPeriod ≤ s.now + 500000))

/-- A value of the values taken changes what runs the timing mode change (section 11.4).
(DEDUCED, unsafe: log entry 22.) -/
def State.modeChanges (s : State) (v : Nat → Nat) : Bool :=
  [0x0B000001, 0x0A000001, 0x09000001].any (fun id => v id != s.pget id) ||
    (v 0x05000001 != s.pget 0x05000001 && s.structuralTo (v 0x05000001))

def commitBody (c : Cmd) (s : State) : Ran :=
  if s.par.commit.isSome then refuse s stBusy
  else if !c.okBits 1 (mask 64 32 + 0x7FFFFE) then refuse s stBadArg
  else
    let take := s.commitTakes (c.f 1 31 0)
    let v (id : Nat) : Nat := (pfind take id).getD (s.pget id)
    let ch (id : Nat) : Bool := take.any (fun (p : PVal) => p.id == id)
    let target := if c.f 1 64 64 = 1 then some (c.f 1 63 32) else none
    if s.dev.state == .parasol && (v 0x09000001 != s.pget 0x09000001
        || (v 0x05000001 != s.pget 0x05000001 && s.structuralTo (v 0x05000001))) then refuse s stBadState
    else
      match s.offendingId v ch with
      | some id => { s := s, a := { status := stBadArg, payload := offending id 0 } }
      | none =>
        let late := match target with
          | some t => s.tim.on && after 32 s.openFrame (s.targetFrame t)
          | none => false
        if late then refuse s stLate
        else
          let mon := s.nextMon
          let p : PendingCommit := {
            job := s.host.nextJob
            tag := c.tag.toNat
            all := take
            panel := ofClass .panelFrame take
            monitor := ofClass .monitorFrame take
            target := target
            panelAt := match target with
              | some t => s.targetFrame t
              | none => s.openFrame
            monitorAt := if mon.2 then (mon.1 + 1) % 2 ^ 32 else mon.1
            mode := s.dev.state != .parasol && s.modeChanges v }
          let s := { s with par := { s.par with staged := s.par.staged.filter (fun (q : PVal) => !ch q.id) } }
          let s := s.bring (ofClass .immediate take)
          accept { s with par := { s.par with commit := some p } } .commit

/-- After its acceptance: COMMIT_LATE, values of a monitor that does not run, and the end of a COMMIT that waits for
nothing (R60, R288). (DEDUCED, unsafe: log entry 22.) -/
def commitPost (_ : Cmd) (s : State) : State :=
  match s.par.commit with
  | none => s
  | some c =>
    let s := match s.missedFrame with
      | some m =>
        if !c.panel.isEmpty && c.target.isNone then
          s.raise 1 3 2 (m * 2 ^ 32 + c.panelAt) (packNat [at' 47 40 1, at' 31 16 c.tag])
        else s
      | none => s
    let s := if s.monRuns && s.nextMon.2 && !c.monitor.isEmpty then
        s.raise 1 3 2 (s.nextMon.1 * 2 ^ 32 + c.monitorAt) (packNat [at' 47 40 2, at' 31 16 c.tag])
      else s
    let s := if s.monRuns then s else s.applyMonitor s.tim.monFrame.toNat
    s.finishCommit

/-- COMMIT (R59). -/
def execCommit (c : Cmd) (s : State) : Host.Outcome State Fault Refusal :=
  .next (hostCmdWith (.commit c) { op := 0x0107 } commitBody commitPost c s)

/-! ### PANEL_MODE (R289) -/

def panelModeBody (c : Cmd) (s : State) : Ran :=
  let fl := c.f 1 127 120
  let rate := c.f 1 119 112
  let code := c.f 1 111 104
  let staged (id : Nat) : Nat := (pfind s.par.staged id).getD (s.pget id)
  let vals : List PVal := [({ id := 0x0B000001, v := c.f 1 63 0 } : PVal)] ++
    (if bit fl 0 then [({ id := 0x0A000001, v := rate } : PVal)] else []) ++ (if bit fl 1 then [({ id := 0x09000001, v := code } : PVal)] else [])
  let v (id : Nat) : Nat := (pfind vals id).getD (staged id)
  if !c.okBits 1 (mask 127 104 + mask 63 0) || decide (3 < fl) || (!bit fl 0 && rate != 0) || (!bit fl 1 && code != 0) then refuse s stBadArg
  else
    let range := vals.filter (fun (p : PVal) => match paramDef p.id with
      | some d => !s.valueOk d p.v
      | none => true)
    let ids := range.map (·.id) ++ (s.checkTiming v (fun id => id == 0x0B000001 || id == 0x0A000001 || id == 0x09000001) true).filter (· != 0x0B000003)
    match ids with
    | [] => answer { s with par := { s.par with staged := vals.foldl (fun l (p : PVal) => pput l p.id p.v) s.par.staged } } []
    | i :: is => { s := s, a := { status := stBadArg, payload := offending (minN i (i :: is)) 0 } }

/-- PANEL_MODE (R289). -/
def execPanelMode (c : Cmd) (s : State) : Host.Outcome State Fault Refusal :=
  .next (hostCmd (.panelMode c) { op := 0x0B01 } panelModeBody c s)

end Sys2Proof.Machine
end

