-- ==== Sys2Proof/Machine/HashMath.lean ====
section
/-! DEFINITION. The three forms of the decoded picture hash (R108): MD5, CRC and checksum of a plane.  The spec names them
and leaves their arithmetic to the coding standards.  (PRESUMED, unsafe: log entry 87.) -/

namespace Sys2Proof.Machine

open Sys2Proof

/-! ### MD5 -/

/-- The additive constants of MD5: the integer parts of 2^32 |sin n| for n from 1 to 64. -/
def md5Add : List Nat :=
  [0xd76aa478, 0xe8c7b756, 0x242070db, 0xc1bdceee, 0xf57c0faf, 0x4787c62a, 0xa8304613, 0xfd469501,
   0x698098d8, 0x8b44f7af, 0xffff5bb1, 0x895cd7be, 0x6b901122, 0xfd987193, 0xa679438e, 0x49b40821] ++
  [0xf61e2562, 0xc040b340, 0x265e5a51, 0xe9b6c7aa, 0xd62f105d, 0x02441453, 0xd8a1e681, 0xe7d3fbc8,
   0x21e1cde6, 0xc33707d6, 0xf4d50d87, 0x455a14ed, 0xa9e3e905, 0xfcefa3f8, 0x676f02d9, 0x8d2a4c8a] ++
  [0xfffa3942, 0x8771f681, 0x6d9d6122, 0xfde5380c, 0xa4beea44, 0x4bdecfa9, 0xf6bb4b60, 0xbebfbc70,
   0x289b7ec6, 0xeaa127fa, 0xd4ef3085, 0x04881d05, 0xd9d4d039, 0xe6db99e5, 0x1fa27cf8, 0xc4ac5665] ++
  [0xf4292244, 0x432aff97, 0xab9423a7, 0xfc93a039, 0x655b59c3, 0x8f0ccc92, 0xffeff47d, 0x85845dd1,
   0x6fa87e4f, 0xfe2ce6e0, 0xa3014314, 0x4e0811a1, 0xf7537e82, 0xbd3af235, 0x2ad7d2bb, 0xeb86d391]

/-- The rotations of a round. -/
def md5Rot (round step : Nat) : Nat :=
  match round with
  | 0 => [7, 12, 17, 22].getD (step % 4) 0
  | 1 => [5, 9, 14, 20].getD (step % 4) 0
  | 2 => [4, 11, 16, 23].getD (step % 4) 0
  | _ => [6, 10, 15, 21].getD (step % 4) 0

/-- The state of MD5. -/
structure Md5 where
  a : BitVec 32 := 0x67452301
  b : BitVec 32 := 0xefcdab89
  c : BitVec 32 := 0x98badcfe
  d : BitVec 32 := 0x10325476
  deriving DecidableEq, Repr

/-- One step on a block of 16 words. -/
def Md5.step (m : List (BitVec 32)) (s : Md5) (i : Nat) : Md5 :=
  let (f, g) : BitVec 32 × Nat :=
    match i / 16 with
    | 0 => ((s.b &&& s.c) ||| (~~~s.b &&& s.d), i)
    | 1 => ((s.d &&& s.b) ||| (~~~s.d &&& s.c), 5 * i + 1)
    | 2 => (s.b ^^^ s.c ^^^ s.d, 3 * i + 5)
    | _ => (s.c ^^^ (s.b ||| ~~~s.d), 7 * i)
  let x := s.a + f + BitVec.ofNat 32 (md5Add.getD i 0) + m.getD (g % 16) 0
  { a := s.d, b := s.b + x.rotateLeft (md5Rot (i / 16) i), c := s.b, d := s.c }

/-- One block of 64 bytes. -/
def Md5.block (s : Md5) (bs : List Byte) : Md5 :=
  let m := (List.range 16).map (fun k => BitVec.ofNat 32 (bytesAt bs (4 * k) 4))
  let e := (List.range 64).foldl (fun e i => e.step m i) s
  { a := s.a + e.a, b := s.b + e.b, c := s.c + e.c, d := s.d + e.d }

/-- n blocks of a padded message. -/
def Md5.blocks : Nat → Md5 → List Byte → Md5
  | 0, s, _ => s
  | n + 1, s, bs => Md5.blocks n (s.block (bs.take 64)) (bs.drop 64)

/-- The digest, its first byte the most significant. -/
def md5 (bs : List Byte) : Nat :=
  let n := bs.length
  let msg := bs ++ [0x80] ++ List.replicate ((119 - n % 64) % 64) 0 ++ leBytes 8 (8 * n)
  let s := Md5.blocks (msg.length / 64) {} msg
  (leBytes 4 s.a.toNat ++ leBytes 4 s.b.toNat ++ leBytes 4 s.c.toNat ++ leBytes 4 s.d.toNat).foldl (fun v b => v * 256 + b.toNat) 0

/-! ### CRC and checksum of a plane -/

/-- The bytes of a sample: one up to 8 bits, else two, the low one first. -/
def sampleBytes (depth v : Nat) : List Byte := leBytes (if depth ≤ 8 then 1 else 2) v

/-- One bit into the 16-bit CRC. -/
def planeCrcBit (r : Nat) (b : Bool) : Nat := (2 * r + b2n b) % 65536 ^^^ (if 32768 ≤ r then 0x1021 else 0)

def planeCrcByte (r : Nat) (v : Byte) : Nat := (List.range 8).foldl (fun r k => planeCrcBit r (v.getLsbD (7 - k))) r

/-- CRC of a plane: its bytes, then 16 bits of zero. -/
def planeCrc (bs : List Byte) : Nat := (bs ++ [0, 0]).foldl planeCrcByte 0xFFFF

/-- What one sample adds to the checksum of its plane. -/
def checkAdd (w depth n v : Nat) : Nat :=
  let x := n % w
  let y := n / w
  let m := (x % 256) ^^^ (y % 256) ^^^ (x / 256) ^^^ (y / 256)
  (v % 256 ^^^ m) + (if depth ≤ 8 then 0 else v / 256 ^^^ m)

/-- The checksum of a plane, from the sample numbered n on. -/
def planeSum (w depth : Nat) : Nat → List Nat → Nat
  | _, [] => 0
  | n, v :: vs => (checkAdd w depth n v + planeSum w depth (n + 1) vs) % 2 ^ 32

/-- The hash of a plane w samples wide, as the coding standards compute it. (PRESUMED, unsafe: log entry 87.) -/
def planeHash (method w depth : Nat) (vs : List Nat) : Nat :=
  match method with
  | 0 => md5 (vs.flatMap (sampleBytes depth))
  | 1 => planeCrc (vs.flatMap (sampleBytes depth))
  | _ => planeSum w depth 0 vs

end Sys2Proof.Machine
end

