-- ==== Sys2Proof/Machine/DecodeMath.lean ====
section
/-! DEFINITION. The arithmetic of the decode array: what streams it accepts (Table 4.1, R105, R106), how a picture divides
among cores (R112), the conformance window (R107) and the CTUs of a stopped slice (R116, R118, R124). -/

namespace Sys2Proof

open Sys2Proof.Machine

/-! ### Accepted streams (R105, R106) -/

/-- A row of Table 4.1: the codec of Table 3.3, chroma_format_idc values, bit depths. -/
structure ProfileRow where
  codec : Nat
  chromas : List Nat
  lo : Nat := 8
  hi : Nat
  deriving DecidableEq, Repr

/-- Table 4.1. -/
def profileRow : Profile → Option ProfileRow
  | .hevcMain => some { codec := 1, chromas := [1], hi := 8 }
  | .hevcMain10 => some { codec := 1, chromas := [1], hi := 10 }
  | .hevcMain444x10 => some { codec := 1, chromas := [0, 1, 3], hi := 10 }
  | .hevcMono12 => some { codec := 1, chromas := [0], hi := 12 }
  | .hevcMono16 => some { codec := 1, chromas := [0], hi := 16 }
  | .vvcMain10 => some { codec := 2, chromas := [0, 1], hi := 10 }
  | .vvcMain10x444 => some { codec := 2, chromas := [0, 1, 3], hi := 10 }
  | .other => none

/-- Width and height after the conformance window. -/
def SeqSets.w (q : SeqSets) : Nat := q.codedW - q.left - q.right

def SeqSets.h (q : SeqSets) : Nat := q.codedH - q.top - q.bottom

/-- The item and value of DECODE_UNSUPPORTED for parameter sets that a stream of a codec may not use; of several items the
lowest. (DESIGN CHOICE, unsafe: log entry 88.) -/
def SeqSets.bad (q : SeqSets) (codec : Nat) : Option (Nat × Nat) :=
  match profileRow q.profile with
  | none => some (1, q.profileIdc)
  | some r =>
    if r.codec ≠ codec then some (1, q.profileIdc)
    else if 62 < q.level then some (2, q.levelIdc)
    else if !r.chromas.contains q.chroma then some (3, q.chroma)
    else if q.bits < r.lo ∨ r.hi < q.bits then some (4, q.bits)
    else if q.reorder ≠ 0 then some (5, q.reorder)
    else if 8 < q.dpbMinus1 + 1 then some (6, q.dpbMinus1)
    else if q.resampling ≠ 0 then some (7, q.resampling)
    else if q.fieldSeq ≠ 0 then some (8, q.fieldSeq)
    else if 8192 < q.w then some (9, q.w)
    else if 4320 < q.h then some (9, q.h)
    else none

/-- The access unit carries a slice with `nuh_layer_id` 0; other layers are ignored (R105, R123). -/
def AuInfo.slices (i : AuInfo) : Bool := i.nals.any (fun n => n.layer == 0 && n.slice)

/-- The parameter sets that the access unit carries. -/
def AuInfo.carried (i : AuInfo) : List (Nat × SeqSets) := i.nals.filterMap (fun n => if n.layer = 0 then n.sets else none)

/-- A random-access point (section 4.2). -/
def AuInfo.rap (i : AuInfo) : Bool := i.kind == 1 || i.kind == 2 || i.kind == 4

/-! ### How a picture divides (R112, R113) -/

/-- CTU columns and rows. -/
def SeqSets.cols (q : SeqSets) : Nat := ceilDiv q.codedW q.ctu

def SeqSets.rows (q : SeqSets) : Nat := ceilDiv q.codedH q.ctu

def SeqSets.ctus (q : SeqSets) : Nat := q.rows * q.cols

/-- SPLIT of Table 4.8: the first of section 4.3 that the stream offers. (DEDUCED, unsafe: log entry 37.) -/
def SeqSets.split (q : SeqSets) : Nat :=
  if 1 < q.tiles.length then 1 else if 1 < q.slices.length then 2 else if q.wavefront then 3 else 0

/-- The parts that whole cores take: CTUs of tiles or slices. -/
def SeqSets.parts (q : SeqSets) : List Nat := if q.split = 1 then q.tiles else q.slices

/-- What R113 compares at a random-access point: picture size, CTU size, tiles, slices and wavefront use. -/
def SeqSets.sameTeam (q p : SeqSets) : Bool :=
  q.codedW == p.codedW && q.codedH == p.codedH && q.w == p.w && q.h == p.h && q.ctu == p.ctu && q.tiles == p.tiles &&
    q.slices == p.slices && q.wavefront == p.wavefront

/-- Put a load on the least-loaded of the cores. -/
def addLoad (c : Nat) : List Nat → List Nat
  | [] => []
  | [x] => [x + c]
  | x :: y :: r => if x ≤ minN x (y :: r) then (x + c) :: y :: r else x :: addLoad c (y :: r)

/-- Insert into a list of falling numbers. -/
def insFall (c : Nat) : List Nat → List Nat
  | [] => [c]
  | x :: xs => if x < c then c :: x :: xs else x :: insFall c xs

/-- F(n) of R112. -/
def teamF (q : SeqSets) (n : Nat) : Frac :=
  if n ≤ 1 ∨ q.split = 0 then Frac.ofInt 1
  else if q.split = 3 then Frac.mk' (q.rows * q.cols : Nat) (ceilDiv q.rows n * q.cols + 2 * (n - 1))
  else
    let loads := (q.parts.foldl (fun l c => insFall c l) []).foldl (fun l c => addLoad c l) (List.replicate n 0)
    Frac.mk' (sumN q.parts : Nat) (maxN loads)

/-- The planning weight of Table 4.3 in hundredths. -/
def planWeight (codec : Nat) (q : SeqSets) : Nat :=
  if codec = 2 then (if q.chroma = 0 then 95 else if q.chroma = 1 then 125 else 250)
  else if q.chroma = 0 then (if q.bits ≤ 10 then 75 else 100)
  else if q.chroma = 1 then 100 else 200

/-- The largest team that a split allows. -/
def splitLimit (q : SeqSets) : Nat := if q.split = 0 then 1 else if q.split = 3 then q.rows else q.parts.length

/-- Bytes of a stream's picture buffers under its active parameter sets, by the counts of Table 7.2 (R129). -/
def pictureBytes (kind : Nat) (q : SeqSets) : Nat := (if kind = 0 then 9 * 6 + 5 * 11 else 13 * 2) * (q.w * q.h)

/-! ### Pictures: the conformance window, stopped slices (R107, R116, R118, R124) -/

/-- Chroma of `Pic` for a chroma_format_idc. -/
def picChroma (idc : Nat) : Nat := if idc = 0 then 0 else if idc = 1 then 1 else 2

/-- Each plane present in the picture agrees with its hash (R108). -/
def PicHash.agrees (h : PicHash) (p : Pic) : Bool :=
  let cw := if p.chroma = 1 then (p.w + 1) / 2 else p.w
  let ps := planeHash h.method p.w p.bits p.y ::
    (if p.chroma = 0 then [] else [planeHash h.method cw p.bits p.cb, planeHash h.method cw p.bits p.cr])
  h.planes == ps

/-- A part of a plane w samples wide. -/
def cropPlane (w x y cw ch : Nat) (vs : List Nat) : List Nat := (List.range ch).flatMap (fun j => slice vs ((y + j) * w + x) cw)

/-- A decoded picture after the conformance window. -/
def SeqSets.crop (q : SeqSets) (p : Pic) : Pic :=
  if q.left = 0 ∧ q.right = 0 ∧ q.top = 0 ∧ q.bottom = 0 then p
  else
    let k := if p.chroma = 1 then 2 else 1
    let c (vs : List Nat) : List Nat := cropPlane (ceilDiv p.w k) (q.left / k) (q.top / k) (ceilDiv q.w k) (ceilDiv q.h k) vs
    { w := q.w, h := q.h, chroma := p.chroma, bits := p.bits, y := cropPlane p.w q.left q.top q.w q.h p.y, cb := c p.cb, cr := c p.cr }

/-- A picture of one value at the coded size. -/
def flatPic (q : SeqSets) (v : Nat) : Pic :=
  let c := picChroma q.chroma
  let n := if c = 0 then 0 else if c = 1 then ceilDiv q.codedW 2 * ceilDiv q.codedH 2 else q.codedW * q.codedH
  { w := q.codedW, h := q.codedH, chroma := c, bits := q.bits
    y := List.replicate (q.codedW * q.codedH) v, cb := List.replicate n v, cr := List.replicate n v }

/-- The sample of a plane at a place, with another value outside it. -/
def planeAt (w : Nat) (vs : List Nat) (x y v : Nat) : Nat := if x < w then vs.getD (y * w + x) v else v

/-- A plane, subsampled k times, whose CTUs of a list take the co-located samples of a reference plane `rw` samples wide, or
a value where it has none. -/
def fillPlane (q : SeqSets) (k : Nat) (undone : List Nat) (own ref : List Nat) (w h rw v : Nat) : List Nat :=
  (List.range (w * h)).map (fun n =>
    let x := n % w
    let y := n / w
    if undone.contains ((y * k / q.ctu) * q.cols + x * k / q.ctu) then planeAt rw ref x y v else own.getD n v)

/-- The CTUs of a picture that no slice decoded. -/
def undoneCtus (q : SeqSets) (o : AuResult) : List Nat :=
  let done := o.slices.flatMap (fun r => r.ctus.take r.decoded)
  (List.range q.ctus).filter (fun n => !done.contains n)

/-- The reference picture in the buffer closest by picture order count; of two as close, the later decoded one.
(DESIGN CHOICE, unsafe: log entry 88.) -/
def closestPic (poc : Int) : List DpbPic → Option DpbPic
  | [] => none
  | p :: ps =>
    match closestPic poc ps with
    | none => some p
    | some r => if (p.poc - poc).natAbs ≤ (r.poc - poc).natAbs then some p else some r

/-- A picture as the decoder leaves it, at its coded size: its parameter sets, the CTUs whose depth is that of a substitute,
and how many CTUs were not decoded. -/
structure Rebuilt where
  sets : SeqSets
  pic : Pic
  far : List Nat
  undone : Nat
  deriving DecidableEq, Repr

/-- The picture of an access unit, with the CTUs that were not decoded filled (R124); where its parameter sets are unusable,
all of them, and none if the buffer holds no picture. (DEDUCED, unsafe: log entry 35.) -/
def rebuild (dpb : List DpbPic) (kind : Nat) (sets : Option SeqSets) (poc : Int) (o : AuResult) : Option Rebuilt :=
  let ref := closestPic poc dpb
  match sets with
  | none => ref.map (fun r => { sets := r.sets, pic := r.pic, far := r.far, undone := r.sets.ctus })
  | some q =>
    let undone := undoneCtus q o
    if undone.isEmpty then some { sets := q, pic := o.pic, far := [], undone := 0 }
    else
      let v := 2 ^ (q.bits - 1)
      let r := match ref with
        | some r => r.pic
        | none => flatPic q v
      let p := o.pic
      let k := if p.chroma = 1 then 2 else 1
      let c (own ref : List Nat) : List Nat :=
        if p.chroma = 0 then [] else fillPlane q k undone own ref (ceilDiv p.w k) (ceilDiv p.h k) (ceilDiv r.w k) v
      let far := if kind = 0 then [] else match ref with
        | some r => undone.filter r.far.contains
        | none => undone
      some { sets := q, far := far, undone := undone.length
             pic := { p with y := fillPlane q 1 undone p.y r.y p.w p.h r.w v, cb := c p.cb r.cb, cr := c p.cr r.cr } }

/-- The picture as it is used (R107), and where its depth is a substitute's. -/
def Rebuilt.shown (b : Rebuilt) : Pic := b.sets.crop b.pic

def Rebuilt.farCtus (b : Rebuilt) : FarCtus :=
  { ctu := b.sets.ctu, cols := b.sets.cols, left := b.sets.left, top := b.sets.top, ctus := b.far }

end Sys2Proof
end

