-- ==== Sys2Proof/Machine/DecodeOps.lean ====
section
/-! DEFINITION. Decode streams as shared operations: what they yield, concealment, states, teams (spec/04). -/

namespace Sys2Proof.Machine

open Sys2Proof

def State.modScene (s : State) (slot : Nat) (f : Scene → Scene) : State :=
  { s with ingest := { s.ingest with scenes := s.ingest.scenes.map (fun (x : Scene) => if x.slot = slot then f x else x) } }

def State.scene? (s : State) (slot : Nat) : Option Scene := s.ingest.scenes.find? (fun (x : Scene) => x.slot == slot)

/-- The scene of an object. -/
def State.sceneOf (s : State) (obj : Nat) : Option Scene := s.ingest.scenes.find? (fun (x : Scene) => x.obj == obj)

def State.stream? (s : State) (d : StreamId) : Option DStream := s.dec.streams.find? (fun (x : DStream) => x.id == d)

def State.modStream (s : State) (d : StreamId) (f : DStream → DStream) : State :=
  { s with dec := { s.dec with streams := s.dec.streams.map (fun (x : DStream) => if x.id = d then f x else x) } }

/-! ### Pictures (R107, R121, R123, R149) -/

/-- A substitute (R121). (DEDUCED, unsafe: log entry 36.) -/
def substitute (it : AuItem) (kind : Nat) (bits reason : Nat) : YPic :=
  substPic it.seq (it.ent.elim 0 (·.w)) (it.ent.elim 0 (·.h)) kind bits it.frame reason

/-- A stream's substitute for an item: the bit depth of the last texture picture decoded, or 10. -/
def DStream.sub (x : DStream) (it : AuItem) (reason : Nat) : YPic := substitute it x.id.kind (x.bits.getD 10) reason

/-- A decoded picture as it is yielded, after the conformance window (R107) and prepared (R149). -/
def decoded (it : AuItem) (kind : Nat) (b : Rebuilt) (reason : Nat) : YPic :=
  { frame := it.frame, pic := b.shown, zeroDepth := false, far := b.farCtus, concealed := reason != 0, reason := reason
    levels := if kind = 0 then prepare it.seq b.shown else [] }

/-- A picture's size, and for depth its bit depth, differs from the layer's (R79). (DEDUCED, unsafe: log entry 36.) -/
def sizeDiffers (it : AuItem) (kind : Nat) (p : Pic) : Bool :=
  match it.ent with
  | some e => p.w != e.w || p.h != e.h || (kind == 1 && p.bits != e.bits)
  | none => false

/-- A stream yields its picture of a frame (R107, R125, R127): counters, state, the frame's picture, DECODE_CONCEAL for a
cause of its own. (DEDUCED, unsafe: log entry 36.) -/
def State.yieldPic (s : State) (d : StreamId) (it : AuItem) (p : YPic) (own benign keep : Bool) (ctus : Nat) : State :=
  let s := s.modStream d (fun (x : DStream) =>
    let st := if p.concealed ∧ benign = false ∧ x.state = 2 then 3 else x.state
    { x with
      state := st
      reason := if p.concealed then p.reason else x.reason
      decoded := x.decoded + 1
      concealed := if p.concealed then x.concealed + 1 else x.concealed
      since := if p.concealed ∧ st ≠ 2 then x.since + 1 else x.since
      frame := BitVec.ofNat 32 it.frame
      prev := if keep then x.prev else some p })
  let s := s.modScene d.slot (fun (x : Scene) => { x with
    concealed := if p.concealed then x.concealed + 1 else x.concealed
    queue := x.queue.map (fun (f : SFrame) =>
      if f.num = it.frame ∧ f.seq = it.seq then { f with pics := f.pics ++ [({ anchor := d.anchor, layer := d.layer, kind := d.kind, pic := p } : FPic)] }
      else f) })
  if p.concealed && own then s.decodeConceal d it.frame p.reason ctus else s

/-- A missing or discarded access unit: a copy of the previous picture, whatever its size, or a substitute (R123).
(DEDUCED, unsafe: log entry 35.) -/
def State.yieldMissing (s : State) (d : StreamId) (it : AuItem) (x : DStream) : State :=
  let p := match x.prev with
    | some p => if s.pget 0x04000004 = 0 then { p with frame := it.frame, concealed := true, reason := 1 } else x.sub it 1
    | none => x.sub it 1
  s.yieldPic d it p true false false x.ctus

/-- A held anchor's picture: the previous one with its mark, which leaves the stream's state as it is (R83); a substitute
where there is none or where R79 marks the stream. (DEDUCED, unsafe: log entry 36.) -/
def State.yieldHeld (s : State) (d : StreamId) (it : AuItem) (x : DStream) : State :=
  match x.prev with
  | none => s.yieldPic d it (x.sub it x.waitReason) false false true 0
  | some p =>
    if x.needRap then s.yieldPic d it (x.sub it 7) true false true x.ctus
    else s.yieldPic d it { p with frame := it.frame } false true true 0

/-- The flush of a new sequence (R110): the buffer is emptied; the picture that conceal mode 0 copies and a held anchor
repeats stays. (DEDUCED, unsafe: log entry 36; DESIGN CHOICE, unsafe: log entry 85.) -/
def DStream.flush (x : DStream) : DStream :=
  { x with dpb := [], gdr := false, needRap := false, waitReason := 4, state := if x.state = 0 then 0 else 1 }

/-- The item at the head leaves the queue: R79 marks the stream, and an idle stream takes part again (R109). -/
def DStream.take (x : DStream) (it : AuItem) : DStream :=
  { x with queue := x.queue.drop 1, needRap := x.needRap || it.resized, state := if x.state = 0 then 1 else x.state }

/-- Items of a stream that need no decoding, up to the next access unit (R110, R111). -/
def State.drainStream (s : State) (d : StreamId) : Nat → State
  | 0 => s
  | n + 1 =>
    match s.stream? d with
    | none => s
    | some x =>
      match x.queue with
      | [] => s
      | it :: _ =>
        if x.running.isSome ∨ x.queued.isSome = true ∨ it.kind = 0 then s
        else
          let s :=
            if it.kind = 3 then s.modStream d (fun (y : DStream) => { y with queue := y.queue.drop 1 }.flush)
            else if it.kind = 4 then s.modStream d (fun (y : DStream) => { y with queue := y.queue.drop 1, state := 0 })
            else
              let s := s.modStream d (fun (y : DStream) => y.take it)
              match s.stream? d with
              | some y => if it.kind = 1 then s.yieldMissing d it y else s.yieldHeld d it y
              | none => s
          s.drainStream d n

/-- Every item that needs no decoding. -/
def State.drain (s : State) (d : StreamId) : State :=
  match s.stream? d with
  | some x => s.drainStream d x.queue.length
  | none => s

/-- Every stream of a scene. -/
def State.drainScene (s : State) (slot : Nat) : State :=
  ((s.dec.streams.filter (fun (x : DStream) => x.id.slot == slot)).map (·.id)).foldl State.drain s

/-- An item joins a stream's queue; the stream is made if it is new. -/
def State.fileItem (s : State) (d : StreamId) (it : AuItem) : State :=
  let s := if (s.stream? d).isSome then s
    else { s with dec := { s.dec with streams := s.dec.streams ++ [({ id := d, state := 0 } : DStream)] } }
  s.modStream d (fun (x : DStream) => { x with queue := x.queue ++ [it] })

/-! ### Teams (R112 to R117, R186) -/

/-- Demand in hundredths of a weighted sample per second (R113). (DEDUCED, unsafe: log entry 37.) -/
def State.teamDemand (s : State) (codec : Nat) (q : SeqSets) : Nat := planWeight codec q * (q.codedW * q.codedH) * s.modeFps

/-- The smallest n from k on, within the limit, whose throughput reaches the demand (R113). -/
def smallestTeam (q : SeqSets) (demand limit : Nat) : Nat → Nat → Nat
  | 0, k => Nat.min k limit
  | m + 1, k =>
    if limit ≤ k || (Frac.ofInt demand).le ((teamF q k).mul (Frac.ofInt 86000000000)) then Nat.min k limit
    else smallestTeam q demand limit m (k + 1)

/-- The team size that a stream needs. -/
def State.teamWant (s : State) (codec : Nat) (q : SeqSets) : Nat :=
  smallestTeam q (s.teamDemand codec q) (Nat.max 1 (Nat.min (s.pget 0x04000003) (splitLimit q))) 8 1

/-- The core is in the pool (R117, Table 4.9, Table 17.1). -/
def State.coreOk (s : State) (c : Nat) : Bool :=
  match s.dec.cores[c]? with
  | some x => !x.failed && !x.disabled
  | none => false

/-- Every core number. -/
def coreNums : List Nat := List.range 24

/-- Cores that no team but the stream's own holds. -/
def State.freeCores (s : State) (d : StreamId) : List Nat :=
  coreNums.filter (fun c => s.coreOk c && !s.dec.streams.any (fun (x : DStream) => x.id != d && x.team.contains c))

/-- The team of a stream, n cores: those of its previous team first, then the lowest (R186).
(DEDUCED, unsafe: log entry 37.) -/
def State.teamOf (s : State) (d : StreamId) (n : Nat) : List Nat :=
  let free := s.freeCores d
  let old := match s.stream? d with
    | some x => x.team.filter free.contains
    | none => []
  (old ++ free.filter (fun c => !old.contains c)).take n

/-- A stream's team is formed (R113, R114): the free cores it needs, or those that remain, or one core shared.  Both figures
of DECODE_OVERLOAD are rounded down.
(DESIGN CHOICE, safe: log entry 3; DEDUCED, unsafe: log entry 37; DESIGN CHOICE, unsafe: log entry 85.) -/
def State.formTeam (s : State) (d : StreamId) (codec : Nat) (q : SeqSets) : State :=
  let want := s.teamWant codec q
  let team := s.teamOf d want
  let ok := coreNums.filter s.coreOk
  let ran := if team.isEmpty then s.takeFree ok.length else (s, 0)
  let s := ran.1
  let given := if team.isEmpty then (match ok[ran.2]? with | some c => [c] | none => []) else team
  let s := s.modStream d (fun (x : DStream) => { x with
    team := given, want := want, split := q.split, formedFor := some q, shared := team.isEmpty, reform := false })
  if want ≤ team.length then s
  else
    let out := ((teamF q (Nat.max 1 team.length)).mul (Frac.ofInt 860)).floor.toNat
    s.raise 4 7 2 (packNat [at' 63 32 (s.teamDemand codec q / 100000000), at' 31 0 out]) (decArg2 d)

/-- The stream's team is formed at this access unit (R113, R114, R117): at the first RAP, at a RAP whose active parameter sets
change it, after the loss of a core, and once enough cores are free for a team that is missing. -/
def State.formsTeam (s : State) (x : DStream) (rap : Bool) (q : SeqSets) : Bool :=
  let changed := match x.formedFor with
    | some p => !q.sameTeam p
    | none => true
  let missing := (decide (x.team.length < x.want) || x.shared) && decide (x.want ≤ (s.freeCores x.id).length)
  x.team.isEmpty || x.reform || (rap && changed) || missing

/-- Where a stream stands in the order of R113: the panel scene first, then slot, anchor, layer, texture before depth. -/
def State.coreRank (s : State) (d : StreamId) : Nat :=
  let other := b2n (!s.ingest.scenes.any (fun (x : Scene) => x.slot == d.slot && x.obj == s.pget 0x03000001))
  ((((other * 4 + d.slot) * 32 + d.anchor) * 4 + d.layer) * 2) + d.kind

/-- A stream waits for a team with an access unit at hand. -/
def DStream.wantsTeam (x : DStream) : Bool :=
  (x.team.isEmpty || x.reform) && x.running.isNone && x.queued.isNone && (match x.queue with | it :: _ => it.kind == 0 | [] => false)

/-- No stream before this one in the order of R113 waits for a team. (DEDUCED, unsafe: log entry 37.) -/
def State.coreTurn (s : State) (d : StreamId) : Bool :=
  !s.dec.streams.any (fun (x : DStream) => x.wantsTeam && decide (s.coreRank x.id < s.coreRank d))

/-- Another stream's access unit is queued at a core of the team: the one that Table 1.8 allows (R42). -/
def State.coreFull (s : State) (x : DStream) : Bool :=
  s.coreBusy x && s.dec.streams.any (fun (y : DStream) => y.id != x.id && y.queued.isSome && y.team.any x.team.contains)

/-- The stream goes on without decoding until it may (R111): nothing runs on a stream whose scene is not to be decoded. -/
def State.decodes (s : State) : Bool := s.dev.state != .off && s.dev.state != .boot && s.dev.state != .parasol

/-! ### The start of an access unit (R109, R111, R123) -/

/-- An access unit that yields without being decoded: a substitute with a reason; for UNSUPPORTED, WAIT_RAP, NO_SPACE and
CHANNEL_LOSS the spec names no other content. (DESIGN CHOICE, unsafe: log entry 85.) -/
def State.yieldSub (s : State) (d : StreamId) (it : AuItem) (reason ctus : Nat) (own : Bool) : State :=
  match s.stream? d with
  | some x => s.yieldPic d it (x.sub it reason) own false false ctus
  | none => s

/-- A random-access point has been met: the marking of R79 ends. -/
def State.metRap (s : State) (d : StreamId) : State := s.modStream d (fun (x : DStream) => { x with needRap := false })

/-- The parameter sets that an access unit carries join those of its stream. -/
def DStream.takeSets (x : DStream) (i : AuInfo) : DStream :=
  { x with psets := i.carried.foldl (fun l p => p :: l.filter (fun q => q.1 != p.1)) x.psets }

/-- The parameter sets of a number; none where the stream has not received them. -/
def DStream.setsOf (x : DStream) (n : Nat) : Option SeqSets := (x.psets.find? (fun p => p.1 == n)).map (·.2)

/-- The codec of a stream (Table 3.3). -/
def AuItem.codec (it : AuItem) (kind : Nat) : Nat := if kind = 0 then it.seq.texCodec else it.seq.depthCodec

/-- What becomes of an access unit: missing (R123); unsupported by its own parameter sets, or still so (R109); concealed by
R79; before a random-access point; without buffers at one (R129); without usable parameter sets (R124); decoded. -/
inductive AuFate where
  | missing
  | bad (item value : Nat)
  | unsupported
  | resized
  | waits
  | noSpace
  | unusable
  | decodes (sets : SeqSets)
  deriving DecidableEq, Repr

/-- The fate of an access unit of a stream that has taken it (Table 4.2). (DEDUCED, unsafe: log entry 35.) -/
def State.auFate (s : State) (x : DStream) (it : AuItem) (i : AuInfo) : AuFate :=
  let gdr := !i.rap && (x.gdr || i.kind == 3)
  let sets := x.setsOf i.sets
  let obj := (s.scene? x.id.slot).elim 0 (·.obj)
  if !i.slices then .missing
  else match sets.bind (fun q => q.bad (it.codec x.id.kind)) with
    | some b => .bad b.1 b.2
    | none =>
      if !i.rap && !gdr && x.state == 4 then .unsupported
      else if !i.rap && !gdr && x.needRap then .resized
      else if !i.rap && !gdr && x.state == 1 then .waits
      else if i.rap && s.place.cut.contains obj then .noSpace
      else match sets with
        | none => .unusable
        | some q => .decodes q

/-- An access unit runs on its stream's cores, or is queued behind another stream's. -/
def State.runAu (s : State) (d : StreamId) (r : RunAu) : State :=
  match s.stream? d with
  | none => s
  | some x => s.modStream d (fun (y : DStream) => if s.coreBusy x then { y with queued := some r } else { y with running := some r })

/-! ### The end of an access unit (R107 to R109, R116 to R127) -/

/-- The reason of a decoded picture, whether it is a cause of its own, and whether it leaves a CLEAN stream CLEAN; `fault`
is OVERRUN or CORE_RESET where one ended the access unit. (DEDUCED, unsafe: log entry 35.) -/
def State.pictureReason (s : State) (x : DStream) (r : RunAu) (b : Option Rebuilt) (o : AuResult) (fault : Nat) : Nat × Bool × Bool :=
  let rap := r.info.rap
  let refs := o.slices.flatMap (·.refs)
  let check := s.pget 0x04000001
  let hash := match o.hash with
    | none => check == 2
    | some h => check != 0 && !h.agrees o.pic
  let missing := refs.any (fun f => !x.dpb.any (fun (p : DpbPic) => p.poc == f && p.received))
  let bad := x.dpb.filter (fun (p : DpbPic) => p.concealed && refs.contains p.poc)
  if x.gdr ∧ rap = false then (if x.state = 4 then 6 else if x.needRap then 7 else if x.state = 1 then x.waitReason else 4, false, false)
  else if b.any (fun p => sizeDiffers r.item x.id.kind p.shown) then (7, true, false)
  else if fault ≠ 0 then (fault, true, false)
  else if r.sets.isNone || b.any (fun p => p.undone != 0) || o.slices.any (·.error) then (5, true, false)
  else if o.bounds ≠ 0 then (0x0A, true, false)
  else if r.info.kind = 5 ∧ x.recovered = true then (2, true, true)
  else if missing then (2, true, false)
  else if hash then (0x0B, true, false)
  else if rap = false ∧ bad.isEmpty = false then (3, false, bad.all (·.benign))
  else (0, true, false)

/-- A substitute in the buffer, in the place of a picture that the stream never received (R122). -/
def lostRef (kind : Nat) (q : SeqSets) (poc : Int) : DpbPic :=
  { poc := poc, frame := 0, concealed := true, benign := false, received := false, sets := q, pic := flatPic q (2 ^ (q.bits - 1))
    far := if kind = 0 then [] else List.range q.ctus }

/-- The buffer after a picture: it, and of the pictures before it and the substitutes for missing references those that it
keeps, no more than the parameter sets allow (R106, R122). -/
def dpbAfter (kind : Nat) (r : RunAu) (b : Rebuilt) (refs : List Int) (reason : Nat) (benign : Bool) (dpb : List DpbPic) : List DpbPic :=
  let lost := (refs.eraseDups.filter (fun f => !dpb.any (fun (p : DpbPic) => p.poc == f))).map (lostRef kind b.sets)
  (({ poc := r.info.poc, frame := r.item.frame, concealed := reason != 0, benign := benign, sets := b.sets, pic := b.pic, far := b.far } : DpbPic)
    :: (dpb ++ lost).filter (fun (p : DpbPic) => r.info.keep.contains p.poc)).take (b.sets.dpbMinus1 + 1)

/-- The access unit that runs ends with its picture; `fault` as above.
(DESIGN CHOICE, safe: log entry 16; DEDUCED, unsafe: log entry 35.) -/
def State.endAu (s : State) (d : StreamId) (o : AuResult) (fault : Nat) : State :=
  match s.stream? d with
  | none => s
  | some x =>
    match x.running with
    | none => s
    | some r =>
      let it := r.item
      let rap := r.info.rap
      let b := rebuild x.dpb d.kind r.sets r.info.poc o
      let (reason, own, benign) := s.pictureReason x r b o fault
      let s := if o.bounds = 0 then s else s.raise 4 8 3 (packNat [at' 63 32 it.frame, at' 31 0 o.bounds]) (decArg2 d)
      let s := s.modStream d (fun (y : DStream) => { y with
        running := none
        bits := if d.kind = 0 then (match b with | some p => some p.pic.bits | none => y.bits) else y.bits
        gdr := y.gdr && !rap
        needRap := y.needRap && !rap
        recovered := if rap then reason == 0 && y.state != 2 else y.recovered
        dpb := match b with
          | some p => dpbAfter d.kind r p (o.slices.flatMap (·.refs)) reason benign y.dpb
          | none => y.dpb })
      let x' := (s.stream? d).getD x
      let masked := x.gdr && !rap && (x.state == 1 || x.state == 4 || x.needRap)
      let p := match b with
        | some q => if masked || sizeDiffers it d.kind q.shown then x'.sub it reason else decoded it d.kind q reason
        | none => x'.sub it reason
      let ctus := if reason = 5 ∨ reason = 8 ∨ reason = 9 then b.elim x.ctus (·.undone) else x.ctus
      let s :=
        if rap && reason == 0 then
          let s := if x.state = 2 then s
            else s.raise 4 2 1 (packNat [at' 63 32 it.frame, at' 31 0 x.since]) (decArg2 d)
          s.modStream d (fun (y : DStream) => { y with state := 2, since := if x.state = 2 then y.since else 0, waitReason := 4 })
        else s
      ((s.yieldPic d it p own benign false ctus).startQueued).drain d

/-- The end of an access unit that no slice of it was decoded of. -/
def noSlices : AuResult :=
  { pic := { w := 0, h := 0, chroma := 0, bits := 8, y := [], cb := [], cr := [] }, hash := none, slices := [], bounds := 0 }

/-- The access unit that a stream has taken starts, or yields at once what its fate is (R109, R111, R123, R124, R129).
(DESIGN CHOICE, safe: log entry 16; DEDUCED, unsafe: log entry 35.) -/
def State.startAu (s : State) (d : StreamId) (it : AuItem) (x : DStream) (i : AuInfo) : State :=
  let gdr := !i.rap && (x.gdr || i.kind == 3)
  let fate := s.auFate x it i
  let ctus := ((x.setsOf i.sets).map SeqSets.ctus).getD x.ctus
  let s := s.modStream d (fun (y : DStream) => { y with ctus := ctus })
  match fate with
  | .missing => s.yieldMissing d it x
  | .bad item value =>
    let s := if x.state = 4 then s else s.raise 4 3 2 (packNat [at' 63 32 it.frame, at' 31 24 item, at' 23 0 value]) (decArg2 d)
    let s := s.modStream d (fun (y : DStream) => { y with state := 4, gdr := false })
    s.yieldSub d it 6 ctus (x.state != 4)
  | .unsupported => s.yieldSub d it 6 ctus false
  | .resized => s.yieldSub d it 7 ctus true
  | .waits => s.yieldSub d it x.waitReason ctus false
  | .noSpace =>
    let s := (s.metRap d).modStream d (fun (y : DStream) => { y with state := 1, waitReason := 0x0D, gdr := false })
    s.yieldSub d it 0x0D ctus true
  | .unusable =>
    let s := s.modStream d (fun (y : DStream) => { y with gdr := gdr, running := some { item := it, info := i, sets := none, t0 := s.now, epoch := s.place.epoch.toNat } })
    s.endAu d noSlices 0
  | .decodes q =>
    let s := s.modStream d (fun (y : DStream) => { y with
      gdr := gdr
      dpb := if i.kind = 1 then [] else y.dpb
      buffers := if i.rap then pictureBytes d.kind q else y.buffers })
    s.runAu d { item := it, info := i, sets := some q, t0 := s.now, epoch := s.place.epoch.toNat }

end Sys2Proof.Machine
end

