-- ==== Sys2Proof/Machine/SceneOps.lean ====
section
/-! DEFINITION. Scene ingest as shared operations: the checks of R71, discards, frames that close or are dropped
(spec/03). -/

namespace Sys2Proof.Machine

open Sys2Proof

/-! ### Discards and dropped frames (R100, R101) -/

/-- SCENE_DROP, at most 64 for each scene and panel frame. -/
def State.sceneDrop (s : State) (slot reason type index frame off : Nat) : State :=
  match s.scene? slot with
  | none => s
  | some x =>
    if 64 ≤ x.drops then s
    else
      (s.modScene slot (fun (y : Scene) => { y with drops := y.drops + 1 })).raise 3 2 2
        (packNat [at' 63 56 reason, at' 55 48 type, at' 47 32 index, at' 31 0 frame]) (packNat [at' 47 40 slot, at' 31 0 off])

/-- A queued frame is dropped: its cues fire as DROPPED (R90). -/
def State.dropFrame (s : State) (slot : Nat) (f : SFrame) (reason : Nat) : State :=
  let s := s.modScene slot (fun (x : Scene) => { x with
    queue := x.queue.filter (fun (g : SFrame) => g != f)
    cues := x.cues.map (fun (c : Cue) => if c.kind = 0 ∧ c.frame = f.uid ∧ c.due = 0 then { c with due := 2 } else c)
    dropped := x.dropped + 1 })
  s.sceneDrop slot reason 1 0 f.num 0

/-! ### Frames (R80 to R87) -/

def Scene.cam? (x : Scene) (a : Nat) : Option AnchorCam := (x.cams.find? (fun (c : CamEnt) => c.n == a)).map (·.cam)

def Scene.table? (x : Scene) (a : Nat) : Option (List LayerEnt) := (x.tables.find? (fun (c : TableEnt) => c.n == a)).map (·.layers)

/-- The open frame. -/
def Scene.openFrame (x : Scene) : Option SFrame := x.queue.find? (fun (f : SFrame) => !f.closed)

/-- A change of the open frame. -/
def Scene.modOpen (x : Scene) (f : SFrame → SFrame) : Scene :=
  { x with queue := x.queue.map (fun (g : SFrame) => if g.closed then g else f g) }

/-- The anchors that take part (R82). -/
def Scene.parts (x : Scene) (anchors : Nat) : List Nat :=
  (List.range anchors).filter (fun a => (x.cam? a).isSome && (x.table? a).isSome)

/-- The streams of an anchor's layers. (DEDUCED, unsafe: log entry 37.) -/
def anchorStreams (slot a layers : Nat) : List StreamId :=
  (List.range layers).flatMap (fun l => [({ slot := slot, anchor := a, layer := l, kind := 0 } : StreamId), { slot := slot, anchor := a, layer := l, kind := 1 }])

/-- The item of a stream of a closing frame that has no access unit: held or missing (R83). -/
def closeItem (x : Scene) (f : SFrame) (d : StreamId) : AuItem :=
  { kind := if bit f.held d.anchor then 2 else 1, frame := f.num, seq := f.seq, ent := ((x.table? d.anchor).getD [])[d.layer]?
    resized := x.resized.contains d.anchor }

/-- A stream that may still yield takes no part in the closing frame: it goes IDLE after what it holds.
(DEDUCED, unsafe: log entry 37.) -/
def DStream.idles (x : DStream) : Bool :=
  match x.queue.getLast? with
  | some it => it.kind != 4
  | none => x.state != 0 || x.running.isSome || x.queued.isSome

/-- The open frame closes, at a FRAME_END with its INDEX or without one (R80, R82, R83, R85).
(DEDUCED, unsafe: log entry 34.) -/
def State.closeFrame (s : State) (slot : Nat) (index : Option Nat) : State :=
  match s.scene? slot with
  | none => s
  | some x =>
    match x.openFrame with
    | none => s
    | some f =>
      let part := x.parts f.seq.anchors
      if part.isEmpty then (s.dropFrame slot f 0x11).modScene slot (fun (y : Scene) => { y with dead := some f.num })
      else
        let ids := part.flatMap (fun a => anchorStreams slot a ((x.table? a).getD []).length)
        let open_ := ids.filter (fun d => !f.aus.contains d)
        let missing := countP (fun (d : StreamId) => !bit f.held d.anchor) open_
        let s := s.modScene slot (fun (y : Scene) => ({ y with resized := [] } : Scene).modOpen (fun (g : SFrame) => { g with
          closed := true
          cams := x.cams.filter (fun (c : CamEnt) => part.contains c.n)
          tables := x.tables.filter (fun (c : TableEnt) => part.contains c.n)
          ovl := x.ovl
          expected := ids }))
        let s := open_.foldl (fun s d => s.fileItem d (closeItem x f d)) s
        let idle := (s.dec.streams.filter (fun (y : DStream) => y.id.slot == slot && !ids.contains y.id && y.idles)).map (·.id)
        let s := idle.foldl (fun s d => s.fileItem d { kind := 4, frame := f.num, seq := f.seq, ent := none }) s
        let whole := match index with
          | some i => i == f.count % 65536 && missing == 0
          | none => false
        let s :=
          if whole then s
          else
            (s.modScene slot (fun (y : Scene) => { y with incomplete := y.incomplete + 1 })).raise 3 4 2
              (packNat [at' 63 32 f.num, at' 31 16 (Nat.min missing 0xFFFF), at' 15 0 (index.getD 0xFFFF)]) (slot * 2 ^ 40)
        s.drainScene slot

/-- Ready (R87). -/
def SFrame.ready (f : SFrame) : Bool :=
  f.closed && f.expected.all (fun d => f.pics.any (fun (p : FPic) => p.anchor == d.anchor && p.layer == d.layer && p.kind == d.kind))

/-! ### A packet (R69 to R73) -/

/-- What the checks of one type are (Tables 3.2 to 3.8): its TYPE, whether LENGTH, the reserved bits and the fields are as
they must be. -/
structure PktForm where
  type : Nat
  lenOk : Pkt → Bool
  plain : Pkt → Bool
  inRange : Scene → Pkt → Bool

/-- How a packet that passes checks 1 to 7 ends: taken, discarded with a reason, discarded without an event (R101), or
left before the device for want of room (R86). -/
inductive PktEnd where
  | taken
  | discard (reason : Nat)
  | silent (reason : Nat)
  | wait
  deriving DecidableEq, Repr

end Sys2Proof.Machine

namespace Sys2Proof

open Sys2Proof.Machine

/-- Payload word n, from 1. -/
def Pkt.w (p : Pkt) (n : Nat) : Nat := wordAt p.payload (n - 1)

def Pkt.f (p : Pkt) (n hi lo : Nat) : Nat := bits (p.w n) hi lo

/-- The reserved bits of payload word n, those outside a mask, are 0. -/
def Pkt.okBits (p : Pkt) (n m : Nat) : Bool := p.w n &&& m == p.w n

/-- Bytes of a packet in its carrier (R69). -/
def Pkt.size (p : Pkt) : Nat := 16 + 16 * ceilDiv p.length 16

/-- Checks 1 and 2 of R71: the reason with which framing is lost. -/
def Pkt.lost (p : Pkt) (c : Carrier) : Option Nat :=
  if p.version ≠ 1 then some 2
  else if 33554432 < p.length then some 4
  else if c.len < c.off + p.size then some 0x0E
  else none

end Sys2Proof

namespace Sys2Proof.Machine

open Sys2Proof

/-- Checks 3 to 6 of R71. (DESIGN CHOICE, safe: log entry 12.) -/
def PktForm.framed (f : PktForm) (p : Pkt) : Option Nat :=
  if p.type ≠ f.type then some 3
  else if crc32c (p.payload.take p.length) ≠ p.crc.toNat then some 1
  else if !f.lenOk p then some 4
  else if !f.plain p then some 5
  else none

/-- The carrier that a scene reads. -/
def Scene.carrier (x : Scene) : Option Carrier := x.carriers.find? (fun (c : Carrier) => decide (c.off < c.len))

/-- A change of the first carrier that is not read to its end. -/
def modFirst (f : Carrier → Carrier) : List Carrier → List Carrier
  | [] => []
  | c :: cs => if c.off < c.len then f c :: cs else c :: modFirst f cs

/-- A change of that carrier; a network unit that has been read leaves (R402). -/
def Scene.modCarrier (x : Scene) (f : Carrier → Carrier) : Scene :=
  { x with carriers := (modFirst f x.carriers).filter (fun (c : Carrier) => c.job.isSome || decide (c.off < c.len)) }

/-- A packet is discarded (R100, R101). (DEDUCED, unsafe: log entry 34.) -/
def State.discardPkt (s : State) (p : Pkt) (off reason : Nat) (silent : Bool) : State :=
  let s := s.modScene p.slot (fun (x : Scene) => ({ x with discarded := x.discarded + 1 } : Scene).modCarrier (fun (c : Carrier) => { c with discarded := c.discarded + 1 }))
  if silent then s else s.sceneDrop p.slot reason p.type p.index p.frame.toNat off

/-- What every correctly framed packet does: the silence timer, LAST_FRAME, the count of the open frame (R85, R92). -/
def State.heardPkt (s : State) (p : Pkt) : State :=
  s.modScene p.slot (fun (x : Scene) =>
    let x := { x with heard := true, silent := false, lastPkt := s.now, lastNum := p.frame.toNat }
    let x := x.modCarrier (fun (c : Carrier) => { c with lastFrame := p.frame.toNat })
    if p.type = 1 ∨ p.type = 7 ∨ p.type = 9 then x
    else x.modOpen (fun (g : SFrame) => if g.num = p.frame.toNat then { g with count := g.count + 1 } else g))

/-- A packet that is whole: R72 to R76 in order, then what its type does. -/
def State.framedPkt (s : State) (form : PktForm) (body : Scene → Pkt → State → State × PktEnd) (p : Pkt) : State × PktEnd :=
  match form.framed p with
  | some r => (s, .discard r)
  | none =>
    let s := s.heardPkt p
    let s := if p.type = 1 then (s.closeFrame p.slot none).modScene p.slot (fun (x : Scene) => { x with dead := none }) else s
    match s.scene? p.slot with
    | none => (s, .taken)
    | some x => if form.inRange x p then body x p s else (s, .discard 6)

/-- What the end of a packet does: a discard counts, and is reported unless it is silent. -/
def State.endPkt (s : State) (p : Pkt) (off : Nat) (e : PktEnd) : State :=
  match e with
  | .discard r => s.discardPkt p off r false
  | .silent r => s.discardPkt p off r true
  | _ => s

/-- A packet that is read at a carrier's offset, and how it ends. (DEDUCED, unsafe: log entry 34.) -/
def State.readPkt (s : State) (form : PktForm) (body : Scene → Pkt → State → State × PktEnd) (p : Pkt) (c : Carrier) : State × PktEnd :=
  let s := s.modScene p.slot (fun (x : Scene) => ({ x with received := x.received + 1 } : Scene).modCarrier (fun (c : Carrier) => { c with read := c.read + 1 }))
  match p.lost c with
  | some r =>
    ((s.discardPkt p c.off r false).modScene p.slot (fun (x : Scene) => x.modCarrier (fun (c : Carrier) => { c with off := c.len })), .taken)
  | none =>
    let ran := s.framedPkt form body p
    let s := ran.1
    let e := ran.2
    let s := s.endPkt p c.off e
    (s.modScene p.slot (fun (x : Scene) => x.modCarrier (fun (c : Carrier) => { c with off := c.off + p.size })), e)

/-- A packet of the stream: it is read from its scene's carrier, or waits behind one that waits for room (R42, R86).
(DEDUCED, unsafe: log entry 34.) -/
def State.ingestPkt (s : State) (form : PktForm) (body : Scene → Pkt → State → State × PktEnd) (p : Pkt) : State :=
  let resumed := s.ingest.resuming == some p.slot
  let s := { s with ingest := { s.ingest with resuming := none } }
  match s.scene? p.slot with
  | none => s
  | some x =>
    if !x.waiting.isEmpty && !resumed then s.modScene p.slot (fun (y : Scene) => { y with waiting := y.waiting ++ [p] })
    else
      match x.carrier with
      | none => s
      | some c =>
        let r := s.readPkt form body p c
        if r.2 = .wait then (s.closeFrame p.slot none).modScene p.slot (fun (y : Scene) => { y with waiting := p :: y.waiting })
        else r.1

/-- A packet inside a frame: NO_SEQUENCE, NO_FRAME, FRAME_NUMBER (R73, R80, R81). -/
def inFrame (body : Scene → SFrame → Pkt → State → State × PktEnd) (x : Scene) (p : Pkt) (s : State) : State × PktEnd :=
  if x.seq.isNone then (s, .discard 7)
  else
    match x.openFrame with
    | none => (s, if x.dead = some p.frame.toNat then .silent 8 else .discard 8)
    | some f => if p.frame.toNat ≠ f.num then (s, .discard 0x10) else body x f p s

/-- ANCHORS of the sequence in force; 32 without one. -/
def Scene.anchors (x : Scene) : Nat := match x.seq with
  | some q => q.anchors
  | none => 32

end Sys2Proof.Machine
end

