-- ==== Sys2Proof/Machine/SceneRows.lean ====
section
/-! DEFINITION. The scene stream: its packets and its commands (spec/03). -/

namespace Sys2Proof.Machine

open Sys2Proof

/-! ### SEQ_PARAMS (R73, R74) -/

def seqForm : PktForm where
  type := 8
  lenOk p := p.length == 16
  plain p := p.index == 0 && p.okBits 1 (mask 127 32 + mask 31 16)
  inRange x p :=
    decide (1 ≤ p.f 1 95 88 ∧ p.f 1 95 88 ≤ x.maxAnchors ∧ 1 ≤ p.f 1 87 80 ∧ p.f 1 87 80 ≤ x.maxLayers) &&
    [1, 2].contains (p.f 1 79 72) && [1, 2].contains (p.f 1 71 64) &&
    decide (p.f 1 63 56 ≤ 2 ∧ p.f 1 55 48 ≤ 1 ∧ p.f 1 47 40 ≤ 1 ∧ p.f 1 39 32 ≤ x.maxOvl) &&
    (if p.f 1 63 56 = 2 then decide (100 ≤ p.f 1 31 16 ∧ p.f 1 31 16 ≤ 10000) else p.f 1 31 16 == 0)

/-- The fields of a SEQ_PARAMS. -/
def seqOf (p : Pkt) : SeqParams :=
  { seqId := p.f 1 127 96, anchors := p.f 1 95 88, layersMax := p.f 1 87 80, texCodec := p.f 1 79 72, depthCodec := p.f 1 71 64
    transfer := p.f 1 63 56, matrix := p.f 1 55 48, full := p.f 1 47 40, overlays := p.f 1 39 32, hlgPeak := p.f 1 31 16
    frame := p.frame.toNat, raw := p.w 1 }

/-- A repeat changes nothing; any other payload starts a new sequence (R74).  Inside an open frame the reason is ORDER (R73),
also where FRAME differs (R81). (DESIGN CHOICE, unsafe: log entry 84.) -/
def seqBody (x : Scene) (p : Pkt) (s : State) : State × PktEnd :=
  if x.openFrame.isSome then (s, .discard 9)
  else if x.seq.map (·.raw) = some (p.w 1) then (s, .taken)
  else
    let q := seqOf p
    let ids := (s.dec.streams.filter (fun (d : DStream) => d.id.slot == p.slot)).map (·.id)
    let s := ids.foldl (fun s d => s.fileItem d { kind := 3, frame := p.frame.toNat, seq := q, ent := none }) s
    let s := s.modScene p.slot (fun (y : Scene) => { y with
      seq := some q, first := some p.frame.toNat, cams := [], tables := [], ovl := List.replicate 7 {}, resized := [], timeRaised := false })
    ((s.drainScene p.slot).raise 3 1 1 (q.seqId * 2 ^ 32 + p.frame.toNat) (p.slot * 2 ^ 40), .taken)

def execSeqParams (p : Pkt) (s : State) : Host.Outcome State Fault Refusal := .next (s.ingestPkt seqForm seqBody p)

/-! ### FRAME_BEGIN (R80, R81, R86, R94, R95) -/

def beginForm : PktForm where
  type := 1
  lenOk p := p.length == 32
  plain p := p.index == 0 && p.okBits 1 (mask 127 48 + mask 32 32) && p.okBits 2 (mask 127 96)
  inRange x p := (time80Ns (p.f 1 127 48)).isSome && decide (p.f 2 127 96 < 2 ^ x.anchors)

/-- A FRAME_BEGIN that R81 accepts, `d` frames after the last: the gap, SCENE_TIME, and the new frame, or its drop. -/
def beginFrame (x : Scene) (q : SeqParams) (d : Nat) (p : Pkt) (s : State) : State × PktEnd :=
  let n := p.frame.toNat
  let t := (time80Ns (p.f 1 127 48)).getD 0
  let tb3 := s.baseNs 3
  let pts : Option Nat := if t = 0 ∨ tb3.isNone = true then none else some t
  let early := match pts, tb3 with
    | some v, some b => decide (b + s.pget 0x03000003 * 1000000 < v)
    | _, _ => false
  let full := decide (4 ≤ x.queue.length)
  if full && !early && x.source == 0 then (s, .wait)
  else
    let s := s.modScene p.slot (fun (y : Scene) => { y with last := n, first := none })
    let s := if d ≤ 1 then s else s.raise 3 3 2 ((x.last + 1) % 2 ^ 32 * 2 ^ 32 + (d - 1)) (p.slot * 2 ^ 40)
    let s :=
      if t ≠ 0 ∧ tb3.isNone = true ∧ x.timeRaised = false then
        (s.modScene p.slot (fun (y : Scene) => { y with timeRaised := true })).raise 3 9 2 (n * 2 ^ 32 + q.seqId) (p.slot * 2 ^ 40)
      else s
    if early || full then
      let s := s.modScene p.slot (fun (y : Scene) => { y with dead := some n, dropped := y.dropped + 1 })
      (s.sceneDrop p.slot (if early then 0x0C else 0x0B) 1 0 n 0, .taken)
    else
      let f : SFrame := { num := n, uid := x.opened, pts := pts, same := p.f 1 32 32 == 1, held := p.f 2 127 96, seq := q }
      (s.modScene p.slot (fun (y : Scene) => { y with queue := y.queue ++ [f], opened := y.opened + 1 }), .taken)

/-- DEDUCED, unsafe: log entry 34. -/
def beginBody (x : Scene) (p : Pkt) (s : State) : State × PktEnd :=
  match x.seq with
  | none => (s, .discard 7)
  | some q =>
    match x.first with
    | some n => if p.frame.toNat = n then beginFrame x q 1 p s else (s, .discard 0x10)
    | none =>
      let d := sdiff 32 p.frame.toNat x.last
      if d ≤ 0 then (s, .discard 0x10) else beginFrame x q d.toNat p s

def execFrameBegin (p : Pkt) (s : State) : Host.Outcome State Fault Refusal := .next (s.ingestPkt beginForm beginBody p)

/-! ### ANCHOR_PARAMS (R76) and LAYER_TABLE (R77) -/

def camForm : PktForm where
  type := 2
  lenOk p := p.length == 48
  plain p := p.okBits 1 (mask 127 32)
  inRange x p :=
    let q (hi lo : Nat) : Int := sgn 32 (p.f 2 hi lo) * sgn 32 (p.f 2 hi lo)
    let n := q 127 96 + q 95 64 + q 63 32 + q 31 0
    let f (v : Nat) : Bool := decide (0x10000 ≤ v ∧ v ≤ 65535 * 0x10000)
    decide (p.index < x.anchors) && decide ((2 ^ 60 - 2 ^ 50 : Int) ≤ n ∧ n ≤ 2 ^ 60 + 2 ^ 50) && f (p.f 3 127 96) && f (p.f 3 95 64)

/-- The fields of an ANCHOR_PARAMS. -/
def camOf (p : Pkt) : AnchorCam :=
  { px := sgn 32 (p.f 1 127 96), py := sgn 32 (p.f 1 95 64), pz := sgn 32 (p.f 1 63 32)
    qw := sgn 32 (p.f 2 127 96), qx := sgn 32 (p.f 2 95 64), qy := sgn 32 (p.f 2 63 32), qz := sgn 32 (p.f 2 31 0)
    fx := p.f 3 127 96, fy := p.f 3 95 64, cx := sgn 32 (p.f 3 63 32), cy := sgn 32 (p.f 3 31 0) }

/-- The open frame carries content (R88). -/
def Scene.withContent (x : Scene) : Scene := x.modOpen (fun (f : SFrame) => { f with content := true })

def camBody (_ : Scene) (f : SFrame) (p : Pkt) (s : State) : State × PktEnd :=
  if f.aus.any (fun d => d.anchor == p.index) then (s, .discard 9)
  else
    (s.modScene p.slot (fun (y : Scene) => ({ y with
      cams := ({ n := p.index, cam := camOf p } : CamEnt) :: y.cams.filter (fun (c : CamEnt) => c.n != p.index) } : Scene).withContent), .taken)

def execAnchorParams (p : Pkt) (s : State) : Host.Outcome State Fault Refusal := .next (s.ingestPkt camForm (inFrame camBody) p)

/-- Layer l of a LAYER_TABLE (Table 3.5). -/
def layerOf (p : Pkt) (l : Nat) : LayerEnt :=
  { w := p.f (2 + l) 127 112, h := p.f (2 + l) 111 96, scale := p.f (2 + l) 95 88, bits := p.f (2 + l) 87 80
    emptyZero := p.f (2 + l) 72 72 == 1, near := p.f (2 + l) 63 32, far := p.f (2 + l) 31 0 }

def layersOf (p : Pkt) : List LayerEnt := (List.range (p.f 1 127 120)).map (layerOf p)

def tableForm : PktForm where
  type := 5
  lenOk p := decide (16 ≤ p.length) && p.length == 16 * (1 + p.f 1 127 120)
  plain p := p.okBits 1 (mask 127 120) && (List.range (p.f 1 127 120)).all (fun l => p.okBits (2 + l) (mask 127 80 + mask 72 72 + mask 63 0))
  inRange x p :=
    let ls := layersOf p
    let w0 := (ls.map (·.w)).getD 0 0
    let h0 := (ls.map (·.h)).getD 0 0
    let most := match x.seq with
      | some q => q.layersMax
      | none => 4
    decide (p.index < x.anchors) && decide (1 ≤ ls.length ∧ ls.length ≤ most) && decide (w0 ≤ x.maxW ∧ h0 ≤ x.maxH) &&
    (ls.map (·.scale)).getD 0 0 == 0 &&
    ls.all (fun (e : LayerEnt) =>
      decide (64 ≤ e.w ∧ e.w ≤ 8192 ∧ 64 ≤ e.h ∧ e.h ≤ 4320 ∧ e.scale ≤ 2 ∧ 8 ≤ e.bits ∧ e.bits ≤ 16 ∧ e.far < e.near) &&
      e.w % 8 == 0 && e.h % 8 == 0 && e.w == w0 / 2 ^ e.scale && e.h == h0 / 2 ^ e.scale)

/-- What R79 compares of a table. -/
def tableShape (ls : List LayerEnt) : List (Nat × Nat × Nat) := ls.map (fun (e : LayerEnt) => (e.w, e.h, e.bits))

def tableBody (x : Scene) (f : SFrame) (p : Pkt) (s : State) : State × PktEnd :=
  if f.aus.any (fun d => d.anchor == p.index) then (s, .discard 9)
  else
    let ls := layersOf p
    let new := match x.table? p.index with
      | some old => tableShape old != tableShape ls
      | none => false
    (s.modScene p.slot (fun (y : Scene) => ({ y with
      tables := ({ n := p.index, layers := ls } : TableEnt) :: y.tables.filter (fun (c : TableEnt) => c.n != p.index)
      resized := if new then p.index :: y.resized else y.resized } : Scene).withContent), .taken)

def execLayerTable (p : Pkt) (s : State) : Host.Outcome State Fault Refusal := .next (s.ingestPkt tableForm (inFrame tableBody) p)

/-! ### TEXTURE_AU and DEPTH_AU (R82 to R84) -/

/-- The form of an access unit of a kind. -/
def auForm (kind : Nat) : PktForm where
  type := 3 + kind
  lenOk p := decide (1 ≤ p.length ∧ p.length ≤ 33554432)
  plain _ := true
  inRange x p := decide (p.index / 256 ≤ 3 ∧ p.index % 256 < x.anchors)

/-- An access unit is filed to its stream (R84), or discarded. -/
def auBody (kind : Nat) (x : Scene) (f : SFrame) (p : Pkt) (s : State) : State × PktEnd :=
  let d : StreamId := { slot := p.slot, anchor := p.index % 256, layer := p.index / 256, kind := kind }
  match x.cam? d.anchor, x.table? d.anchor with
  | some _, some ls =>
    if bit f.held d.anchor || decide (ls.length ≤ d.layer) then (s, .discard 6)
    else if f.aus.contains d then (s, .discard 0x0A)
    else
      let s := s.modScene p.slot (fun (y : Scene) => y.modOpen (fun (g : SFrame) => { g with content := true, aus := d :: g.aus }))
      (s.fileItem d { kind := 0, frame := f.num, seq := f.seq, ent := ls[d.layer]?, len := p.length, resized := x.resized.contains d.anchor }, .taken)
  | _, _ => (s, .discard 0x11)

def execTextureAu (p : Pkt) (s : State) : Host.Outcome State Fault Refusal := .next (s.ingestPkt (auForm 0) (inFrame (auBody 0)) p)

def execDepthAu (p : Pkt) (s : State) : Host.Outcome State Fault Refusal := .next (s.ingestPkt (auForm 1) (inFrame (auBody 1)) p)

/-! ### OVERLAY (R89) -/

def ovlForm : PktForm where
  type := 6
  lenOk p :=
    (p.length == 48 + p.f 3 79 64 * p.f 3 63 32 || (p.length == 48 && !bit (p.w 1) 81)) && decide (48 ≤ p.length ∧ p.length ≤ 16777216)
  plain p := p.okBits 1 (mask 127 88 + mask 82 80 + mask 63 32) && p.okBits 2 (mask 127 32) && p.okBits 3 (mask 127 32)
  inRange x p :=
    let slots := match x.seq with
      | some q => q.overlays
      | none => 7
    let w := p.f 1 127 112
    let h := p.f 1 111 96
    let size := pixelBytes (p.f 1 95 88)
    let rect :=
      if bit (p.w 1) 81 then
        decide (p.f 3 127 112 + p.f 3 95 80 ≤ w ∧ p.f 3 111 96 + p.f 3 79 64 ≤ h ∧ p.f 3 95 80 * size ≤ p.f 3 63 32) && p.f 3 63 32 % 16 == 0
      else p.f 3 95 80 == 0 && p.f 3 79 64 == 0 && p.f 3 63 32 == 0
    decide (p.index < slots) && decide (16 ≤ w ∧ w ≤ x.ovlW ∧ 16 ≤ h ∧ h ≤ x.ovlH ∧ p.f 1 95 88 ≤ 2) &&
    decide (0x400 ≤ p.f 2 63 48 ∧ p.f 2 63 48 ≤ 0x8000 ∧ p.f 2 47 32 ≤ 0x8000) && rect

/-- The rows of an update rectangle written onto a surface's bytes, n rows from row i on. -/
def writeRows (src : List Byte) (pitch row dst stride : Nat) : Nat → Nat → List Byte → List Byte
  | 0, _, bs => bs
  | n + 1, i, bs => writeRows src pitch row dst stride n (i + 1) (putBytes bs (dst + i * stride) (slice src (i * pitch) row))

/-- R89: clear, write, place. -/
def ovlApply (o : OvlSlot) (p : Pkt) : OvlSlot :=
  let w := p.f 1 127 112
  let h := p.f 1 111 96
  let fm := p.f 1 95 88
  let size := pixelBytes fm
  let clear := w != o.w || h != o.h || fm != o.format || bit (p.w 1) 82
  let pix := if clear then List.replicate (w * h * size) (0 : Byte) else o.pix
  let pix :=
    if bit (p.w 1) 81 then
      writeRows (p.payload.drop 48) (p.f 3 63 32) (p.f 3 95 80 * size) ((p.f 3 111 96 * w + p.f 3 127 112) * size) (w * size) (p.f 3 79 64) 0 pix
    else pix
  { w := w, h := h, format := fm, visible := bit (p.w 1) 80, zinv := p.f 1 63 32, px := sgn 32 (p.f 2 127 96), py := sgn 32 (p.f 2 95 64)
    scale := p.f 2 63 48, opacity := p.f 2 47 32, pix := pix }

def ovlBody (_ : Scene) (_ : SFrame) (p : Pkt) (s : State) : State × PktEnd :=
  (s.modScene p.slot (fun (y : Scene) => ({ y with ovl := updAt y.ovl p.index (fun o => ovlApply o p) } : Scene).withContent), .taken)

def execOverlay (p : Pkt) (s : State) : Host.Outcome State Fault Refusal := .next (s.ingestPkt ovlForm (inFrame ovlBody) p)

/-! ### FRAME_END (R85), KEEPALIVE (R92), CUE (R90, R91) -/

def endForm : PktForm where
  type := 7
  lenOk p := p.length == 0
  plain _ := true
  inRange _ _ := true

/-- DEDUCED, unsafe: log entry 34. -/
def endBody (_ : Scene) (_ : SFrame) (p : Pkt) (s : State) : State × PktEnd := (s.closeFrame p.slot (some p.index), .taken)

def execFrameEnd (p : Pkt) (s : State) : Host.Outcome State Fault Refusal := .next (s.ingestPkt endForm (inFrame endBody) p)

def aliveForm : PktForm where
  type := 9
  lenOk p := p.length == 0
  plain p := p.index == 0
  inRange _ _ := true

/-- Inside an open frame its FRAME is that frame's (R81). -/
def aliveBody (x : Scene) (p : Pkt) (s : State) : State × PktEnd :=
  match x.openFrame with
  | some f => if p.frame.toNat ≠ f.num then (s, .discard 0x10) else (s, .taken)
  | none => (s, .taken)

/-- KEEPALIVE changes nothing but the silence timer; a packet of a type that Table 3.2 does not have is discarded by
check 3 (log entry 12). (DESIGN CHOICE, safe: log entry 12.) -/
def execKeepalive (p : Pkt) (s : State) : Host.Outcome State Fault Refusal := .next (s.ingestPkt aliveForm aliveBody p)

def cueForm : PktForm where
  type := 10
  lenOk p := p.length == 32
  plain p := p.okBits 1 (mask 127 120 + mask 63 0) && p.okBits 2 (mask 127 48)
  inRange _ p := decide (p.f 1 127 120 ≤ 1) && (time80Ns (p.f 2 127 48)).isSome && (p.f 1 127 120 == 1 || p.f 2 127 48 == 0)

def cueBody (x : Scene) (f : SFrame) (p : Pkt) (s : State) : State × PktEnd :=
  if 64 ≤ x.cues.length then (s, .discard 0x0F)
  else
    let c : Cue := { num := p.index, kind := p.f 1 127 120, value := p.f 1 63 0, time := (time80Ns (p.f 2 127 48)).getD 0, frame := f.uid }
    (s.modScene p.slot (fun (y : Scene) => { y with cues := y.cues ++ [c] }), .taken)

def execCue (p : Pkt) (s : State) : Host.Outcome State Fault Refusal := .next (s.ingestPkt cueForm (inFrame cueBody) p)

/-! ### SCENE_OPEN (R102, R176) -/

def sceneOpenBody (c : Cmd) (s : State) : Ran :=
  let a := c.f 1 119 112
  let l := c.f 1 111 104
  let o := c.f 1 103 96
  let w := c.f 1 95 80
  let h := c.f 1 79 64
  let ow := c.f 1 63 48
  let oh := c.f 1 47 32
  let ovl (v : Nat) : Bool := if o = 0 then v == 0 else decide (16 ≤ v ∧ v ≤ 4096)
  if !c.okBits 1 (mask 127 32) || decide (1 < c.f 1 127 120 ∨ a < 1 ∨ 32 < a ∨ l < 1 ∨ 4 < l ∨ 7 < o ∨ w < 64 ∨ 8192 < w ∨ h < 64 ∨ 4320 < h)
      || !ovl ow || !ovl oh then refuse s stBadArg
  else
    match (List.range 4).find? (fun n => (s.scene? n).isNone) with
    | none => refuse s stNoResource
    | some n =>
      let first := 1 + o * overlayBaskets ow oh
      if decide (s.freeBaskets < sceneNeed a l w h o ow oh) || !pairsFit (s.pkgFree s.usage) (1 + o * overlayBaskets ow oh) then
        refuse s stNoSpace
      else
        let id := s.nextId 1
        let s := s.addObj { id := id, cls := 1, size := 0, data := [], creating := false } (controlPlan o ow oh ++ streamPlan first a l w h)
        let x : Scene := { slot := n, obj := id, source := c.f 1 127 120, maxAnchors := a, maxLayers := l, maxOvl := o, maxW := w, maxH := h
                           ovlW := ow, ovlH := oh }
        { s := { s with ingest := { s.ingest with scenes := s.ingest.scenes ++ [x] } }
          a := { status := stOk, object := some id, payload := [packW [at' 7 0 n]] } }

/-- DESIGN CHOICE, unsafe: log entry 32. -/
def execSceneOpen (c : Cmd) (s : State) : Host.Outcome State Fault Refusal :=
  .next (hostCmd (.sceneOpen c) { op := 0x0301 } sceneOpenBody c s)

/-! ### SCENE_SUBMIT (R103) -/

/-- A job is an accepted SCENE_SUBMIT of a scene. -/
def Job.submits (j : Job) (obj : Nat) : Bool := match j.key with
  | .sceneSubmit _ => j.object.toNat == obj
  | _ => false

def sceneSubmitBody (c : Cmd) (s : State) : Ran :=
  match s.sceneOf c.object.toNat with
  | none => refuse s stBadObject
  | some x =>
    let len := c.f 2 31 0
    if !c.okBits 1 (mask 63 0) || !c.okBits 2 (mask 31 0) || c.f 1 3 0 != 0 || len % 16 != 0 || decide (len < 16) then refuse s stBadArg
    else if x.source ≠ 0 ∨ x.state ≠ 0 then refuse s stBadState
    else if 256 ≤ countP (fun (j : Job) => j.submits x.obj) s.host.jobs then refuse s stNoResource
    else
      accept (s.modScene x.slot (fun (y : Scene) => { y with carriers := y.carriers ++ [({ len := len, job := some s.host.nextJob } : Carrier)] }))
        (.sceneSubmit x.slot)

def execSceneSubmit (c : Cmd) (s : State) : Host.Outcome State Fault Refusal :=
  .next (hostCmd (.sceneSubmit c) { op := 0x0302, obj := some 1 } sceneSubmitBody c s)

/-- A draining scene that has consumed its buffers closes its open frame as after a lost FRAME_END (R104). -/
def State.drainClose (s : State) (slot : Nat) : State :=
  match s.scene? slot with
  | some x => if x.state = 1 ∧ x.carriers.isEmpty = true ∧ x.waiting.isEmpty = true then s.closeFrame slot none else s
  | none => s

/-- Every packet of the oldest buffer has been checked and filed. -/
def execSceneSubmitCompletion (slot : Nat) (s : State) : Host.Outcome State Fault Refusal :=
  .next (match s.scene? slot with
    | none => s
    | some x =>
      match x.carriers with
      | [] => s
      | k :: rest =>
        match k.job with
        | none => s
        | some j =>
          if k.off < k.len then s
          else
            let s := s.modScene slot (fun (y : Scene) => { y with carriers := rest })
            (s.endJob j (if k.discarded = 0 then stOk else stWarn) k.words).drainClose slot)

/-! ### SCENE_CLOSE (R104) -/

def sceneCloseBody (c : Cmd) (s : State) : Ran :=
  match s.sceneOf c.object.toNat with
  | none => refuse s stBadObject
  | some x =>
    if !c.okBits 1 1 then refuse s stBadArg
    else if x.state = 2 ∨ (x.state = 1 ∧ c.f 1 0 0 = 0) then refuse s stBadState
    else accept s (.sceneClose x.slot)

/-- Frames are dropped in the order in which they queue. (DEDUCED, unsafe: log entry 34.) -/
def State.dropFrames (s : State) (slot : Nat) : List SFrame → State
  | [] => s
  | f :: fs => (s.dropFrame slot f 0x12).dropFrames slot fs

/-- The close itself: drain, or at once. -/
def sceneClosePost (c : Cmd) (s : State) : State :=
  match s.sceneOf c.object.toNat with
  | none => s
  | some x =>
    let job := s.host.nextJob - 1
    if c.f 1 0 0 = 0 then
      let s := s.modScene x.slot (fun (y : Scene) => { y with
        state := 1, drainJob := some job
        carriers := if y.source = 1 then [] else y.carriers
        waiting := if y.source = 1 then [] else y.waiting })
      s.drainClose x.slot
    else
      let s := match x.drainJob with
        | some j => s.endJob j stSuperseded []
        | none => s
      let s := s.endJobs (s.jobIds (fun (j : Job) => j.submits x.obj)) stAborted
      let s := s.modScene x.slot (fun (y : Scene) => { y with state := 2, drainJob := none, carriers := [], waiting := [] })
      let s := s.dropFrames x.slot x.queue
      let s := { s with dec := { s.dec with streams := s.dec.streams.map (fun (d : DStream) =>
        if d.id.slot = x.slot then { d with running := none, queued := none, queue := [] } else d) } }
      s.startQueued.endJob job stOk []

def execSceneClose (c : Cmd) (s : State) : Host.Outcome State Fault Refusal :=
  .next (hostCmdWith (.sceneClose c) { op := 0x0303, obj := some 1 } sceneCloseBody sceneClosePost c s)

/-- A draining scene has no frame queued. -/
def execSceneCloseDrainComplete (slot : Nat) (s : State) : Host.Outcome State Fault Refusal :=
  .next (match s.scene? slot with
    | none => s
    | some x =>
      match x.drainJob with
      | none => s
      | some j =>
        if x.state = 1 ∧ x.carriers.isEmpty = true ∧ x.waiting.isEmpty = true ∧ x.queue.isEmpty = true then
          (s.modScene slot (fun (y : Scene) => { y with state := 2, drainJob := none })).endJob j stOk []
        else s)

/-! ### SCENE_STATUS (Table 3.17) -/

def sceneStatusWords (x : Scene) : List Word :=
  [packW [at' 127 96 (x.seq.elim 0 (·.seqId)), at' 95 64 x.last, at' 63 32 (x.shown.elim 0 (·.num)), at' 31 0 x.generation.toNat],
   packW [at' 127 120 x.queue.length, at' 119 112 x.state, at' 111 104 x.slot, at' 95 64 x.received.toNat, at' 63 32 x.discarded.toNat
          , at' 31 0 x.late.toNat],
   packW [at' 127 96 x.dropped.toNat, at' 95 64 x.incomplete.toNat, at' 63 32 x.concealed.toNat]]

def sceneStatusBody (c : Cmd) (s : State) : Ran :=
  match s.sceneOf c.object.toNat with
  | none => refuse s stBadObject
  | some x =>
    if !c.okBits 1 1 then refuse s stBadArg
    else
      answer (if c.f 1 0 0 = 1 then s.modScene x.slot (fun (y : Scene) => { y with
          received := 0, discarded := 0, late := 0, dropped := 0, incomplete := 0, concealed := 0 }) else s)
        (sceneStatusWords x)

def execSceneStatus (c : Cmd) (s : State) : Host.Outcome State Fault Refusal :=
  .next (hostCmd (.sceneStatus c) { op := 0x0304, obj := some 1 } sceneStatusBody c s)

/-! ### Silence (R92) -/

/-- No packet has come for `scene.silence_ms`. -/
def execSceneSilenceTimeout (slot : Nat) (s : State) : Host.Outcome State Fault Refusal :=
  .next (match s.scene? slot with
    | none => s
    | some x =>
      if x.state ≠ 0 ∨ x.heard = false ∨ x.silent = true then s
      else
        let ms := s.pget 0x03000004
        let s := s.advanceTo (x.lastPkt + ms * 1000000)
        (s.modScene slot (fun (y : Scene) => { y with silent := true })).raise 3 7 2 (x.lastNum * 2 ^ 32 + ms) (slot * 2 ^ 40))

end Sys2Proof.Machine
end

