-- ==== Sys2Proof/Machine/DecodeRows.lean ====
section
/-! DEFINITION. The decode array: its events and its commands (spec/04). -/

namespace Sys2Proof.Machine

open Sys2Proof

/-! ### Access units (R111, R116 to R118, R123) -/

/-- A stream's next access unit starts on its team once the previous one has finished (R111).  It waits where a stream before
it in the order of R113 waits for cores, and where the queue of its shared core is full (R42).
(DESIGN CHOICE, safe: log entry 16.) -/
def execAuDecodeStart (st : StreamId) (info : AuInfo) (s : State) : Host.Outcome State Fault Refusal :=
  .next (
    let s := s.drain st
    match s.stream? st with
    | none => s
    | some x =>
      match x.queue with
      | [] => s
      | it :: _ =>
        if x.running.isSome ∨ x.queued.isSome = true ∨ s.decodes = false ∨ coreNums.any s.coreOk = false then s
        else
          let y := (x.take it).takeSets info
          let start (s : State) : State :=
            let s := s.modStream st (fun (z : DStream) => (z.take it).takeSets info)
            match s.stream? st with
            | none => s
            | some z => (s.startAu st it z info).drain st
          match s.auFate y it info with
          | .decodes q =>
            if s.formsTeam x info.rap q then
              if s.coreTurn st then
                let s := s.formTeam st (it.codec st.kind) q
                if (s.stream? st).any s.coreFull then s else start s
              else s
            else if s.coreFull x then s else start s
          | _ => start s)

/-- TB0 in ns at which the budget of an access unit runs out (R118). -/
def State.budgetEnd (s : State) (r : RunAu) : Nat := r.t0 + s.pget 0x04000002 * s.tim.tp

/-- The budget of R118 has run out: the picture ends as OVERRUN, at most 1 ms later. -/
def State.overrun (s : State) (st : StreamId) (r : RunAu) (res : AuResult) : State :=
  let us := (Nat.min s.now (s.budgetEnd r + 1000000) - r.t0) / 1000
  (s.endAu st res 8).raise 4 4 2 (packNat [at' 63 32 r.item.frame, at' 31 0 (Nat.min 0xFFFFFFFF us)]) (decArg2 st)

/-- The access unit finishes; past its budget it is one that the budget has stopped.
(DESIGN CHOICE, safe: log entry 16.) -/
def execAuDecodeComplete (st : StreamId) (res : AuResult) (s : State) : Host.Outcome State Fault Refusal :=
  .next (match (s.stream? st).bind (·.running) with
    | none => s
    | some r => if s.budgetEnd r < s.now then s.overrun st r res else s.endAu st res 0)

/-- Resets of a core within the last second, this one first. -/
def recentResets (now : Nat) (l : List Nat) : List Nat := now :: l.filter (fun t => decide (now - t < 1000000000))

/-- A core is removed from the pool and from its teams, which are formed again (R117). -/
def State.loseCore (s : State) (core : Nat) : State :=
  let s := { s with dec := { s.dec with
    cores := updAt s.dec.cores core (fun (c : DCore) => { c with failed := true })
    streams := s.dec.streams.map (fun (x : DStream) =>
      if x.team.contains core then { x with team := x.team.filter (· != core), reform := true } else x) } }
  (s.raise 4 6 3 (packNat [at' 63 56 core, at' 55 48 (countP s.coreOk coreNums)]) s.arg2f).powerSync

/-- A CTU does not complete within 1 ms: the core is reset, the picture concealed (R116, R117).
(DESIGN CHOICE, safe: log entry 14.) -/
def execCtuTimeout (core : Nat) (st : StreamId) (res : AuResult) (s : State) : Host.Outcome State Fault Refusal :=
  .next (match s.stream? st with
    | none => s
    | some x =>
      match x.running with
      | none => s
      | some r =>
        if !x.team.contains core then s
        else
          let s := s.endAu st res 9
          let l := recentResets s.now ((s.dec.cores.getD core {}).resets)
          let s := { s with dec := { s.dec with cores := updAt s.dec.cores core (fun (c : DCore) => { c with resets := l }) } }
          let s := s.raise 4 5 3 (packNat [at' 63 56 core, at' 55 48 (Nat.min 255 l.length), at' 31 0 r.item.frame]) (decArg2 st)
          if 3 ≤ l.length then s.loseCore core else s)

/-- The budget of R118 runs out; the team stops at the next CTU boundary, `stop` ns later and within 1 ms. -/
def execAuBudgetExpiry (st : StreamId) (stop : Nat) (res : AuResult) (s : State) : Host.Outcome State Fault Refusal :=
  .next (match (s.stream? st).bind (·.running) with
    | none => s
    | some r => (s.advanceTo (s.budgetEnd r + Nat.min stop 1000000)).overrun st r res)

/-! ### DECODE_STATUS (Tables 4.7, 4.8) -/

/-- The entry of one stream; zeros for a stream that has not been (IDLE). -/
def streamWord (x : Option DStream) : Word :=
  match x with
  | none => 0
  | some d => packW [at' 127 120 d.state, at' 119 112 d.team.length, at' 111 104 d.split, at' 103 96 d.reason, at' 95 64 d.decoded.toNat
                     , at' 63 32 d.concealed.toNat, at' 31 0 d.frame.toNat]

def decodeStatusBody (c : Cmd) (s : State) : Ran :=
  match s.sceneOf c.object.toNat with
  | none => refuse s stBadObject
  | some x =>
    let a := c.f 1 12 8
    if !c.okBits 1 (mask 12 8 + 1) || decide (x.maxAnchors ≤ a) then refuse s stBadArg
    else
      let ws := (anchorStreams x.slot a 4).map (fun d => streamWord (s.stream? d))
      answer (if c.f 1 0 0 = 1 then
          { s with dec := { s.dec with streams := s.dec.streams.map (fun (d : DStream) =>
            if d.id.slot = x.slot ∧ d.id.anchor = a then { d with decoded := 0, concealed := 0 } else d) } }
        else s) ws

def execDecodeStatus (c : Cmd) (s : State) : Host.Outcome State Fault Refusal :=
  .next (hostCmd (.decodeStatus c) { op := 0x0401, obj := some 1 } decodeStatusBody c s)

/-! ### DECODE_CORES (Table 4.9) -/

/-- The entry of a core. -/
def State.coreEntry (s : State) (c : Nat) : Nat :=
  let k := s.dec.cores.getD c {}
  if k.failed then 3 * 2 ^ 13
  else if k.disabled then 4 * 2 ^ 13
  else if !s.domWanted (18 + c / 4) then 2 * 2 ^ 13
  else
    match s.dec.streams.find? (fun (x : DStream) => x.running.isSome && x.team.contains c) with
    | none => 0
    | some x => packNat [at' 15 13 (1 : Nat), at' 12 11 x.id.slot, at' 10 6 x.id.anchor, at' 5 4 x.id.layer, at' 3 3 x.id.kind]

/-- Word w of the response: eight cores. -/
def State.coresWord (s : State) (w : Nat) : Word :=
  packW ((List.range 8).map (fun m => ({ lo := 16 * m, width := 16, v := s.coreEntry (8 * w + m) } : Field)))

def execDecodeCores (c : Cmd) (s : State) : Host.Outcome State Fault Refusal :=
  .next (hostCmd (.decodeCores c) { op := 0x0402 } (fun _ s => answer s ((List.range 3).map s.coresWord)) c s)

end Sys2Proof.Machine
end

