-- ==== Sys2Proof/Machine/SynthOps.lean ====
section
/-! DEFINITION. What the selection point fixes for a panel frame: values, layers, the Blanket image, the ladder step, the
assignment of ray tiles (spec/06, spec/07 section 7.5, spec/08); and the ray words of a frame. -/

namespace Sys2Proof.Machine

open Sys2Proof

/-! ### Values in force for a frame (R60, R275) -/

/-- The value that panel frame f takes: a COMMIT's value whose boundary is f or earlier, at the first frame of a timing
mode change every value of the COMMIT, else the value in force. -/
def State.valueAt (s : State) (f : Nat) (change : Bool) (id : Nat) : Nat :=
  match s.par.commit with
  | some c =>
    if (change || (!c.mode && notBefore 32 f c.panelAt)) && !swapIds.contains id then (pfind c.panel id).getD (s.pget id) else s.pget id
  | none => s.pget id

/-- A colour parameter (Table 6.10). -/
def colourOf (v : Nat) : Rgb := { r := bits v 47 32, g := bits v 31 16, b := bits v 15 0 }

/-- The synthesis parameters (Table 6.10). -/
def synthParams (get : Nat → Nat) : SynthParams :=
  { anchorMax := get 0x06000001, marchSteps := get 0x06000002, refineSteps := get 0x06000003, zinvHi := get 0x06000004
    consistTol := get 0x06000005, resolveTol := get 0x06000006, blendEps := get 0x06000007, mipBias := sgn 64 (get 0x06000008)
    fillMode := get 0x06000009, fillColour := colourOf (get 0x0600000A), background := colourOf (get 0x0600000B) }

/-! ### The bound scene -/

/-- The scene that `scene.panel_scene` names. -/
def State.panelScene (s : State) (get : Nat → Nat) : Option Scene :=
  if get 0x03000001 = 0 then none else s.ingest.scenes.find? (fun (x : Scene) => x.obj == get 0x03000001)

/-- A picture of what a scene shows. -/
def Shown.pic (h : Shown) (a l k : Nat) : Option YPic :=
  (h.pics.find? (fun (p : FPic) => p.anchor == a && p.layer == l && p.kind == k)).map (·.pic)

/-- The layer inputs of an anchor, from layer n on. -/
def Shown.layersIn (h : Shown) (a : Nat) : Nat → List LayerEnt → List LayerIn
  | _, [] => []
  | n, e :: es =>
    match h.pic a n 0, h.pic a n 1 with
    | some t, some d => { ent := e, tex := t, depth := d } :: h.layersIn a (n + 1) es
    | _, _ => h.layersIn a (n + 1) es

/-- The anchors that take part (R82), by number. -/
def Shown.anchorsIn (h : Shown) : List AnchorIn :=
  (List.range 32).filterMap (fun a =>
    match h.cams.find? (fun (c : CamEnt) => c.n == a), h.tables.find? (fun (t : TableEnt) => t.n == a) with
    | some c, some t => some { n := a, cam := c.cam, layers := h.layersIn a 0 t.layers }
    | _, _ => none)

/-! ### Layer sources (R195 to R197, R213) -/

/-- Levels 0 to 2 of a surface (R202). -/
def surfLevels (l0 : SurfLevel) : List SurfLevel :=
  let l1 := surfNext l0
  [l0, l1, surfNext l1]

/-- A tap frame as a surface, alpha 1 where a sample is held (R207). -/
def Tap.surface (t : Tap) : SurfLevel :=
  { w := t.w, h := t.h
    px := (List.range (t.w * t.h)).map (fun n =>
      match t.done.find? (fun (p : TapPx) => p.x == n % t.w && p.y == n / t.w) with
      | some p => { r := f16val p.c.r, g := f16val p.c.g, b := f16val p.c.b, a := Frac.ofInt 1 }
      | none => rgba0) }

/-- The level 0 of a LAYER or SURFACE object (Tables 8.3, 15.9, R201). -/
def objSurface (o : Obj) : SurfLevel :=
  let (f, w, h, p) := surfHeader o.data
  surfLevel0 f (if o.cls = 6 then bits (wordAt o.data 0) 79 72 else 0) 0 w h p 16 o.data

/-- What a `src` value gives: the surface, and the overlay slot it is. -/
def State.source (s : State) (shown : Option Shown) (taps : List Tap) (v : Nat) : Option (SurfLevel × Option OvlSlot) :=
  if v = 0 then none
  else if 0xFF00000000000000 ≤ v then
    match shown with
    | none => none
    | some h =>
      let n := v % 8
      let o := h.ovl.getD n {}
      if h.seq.overlays ≤ n ∨ o.visible = false ∨ o.w = 0 then none
      else some (surfLevel0 o.format h.seq.transfer h.seq.hlgPeak o.w o.h (o.w * pixelBytes o.format) 0 o.pix, some o)
  else if 0xFE00000000000000 ≤ v then
    match taps[v % 4]? with
    | some t => if t.done.isEmpty then none else some (t.surface, none)
    | none => none
  else (s.obj? v).map (fun o => (objSurface o, none))

/-- The layer at a position of a composition (1 PANEL, 2 MONITOR, 3 RETURN), if it is visible. -/
def State.layerOf (s : State) (get : Nat → Nat) (shown : Option Shown) (taps : List Tap) (comp n : Nat) : Option LayerFix :=
  let id (k : Nat) : Nat := 0x08000000 + 0x100 * comp + 0x10 * k + n
  let place := get (id 2)
  let pos := get (id 3)
  let ctrl := get (id 4)
  if bit ctrl 5 = false then none
  else
    match s.source shown taps (get (id 1)) with
    | none => none
    | some (l0, slot) =>
      let own : LayerFix := {
        pos := n, zinv := bits place 63 32, px := sgn 32 (bits pos 63 32), py := sgn 32 (bits pos 31 0), scale := bits place 15 0
        opacity := bits place 31 16, op := bits ctrl 1 0, depthTest := bit ctrl 4, levels := surfLevels l0 }
      match slot with
      | some o => some (if comp = 1 then { own with zinv := o.zinv, px := o.px, py := o.py, scale := o.scale, opacity := o.opacity } else own)
      | none => some own

/-- The visible layers of the panel composition. -/
def State.panelLayers (s : State) (get : Nat → Nat) (shown : Option Shown) : List LayerFix :=
  (List.range 7).filterMap (fun i => s.layerOf get shown [] 1 (i + 1))

/-- The visible layers of MONITOR or RETURN in the order of R205: nibble i of `comp.*.order`, from the bottom. -/
def State.flatLayers (s : State) (get : Nat → Nat) (shown : Option Shown) (taps : List Tap) (comp : Nat) : List LayerFix :=
  let order := get (if comp = 2 then 0x08000004 else 0x08000008)
  (List.range 8).filterMap (fun i => s.layerOf get shown taps comp (bits order (4 * i + 3) (4 * i)))

/-! ### Layout and Blanket image (R138, R156) -/

/-- The tiles of a geometry. -/
def geomLayout (g : Geom) : List LayTile :=
  g.tiles.map (fun e => { tile := e.tile, col := e.col, row := e.row, w := g.tileW, h := g.tileH, nu := g.nu, nw := g.nw })

/-- The layout without a geometry: the ACTIVE owned tiles. -/
def State.capsLayout (s : State) : List LayTile :=
  s.ownTiles.filterMap (fun t => (s.port t).caps.map (fun (c : Caps) =>
    { tile := t, col := t % 4, row := t / 4, w := c.w, h := c.h, nu := c.nu, nw := c.nw }))

/-- The layout of a frame. -/
def State.frameLayout (s : State) (g : Option Geom) : List LayTile :=
  match g with
  | some g => geomLayout g
  | none => s.capsLayout

/-- A prepared texture's level 0 as a surface. -/
def texSurface (t : TexLevel) : SurfLevel :=
  { w := t.w, h := t.h, px := t.px.map (fun c => { r := f16val c.r, g := f16val c.g, b := f16val c.b, a := Frac.ofInt 1 }) }

/-- A SURFACE as the Blanket image: its alpha is ignored (Table 6.3). -/
def blanketSurface (bs : List Byte) : SurfLevel :=
  let (f, w, h, p) := surfHeader bs
  let px (n : Nat) : Nat :=
    let v := bytesAt bs (16 + (n / w) * p + (n % w) * pixelBytes f) (pixelBytes f)
    if f = 0 then v % 2 ^ 24 + 0xFF000000 else if f = 1 then v % 2 ^ 30 + 0xC0000000 else v
  { w := w, h := h, px := (List.range (w * h)).map (fun n => sampleLinear f 0 0 (px n)) }

/-- The surface of source 1: its bytes, or why it is not usable (Table 6.11): 1 not found, 2 format. -/
def State.blanketObj (s : State) (get : Nat → Nat) : Except Nat (List Byte) :=
  match s.obj? (get 0x0600000D) with
  | none => .error 1
  | some o =>
    if o.cls ≠ 2 ∨ o.creating = true ∨ o.lost = true then .error 1
    else if (surfHeader o.data).1 = 3 then .error 2 else .ok o.data

/-- The image that `synth.blanket_source` chooses (Table 6.3). -/
def State.blanketImage (s : State) (get : Nat → Nat) : Option BlanketImage :=
  if get 0x0600000C = 0 then
    ((s.panelScene get).bind (·.shown)).bind (fun h =>
      (h.anchorsIn.head?).bind (fun a => (h.pic a.n 0 0).bind (fun p => p.levels.head?.map (fun l => { img := texSurface l, anchor := a.n }))))
  else if get 0x0600000C = 1 then
    match s.blanketObj get with
    | .ok bs => some { img := blanketSurface bs, anchor := 0xFF }
    | .error _ => none
  else none

/-- Placement of a Blanket frame over a layout. (DESIGN CHOICE, unsafe: log entry 38.) -/
def blanketFrame (g : Option Geom) (ls : List LayTile) (img : Option BlanketImage) (colour : Rgb) : BlanketFrame :=
  match g with
  | some g => { image := img, colour := colour, ew := g.cols * g.tileW, eh := g.rows * g.tileH, tw := g.tileW, th := g.tileH, x0 := 0, y0 := 0 }
  | none =>
    let tw := maxN (ls.map (·.w))
    let th := maxN (ls.map (·.h))
    let c0 := minN 0 (ls.map (·.col))
    let r0 := minN 0 (ls.map (·.row))
    { image := img, colour := colour, ew := (maxN (ls.map (·.col)) + 1 - c0) * tw, eh := (maxN (ls.map (·.row)) + 1 - r0) * th
      tw := tw, th := th, x0 := c0 * tw, y0 := r0 * th }

/-- At the selection point: whether the frame is the first of an episode of SYNTH_SOURCE (R156). -/
def State.sourceCheck (s : State) (get : Nat → Nat) (blanket : Bool) : State :=
  let key := (get 0x0600000C, get 0x0600000D)
  let s := { s with synth := { s.synth with
    sourceKey := key, sourceRaised := s.synth.sourceRaised && s.synth.sourceKey == key, sourceDue := none } }
  if !blanket || key.1 != 1 then s
  else
    match s.blanketObj get with
    | .ok _ => { s with synth := { s.synth with sourceRaised := false } }
    | .error e =>
      if s.synth.sourceRaised then s
      else { s with synth := { s.synth with sourceDue := some (packNat [at' 63 56 key.1, at' 55 48 e, at' 47 0 key.2]) } }

/-- SYNTH_SOURCE, in the first frame of an episode (R156). -/
def State.sourceRaise (s : State) : State :=
  match s.synth.sourceDue with
  | none => s
  | some a => ({ s with synth := { s.synth with sourceDue := none, sourceRaised := true } } : State).raise 6 5 2 a s.arg2f

/-! ### Ray tiles, assignment and forecast (R161 to R164, R182) -/

/-- Pace of a cluster's monitor (R24). -/
def State.clusterPace (s : State) (n : Nat) : Nat := Nat.max 1 (((s.pwr.sites.getD n {}).pace).headD 0x4000)

/-- ns that a number of rays takes at a pace: 4.0 G rays/s at 0x4000 (R157). (DESIGN CHOICE, unsafe: log entry 38.) -/
def rayNs (rays pace : Nat) : Frac := Frac.mk' (rays * 2 ^ 14 : Nat) (4 * pace)

/-- Lens positions synthesised at a step on one axis, over n pixels from the first. -/
def keptOn (step n0 n per : Nat) : Nat :=
  countP (fun i => if step = 2 then (n0 + i) % per % 2 == 0 else if step = 3 then (n0 + i) % per == per / 2 else true) (List.range n)

/-- Rays of a ray tile that are synthesised at a step (Table 6.4). -/
def tileRays (g : Geom) (step by_ tx : Nat) : Nat := keptOn step (64 * tx) 64 g.nu * keptOn step (16 * by_) 16 g.nw

/-- The measured wait of a ray tile, 0 where there is none (R182). -/
def State.waitOf (s : State) (t : RTile) : Nat :=
  ((s.synth.waits.find? (fun (w : WaitRec) => w.tile == t.tile && w.sf == t.sf && w.by_ == t.by_ && w.tx == t.tx)).map (·.ns)).getD 0

/-- The ray tiles of a subframe in scan order: by band row, then tile and column. -/
def subframeTiles (g : Geom) (frame sf : Nat) : List RTile :=
  (List.range (g.tileH / 16)).flatMap (fun b => g.tiles.flatMap (fun e =>
    (List.range (g.tileW / 64)).map (fun x => { frame := frame, tile := e.tile, sf := sf, by_ := b, tx := x })))

/-- Forecast cost on a cluster (R182). -/
def State.tileCost (s : State) (n : Nat) (t : RTile) : Nat := 1024 * 2 ^ 28 / s.clusterPace n + s.waitOf t * 65536

/-- The pool's cluster of least accumulated cost, the lower number on a tie. (DESIGN CHOICE, unsafe: log entry 38.) -/
def leastLoaded (acc : List Nat) : List Nat → Option Nat
  | [] => none
  | n :: ns =>
    match leastLoaded acc ns with
    | none => some n
    | some m => if acc.getD m 0 < acc.getD n 0 then some m else some n

/-- Assign ray tiles one after another: clusters' accumulated costs, and their lists.
(DESIGN CHOICE, unsafe: log entry 38.) -/
def State.assign (s : State) (pool : List Nat) (acc : List Nat) (lists : List (List RTile)) : List RTile → List (List RTile)
  | [] => lists
  | t :: ts =>
    match leastLoaded acc pool with
    | none => lists
    | some n =>
      let c := s.tileCost n t
      s.assign pool (updAt acc n (· + c)) (updAt lists n (· ++ [{ t with cost := c }])) ts

/-- The lists of one subframe. -/
def State.assignSubframe (s : State) (g : Geom) (frame sf : Nat) : List (List RTile) :=
  s.assign s.clusterPool (List.replicate 48 0) (List.replicate 48 []) (subframeTiles g frame sf)

/-- Wc of a list in ns. -/
def State.listWait (s : State) (l : List RTile) : Nat := sumN (l.map s.waitOf)

/-- Tc of a cluster's list at a step (R161). -/
def State.listTime (s : State) (g : Geom) (step n : Nat) (l : List RTile) : Frac :=
  (rayNs (sumN (l.map (fun t => tileRays g step t.by_ t.tx))) (s.clusterPace n)).add (Frac.ofInt (s.listWait l))

/-- The largest of a list of fractions. -/
def maxFrac (l : List Frac) : Frac := l.foldl Frac.max (Frac.ofInt 0)

/-- Tc over the clusters of one subframe's lists. -/
def State.subframeTime (s : State) (g : Geom) (step : Nat) (ls : List (List RTile)) : Frac :=
  maxFrac ((List.range 48).map (fun n => s.listTime g step n (ls.getD n [])))

/-- Tp of R161 in ns: doubled while frames are paired. -/
def tpFrac (fps : Nat) (half : Bool) : Frac := Frac.mk' (if half then 2000000000 else 1000000000) fps

/-- The window of a step (R161). -/
def stepWindow (tp : Frac) (m margin : Nat) : Frac := (tp.mul (Frac.mk' 1 m)).mul (Frac.mk' (65536 - margin : Nat) 65536)

/-- The first step of a list that a test takes, or a default. -/
def firstStep (p : Nat → Bool) (d : Nat) (l : List Nat) : Nat := (l.find? p).getD d

/-- Steps from a to b. -/
def stepsFrom (a b : Nat) : List Nat := (List.range (b + 1 - a)).map (· + a)

/-- R162: the step of a frame before its sag floor, and after it.  `ok` the steps that fit, `held` those that fitted in each
of the last frames. -/
def chooseStep (ok held : Nat → Bool) (prev force top stage : Nat) : Nat × Nat :=
  let c := firstStep ok top (stepsFrom force top)
  let n := if prev ≤ c then c else firstStep held prev ((stepsFrom c prev).dropLast)
  let n := Nat.min n top
  (n, if 3 ≤ stage then Nat.max n 1 else n)

/-- Cause of SYNTH_LADDER (Table 6.11; which of several is named, log entry 24). (DEDUCED, unsafe: log entry 24.) -/
def ladderCause (ok : Nat → Bool) (prev base new top : Nat) : Nat :=
  if prev < new then
    (if base < new then 3 else if firstStep ok top (stepsFrom 0 top) < new then 4 else 1)
  else if top < prev then 5 else 2

/-- Decide the ladder step of frame f (R162, R165): the step, its forecast and its window. -/
def State.ladder (s : State) (get : Nat → Nat) (f : Nat) (g : Geom) (lists : List (List (List RTile))) (tp : Frac) : State × Nat × Nat × Frac :=
  let time (st : Nat) : Frac := maxFrac ((ladderStates g.states st).map (fun k => s.subframeTime g st (lists.getD k [])))
  let win (st : Nat) : Frac := stepWindow tp (ladderStates g.states st).length (get 0x06000011)
  let ok (st : Nat) : Bool := (time st).le (win st)
  let fits := (maskOf ok [0, 1, 2, 3] :: s.synth.fits).take 255
  let n := get 0x06000012
  let held (st : Nat) : Bool := decide (n ≤ fits.length) && (fits.take n).all (fun m => bit m st)
  let prev := s.synth.step
  let (base, new) := chooseStep ok held prev (get 0x06000010) (get 0x0600000F) s.pwr.stage
  let ns := Nat.min 0xFFFFFFFF (time new).ceil.toNat
  let cause := ladderCause ok prev base new (get 0x0600000F)
  let s := { s with synth := { s.synth with
    fits := fits, step := new, degraded := if new = 0 then s.synth.degraded else s.synth.degraded + 1
    waitMax := BitVec.ofNat 32 (maxN (lists.flatMap (fun ls => ls.map s.listWait))) } }
  let s := if new = prev then s
    else
      ({ s with synth := { s.synth with cause := cause, changeFrame := BitVec.ofNat 32 f } } : State).raise 6 1 (if prev < new then 2 else 1)
        (packNat [at' 63 56 new, at' 55 48 prev, at' 47 40 cause, at' 31 0 ns]) (f % 2 ^ 32 * 2 ^ 16)
  (s, new, ns, win new)

/-! ### Row assemblers (Table 1.8, R183) -/

/-- Begin the first waiting band of every tile that has an assembler free: two for each tile. -/
def beginBands (bands : List Band) : List Band → List Band × List Band
  | [] => (bands, [])
  | b :: bs =>
    if countP (fun (x : Band) => x.tile == b.tile) bands < 2 then beginBands (bands ++ [b]) bs
    else
      let (bands, rest) := beginBands bands bs
      (bands, b :: rest)

/-- Give free assemblers to waiting bands. -/
def State.fillAssemblers (s : State) : State :=
  let (b, t) := beginBands s.synth.bands s.synth.todo
  { s with synth := { s.synth with bands := b, todo := t } }

/-- The bands of a subframe in scan order. -/
def layoutBands (frame sf : Nat) (blanket : Bool) (ls : List LayTile) : List Band :=
  (List.range (maxN (ls.map (fun t => t.h / 16)))).flatMap (fun b =>
    (ls.filter (fun (t : LayTile) => decide (b < t.h / 16))).map (fun t =>
      { frame := frame, tile := t.tile, sf := sf, by_ := b, need := if blanket then 0 else t.w / 64 }))

/-! ### Ray words (R146, R154, R160) -/

/-- The frame's inputs that a ray tile or band belongs to. -/
def State.fixOf (s : State) (frame : Nat) : Option FrameFix :=
  match s.synth.cur, s.synth.next with
  | some c, n => if c.frame = frame then some c else n.filter (fun (x : FrameFix) => x.frame == frame)
  | none, n => n.filter (fun (x : FrameFix) => x.frame == frame)

/-- What synthesis makes of one ray, before the ladder's copies. -/
def FrameFix.trace (x : FrameFix) (g : Geom) (e : TileEnt) (i j k : Nat) : RayResult :=
  if x.scene then
    let r := rayOf g e i j k
    traceRay g x.params x.anchors (overlayCut g (raySetup g r) x.layers) r
  else { word := noSceneWord x.params (rayView g i j k), slots := [], weights := [] }

/-- The word of a ray at a step: its own or the copied one, with its own VIEW and DECIMATED (R160). -/
def FrameFix.rayResult (x : FrameFix) (g : Geom) (e : TileEnt) (step i j k : Nat) : RayResult :=
  let (u, w) := ladderSource g step (i % g.nu) (j % g.nw)
  let r := x.trace g e (i - i % g.nu + u) (j - j % g.nw + w) k
  { r with word := { r.word with view := rayView g i j k, flags := if step = 0 then r.word.flags else r.word.flags ||| 16 } }

/-- The words of a ray tile, row by row. -/
def FrameFix.tileWords (x : FrameFix) (g : Geom) (e : TileEnt) (step : Nat) (t : RTile) : List RayWord :=
  (List.range 1024).map (fun n => (x.rayResult g e step (64 * t.tx + n % 64) (16 * t.by_ + n / 64) t.sf).word)

end Sys2Proof.Machine
end

