-- ==== Sys2Proof/Machine/SelectOps.lean ====
section
/-! DEFINITION. The selection point of a panel frame: which scene frames are presented (R93 to R99), and everything that is
fixed for the frame (R275). -/

namespace Sys2Proof.Machine

open Sys2Proof

/-! ### Due frames (R93) -/

/-- TB0 in ns of Tf of the frame j after the next one of a timing; j may be negative. -/
def Tim.tfAt (t : Tim) (j : Int) : Int :=
  (t.t0 : Int) + (Frac.mk' (((t.nextTf : Int) + j * t.sCount) * 250000000) (t.fps * t.sCount)).ceil * 4 + t.slewed ((t.nextTf : Int) + j * t.sCount)

/-- A time in ns of TB0 as a frame of a timing, counted from the next frame: the frame whose window holds it. -/
def Tim.frameAt (t : Tim) (x : Int) : Int :=
  let off (j : Int) : Int := 2 * (x - t.tfAt j) * t.fps
  let g := (2 * (x - t.tfAt 0) * t.fps + 1000000000) / 2000000000
  if off g < -1000000000 then g - 1 else if 1000000000 ≤ off g then g + 1 else g

/-- Frame j from f, a frame that begins a pair, is the second frame of a pair: f's own run of pairs began at or before it
(R93, R273). -/
def State.secondOfPair (s : State) (f : Nat) (j : Int) : Bool :=
  j % 2 == 1 && (decide (0 < j) || (match s.ingest.pairFrom with
    | some b => decide (sdiff 32 b f < j)
    | none => false))

/-- The due frame of a scene frame, counted from f; while frames are paired one that begins a pair.
(DESIGN CHOICE, unsafe: log entry 78.) -/
def State.dueOf (s : State) (t : Tim) (f : Nat) (paired : Bool) (x : SFrame) : Option Int :=
  let d : Option Int := match x.pts with
    | some p => (s.baseNs 3).map (fun (b : Nat) => t.frameAt ((p : Int) - b + s.now))
    | none => x.closeDue.map (fun c => sdiff 32 c f)
  d.map (fun j => if paired && s.secondOfPair f j then j + 1 else j)

/-! ### What a scene shows (R96 to R99) -/

/-- SCENE_LATE. -/
def State.sceneLate (s : State) (slot num late kind : Nat) : State :=
  s.raise 3 5 2 (packNat [at' 63 32 num, at' 31 16 (Nat.min late 0xFFFF), at' 15 8 kind]) (slot * 2 ^ 40)

/-- The oldest queued frame is presented (R88, R96). -/
def State.present (s : State) (slot : Nat) (x : SFrame) (late : Nat) : State :=
  let s := if late = 0 then s
    else (s.modScene slot (fun (y : Scene) => { y with late := y.late + 1 })).sceneLate slot x.num late 1
  s.modScene slot (fun (y : Scene) => { y with
    queue := y.queue.filter (fun (g : SFrame) => g != x)
    generation := y.generation + 1
    changed := !x.same && x.content
    shown := some { num := x.num, seq := x.seq, cams := x.cams, tables := x.tables, ovl := x.ovl, pics := x.pics }
    stale := 0
    staleRaised := false
    cues := y.cues.map (fun (c : Cue) => if c.kind = 0 ∧ c.frame = x.uid ∧ c.due = 0 then { c with due := 1 } else c) })

/-- The oldest queued frame is due and not ready: kind 0 and the stale count (R96, R99). -/
def State.notReady (s : State) (get : Nat → Nat) (slot : Nat) (x : SFrame) (due last : Int) : State :=
  let s := if last < due ∧ x.lateRaised = false then
      (s.modScene slot (fun (y : Scene) => { y with queue := y.queue.map (fun (g : SFrame) => if g = x then { g with lateRaised := true } else g) })).sceneLate slot x.num 0 0
    else s
  match s.scene? slot with
  | none => s
  | some y =>
    let n := y.stale + 1
    let excess := decide (get 0x03000005 < n) && !y.staleRaised
    let s := s.modScene slot (fun (y : Scene) => { y with stale := n, staleRaised := y.staleRaised || excess })
    if excess then s.raise 3 6 (if s.instrument then 4 else 2) (x.num * 2 ^ 32 + n % 2 ^ 32) (slot * 2 ^ 40) else s

/-- One scene at the selection point of frame f of a timing; `last` the previous selection point's frame, from f. -/
def State.selectScene (s : State) (t : Tim) (f : Nat) (paired : Bool) (get : Nat → Nat) (last : Int) (slot : Nat) : State :=
  let s := s.modScene slot (fun (y : Scene) => { y with
    queue := y.queue.map (fun (g : SFrame) => if g.closed = true ∧ g.pts = none ∧ g.closeDue = none then { g with closeDue := some f } else g) })
  match s.scene? slot with
  | none => s
  | some y =>
    let due (x : SFrame) : Option Int := s.dueOf t f paired x
    let upTo (x : SFrame) : Bool := x.ready && match due x with
      | some d => decide (d ≤ 0)
      | none => false
    let ok := y.queue.filter upTo
    let left (x : SFrame) : Bool := x.behind || y.stepped && match due x with
      | some d => decide (d < -2)
      | none => false
    let queue := y.queue.map (fun (x : SFrame) => { x with behind := left x })
    let ok := ok.map (fun (x : SFrame) => { x with behind := left x })
    let s := s.modScene slot (fun (z : Scene) => { z with stepped := false, queue := queue })
    let s := match ok.getLast? with
      | some newest =>
        if get 0x03000002 = 1 ∧ queue.any (·.behind) = false then
          (queue.takeWhile (fun x => x != newest)).foldl (fun (s : State) (x : SFrame) => s.dropFrame slot x 0x0D) s
        else s
      | none => s
    match (s.scene? slot).bind (fun (z : Scene) => z.queue.head?) with
    | none => s.modScene slot (fun (z : Scene) => { z with changed := false })
    | some x =>
      match due x with
      | none => s.modScene slot (fun (z : Scene) => { z with changed := false })
      | some d =>
        if 0 < d then s.modScene slot (fun (z : Scene) => { z with changed := false })
        else if x.ready then s.present slot x (-d).toNat
        else (s.notReady get slot x d last).modScene slot (fun (z : Scene) => { z with changed := false })

/-- Every scene at the selection point of frame f; the first of all takes f - 1 as its previous one.
(DESIGN CHOICE, unsafe: log entry 84.) -/
def State.selectScenes (s : State) (t : Tim) (f : Nat) (paired : Bool) (get : Nat → Nat) : State :=
  let last : Int := match s.ingest.prevSel with
    | some p => sdiff 32 p f
    | none => -1
  let s := { s with ingest := { s.ingest with pairFrom := if paired then some (s.ingest.pairFrom.getD f) else none } }
  let slots := s.ingest.scenes.map (·.slot)
  let s := slots.foldl State.drainScene s
  let s := slots.foldl (fun (s : State) (k : Nat) => s.selectScene t f paired get last k) s
  { s with ingest := { s.ingest with prevSel := some f } }

/-! ### The frame is fixed (R275) -/

/-- The effective map of frame f: a rebuilt one that is swapped in by then, else the one in force (R300). -/
def State.gainAt (s : State) (f : Nat) : GainMap :=
  match s.panel.rebuild with
  | some r => (match r.result with
    | some m => if notBefore 32 f r.at_ then m else s.panel.gain
    | none => s.panel.gain)
  | none => s.panel.gain

/-- Everything that the selection point of frame f fixes but the ladder step. -/
def State.fixFrame (s : State) (get : Nat → Nat) (f : Nat) (t : Tim) (paired : Bool) : FrameFix :=
  let g := s.geomOf (get 0x05000001)
  let blanket := s.dev.state == .blanket || g.isNone
  let y := s.panelScene get
  let shown := y.bind (·.shown)
  let layout := s.frameLayout g
  let img := if blanket then s.blanketImage get else none
  let gain := s.gainAt f
  let lut := s.objBytes (get 0x0C000002)
  let same := match s.synth.cur with
    | some c => c.gain == gain && c.lut == lut
    | none => false
  let changed := match y with
    | some x => x.changed
    | none => false
  { frame := f, geom := g, blanket := blanket, params := synthParams get, scene := shown.isSome
    anchors := match shown with
      | some h => h.anchorsIn
      | none => []
    layers := if blanket then [] else s.panelLayers get shown
    base := colourOf (get 0x08000002), byDepth := get 0x08000001 == 1, dither := get 0x08000003
    blank := blanketFrame g layout img (colourOf (get 0x0600000E)), layout := layout
    step := 0, states := [0], sCount := t.sCount, fps := t.fps
    generation := match y with
      | some x => if x.shown.isSome then x.generation.toNat else 0
      | none => 0
    changed := changed, lantern := get 0x0B000007 == 1 || s.instrument
    code := get 0x09000001, peak := get 0x0C000009, lut := lut, gain := gain, steady := same && !changed
    prevFrame := s.synth.cur.map (·.frame)
    taps := (List.range 4).map (fun t => get (0x08000010 + t)), paired := paired, forecast := 0, window := Frac.ofInt 0 }

/-- The lists of the states synthesised join the clusters' lists (R182). -/
def State.takeLists (s : State) (states : List Nat) (lists : List (List (List RTile))) : State :=
  let of (n : Nat) : List RTile := states.flatMap (fun k => (lists.getD k []).getD n [])
  { s with synth := { s.synth with clusters := s.synth.clusters.zipIdx.map (fun (c, n) =>
      { c with list := c.list ++ of n }) } }

/-- The selection point of frame f in a timing whose next frame it is. (DESIGN CHOICE, unsafe: log entry 38.) -/
def State.selectFrame (s : State) (t : Tim) (f : Nat) (change : Bool) : State :=
  let paired := s.dev.halfRate
  let get := s.valueAt f change
  let s := s.selectScenes t f paired get
  let x := s.fixFrame get f t paired
  let s := s.sourceCheck get x.blanket
  let s := { s with tim := { s.tim with selected := some (BitVec.ofNat 32 f) } }
  let take (s : State) (x : FrameFix) : State :=
    ({ s with synth := { s.synth with
        next := some x
        todo := s.synth.todo ++ x.states.flatMap (fun k => layoutBands f k x.blanket x.layout) } } : State).fillAssemblers
  match x.geom with
  | none => take { s with synth := { s.synth with fits := [] } } x
  | some g =>
    if x.blanket then take { s with synth := { s.synth with fits := [] } } x
    else
      let lists := (List.range g.states).map (s.assignSubframe g f)
      let prev := s.synth.step
      let ran := s.ladder get f g lists (tpFrac t.fps paired)
      let s := ran.1
      let step := ran.2.1
      let ns := ran.2.2.1
      let win := ran.2.2.2
      let states := ladderStates g.states step
      let x := { x with step := step, states := states, forecast := ns, window := win, steady := x.steady && step == prev }
      take (s.takeLists states lists) x

end Sys2Proof.Machine
end

