-- ==== Sys2Proof/Machine/SynthRows.lean ====
section
/-! DEFINITION. Geometry commands (spec/05 section 5.7), and the commands and events of synthesis (spec/06). -/

namespace Sys2Proof.Machine

open Sys2Proof

/-! ### GEOM_INFO, GEOM_RAY -/

def geomInfoBody (c : Cmd) (s : State) : Ran :=
  match s.obj? c.object.toNat with
  | none => refuse s stBadObject
  | some o =>
    let g := parseGeom o.data
    let pw := g.cols * g.tileW
    let ph := g.rows * g.tileH
    answer s
      [packW [at' 127 96 (crc32c o.data), at' 95 80 pw, at' 79 64 ph, at' 63 56 g.nax, at' 55 48 g.nay, at' 47 32 (g.nax * g.nay),
         at' 31 24 g.states],
       packW [at' 127 64 (pw * ph * g.states), at' 63 32 (pw * ph / (g.nu * g.nw)),
         at' 31 0 (g.tiles.length * g.tileW * g.tileH / 1024)],
       packW [at' 127 120 (fpsMax g)]]

/-- GEOM_INFO (Table 5.9). -/
def execGeomInfo (c : Cmd) (s : State) : Host.Outcome State Fault Refusal :=
  .next (hostCmd (.geomInfo c) { op := 0x0501, obj := some 3 } geomInfoBody c s)

/-- The ray that a payload of Table 5.10 names: tile entry, I, J, K. -/
def geomRayArgs (g : Geom) (c : Cmd) : Option (TileEnt × Nat × Nat × Nat) :=
  if c.okBits 1 (mask 127 80) = false ∨ g.states ≤ c.f 1 119 112 ∨ g.tileW ≤ c.f 1 111 96 ∨ g.tileH ≤ c.f 1 95 80 then none
  else (g.entry (c.f 1 127 120)).map (fun e => (e, c.f 1 111 96, c.f 1 95 80, c.f 1 119 112))

/-- The response of GEOM_RAY (Table 5.11). -/
def rayWords (g : Geom) (e : TileEnt) (i j k : Nat) : List Word :=
  let r := rayOf g e i j k
  [packW [at' 127 96 (unsgn 32 r.x), at' 95 64 (unsgn 32 r.y), at' 63 32 (unsgn 32 r.tx), at' 31 0 (unsgn 32 r.ty)],
   packW [at' 127 120 r.v, at' 119 112 r.ax, at' 111 104 r.ay, at' 95 80 (e.col * g.tileW + i), at' 79 64 (e.row * g.tileH + j),
     at' 63 48 (i / 64), at' 47 32 (j / 16)]]

def geomRayBody (c : Cmd) (s : State) : Ran :=
  match s.obj? c.object.toNat with
  | none => refuse s stBadObject
  | some o =>
    let g := parseGeom o.data
    match geomRayArgs g c with
    | none => refuse s stBadArg
    | some (e, i, j, k) => answer s (rayWords g e i j k)

/-- GEOM_RAY (Tables 5.10, 5.11). -/
def execGeomRay (c : Cmd) (s : State) : Host.Outcome State Fault Refusal :=
  .next (hostCmd (.geomRay c) { op := 0x0502, obj := some 3 } geomRayBody c s)

/-! ### SYNTH_STATUS, SYNTH_PROBE -/

/-- A cluster's state code (Table 6.8). (DEDUCED, unsafe: log entry 40.) -/
def State.clusterCode (s : State) (n : Nat) : Nat :=
  let c := s.synth.clusters.getD n {}
  if c.disabled then 4
  else if c.failed then 3
  else if s.dev.state == .blanket || s.dev.state == .parasol || (s.domain (6 + n / 4)).st != 2 then 2
  else if c.disp.isEmpty then 0 else 1

/-- Cluster states from cluster n, four bits each. -/
def State.clusterCodes (s : State) (n k : Nat) : Nat :=
  packNat ((List.range k).map (fun i => at' (4 * i + 3) (4 * i) (s.clusterCode (n + i))))

def synthStatusBody (c : Cmd) (s : State) : Ran :=
  if c.okBits 1 1 = false then refuse s stBadArg
  else
    let (step, fc, win) := match s.synth.cur with
      | some x => (x.step, x.forecast, if x.blanket then 0 else Nat.min 0xFFFFFFFF x.window.floor.toNat)
      | none => (0, 0, 0)
    let ws : List Word :=
      [packW [at' 127 120 step, at' 119 112 s.synth.cause, at' 111 104 s.clusterPool.length, at' 95 64 fc, at' 63 32 win,
         at' 31 0 s.synth.changeFrame.toNat],
       packW [at' 127 96 s.synth.degraded.toNat, at' 95 64 s.synth.escalated.toNat, at' 63 32 s.synth.resets.toNat,
         at' 31 0 s.synth.waitMax.toNat],
       packW [at' 127 0 (s.clusterCodes 0 32)],
       packW [at' 63 0 (s.clusterCodes 32 16)]]
    let s := if bit (c.w 1) 0 then
        { s with synth := { s.synth with degraded := 0, escalated := 0, resets := 0, waitMax := 0 } }
      else s
    answer s ws

/-- SYNTH_STATUS (Table 6.8). -/
def execSynthStatus (c : Cmd) (s : State) : Host.Outcome State Fault Refusal :=
  .next (hostCmd (.synthStatus c) { op := 0x0601 } synthStatusBody c s)

/-- The step at which a ray tile of the current frame was synthesised (R166). -/
def State.tileStep (s : State) (x : FrameFix) (t sf by_ tx : Nat) : Nat :=
  if s.synth.escTiles.any (fun (r : RTile) => r.frame == x.frame && r.tile == t && r.sf == sf && r.by_ == by_ && r.tx == tx) then 3
  else x.step

/-- The response of SYNTH_PROBE (Table 6.9). -/
def probeWords (r : RayResult) (step frame : Nat) : List Word :=
  let slot (n : Nat) : Nat := match r.slots[n]? with
    | some x => x.a.n * 256 + (match x.hit with
      | some h => h.layer
      | none => 0xFF)
    | none => 0xFFFF
  let z (n : Nat) : Nat := match r.slots[n]? with
    | some x => (match x.hit with
      | some h => h.z
      | none => 0)
    | none => 0
  let w (n : Nat) : Nat := ((r.weights.find? (fun (p : Nat × Nat) => p.1 == n)).map (·.2)).getD 0
  [r.word.pack,
   packW [at' 127 120 r.slots.length, at' 119 112 step, at' 95 80 (slot 0), at' 79 64 (slot 1), at' 63 48 (slot 2), at' 47 32 (slot 3),
     at' 31 0 frame],
   packW [at' 127 96 (z 0), at' 95 64 (z 1), at' 63 32 (z 2), at' 31 0 (z 3)],
   packW [at' 127 112 (w 0), at' 111 96 (w 1), at' 95 80 (w 2), at' 79 64 (w 3)]]

def synthProbeBody (c : Cmd) (s : State) : Ran :=
  match s.synth.cur.filter (fun (x : FrameFix) => s.dev.state.full && !x.blanket) with
  | none => refuse s stBadState
  | some x =>
    match x.geom with
    | none => refuse s stBadState
    | some g =>
      match geomRayArgs g c with
      | none => refuse s stBadArg
      | some (e, i, j, k) =>
        if x.states.contains k = false then refuse s stBadArg
        else
          let step := s.tileStep x e.tile k (j / 16) (i / 64)
          let r := x.rayResult g e step i j k
          answer s (probeWords r step x.frame)

/-- SYNTH_PROBE (R166, Table 6.9). -/
def execSynthProbe (c : Cmd) (s : State) : Host.Outcome State Fault Refusal :=
  .next (hostCmd (.synthProbe c) { op := 0x0602 } synthProbeBody c s)

/-! ### Ray tiles at the clusters (R159, R182 to R185) -/

/-- The band of a ray tile. -/
def RTile.inBand (t : RTile) (b : Band) : Bool := b.frame == t.frame && b.tile == t.tile && b.sf == t.sf && b.by_ == t.by_

/-- Its band holds a row assembler (R183). -/
def State.bandHeld (s : State) (t : RTile) : Bool := s.synth.bands.any t.inBand

/-- The other pool cluster whose list has the most cost left (R184); the lower number on a tie. -/
def State.richest (s : State) (n : Nat) : Option Nat :=
  s.clusterPool.foldl (fun (best : Option Nat) (m : Nat) =>
    if m = n ∨ (s.cluster m).list.isEmpty = true then best
    else match best with
      | none => some m
      | some b => if (s.cluster b).remaining < (s.cluster m).remaining then some m else best) none

/-- The list that a cluster takes its next tile from: its own, or, while `place.steal` is 1, another's (R184).
(DESIGN CHOICE, unsafe: log entry 32.) -/
def State.takesFrom (s : State) (n : Nat) : Option Nat :=
  if !(s.cluster n).list.isEmpty then some n
  else if s.pget 0x07000003 = 1 then s.richest n else none

/-- A cluster takes the head of its own list (R183), or another list's earliest tile in scan order (R184). -/
def execRayTileDispatch (cluster : Nat) (s : State) : Host.Outcome State Fault Refusal :=
  .next (
    if s.dev.state.full = false ∨ s.clusterPool.contains cluster = false ∨ (s.domain (6 + cluster / 4)).st ≠ 2 ∨ 8 ≤ (s.cluster cluster).disp.length then s
    else
      match s.takesFrom cluster with
      | none => s
      | some m =>
        match (if m = cluster then (s.cluster m).list.head? else earliest (s.cluster m).list) with
        | none => s
        | some t =>
          if s.bandHeld t = false then s
          else
            let s := s.modCluster m (fun (c : Cluster) => { c with list := c.list.erase t })
            let s := if m = cluster then s else { s with place := { s.place with steals := s.place.steals + 1 } }
            s.modCluster cluster (fun (c : Cluster) => ({ c with disp := c.disp ++ [t] } : Cluster).startHead s.now s.place.epoch.toNat))

/-- Record a measured wait. -/
def State.putWait (s : State) (t : RTile) (wait : Nat) : State :=
  let rest := s.synth.waits.filter (fun (w : WaitRec) => !(w.tile == t.tile && w.sf == t.sf && w.by_ == t.by_ && w.tx == t.tx))
  { s with synth := { s.synth with waits := { tile := t.tile, sf := t.sf, by_ := t.by_, tx := t.tx, ns := wait } :: rest } }

/-- The step at which a dispatched tile is synthesised. -/
def RTile.step (t : RTile) (x : FrameFix) : Nat := if t.esc then 3 else x.step

/-- The words of a retired tile go to its band's row assembler. -/
def State.deliver (s : State) (t : RTile) : State :=
  match s.fixOf t.frame with
  | none => s
  | some x =>
    match x.geom.bind (fun (g : Geom) => (g.entry t.tile).map (fun (e : TileEnt) => (g, e))) with
    | none => s
    | some (g, e) =>
      let words : TileWords := { tx := t.tx, words := x.tileWords g e (t.step x) t }
      let done : RetRec := { frame := t.frame, sf := t.sf, ns := s.now, rays := tileRays g (t.step x) t.by_ t.tx }
      { s with synth := { s.synth with
        bands := s.synth.bands.map (fun (b : Band) => if t.inBand b then { b with got := b.got ++ [words] } else b)
        retired := s.synth.retired ++ [done] } }

/-- The ray tile that a cluster synthesises retires, with the memory wait it incurred in ns (R157, R182).
(DEDUCED, unsafe: log entry 40.) -/
def execRayTileRetire (cluster wait : Nat) (s : State) : Host.Outcome State Fault Refusal :=
  .next (
    match (s.cluster cluster).disp with
    | [] => s
    | t :: ts =>
      if t.started = false ∨ t.t0 + 20000 ≤ s.now then s
      else
        let s := (s.deliver t).putWait t wait
        s.modCluster cluster (fun (c : Cluster) => ({ c with disp := ts } : Cluster).startHead s.now s.place.epoch.toNat))

/-- A ray tile is not retired within 20 µs of its start (R159). (DEDUCED, unsafe: log entry 40.) -/
def execRayTileTimeout (cluster : Nat) (s : State) : Host.Outcome State Fault Refusal :=
  .next (
    match (s.cluster cluster).disp with
    | [] => s
    | t :: ts =>
      if t.started = false then s
      else
        let s := s.advanceTo (t.t0 + 20000)
        let recent := (s.cluster cluster).resets.filter (fun r => decide (s.now < r + 1000000000))
        let resets := s.now :: recent
        let s := s.modCluster cluster (fun (c : Cluster) => ({ c with disp := ts, resets := resets } : Cluster).startHead s.now s.place.epoch.toNat)
        let s := s.reassign cluster t
        let s := { s with synth := { s.synth with resets := s.synth.resets + 1 } }
        let s := s.raise 6 3 3 (packNat [at' 63 56 cluster, at' 55 48 (Nat.min 255 resets.length), at' 31 0 1]) s.arg2f
        if 3 ≤ resets.length then (s.failCluster cluster).powerSync else s)

/-! ### The quarter check (R164) -/

/-- A tile of a frame's subframe. -/
def RTile.isOf (t : RTile) (frame sf : Nat) : Bool := t.frame == frame && t.sf == sf

/-- Ray tiles of a subframe that have not retired. -/
def State.unretired (s : State) (frame sf : Nat) : List RTile :=
  s.synth.clusters.flatMap (fun (c : Cluster) => (c.disp ++ c.list).filter (fun (t : RTile) => t.isOf frame sf))

/-- A tile that the check escalates. -/
def RTile.escalates (t : RTile) (frame sf : Nat) : Bool := t.isOf frame sf && !t.started && !t.esc

/-- Every ray tile of a subframe not yet started is synthesised at step 3, and SYNTH_ESCALATE says how many are new (R164). (DEDUCED, unsafe: log entry 40.) -/
def State.escalate (s : State) (x : FrameFix) (sf q : Nat) : State :=
  let ts := if x.step = 3 then [] else (s.unretired x.frame sf).filter (fun (t : RTile) => t.escalates x.frame sf)
  let first := !ts.isEmpty && !s.synth.escTiles.any (fun (t : RTile) => t.isOf x.frame sf)
  let up (t : RTile) : RTile := if x.step ≠ 3 ∧ t.escalates x.frame sf then { t with esc := true } else t
  let s := { s with synth := { s.synth with
    clusters := s.synth.clusters.map (fun (c : Cluster) => { c with list := c.list.map up, disp := c.disp.map up })
    escTiles := s.synth.escTiles ++ ts
    escalated := if first then s.synth.escalated + 1 else s.synth.escalated } }
  s.raise 6 2 2 (packNat [at' 63 56 sf, at' 55 48 q, at' 31 0 ts.length]) s.arg2f

/-- A quarter of a synthesised subframe's window: completion is projected from the rays retired in that quarter.
(DEDUCED, unsafe: log entry 40.) -/
def execForecastQuarterCheck (s : State) : Host.Outcome State Fault Refusal :=
  .next (
    match s.synth.cur.filter (fun (x : FrameFix) => s.dev.state.full && !x.blanket) with
    | none => s
    | some x =>
      match x.geom, x.states[s.synth.checks / 3]? with
      | some g, some sf =>
        let j := s.synth.checks / 3
        let q := s.synth.checks % 3 + 1
        let quarter := x.window.mul (Frac.mk' 1 4)
        let start := (Frac.ofInt s.tim.curTf).add ((tpFrac s.tim.fps x.paired).mul (Frac.mk' j x.states.length))
        let stop := start.add (quarter.mul (Frac.ofInt q))
        let t := stop.ceil.toNat
        let s := s.advanceTo t
        let s := { s with synth := { s.synth with checks := s.synth.checks + 1 } }
        let since := start.add (quarter.mul (Frac.ofInt ((q : Int) - 1)))
        let rays := sumN ((s.synth.retired.filter (fun (r : RetRec) => r.frame == x.frame && r.sf == sf && since.le (Frac.ofInt r.ns) && (Frac.ofInt r.ns).lt stop)).map (·.rays))
        let left := sumN ((s.unretired x.frame sf).map (fun (t : RTile) => tileRays g (t.step x) t.by_ t.tx))
        if rays * (4 - q) < left then s.escalate x sf q else s
      | _, _ => s)

end Sys2Proof.Machine
end

