-- ==== Sys2Proof/Machine/BandRows.lean ====
section
/-! DEFINITION. From the row assemblers to the scan-out buffer: composition and taps (spec/08), the lantern mark (R285),
correction and the luminance monitor (spec/12 sections 12.1 to 12.5), dither and compression (spec/09), the shares of R276. -/

namespace Sys2Proof.Machine

open Sys2Proof

/-! ### Scan-out of a tile (R276, R277) -/

def State.scanOf (s : State) (t : Nat) : TileScan := (s.tim.scan.find? (fun (x : TileScan) => x.tile == t)).getD { tile := t }

def State.modScan (s : State) (t : Nat) (f : TileScan → TileScan) : State :=
  let l := if s.tim.scan.any (fun (x : TileScan) => x.tile == t) then s.tim.scan else s.tim.scan ++ [({ tile := t } : TileScan)]
  { s with tim := { s.tim with scan := l.map (fun (x : TileScan) => if x.tile == t then f x else x) } }

/-- Bytes of a row in the buffer. -/
def RowEnt.size (r : RowEnt) : Nat := r.blks.length * (formB r.code / 8)

/-- Bytes of a tile's share in use. -/
def TileScan.used (x : TileScan) : Nat := sumN (x.share.map RowEnt.size)

/-! ### The words of a band -/

/-- A word that no synthesis has written. -/
def noWord : RayWord := { r := 0, g := 0, b := 0, coverage := 0, zinv := 0, anchor := 0xFF, layer := 0xFF, view := 0, flags := 0 }

/-- The word at pixel (i, j) of the band's tile, j counted within the band. -/
def Band.word (b : Band) (i j : Nat) : RayWord :=
  match b.got.find? (fun (w : TileWords) => w.tx == i / 64) with
  | some w => w.words.getD (64 * j + i % 64) noWord
  | none => noWord

/-- The composed words of a band, row by row: in BLANKET the sampler's words pass through (R198, R206). -/
def FrameFix.bandWords (x : FrameFix) (lt : LayTile) (b : Band) : List RayWord :=
  (List.range (16 * lt.w)).map (fun n =>
    let i := n % lt.w
    let j := 16 * b.by_ + n / lt.w
    if x.blanket then blanketWord x.blank lt.col lt.row lt.nu lt.nw (i / lt.nu) (j / lt.nw)
    else
      match x.geom.bind (fun (g : Geom) => (g.entry b.tile).map (fun (e : TileEnt) => (g, e))) with
      | some (g, e) => composeRay g x.base x.byDepth x.layers (rayOf g e i j b.sf) (b.word i (n / lt.w))
      | none => b.word i (n / lt.w))

/-! ### The lantern mark (R285) -/

/-- The mark over one word of lens (lx, ly) of a tile with lw × lh lenses, at generation g. -/
def lanternWord (g lw lh lx ly : Nat) (w : RayWord) : RayWord :=
  let c := 37 * g % (lw - 7)
  let r := 23 * g % (lh - 7)
  if c ≤ lx ∧ lx < c + 8 ∧ r ≤ ly ∧ ly < r + 8 then
    let v := if ((lx - c) + (ly - r) + g) % 2 = 0 then 0x3C00 else 0
    { w with r := v, g := v, b := v, flags := w.flags ||| 4 }
  else w

/-- A band's words as they go to correction. -/
def FrameFix.marked (x : FrameFix) (lt : LayTile) (b : Band) (ws : List RayWord) : List RayWord :=
  if x.lantern = false then ws
  else
    (List.range ws.length).map (fun n =>
      lanternWord x.generation (lt.w / lt.nu) (lt.h / lt.nw) (n % lt.w / lt.nu) ((16 * b.by_ + n / lt.w) / lt.nw) (ws.getD n noWord))

/-! ### Taps (R207) -/

/-- Put a sample into a tap frame. -/
def putTap (l : List TapPx) (p : TapPx) : List TapPx := p :: l.filter (fun (q : TapPx) => !(q.x == p.x && q.y == p.y))

/-- The samples that one ray gives a tap. -/
def tapSamples (g : Geom) (v lc lr view : Nat) (w : RayWord) : List TapPx :=
  let d := 2 ^ bits v 55 52
  let cw := g.cols * g.tileW / g.nu / d
  let ch := g.rows * g.tileH / g.nw / d
  if lc % d ≠ 0 ∨ lr % d ≠ 0 ∨ cw ≤ lc / d ∨ ch ≤ lr / d then []
  else
    (List.range (bits v 49 48 + 1)).flatMap (fun r => (List.range (bits v 51 50 + 1)).filterMap (fun c =>
      if bits v 47 40 + c * bits v 39 32 + r * bits v 31 24 = view then
        some { x := c * cw + lc / d, y := r * ch + lr / d, c := { r := w.r, g := w.g, b := w.b } }
      else none))

/-- The samples of a band for one tap. (DEDUCED, unsafe: log entry 42.) -/
def bandTap (g : Geom) (lt : LayTile) (b : Band) (v : Nat) (ws : List RayWord) : List TapPx :=
  (List.range ws.length).flatMap (fun n =>
    let i := n % lt.w
    let j := 16 * b.by_ + n / lt.w
    tapSamples g v ((lt.col * g.tileW + i) / g.nu) ((lt.row * g.tileH + j) / g.nw) (rayView g i j b.sf) (ws.getD n noWord))

/-- Taps copy the composed words while PANEL composition runs. (DEDUCED, unsafe: log entry 42.) -/
def State.takeTaps (s : State) (x : FrameFix) (lt : LayTile) (b : Band) (ws : List RayWord) : State :=
  match x.geom with
  | none => s
  | some g =>
    if x.blanket then s
    else
      (List.range 4).foldl (fun (s : State) (t : Nat) =>
        let v := x.taps.getD t 0
        if bits v 63 56 = 0 then s
        else
          let now := match s.synth.cur with
            | some c => c.frame == x.frame
            | none => false
          let px := bandTap g lt b v ws
          { s with comp := { s.comp with taps := updAt s.comp.taps t (fun (p : Tap) =>
            if now then { p with run := px.foldl putTap p.run } else { p with ahead := px.foldl putTap p.ahead }) } }) s

/-! ### ABL (R302, R303) -/

def State.modFix (s : State) (frame : Nat) (f : FrameFix → FrameFix) : State :=
  let g (o : Option FrameFix) : Option FrameFix := o.map (fun (x : FrameFix) => if x.frame = frame then f x else x)
  { s with synth := { s.synth with cur := g s.synth.cur, next := g s.synth.next } }

/-- PM of a frame: the mean of M over its tiles and subframes (R302). -/
def State.pmOf (s : State) (x : FrameFix) : Nat :=
  let m (t k : Nat) : Nat := ((s.panel.lum.find? (fun (l : Lum) => l.tile == t && l.k == k)).map (·.m)).getD 0
  rneDiv (sumN (x.layout.flatMap (fun (t : LayTile) => (List.range x.sCount).map (m t.tile)))) (x.layout.length * x.sCount)

/-- The abl of the frame after one with `abl` and a PM (R303). (DEDUCED, unsafe: log entry 41.) -/
def nextAbl (limit abl pm : Nat) : Nat :=
  if limit = 0 then 0x8000
  else
    let a := if pm = 0 then 0x8000 else Nat.min 0x8000 (rneDiv (limit * 2 ^ 15) pm)
    if a < abl then a else Nat.min a (abl + 0x80)

/-- The abl of a frame is fixed: at its first band, at the latest at its Tf. (DEDUCED, unsafe: log entry 41.) -/
def State.fixAbl (s : State) (frame : Nat) : State :=
  match s.fixOf frame with
  | none => s
  | some x =>
    if x.abl.isSome then s
    else
      let limit := s.valueAt frame false 0x0C00000A
      let pm := match s.synth.cur with
        | some c => if c.layout.isEmpty then 0 else s.pmOf c
        | none => s.panel.pm
      let old := s.panel.abl
      let abl := if s.synth.cur.isNone && limit != 0 then old else nextAbl limit old pm
      let s := (s.modFix frame (fun y => { y with abl := some abl }))
      let s := { s with panel := { s.panel with abl := abl, pm := pm } }
      if (old = 0x8000) = (abl = 0x8000) then s
      else s.raise 0x0C 5 1 (packNat [at' 63 48 abl, at' 47 32 pm, at' 31 16 limit]) s.arg2f

/-! ### Correction (R290 to R292) -/

/-- The cell of pixel (i, j) of a tile of width w (R290). -/
def cellOf (w i j : Nat) : Nat := j / 4 * (w / 4) + i / 4

/-- The three channels of a word. -/
def RayWord.chan (w : RayWord) (ch : Nat) : Nat := if ch = 0 then w.r else if ch = 1 then w.g else w.b

/-- y of each channel of a pixel. -/
def FrameFix.lightOf (x : FrameFix) (abl t cell : Nat) (w : RayWord) : List Frac :=
  [0, 1, 2].map (fun ch => corrY (x.gain.gain t cell ch) abl (w.chan ch))

/-- A frame's panel pixel (R131): the tile's grid position over the tile size. -/
def FrameFix.pixelAt (x : FrameFix) (lt : LayTile) (i j : Nat) : Nat × Nat := (lt.col * x.blank.tw + i, lt.row * x.blank.th + j)

/-- The dithered code of one pixel from its light. -/
def FrameFix.pixelCode (x : FrameFix) (lt : LayTile) (i j : Nat) (ys : List Frac) : Px :=
  let (p, q) := x.pixelAt lt i j
  let c (ch : Nat) : Int := (Sys2Proof.Machine.dither x.dither (formN x.code) (corrCode x.lut ch (ys.getD ch (Frac.ofInt 0))) p q x.frame : Nat)
  { r := c 0, g := c 1, b := c 2 }

/-! ### Luminance (R302, R304) -/

/-- A binary32 value in units of 2^-149. -/
def f32units (x : Frac) : Nat := (x.mul (pow2 149)).floor.toNat

/-- The sum of min(y, PEAK) over a band, in units of 2^-149. -/
def lumSum (peak : Frac) (ys : List (List Frac)) : Nat := sumN (ys.map (fun l => sumN (l.map (fun y => f32units (y.min peak)))))

/-- M of a tile of w × h pixels from its sum. -/
def lumMean (peak : Frac) (w h sum : Nat) : Nat := Nat.min 0xFFFF (rneDiv (sum * 65536) (3 * w * h * f32units peak))

/-- A band joins the sum of its tile and state, which its first band begins; the last one gives M.
(DEDUCED, unsafe: log entry 41.) -/
def State.addLum (s : State) (b : Band) (bands w h sum : Nat) (peak : Frac) : State :=
  let old : Lum := (s.panel.lum.find? (fun (l : Lum) => l.tile == b.tile && l.k == b.sf)).getD { tile := b.tile, k := b.sf }
  let base : Lum := if b.by_ = 0 then { old with sum := 0, bands := 0 } else old
  let new : Lum := { base with sum := base.sum + sum, bands := base.bands + 1 }
  let new := if new.bands = bands then { new with m := lumMean peak w h new.sum } else new
  { s with panel := { s.panel with lum := new :: s.panel.lum.filter (fun (l : Lum) => !(l.tile == b.tile && l.k == b.sf)) } }

/-- The excursion check of a subframe of tile t and state k (R304); SM09 reacts with SAFE (Tables 18.2, 18.3).
(DEDUCED, unsafe: log entry 41.) -/
def State.excursionAt (s : State) (x : FrameFix) (abl t k : Nat) : State :=
  match s.panel.lum.find? (fun (l : Lum) => l.tile == t && l.k == k) with
  | none => s
  | some l =>
    let mx := rneDiv (l.m * abl) (2 ^ 15)
    let ceiling := s.valueAt x.frame false 0x0C00000B
    let jump := s.valueAt x.frame false 0x0C00000C
    let before : Option Nat := l.prev.bind (fun (p : Nat × Nat) => if x.steady = true ∧ x.prevFrame = some p.1 then some p.2 else none)
    let s := { s with panel := { s.panel with lum := s.panel.lum.map (fun (y : Lum) =>
      if y.tile = t ∧ y.k = k then { y with prev := some (x.frame, mx) } else y) } }
    let fail : Option (Nat × Nat) :=
      if ceiling < mx then some (1, ceiling)
      else match before with
        | some p => if p + jump < mx then some (2, p) else none
        | none => none
    match fail with
    | none => s
    | some (why, ref) =>
      let s := { s with panel := { s.panel with excursions := s.panel.excursions + 1 } }
      if (s.tile t).lumRaised then s
      else
        let s := s.modTile t (fun d => { d with lumRaised := true })
        (s.raise 0x0C 4 4 (packNat [at' 63 56 t, at' 55 48 k, at' 47 40 why, at' 31 16 mx, at' 15 0 ref]) s.arg2f).safeByFault

/-- The check of a synthesised subframe, once its last band has given M. -/
def State.excursion (s : State) (x : FrameFix) (b : Band) (bands abl : Nat) : State :=
  if s.panel.lum.any (fun (l : Lum) => l.tile == b.tile && l.k == b.sf && l.bands == bands) then s.excursionAt x abl b.tile b.sf else s

/-! ### Stress samples (R297) -/

/-- The stress means of the band's cell row c, 0 to 3: three values a cell. -/
def cellMeans (peak : Frac) (w c : Nat) (ys : List (List Frac)) : List Nat :=
  (List.range (w / 4)).flatMap (fun n => [0, 1, 2].map (fun ch =>
    let ps := (List.range 16).map (fun p => ((ys.getD ((4 * c + p / 4) * w + 4 * n + p % 4) []).getD ch (Frac.ofInt 0)).min peak)
    (fixR 16 0 0xFFFF ((ps.foldl Frac.add (Frac.ofInt 0)).div (peak.mul (Frac.ofInt 16)))).toNat))

/-- A band's cell rows replace those of its tile and state. -/
def State.putCells (s : State) (b : Band) (w : Nat) (peak : Frac) (ys : List (List Frac)) : State :=
  let new : List CellRow := (List.range 4).map (fun c => { tile := b.tile, k := b.sf, row := 4 * b.by_ + c, m := cellMeans peak w c ys })
  let kept := s.panel.cells.filter (fun (r : CellRow) => !(r.tile == b.tile && r.k == b.sf && r.row / 4 == b.by_))
  { s with panel := { s.panel with cells := kept ++ new } }

/-! ### Compression and the shares (R215, R224, R276) -/

/-- The block rows of a band from its pixels. -/
def bandRows (x : FrameFix) (lt : LayTile) (b : Band) (px : List Px) : List RowEnt :=
  let zero : Px := { r := 0, g := 0, b := 0 }
  (List.range 8).map (fun r =>
    let blks := (List.range (lt.w / 8)).map (fun c => encodeBlock x.code (blockPixels (fun i j => px.getD (j * lt.w + i) zero) r c))
    { frame := x.frame, sf := b.sf, row := 8 * b.by_ + r, rcrc := reconCrc x.code blks, code := x.code, blks := blks })

/-- The largest error of a block row against its pixels (Table 9.9). -/
def rowError (form w : Nat) (px : List Px) (r : Nat) (blks : List Nat) : Nat :=
  let zero : Px := { r := 0, g := 0, b := 0 }
  maxN ((List.range blks.length).flatMap (fun c =>
    blockErrs (blockPixels (fun i j => px.getD (j * w + i) zero) r c) (decodeBlock form (blks.getD c 0))))

/-- Modes and errors of the subframe under compression (Table 9.9). -/
def State.countBlocks (s : State) (x : FrameFix) (lt : LayTile) (px : List Px) (rows : List RowEnt) : State :=
  let modes := (List.range 4).map (fun m => countP (fun k => blockMode x.code k == m) (rows.flatMap (·.blks)))
  let err := maxN ((List.range rows.length).map (fun r => rowError x.code lt.w px r ((rows[r]?.map (·.blks)).getD [])))
  let f := x.frame
  let k := ((rows.head?).map (·.sf)).getD 0
  let old : ModeRun := (s.comp.runs.find? (fun (r : ModeRun) => r.frame == f && r.sf == k)).getD { frame := f, sf := k, modes := [0, 0, 0, 0], err := 0 }
  let new : ModeRun := { old with modes := (List.range 4).map (fun m => old.modes.getD m 0 + modes.getD m 0), err := Nat.max old.err err }
  { s with comp := { s.comp with runs := new :: s.comp.runs.filter (fun (r : ModeRun) => !(r.frame == f && r.sf == k)) } }

/-- Bytes of a tile's share (R276). (DEDUCED, unsafe: log entry 41.) -/
def FrameFix.shareBytes (x : FrameFix) : Nat := 16 * 2 ^ 20 / Nat.max 1 x.layout.length

/-- A band's rows are discarded on entry: the port is not ACTIVE, or the present subframe is held or cut (R254, R277,
R278). -/
def State.dropsRows (s : State) (b : Band) : Bool :=
  let now := match s.synth.cur with
    | some c => c.frame == b.frame && s.tim.sf == b.sf
    | none => false
  (s.port b.tile).state != 5 || (now && ((s.scanOf b.tile).held || (s.scanOf b.tile).cut))

/-- A complete band goes through the chain; its rows enter the share. -/
def State.compressBand (s : State) (x : FrameFix) (lt : LayTile) (b : Band) : State :=
  let s := s.fixAbl b.frame
  let abl := ((s.fixOf b.frame).bind (·.abl)).getD 0x8000
  let words := x.bandWords lt b
  let s := s.takeTaps x lt b words
  let ws := x.marked lt b words
  let cell (n : Nat) : Nat := cellOf lt.w (n % lt.w) (16 * b.by_ + n / lt.w)
  let light (a : Nat) : List (List Frac) := (List.range ws.length).map (fun n => x.lightOf a b.tile (cell n) (ws.getD n noWord))
  let ys := light abl
  let px := (List.range ws.length).map (fun n => x.pixelCode lt (n % lt.w) (16 * b.by_ + n / lt.w) (ys.getD n []))
  let rows := bandRows x lt b px
  let peak := f16val x.peak
  let bands := lt.h / 16
  let drop := s.dropsRows b
  let s := s.putCells b lt.w peak ys
  let s := s.countBlocks x lt px rows
  let s := if drop then s else s.modScan b.tile (fun y => { y with share := y.share ++ rows })
  let s := { s with synth := { s.synth with bands := s.synth.bands.filter (fun (y : Band) => y != b) } }
  let s := s.fillAssemblers
  let s := s.addLum b bands lt.w lt.h (lumSum peak (if abl = 0x8000 then ys else light 0x8000)) peak
  s.excursion x b bands abl

/-- A tile's oldest band is compressed into its share: when it is complete, and its rows have room or are discarded.
(DEDUCED, unsafe: log entry 41.) -/
def execBandCompress (tile : Nat) (s : State) : Host.Outcome State Fault Refusal :=
  .next (
    match s.synth.bands.find? (fun (b : Band) => b.tile == tile) with
    | none => s
    | some b =>
      match s.fixOf b.frame with
      | none => s
      | some x =>
        match x.layout.find? (fun (t : LayTile) => t.tile == tile) with
        | none => s
        | some lt =>
          let size := 8 * (lt.w / 8) * (formB x.code / 8)
          if b.got.length < b.need then s
          else if s.dropsRows b = false ∧ x.shareBytes < (s.scanOf tile).used + size then s
          else s.compressBand x lt b)

end Sys2Proof.Machine
end

