-- ==== Sys2Proof/Machine/DmaRows.lean ====
section
/-! DEFINITION. DMA reads that fail (R44). -/

namespace Sys2Proof.Machine

open Sys2Proof

/-! ### A DMA read of a command's data fails (R44) -/

/-- The command of a job ends with a status; what it was building is given up. -/
def State.dmaFail (s : State) (id status : Nat) : State :=
  match s.job? id with
  | none => s
  | some j =>
    match j.key with
    | .objectCreate obj _ => (s.removeObj obj).endJob id status []
    | .fwStage n _ _ => ((({ s with fw := { s.fw.setSlot n {} with staging := none } } : State).endJob id status []).powerSync)
    | .sceneSubmit slot =>
      let scene := s.ingest.scenes.find? (fun (x : Scene) => x.slot == slot)
      let words := match scene.bind (fun (x : Scene) => x.carriers.find? (fun (c : Carrier) => c.job == some id)) with
        | some c => c.words
        | none => []
      ({ s with ingest := { s.ingest with scenes := s.ingest.scenes.map (fun (x : Scene) =>
          if x.slot ≠ slot then x
          else
            let cur := (x.carriers.find? (fun (c : Carrier) => decide (c.off < c.len))).bind (·.job)
            { x with
              carriers := x.carriers.filter (fun (c : Carrier) => c.job != some id)
              waiting := if cur = some id then [] else x.waiting }) } } : State).endJob id status words |>.drainClose slot
    | .cmpJob obj =>
      (match s.comp.jobs.find? (fun k => k.obj == obj) with
       | some k => s.failCmpJob k status
       | none => s)
    | .regionUpdate _ => s.endRegion id status
    | _ => s

/-- A completion timeout is counted (Table 2.45). -/
def State.countCto (s : State) : State := s.modHost (fun h => { h with pcie := { h.pcie with cto := h.pcie.cto + 1 } })

/-- DMA_READ_TIMEOUT. -/
def execDmaReadTimeout (t : DmaTarget) (s : State) : Host.Outcome State Fault Refusal :=
  .next (match t with
    | .ring mb => s.countCto.ringFail mb 3
    | .job id => s.countCto.dmaFail id stTimeout)

/-- DMA_READ_POISONED. -/
def execDmaReadPoisoned (t : DmaTarget) (s : State) : Host.Outcome State Fault Refusal :=
  .next (match t with
    | .ring mb => s.ringFail mb 2
    | .job id => s.dmaFail id stIntegrity)

end Sys2Proof.Machine
end

