-- ==== Sys2Proof/Machine/ScanOps.lean ====
section
/-! DEFINITION. A boundary of the panel grid (spec/11): the end of a subframe with its SUBFRAME_START, the beginning of a
panel frame with everything that takes effect there, and the beginning of a subframe with the first-row check. -/

namespace Sys2Proof.Machine

open Sys2Proof

/-! ### Which tiles are served -/

/-- The owner of a planned switchover sends no content after its boundary (Table 18.11). -/
def State.switchSilent (s : State) : Bool :=
  match s.pair.switch with
  | some w => !w.toUs && w.stage == 1
  | none => false

/-- A tile gets SUBFRAME_STARTs: ACTIVE, owned, not after a neutral pair (R248, R309). -/
def State.serves (s : State) (t : Nat) : Bool := s.ownActive t && (s.tile t).stop != 2 && !s.switchSilent

/-- The tiles served. -/
def State.servedTiles (s : State) : List Nat := tileNums.filter s.serves

/-- The present subframe carries no rows: its state is not synthesised, or the frame is the second of a pair (R273). -/
def State.repeats (s : State) : Bool :=
  s.tim.second || match s.synth.cur with
    | some x => !x.states.contains s.tim.sf
    | none => false

/-- A tile of the layout of the frame whose subframes are sent. -/
def State.layTile? (s : State) (t : Nat) : Option LayTile :=
  s.synth.cur.bind (fun (x : FrameFix) => x.layout.find? (fun (l : LayTile) => l.tile == t))

/-- The tile shows what the coming subframe carries, as far as its port and its drive go (R144, R156, R254, R313). -/
def State.showable (s : State) (t : Nat) : Bool :=
  let p := s.port t
  let inLayout := match s.synth.cur with
    | some x => x.layout.any (fun (l : LayTile) => l.tile == t)
    | none => true
  p.state == 5 && inLayout && match s.darkReason t with
    | none => true
    | some 4 => !p.own || (s.tile t).mode == 2
    | some _ => false

/-! ### The end of a subframe -/

/-- What is kept of a subframe that ends. -/
structure SubEnd where
  begun : Bool
  frame : Nat
  sf : Nat
  tag : Nat
  sCount : Nat
  dark : Nat
  rep : Bool
  /-- Tiles in the layout of its frame, none where no frame was selected. -/
  layout : Option (List LayTile)
  deriving DecidableEq, Repr

def State.subEnd (s : State) : SubEnd :=
  { begun := s.tim.begun, frame := s.tim.frame.toNat, sf := s.tim.sf, tag := s.tim.tag, sCount := s.tim.sCount, dark := s.tim.dark
    rep := s.repeats, layout := s.synth.cur.map (·.layout) }

/-- Block rows of a tile's subframe. -/
def State.rowTotal (s : State) (t : Nat) : Nat :=
  match s.layTile? t with
  | some l => l.h / 2
  | none => 0

/-- Every row of the present subframe went to the tile (R283, R320). -/
def State.sentWhole (s : State) (t : Nat) : Bool :=
  let y := s.scanOf t
  (s.tile t).showSf && !y.held && !y.cut && !s.repeats && decide (0 < s.rowTotal t) && y.sent.length == s.rowTotal t

/-- Rows not yet sent are discarded at the cutoff (R278). (DEDUCED, unsafe: log entry 46.) -/
def State.cutTile (s : State) (t : Nat) : State :=
  let y := s.scanOf t
  let left := s.rowTotal t - y.sent.length
  if !s.serves t || !(s.tile t).showSf || y.held || y.cut || s.repeats || left == 0 then s
  else
    let s := s.modScan t (fun z => { z with cut := true, underrunRaised := true, share := z.share.filter (fun (r : RowEnt) =>
      !(some r.frame == s.synth.cur.map (·.frame) && r.sf == s.tim.sf)) })
    let s := { s with tim := { s.tim with underrun := s.tim.underrun + BitVec.ofNat 32 left } }
    if y.underrunRaised then s
    else s.raise 0x0B 2 2 (packNat [at' 63 56 t, at' 55 48 s.tim.sf, at' 47 32 left, at' 31 0 s.tim.frame.toNat]) s.arg2f

/-- The cutoff of the present subframe. -/
def State.cutoff (s : State) : State :=
  if s.tim.cutDone || !s.tim.begun then s
  else (tileNums.foldl State.cutTile s |> fun (s : State) => { s with tim := { s.tim with cutDone := true } })

/-- The signature of the rows sent (R283). (DEDUCED, unsafe: log entry 43.) -/
def TileScan.signature (y : TileScan) : Nat := crc32c (y.sent.flatMap (leBytes 4))

/-- The freeze check of one tile's subframe (R284): a tile fails in a frame in which one of its checks fails, and passes in
one in which some pass and none fails; SM07 reacts in instrument mode (R426).  A BLANKET frame, which presents no scene frame, gives
references alone.
(DEDUCED, unsafe: log entry 43.) -/
def State.freezeTile (s : State) (x : FrameFix) (t : Nat) : State :=
  if !s.sentWhole t then s
  else
    let y := s.scanOf t
    let k := s.tim.sf
    let sig := y.signature
    let ref := y.refs.find? (fun (r : Sig) => r.k == k)
    let s := s.modScan t (fun z => { z with refs := { k := k, sig := sig } :: z.refs.filter (fun (r : Sig) => r.k != k) })
    match ref with
    | none => s
    | some r =>
      if x.changed = false || x.blanket then s
      else if r.sig ≠ sig then s.modScan t (fun z => { z with passedNow := true })
      else
        let s := { s with tim := { s.tim with freeze := s.tim.freeze + 1 } }
        if y.failedNow then s
        else
          let n := y.fails + 1
          let s := s.modScan t (fun z => { z with failedNow := true, fails := n })
          let arg := packNat [at' 63 56 t, at' 55 48 k, at' 47 32 (Nat.min 0xFFFF n), at' 31 0 sig]
          if s.instrument then (s.raise 0x0B 3 4 arg s.arg2f).safeByFault
          else if n = s.pget 0x0B000008 then s.raise 0x0B 3 2 arg s.arg2f
          else s

/-- The checks of a subframe that has ended: repeats have none. (DEDUCED, unsafe: log entry 43.) -/
def State.freezeCheck (s : State) : State :=
  match s.synth.cur with
  | none => s
  | some x => if s.repeats then s else tileNums.foldl (fun (s : State) (t : Nat) => s.freezeTile x t) s

/-- Modes and largest error of the last complete subframe (Table 9.9). -/
def State.takeModes (s : State) : State :=
  match s.synth.cur with
  | none => s
  | some x =>
    let here (r : ModeRun) : Bool := r.frame == x.frame && r.sf == s.tim.sf
    match s.comp.runs.find? here with
    | none => s
    | some r =>
      if s.repeats then s
      else { s with comp := { s.comp with modes := r.modes, maxErr := r.err, runs := s.comp.runs.filter (fun (y : ModeRun) => !here y) } }

/-! ### SUBFRAME_START of the subframe that has ended (R270, R306 to R309, R316, R320) -/

/-- The HOLD that covers the subframe on one tile, besides that of R277: mode and reason. -/
def State.coverOf (s : State) (e : SubEnd) (t : Nat) : Option (Nat × Nat) :=
  match s.darkReason t with
  | some r => some (1, r)
  | none =>
    let late := match e.layout with
      | some l => !l.any (fun (x : LayTile) => x.tile == t)
      | none => false
    if late then some (1, 3) else if (s.tile t).showSf then none else some (0, 1)

/-- The tile's first content subframe begins (Table 12.5). -/
def State.firstContent (s : State) (t : Nat) : State :=
  if (s.tile t).firstDue = true ∧ (s.tile t).mode = 4 then
    (s.modTile t (fun d => { d with firstDue := false })).panelPower t 3 (s.tile t).cause
  else s

/-- The subframe that has ended is started on one tile. (DEDUCED, unsafe: log entry 46.) -/
def State.startTile (s : State) (e : SubEnd) (whole : List Nat) (t : Nat) : State :=
  let d := s.tile t
  let cover := s.coverOf e t
  let s := match cover with
    | some (_, 2) => s
    | some (m, r) => s.sendHold t e.tag 1 m e.frame r
    | none => s
  let covered := cover.isSome || (s.scanOf t).held
  let want : Option Nat :=
    if covered then none
    else if e.rep then d.exp.getD e.sf none
    else if whole.contains t then some d.fmRun else none
  let s := s.modTile t (fun d => { d with exp := updAt d.exp e.sf (fun (_ : Option Nat) => want) })
  let s := s.sendStart t e.frame e.tag e.sf (b2n e.rep) e.sCount e.dark want
  let s := if covered then s else s.firstContent t
  if (s.tile t).stop = 1 then s.neutral t 4 else s

/-- LEDGER of the owning side (R310, R447): the last drive, whether it is settled, and of each tile its ledgers and what the drive
in flight adds to them once it is. (DEDUCED, unsafe: log entry 54.) -/
def State.sendLedger (s : State) (e : SubEnd) : State :=
  if !s.dev.pairCfg || !s.owns || s.pair.xlink != 2 then s
  else s.emit (.xlink 4 ([e.frame, e.tag, b2n (s.panel.tiles.all (·.drive.isNone))] ++ tileNums.flatMap (fun t =>
    let d := s.tile t
    [sfield 2 d.l0, sfield 2 d.l1, sfield 2 (d.drive.elim 0 (·.dl0)), sfield 2 (d.drive.elim 0 (·.dl1))])))

/-- SUBFRAME_STARTs of a subframe that has ended. (DEDUCED, unsafe: log entry 46.) -/
def State.sendStarts (s : State) (e : SubEnd) (whole : List Nat) : State :=
  let s := s.servedTiles.foldl (fun (s : State) (t : Nat) => s.startTile e whole t) s
  (s.sendLedger e).settleTilePower

/-- SUBFRAME_STARTs under a HOLD that was sent before: of (f0, 0) in a timing mode change (Table 11.2). -/
def State.sendDark (s : State) (e : SubEnd) : State :=
  let s := s.servedTiles.foldl (fun (s : State) (t : Nat) =>
    (s.modTile t (fun d => { d with exp := updAt d.exp e.sf (fun (_ : Option Nat) => none) })).sendStart t e.frame e.tag e.sf 0 e.sCount e.dark none) s
  s.sendLedger e

/-- SUBFRAME_START of the last subframe of the timing that has ended, dark (R270, Table 11.2); a tile that waits for reconcile
again has its HOLD (R254). (DEDUCED, unsafe: log entry 49.) -/
def State.sendLast (s : State) (l : LastSub) : State :=
  let s := s.servedTiles.foldl (fun (s : State) (t : Nat) => match s.darkReason t with
    | some r => s.sendHold t l.tag 1 1 l.frame r
    | none => s) s
  ({ s with tim := { s.tim with lastSub := none } } : State).sendDark
    { begun := true, frame := l.frame, sf := l.sf, tag := l.tag, sCount := l.sCount, dark := l.dark, rep := false, layout := none }

/-! ### The beginning of a panel frame -/

/-- Taps complete at the end of the last subframe of their frame (R209). (DEDUCED, unsafe: log entry 42.) -/
def State.endTaps (s : State) : State :=
  match s.synth.cur with
  | none => s
  | some x =>
    match x.geom with
    | none => s
    | some g =>
      if x.blanket || s.tim.second then s
      else
        let taps := (List.range 4).map (fun t =>
          let p := s.comp.taps.getD t {}
          let v := x.taps.getD t 0
          if bits v 63 56 = 0 then p
          else { p with frame := some x.frame, w := (tapSize g v).1, h := (tapSize g v).2, done := p.run })
        { s with comp := { s.comp with taps := taps } }

/-- The samples compressed ahead join those of the frame that begins; a changed tap starts anew.
(DEDUCED, unsafe: log entry 42.) -/
def State.beginTaps (s : State) (old : Option FrameFix) (new : FrameFix) : State :=
  { s with comp := { s.comp with taps := (List.range 4).map (fun t =>
      let p := s.comp.taps.getD t {}
      let same := match old with
        | some o => o.taps.getD t 0 == new.taps.getD t 0 && o.geom == new.geom
        | none => false
      { p with run := p.ahead.foldr (fun (q : TapPx) (l : List TapPx) => putTap l q) (if same then p.run else []), ahead := [] }) } }

/-- SCENE_CUE (R90). -/
def State.fireCue (s : State) (slot : Nat) (c : Cue) (late dropped : Bool) : State :=
  s.raise 3 8 0 c.value (packNat [at' 47 40 slot, at' 39 24 c.num, at' 16 16 (b2n late), at' 17 17 (b2n dropped)])

/-- The cues of one scene at subframe 0. -/
def State.sceneCues (s : State) (slot : Nat) : State :=
  match s.scene? slot with
  | none => s
  | some x =>
    let tf := s.baseNs 3
    let soon (c : Cue) : Bool := match tf with
      | some b => decide (c.time * s.tim.fps < b * s.tim.fps + 1000000000)
      | none => false
    let late (c : Cue) : Bool := match tf with
      | some b => decide (c.time < b)
      | none => false
    let fires (c : Cue) : Bool := if c.kind = 0 then c.due != 0 else soon c
    let s := s.modScene slot (fun (y : Scene) => { y with cues := y.cues.filter (fun (c : Cue) => !fires c) })
    (x.cues.filter fires).foldl (fun (s : State) (c : Cue) => s.fireCue slot c (c.kind == 1 && late c) (c.kind == 0 && c.due == 2)) s

/-- FRAME_MARK (Table 2.44). -/
def State.frameMark (s : State) : State :=
  let p := s.pget 0x01000001
  let f := s.tim.frame.toNat
  if p ≠ 0 ∧ wsub 32 f s.par.mark % p = 0 then s.raise 1 6 0 (f * 2 ^ 32) 0 else s

/-- The phase error of a Tf, in ns, for the grid locked to TB3 (R268). (DEDUCED, unsafe: log entry 48.) -/
def State.phaseOf (s : State) (b : Nat) : Int :=
  let f := s.tim.fps
  let x : Int := (((b % 1000000000 * f : Nat) : Int) - ((s.pget 0x0B000003 * f : Nat) : Int)) % 1000000000
  let x := if 500000000 < x then x - 1000000000 else x
  x / (f : Int)

/-- TIM_LOCK. (DEDUCED, unsafe: log entry 48.) -/
def State.timLock (s : State) (what : Nat) : State :=
  s.raise 0x0B 5 (if what = 1 then 1 else 2) (packNat [at' 63 56 what, at' 31 0 (sfield 32 s.tim.phaseErr)]) s.arg2f

/-- The servo at a Tf (R268): lock state, slew of the frame that begins by at most `tim.servo_ppm` of it, or the wish to
re-phase; a step of TB3 is ignored while a timing mode change runs (Table 11.3).
(DESIGN CHOICE, safe: log entry 3; DEDUCED, unsafe: log entry 48.) -/
def State.servo (s : State) : State :=
  let s := { s with tim := s.tim.slewBy 0 }
  if s.tim.change.isSome then s
  else if s.pget 0x0B000002 = 0 then { s with tim := { s.tim with lock := 0, phaseErr := 0, inSince := none } }
  else
    match s.baseNs 3 with
    | none =>
      let was := s.tim.lock
      let s := { s with tim := { s.tim with lock := 1, inSince := none } }
      if was = 2 then s.timLock 0 else s
    | some b =>
      let err := s.phaseOf b
      let since := if err.natAbs ≤ 1000 then some (s.tim.inSince.getD s.now) else none
      let was := s.tim.lock
      let held := match since with
        | some t => was == 2 || decide (t + 1000000000 ≤ s.now)
        | none => false
      let s := { s with tim := { s.tim with lock := if held then 2 else 1, phaseErr := err, inSince := since } }
      let s := if held && was != 2 then s.timLock 1 else if !held && was == 2 then s.timLock 0 else s
      if s.followsGrid then s
      else
        let lim := s.pget 0x0B000005
        if lim ≠ 0 ∧ lim * 1000 < err.natAbs then { s with tim := { s.tim with rephaseDue := true } }
        else
          let ran := s.takeFree (s.pget 0x0B000004 * s.tim.tp / 1000000 + 1)
          let s := ran.1
          let f := ran.2
          let step : Int := (Nat.min f err.natAbs : Nat)
          { s with tim := s.tim.slewBy (if 0 < err then -step else step) }

/-- The monitor and return signal formats (R211, R348, R360): 16-bit codes of R, G, B, or of Y, Cb, Cr at narrow range with
the BT.2020 non-constant-luminance matrix (log entry 4). (PRESUMED, unsafe: log entry 4.) -/
def signalCodes (ycc : Bool) (r g b : Nat) : List Nat :=
  if ycc = false then [r, g, b]
  else
    let y : Int := 2627 * (r : Int) + 6780 * (g : Int) + 593 * (b : Int)
    let narrow (scale off : Int) (x : Frac) : Nat := ((x.mul (Frac.mk' (scale * 256) 65535)).add (Frac.ofInt (off * 256))).rne.toNat
    [narrow 219 16 (Frac.mk' y 10000), narrow 224 128 (Frac.mk' (10000 * (b : Int) - y) 18814),
     narrow 224 128 (Frac.mk' (10000 * (r : Int) - y) 14746)]

/-- The codes of a flat picture, row by row, three a pixel. -/
def flatPicture (base : Rgb) (ls : List LayerFix) (enc dith w h frame : Nat) (ycc : Bool) : List Nat :=
  (List.range (w * h)).flatMap (fun n =>
    let d := composeFlat base ls (n % w) (n / w)
    let (r, g, b) := encodeRgb (bits enc 7 0) d.r d.g d.b
    (signalCodes ycc r g b).map (fun x => dither dith (bits enc 15 8) x (n % w) (n / w) frame))

/-- The input picture of a stream whose picture falls due in the frame that begins (R348, R356). -/
def State.encPicture (s : State) (n w : Nat) (codes : List Nat) : State :=
  let e := s.encS n
  if e.state ≠ 1 ∨ e.phase ≠ 0 ∨ e.coding.isSome then s
  else s.emit (.display (2 + n) (s.tim.frame.toNat ::
    encInput (s.encP n 4) (s.encW n) (s.encH n) (bits (s.pget 0x0800000A) 15 8) w codes))

/-- The RETURN picture of a panel frame goes to the encoders that run (R198, R348).
(DEDUCED, unsafe: log entry 42.) -/
def State.returnPicture (s : State) : State :=
  if s.sagSeen ≠ 0 then s
  else
    let shown := (s.panelScene s.pget).bind (·.shown)
    let ls := s.flatLayers s.pget shown s.comp.taps 3
    let s := { s with comp := { s.comp with retVisible := ls.length } }
    if !s.enc.streams.any (fun (e : EncStream) => e.state == 1) then s
    else
      let size := s.pget 0x0800000C
      let codes := flatPicture (colourOf (s.pget 0x08000009)) ls (s.pget 0x0800000A) (s.pget 0x0800000B)
        (bits size 31 16) (bits size 15 0) s.tim.frame.toNat true
      [0, 1].foldl (fun s n => s.encPicture n (bits size 31 16) codes) (s.emit (.display 1 (s.tim.frame.toNat :: codes)))

/-- What ends with a panel frame and begins with the next: the limits of one event a frame, the smallest tolerance. -/
def State.frameCounts (s : State) : State :=
  { s with
    tim := { s.tim with
      frame := s.tim.nextFrame, nextFrame := s.tim.nextFrame + 1, selected := none
      ltrMin := BitVec.ofNat 32 s.tim.ltrRun, ltrRun := 0xFFFFFFFF
      scan := s.tim.scan.map (fun (y : TileScan) =>
        { y with underrunRaised := false, failedNow := false, passedNow := false, fails := if y.passedNow && !y.failedNow then 0 else y.fails }) }
    ingest := { s.ingest with scenes := s.ingest.scenes.map (fun (x : Scene) => { x with drops := 0, conceals := 0 }) } }

/-- PANEL_FRAME values and a rebuilt map take effect at the frame that begins (R60, R274, R300).
(DEDUCED, unsafe: log entry 47.) -/
def State.frameValues (s : State) : State :=
  if s.tim.second then s
  else
  let f := s.tim.frame.toNat
  let s := match s.par.commit with
    | some c => if !c.mode && notBefore 32 f c.panelAt then s.applyPanel f else s
    | none => s
  match s.panel.rebuild with
  | some r => if r.result.isSome && notBefore 32 f r.at_ then s.gainSwap f else s
  | none => s

/-- The selected frame is the one whose subframes are sent from now on; a new timing starts with it.
(DEDUCED, unsafe: log entry 47.) -/
def State.takeNext (s : State) : State :=
  let f := s.tim.nextFrame.toNat
  let s := s.fixAbl f
  match s.synth.next.filter (fun (x : FrameFix) => x.frame == f) with
  | none => { s with synth := { s.synth with cur := none, next := none }, tim := { s.tim with pairing := false, second := false } }
  | some x =>
    let s := s.beginTaps s.synth.cur x
    let fresh := x.fps != s.tim.fps || x.sCount != s.tim.sCount
    let s := { s with
      synth := { s.synth with cur := some x, next := none, checks := 0
                              retired := s.synth.retired.filter (fun (r : RetRec) => r.frame == f)
                              escTiles := s.synth.escTiles.filter (fun (t : RTile) => t.frame == f) }
      comp := { s.comp with visible := 1 + x.layers.length, runs := s.comp.runs.filter (fun (r : ModeRun) => r.frame == f) }
      tim := { s.tim with curTf := s.now, pairing := x.paired, second := false } }
    if fresh then
      { s with tim := { (s.tim.origin s.now) with
        fps := x.fps, sCount := x.sCount, dark := s.modeDark
        scan := s.tim.scan.map (fun (y : TileScan) => { y with refs := [] }) } }
    else s

/-- The timing that the coming frame runs in: what the device state asks for, from the coming Tf on.
(DESIGN CHOICE, unsafe: log entry 78.) -/
def State.comingTim (s : State) : Tim :=
  if s.wantedTiming = (s.tim.fps, s.tim.sCount) then s.tim
  else { (s.tim.origin (s.tim.tfNs 0)) with fps := s.wantedTiming.1, sCount := s.wantedTiming.2 }

/-- A selection point that has not come about before its Tf falls at it. -/
def State.lateSelect (s : State) : State :=
  if s.tim.selected = some s.tim.nextFrame then s
  else s.selectFrame s.comingTim s.tim.nextFrame.toNat false

/-- Tf in a timing mode change: the dark HOLD of frame f0, and nothing for frame f0 + 1 (Table 11.2). -/
def State.changeFrame (s : State) (m : ModeChange) : State :=
  let s := { s with
    synth := { s.synth with cur := none, next := none, bands := [], todo := []
                            clusters := s.synth.clusters.map (fun (c : Cluster) => { c with list := [] }) }
    tim := { s.tim with pairing := false, second := false } }
  if m.stage ≠ 0 then s
  else
    let tag := (s.tim.tag + 1) % 256
    let s := s.servedTiles.foldl (fun (s : State) (t : Nat) => s.sendHold t tag (2 * s.tim.sCount) 1 m.f0.toNat 2) s
    { s with tim := { s.tim with change := some { m with stage := 1, k0 := s.tim.nextK, tag0 := tag } } }

/-- A panel frame begins: Tf (R267). (DEDUCED, unsafe: log entry 47.) -/
def State.frameBegin (s : State) : State :=
  let s := s.endTaps
  let s :=
    match s.tim.change with
    | some m => s.changeFrame m
    | none =>
      if s.tim.pairing && !s.tim.second then { s with tim := { s.tim with second := true } }
      else s.lateSelect.takeNext
  let s := s.frameCounts.frameValues.sourceRaise
  let s := (s.ingest.scenes.map (·.slot)).foldl State.sceneCues s
  s.frameMark.servo.encFrame.netFrame.returnPicture

/-! ### The beginning of a subframe -/

/-- A subframe's data are still of use. -/
def State.live (s : State) (frame sf : Nat) : Bool :=
  (match s.synth.cur with
   | some x => x.frame == frame && decide (s.tim.sf ≤ sf) && !s.tim.second
   | none => false) ||
  match s.synth.next with
  | some x => x.frame == frame
  | none => false

/-- Bands, ray tiles and rows of passed subframes are discarded (R278). -/
def State.purge (s : State) : State :=
  { s with
    synth := { s.synth with
      bands := s.synth.bands.filter (fun (b : Band) => s.live b.frame b.sf)
      todo := s.synth.todo.filter (fun (b : Band) => s.live b.frame b.sf)
      clusters := s.synth.clusters.map (fun (c : Cluster) => { c with list := c.list.filter (fun (t : RTile) => s.live t.frame t.sf) }) }
    tim := { s.tim with scan := s.tim.scan.map (fun (y : TileScan) =>
      { y with share := y.share.filter (fun (r : RowEnt) => s.live r.frame r.sf), held := false, cut := false, sent := [] }) } }

/-- The share holds the first block row of the subframe that begins. -/
def State.firstRow (s : State) (t : Nat) : Bool :=
  (s.scanOf t).share.any (fun (r : RowEnt) => some r.frame == s.synth.cur.map (·.frame) && r.sf == s.tim.sf && r.row == 0)

/-- The first-row check (R20, R277). -/
def State.firstRows (s : State) : State :=
  if s.repeats then s
  else
    let ts := s.servedTiles.filter (fun t => (s.tile t).showSf && !s.firstRow t)
    if ts.isEmpty then s
    else
      let s := ts.foldl (fun (s : State) (t : Nat) =>
        (s.modScan t (fun y => { y with held := true, share := y.share.filter (fun (r : RowEnt) =>
          !(some r.frame == s.synth.cur.map (·.frame) && r.sf == s.tim.sf)) })).sendHold t s.tim.tag 1 0 s.tim.frame.toNat 1) s
      let s := { s with tim := { s.tim with holds := s.tim.holds + BitVec.ofNat 32 ts.length } }
      s.raise 0x0B 1 2 (packNat [at' 63 48 (sumN (ts.map (fun t => 2 ^ t))), at' 47 40 s.tim.sf, at' 39 32 1, at' 31 0 s.tim.frame.toNat]) s.arg2f

/-- EMIT_ON 20 ms to 1 ms before the boundary at which the tile's first content begins (Table 12.5).
(DESIGN CHOICE, unsafe: log entry 50.) -/
def State.emitOn (s : State) : State :=
  let left := s.tim.boundaryNs s.tim.nextK - s.now
  if s.tim.change.isSome ∨ left < 1000000 ∨ 20000000 < left then s
  else
    (s.servedTiles.filter (fun t => (s.tile t).showSf && (s.tile t).mode == 2)).foldl (fun (s : State) (t : Nat) =>
      (s.sendPower t 1 0 0 2).modTile t (fun d => { d with mode := 3 })) s

/-- A subframe begins: boundary k of the timing in force. -/
def State.subframeBegin (s : State) : State :=
  let k := s.tim.nextK
  let s := { s with tim := { s.tim with
    nextK := k + 1, sf := k % s.tim.sCount, tag := (s.tim.tag + 1) % 256, begun := true, cutDone := false, keepDone := false } }
  let s := s.purge.fillAssemblers
  let s := { s with panel := { s.panel with tiles := s.panel.tiles.map (fun (d : TileDrive) => { d with fmRun := 0, imgRun := [] }) } }
  if s.tim.change.isSome then tileNums.foldl (fun (s : State) (t : Nat) => s.modTile t (fun d => { d with showSf := false })) s
  else
    let s := tileNums.foldl (fun (s : State) (t : Nat) => let b := s.showable t; s.modTile t (fun d => { d with showSf := b })) s
    s.firstRows.emitOn

/-- A subframe that is not synthesised keeps the M of its steering state (R302) and has its excursion check too, as it begins
(R304). (DEDUCED, unsafe: log entry 41.) -/
def State.keptCheck (s : State) : State :=
  match s.synth.cur with
  | none => s
  | some x =>
    if !s.repeats then s
    else x.layout.foldl (fun (s : State) (l : LayTile) => s.excursionAt x (x.abl.getD 0x8000) l.tile s.tim.sf) s

/-! ### PARASOL at a boundary (R321, R328) -/

/-- Boundary 0 after the wake: a dark subframe on every port (R328). (DEDUCED, unsafe: log entry 59.) -/
def State.wakeStart (s : State) : State :=
  let tag := (s.tim.tag + 1) % 256
  let s := { s with tim := { s.tim with tag := tag, wakeFirst := false } }
  s.servedTiles.foldl (fun (s : State) (t : Nat) =>
    (s.sendHold t tag 1 1 s.tim.frame.toNat 2).sendStart t s.tim.frame.toNat tag 0 0 s.tim.sCount s.tim.dark none) s

/-- The entry has been made: the commands that asked for it complete. (DEDUCED, unsafe: log entry 59.) -/
def State.endEnter (s : State) : State := s.endJobs (s.jobIds (fun j => j.key == .parasolEnter)) stOk

/-- Entry to PARASOL by the host, at the boundary after the rows of (fE, 0): which tiles are tracked (R321).
(DEDUCED, unsafe: log entry 59.) -/
def State.parasolGo (s : State) (whole : List Nat) : State :=
  let ts := s.ownTiles
  let s := s.enter .parasol 2
  let s := tileNums.foldl (fun (s : State) (t : Nat) => s.modTile t (fun d => { d with
    img := if whole.contains t then some d.imgRun else d.img })) s
  let s := { s with panel := { s.panel with enterStage := 3 } }
  (s.stopGrid.panelParasol 1 (sumN (ts.map (fun t => 2 ^ t)))).endEnter

/-- Entry by sag stage S5: one SUBFRAME_START with K 0 and REPEAT 1 (R321).
(DEDUCED, unsafe: log entry 55; DEDUCED, unsafe: log entry 59.) -/
def State.parasolSag (s : State) (e : SubEnd) : State :=
  let ts := s.servedTiles
  let s := ts.foldl (fun (s : State) (t : Nat) => s.sendStart t e.frame e.tag 0 1 e.sCount e.dark ((s.tile t).exp.getD 0 none)) s
  let s := { s with panel := { s.panel with enterStage := 3 } }
  (s.stopGrid.panelParasol 1 (sumN (ts.map (fun t => 2 ^ t)))).endEnter

end Sys2Proof.Machine
end

