-- ==== Sys2Proof/Machine/ScanRows.lean ====
section
/-! DEFINITION. The events of the panel and monitor generators and of scan-out, and TIM_STATUS (spec/11). -/

namespace Sys2Proof.Machine

open Sys2Proof

/-! ### Selection point (R275, R281, R321) -/

/-- The timing that starts at Tn of a mode change (Table 11.2): of the values of its COMMIT; a re-phase keeps the mode.
(DEDUCED, unsafe: log entry 49.) -/
def State.changeTim (s : State) (m : ModeChange) (t0 : Nat) : Tim :=
  let get := s.valueAt (m.f0 + 2).toNat m.commit
  let mode := get 0x0B000001
  let states := match s.geomOf (get 0x05000001) with
    | some g => g.states
    | none => 1
  let (fps, n) := if s.dev.state == .blanket then (30, 1) else (bits mode 7 0, states)
  { (s.tim.origin t0) with fps := fps, sCount := n, dark := bits mode 31 16 }

/-- 2 × Tp after Tf of f0 in the old timing. (DEDUCED, unsafe: log entry 49.) -/
def State.changeTn (s : State) (m : ModeChange) : Nat := s.tim.boundaryNs (m.k0 + 2 * s.tim.sCount)

/-- The link steps of the change have ended: every tile that got EMIT_OFF is ACTIVE again.
(DEDUCED, unsafe: log entry 49.) -/
def State.linksBack (s : State) (m : ModeChange) : Bool :=
  m.stage == 4 && m.awaiting == 0 && (maskTiles m.emitOff).all (fun t => (s.port t).state == 5 || !(s.tile t).powered)

/-- Tn can be told: the lane rate stays, or its link steps have ended. -/
def State.tnKnown (s : State) (m : ModeChange) : Bool := decide (3 ≤ m.stage) && (!m.rate || s.linksBack m)

/-- TB0 in ns of Tn: the later of 2 × Tp and the end of the link steps, at most 100 ms after 2 × Tp; where the source is
locked, the next grid point of the new mode. (DEDUCED, unsafe: log entry 49.) -/
def State.tnNs (s : State) (m : ModeChange) : Nat :=
  let s := s.advanceTo (s.changeTn m + if m.rate && !s.linksBack m then 100000000 else 0)
  s.now + s.gridWait (s.valueAt (m.f0 + 2).toNat m.commit) (s.changeTim m 0).fps

/-- The change begins at the frame whose selection point this is: a COMMIT's, or a re-phase (R268, R281).
(DEDUCED, unsafe: log entry 49.) -/
def State.changeDue (s : State) : Option ModeChange :=
  let f := s.tim.nextFrame.toNat
  match s.par.commit with
  | some c =>
    if c.mode && notBefore 32 f c.panelAt then
      some { f0 := BitVec.ofNat 32 f, rate := (pfind c.panel 0x0A000001).getD (s.pget 0x0A000001) != s.pget 0x0A000001 }
    else if s.tim.rephaseDue then some { f0 := BitVec.ofNat 32 f, commit := false } else none
  | none => if s.tim.rephaseDue then some { f0 := BitVec.ofNat 32 f, commit := false } else none

/-- Mark the coming frame's selection point as past. -/
def State.markSelected (s : State) : State := { s with tim := { s.tim with selected := some s.tim.nextFrame } }

/-- A host's entry to PARASOL: only subframe 0 of the selected frame is synthesised (R321).
(DEDUCED, unsafe: log entry 59.) -/
def State.onlyFirst (s : State) : State :=
  let f := s.tim.nextFrame.toNat
  let keep (frame sf : Nat) : Bool := frame != f || sf == 0
  { s with
    panel := { s.panel with enterStage := 2, enterFrame := s.tim.nextFrame }
    synth := { s.synth with
      next := s.synth.next.map (fun (x : FrameFix) => { x with states := [0] })
      todo := s.synth.todo.filter (fun (b : Band) => keep b.frame b.sf)
      bands := s.synth.bands.filter (fun (b : Band) => keep b.frame b.sf)
      clusters := s.synth.clusters.map (fun (c : Cluster) => { c with list := c.list.filter (fun (t : RTile) => keep t.frame t.sf) }) } }

/-- The selection point of a frame of the present timing. -/
def State.selectHere (s : State) : State :=
  let s := s.selectFrame s.comingTim s.tim.nextFrame.toNat false
  if s.panel.enterStage = 1 then s.onlyFirst else s

/-- The first frame of the new timing of a change has its selection point, and with it Tn its time. -/
def State.selectNew (s : State) (m : ModeChange) (tn : Nat) : State :=
  (({ s with tim := { s.tim with nextFrame := m.f0 + 2, change := some { m with tn := some tn } } } : State).selectFrame
    (s.changeTim m tn) (m.f0 + 2).toNat m.commit)

/-- The selection point of the coming frame.  A host's entry to PARASOL stops a timing mode change here, where it begins (R282,
R321). (DEDUCED, unsafe: log entry 49.) -/
def State.atSelection (s : State) : State :=
  match s.tim.change with
  | some m =>
    if s.panel.enterStage = 1 then (if m.commit then s.stopChange.dropCommit stAborted else s.stopChange).selectHere
    else if s.tim.nextFrame = m.f0 + 2 then s.selectNew m (s.tnNs m)
    else s.markSelected
  | none =>
    match s.changeDue with
    | some m =>
      let s := { s with tim := { s.tim with change := some m, rephaseDue := false } }
      (if m.commit then s else s.timLock 2).markSelected
    | none => s.selectHere

/-- The selection point of the next panel frame, none once an entry to PARASOL has its last; the second frame of a pair has none (R273), and that of the first frame of a new
timing waits until Tn is known.
(DESIGN CHOICE, unsafe: log entry 9; DESIGN CHOICE, unsafe: log entry 38.) -/
def execSelectionPoint (s : State) : Host.Outcome State Fault Refusal :=
  .next (
    if !s.tim.on || decide (2 ≤ s.panel.enterStage) || s.tim.selected == some s.tim.nextFrame || (s.tim.pairing && !s.tim.second && s.tim.change.isNone) then s
    else
      let new : Option ModeChange := s.tim.change.filter (fun m => s.tim.nextFrame == m.f0 + 2 && s.panel.enterStage != 1)
      if new.any (fun m => !s.tnKnown m) then s
      else (s.advanceTo ((match new with
        | some m => s.tnNs m
        | none => s.tim.tfNs 0) - s.pget 0x0B000006 * 1000)).atSelection.pairSelection)

/-! ### A boundary (R267, R270) -/

/-- The planned switchover at a boundary at least 2 ms after its trigger (Table 18.11).
(DEDUCED, unsafe: log entry 49.) -/
def State.switchBoundary (s : State) : State :=
  match s.pair.switch with
  | none => s
  | some w =>
    if w.stage ≠ 0 ∨ s.now < w.t0 + 2000000 then s
    else { s with pair := { s.pair with switch := some { w with stage := 1, bound := some s.now } } }

/-- Whole tiles of the subframe that ends, before its rows are forgotten. -/
def State.wholeTiles (s : State) : List Nat := tileNums.filter s.sentWhole

/-- The SUBFRAME_STARTs at a boundary, of the subframe `e` that has ended. -/
def State.boundaryStarts (s : State) (e : SubEnd) (whole : List Nat) : State :=
  if e.begun = false then
    match s.tim.lastSub with
    | some l => s.sendLast l
    | none => if s.tim.wakeFirst then s.wakeStart else s
  else
    match s.tim.change with
    | some m =>
      if m.stage = 1 ∧ m.tag0 = e.tag then
        let s := s.sendDark e
        { s with tim := { s.tim with change := some { m with stage := 2 } } }
      else if m.stage ≤ 1 then s.sendStarts e whole
      else s
    | none => s.sendStarts e whole

/-- The next boundary of the panel grid. -/
def State.boundary (s : State) : State :=
  let s := s.advanceTo (s.tim.boundaryNs s.tim.nextK)
  let s := s.cutoff
  let e := s.subEnd
  let whole := s.wholeTiles
  let s := if s.tim.begun then s.freezeCheck.takeModes else s
  if !s.tim.on then s
  else if s.panel.enterStage = 4 ∧ s.dev.state = .parasol then s.epochBoundary.parasolSag e
  else
    let entering := s.panel.enterStage == 2 && e.begun && e.frame == s.panel.enterFrame.toNat && e.sf == 0
    let s := if entering || s.tim.nextK % s.tim.sCount != 0 then s else s.frameBegin
    if !s.tim.on then s
    else
      let s := (s.settleAll.boundaryStarts e whole).switchBoundary.epochBoundary
      if !s.tim.on then s
      else if entering then s.parasolGo whole
      else s.subframeBegin.keptCheck

/-- A boundary of the panel grid.  After the two frames of a timing mode change the old grid has none.
(DESIGN CHOICE, unsafe: log entry 9.) -/
def execSubframeBoundary (s : State) : Host.Outcome State Fault Refusal :=
  .next (
    let past := match s.tim.change with
      | some m => decide (1 ≤ m.stage) && decide (m.k0 + 2 * s.tim.sCount ≤ s.tim.nextK)
      | none => false
    if !s.tim.on || past then s else s.boundary)

/-! ### Rows (R278) -/

/-- Rows may go to a tile now. -/
def State.rowsOpen (s : State) (t : Nat) : Bool :=
  let y := s.scanOf t
  s.tim.on && s.tim.begun && !s.tim.cutDone && s.serves t && (s.tile t).showSf && !y.held && !y.cut && !s.repeats &&
    decide (s.now + 2000 < s.tim.boundaryNs s.tim.nextK)

/-- A row of the present subframe goes to its tile (R278, R283, R320, R321). (DEDUCED, unsafe: log entry 46.) -/
def State.sendShareRow (s : State) (t : Nat) (r : RowEnt) : State :=
  let hb := rowHb r.blks.length r.code r.row 0 r.blks
  let s := s.sendRow t s.tim.tag r.sf r.code r.row 0 r.blks r.rcrc
  let s := s.modScan t (fun y => { y with share := y.share.filter (fun (x : RowEnt) => x != r), sent := y.sent ++ [r.rcrc] })
  s.modTile t (fun d => { d with
    fmRun := hb.foldl (fun (a b : Nat) => a ^^^ b) d.fmRun
    imgRun := if s.panel.enterStage = 2 then d.imgRun ++ hb else []
    img := if r.sf = 0 then none else d.img })

/-- The next row of the present subframe in a tile's share is sent. -/
def execBlockRow (tile : Nat) (s : State) : Host.Outcome State Fault Refusal :=
  .next (
    if !s.rowsOpen tile then s
    else
      match (s.scanOf tile).share.find? (fun (r : RowEnt) => some r.frame == s.synth.cur.map (·.frame) && r.sf == s.tim.sf) with
      | none => s
      | some r => s.sendShareRow tile r)

/-- 2 µs before the next boundary the unsent rows are discarded. -/
def execRowCutoff (s : State) : Host.Outcome State Fault Refusal :=
  .next (
    if !s.tim.on || !s.tim.begun || s.tim.cutDone then s
    else (s.advanceTo (s.tim.boundaryNs s.tim.nextK - 2000)).cutoff)

/-! ### Keep-alives and latency tolerance (R272, R279) -/

/-- The midpoint between two boundaries more than 20 ms apart: a keep-alive on every ACTIVE port it owns.
(DESIGN CHOICE, unsafe: log entry 50.) -/
def execKeepAlive (s : State) : Host.Outcome State Fault Refusal :=
  .next (
    let a := s.tim.boundaryNs (s.tim.nextK - 1)
    let b := s.tim.boundaryNs s.tim.nextK
    let retrains := match s.tim.change with
      | some m => decide (3 ≤ m.stage)
      | none => false
    if !s.tim.on || !s.tim.begun || s.tim.keepDone || retrains || decide (b ≤ a + 20000000) then s
    else
      let s := s.advanceTo ((a + b) / 2)
      let s := { s with tim := { s.tim with keepDone := true } }
      (s.servedTiles.foldl State.sendKeep s).emitOn)

/-- The latency tolerance in ns: bits in the share over the lane payload rate, over tiles with rows still to send.
(DESIGN CHOICE, unsafe: log entry 50.) -/
def State.tolerance (s : State) : Nat :=
  let ts := s.servedTiles.filter (fun t => (s.tile t).showSf && !(s.scanOf t).held && !(s.scanOf t).cut && !s.tim.cutDone && !s.repeats
    && decide ((s.scanOf t).sent.length < s.rowTotal t))
  let ns (t : Nat) : Nat := (s.scanOf t).used * 8 * 4 / (15 * laneRate (s.port t).rate)
  if ts.isEmpty then s.tim.boundaryNs s.tim.nextK - s.now else minN 0 (ts.map ns)

/-- Every 1 µs the tolerance is reported to the memory controllers. (DESIGN CHOICE, unsafe: log entry 50.) -/
def execLatencyToleranceReport (s : State) : Host.Outcome State Fault Refusal :=
  .next (
    if !s.tim.on || !s.tim.begun then s
    else
      let s := s.advanceTo (s.tim.ltrAt + 1000)
      let x := s.tolerance
      ({ s with tim := { s.tim with ltrAt := s.now, ltrNow := x, ltrRun := Nat.min s.tim.ltrRun x } } : State).emitOn)

/-! ### The timing mode change (R281, Table 11.2) -/

/-- DARK_US after the SUBFRAME_START of (f0, 0): a neutral pair to every tile. (DEDUCED, unsafe: log entry 49.) -/
def execModeChangeNeutralPair (s : State) : Host.Outcome State Fault Refusal :=
  .next (
    match s.tim.change with
    | none => s
    | some m =>
      if m.stage ≠ 2 then s
      else
        let s := s.advanceTo (s.tim.boundaryNs (m.k0 + 1) + s.tim.dark * 1000)
        let ts := s.servedTiles
        let s := { s with tim := { s.tim with change := some { m with stage := 3, awaiting := sumN (ts.map (fun t => 2 ^ t)) } } }
        (ts.foldl (fun (s : State) (t : Nat) => s.neutral t 3) s).changeNext)

/-- The new timing starts: its values, the first frame's number, EMIT_ON where a tile is reconciled again.
(DEDUCED, unsafe: log entry 48.) -/
def State.newTiming (s : State) (m : ModeChange) : State :=
  let t := s.changeTim m s.now
  let f := (m.f0 + 2).toNat
  let tag := (m.tag0 + 2 * s.tim.sCount + 255) % 256
  let last : LastSub := { frame := (m.f0 + 1).toNat, sf := s.tim.sCount - 1, tag := tag, sCount := s.tim.sCount, dark := s.tim.dark }
  let s := { s with tim := { t with
    frame := m.f0 + 2, nextFrame := m.f0 + 2, tag := tag, lastSub := some last
    begun := false, change := none, rephaseDue := false, pairing := false, second := false, inSince := none
    scan := s.tim.scan.map (fun (y : TileScan) => { y with refs := [] }) } }
  let s := s.restartTiles
  let s := (s.servedTiles.filter (fun t => bit m.emitOff t && (s.tile t).mode == 2)).foldl (fun (s : State) (t : Nat) =>
    (s.sendPower t 1 0 0 2).modTile t (fun d => { d with mode := 3 })) s
  let s := s.raise 0x0B 4 1 (packNat [at' 63 56 t.fps, at' 55 48 t.sCount, at' 47 32 t.dark, at' 31 0 f]) (s.arg2f + b2n m.rate * 2 ^ 8)
  match s.par.commit with
  | some c => if m.commit && c.mode then s.applyPanel f else s
  | none => s

/-- Tn, after the selection point of its frame. (DEDUCED, unsafe: log entry 49.) -/
def execModeChangeTn (s : State) : Host.Outcome State Fault Refusal :=
  .next (
    match s.tim.change with
    | none => s
    | some m =>
      if m.stage < 3 then s
      else
        let tn := m.tn.getD (s.tnNs m)
        let s := if m.tn.isSome then s else (s.advanceTo (tn - s.pget 0x0B000006 * 1000)).selectNew m tn
        (s.advanceTo tn).newTiming m)

/-! ### TIM_STATUS -/

/-- Refresh rate of the monitor mode in mHz. -/
def State.monMhz (s : State) : Nat :=
  s.pget 0x0B000012 * 1000000 / (bits (s.pget 0x0B000010) 47 32 * bits (s.pget 0x0B000011) 47 32)

def timStatusBody (c : Cmd) (s : State) : Ran :=
  if !c.okBits 1 1 then refuse s stBadArg
  else
    let t := s.tim
    let changing := match t.change with
      | some m => decide (1 ≤ m.stage)
      | none => false
    let ws : List Word :=
      [packW [at' 127 120 t.fps, at' 119 112 t.sCount, at' 111 104 t.lock, at' 103 96 (b2n changing), at' 95 64 (sfield 32 t.phaseErr),
         at' 63 32 t.frame.toNat, at' 31 0 t.ltrMin.toNat],
       packW [at' 127 96 t.holds.toNat, at' 95 64 t.underrun.toNat, at' 63 32 t.freeze.toNat],
       packW [at' 127 96 t.monFrame.toNat, at' 95 64 s.monMhz, at' 63 56 t.monState]]
    let s := if bit (c.w 1) 0 then { s with tim := { s.tim with holds := 0, underrun := 0, freeze := 0 } } else s
    answer s ws

/-- TIM_STATUS (Table 11.6). -/
def execTimStatus (c : Cmd) (s : State) : Host.Outcome State Fault Refusal :=
  .next (hostCmd (.timStatus c) { op := 0x0B02 } timStatusBody c s)

/-! ### The monitor frame (R209, R286, R288, R363) -/

/-- The reaction MON of Table 18.3; no cause of MON_LINK stands for it, so the cause is a free value (log entry 3).
(DESIGN CHOICE, safe: log entry 3.) -/
def State.monReact (s : State) : State :=
  let ran := s.takeFree 256
  let s := ran.1
  let cause := ran.2
  ({ s with saf := { s.saf with monIdle := true } } : State).monIdleNow cause

/-- The signature of a monitor frame (R363): CRC-32C of its components in the order sent, 2 bytes each, low byte first. -/
def signature (codes : List Nat) : Nat := crc32c (codes.flatMap (leBytes 2))

/-- The read-back of the frame that has ended: MON_READBACK at the limit; SM12 reacts in instrument mode (R363, R426).
(DEDUCED, unsafe: log entry 43.) -/
def State.readBack (s : State) (back : Nat) : State :=
  match s.enc.mon.intended with
  | none => s
  | some want =>
    let diff := want ^^^ back
    let s := s.modMon (fun m => { m with checked := m.checked + 1, lastChecked := s.tim.monFrame })
    if diff = 0 then s.modMon (fun m => { m with consec := 0 })
    else
      let s := s.modMon (fun m => { m with mismatches := m.mismatches + 1, consec := m.consec + 1 })
      if s.enc.mon.consec ≠ s.pget 0x0F000003 then s
      else
        let s := s.raise 0x0F 2 (if s.instrument then 4 else 3) (packNat [at' 63 32 s.tim.monFrame.toNat, at' 31 0 diff]) (s.tim.monFrame.toNat * 2 ^ 16)
        if s.instrument then s.monReact else s

/-- The picture of a monitor frame, of the tap frames that are complete (R209, R211).
(DEDUCED, unsafe: log entry 42.) -/
def State.monPicture (s : State) : State :=
  let s := { s with comp := { s.comp with monTaps := s.comp.taps } }
  let shown := (s.panelScene s.pget).bind (·.shown)
  let ls := s.flatLayers s.pget shown s.comp.monTaps 2
  let s := { s with comp := { s.comp with monVisible := ls.length } }
  let codes := flatPicture (colourOf (s.pget 0x08000005)) ls (s.pget 0x08000006) (s.pget 0x08000007)
    (bits (s.pget 0x0B000010) 63 48) (bits (s.pget 0x0B000011) 63 48) s.tim.monFrame.toNat (s.pget 0x0F000001 == 1)
  (s.modMon (fun m => { m with intended := if m.link = 2 then some (signature codes) else none })).emit
    (.display 0 (s.tim.monFrame.toNat :: codes))

/-- A monitor frame begins; `back` is the read-back signature of the previous one.
(DEDUCED, unsafe: log entry 66.) -/
def execMonitorFrameStart (back : Nat) (s : State) : Host.Outcome State Fault Refusal :=
  .next (
    if s.tim.monState ≠ 1 then s
    else
      let s := s.readBack back
      let f : Reg := if s.tim.monBegun then s.tim.monFrame + 1 else 0
      let s := { s with tim := { s.tim with monFrame := f, monBegun := true, monT0 := s.now } }
      let s := match s.par.commit with
        | some c => if notBefore 32 f.toNat c.monitorAt then s.applyMonitor f.toNat else s
        | none => s
      -- values that took effect at this boundary stop and restart the generator (R288)
      if s.tim.monState ≠ 1 ∨ s.tim.monBegun = false then s else s.monPicture)

end Sys2Proof.Machine
end

