-- ==== Sys2Proof/Machine/PanelRows.lean ====
section
/-! DEFINITION. Panel-drive commands, Parasol visits and region updates, stress samples, and the rebuild of the effective
gain map (spec/12). -/

namespace Sys2Proof.Machine

open Sys2Proof

/-! ### PANEL_STATUS (Table 12.11) -/

/-- L0 and L1 of a tile, two bits each. -/
def ledgerBits (d : TileDrive) : Nat := unsgn 2 d.l0 + 4 * unsgn 2 d.l1

/-- DEDUCED, unsafe: log entry 59. -/
def panelStatusBody (c : Cmd) (s : State) : Ran :=
  if !c.okBits 1 1 then refuse s stBadArg
  else
    let p := s.panel
    let tracked (t : Nat) : Bool := if s.dev.state == .parasol then (s.tile t).img.isSome else (s.tile t).exp.any (·.isSome)
    let inv := ((p.tiles.filterMap (·.inv)).head?).getD (s.pget 0x0C000020)
    let ws := [
      packW [at' 127 112 (tileMask (fun t => (s.tile t).powered)), at' 111 96 (tileMask (fun t => (s.tile t).recon == 1)),
        at' 95 80 (tileMask (fun t => (s.port t).tstate == 1 || (s.port t).tstate == 4)), at' 79 64 (tileMask tracked),
        at' 63 48 p.abl, at' 47 32 p.pm, at' 31 24 inv],
      packW [at' 127 96 (satN 32 p.gain.clipped), at' 95 64 ((s.now - p.swapAt) / 1000000000),
        at' 63 0 (sumN (tileNums.map (fun t => ledgerBits (s.tile t) * 2 ^ (4 * t))))],
      packW [at' 127 96 p.fmFail.toNat, at' 95 64 p.excursions.toNat, at' 63 32 p.visits.toNat]]
    answer (if c.f 1 0 0 = 1 then { s with panel := { p with fmFail := 0, excursions := 0, visits := 0 } } else s) ws

/-- PANEL_STATUS. -/
def execPanelStatus (c : Cmd) (s : State) : Host.Outcome State Fault Refusal :=
  .next (hostCmd (.panelStatus c) { op := 0x0C01 } panelStatusBody c s)

/-! ### PARASOL (R321, R327, R328) -/

/-- BLANKET, SERVICE or REDUCED. -/
def DevState.shows (d : DevState) : Bool := d == .blanket || d.full

/-- DEDUCED, unsafe: log entry 55. -/
def parasolBody (c : Cmd) (s : State) : Ran :=
  let op := c.f 1 7 0
  if !c.okBits 1 0xFF || decide (op = 0 ∨ 2 < op) then refuse s stBadArg
  else if op = 1 then
    if !s.dev.state.shows then refuse s stBadState
    else accept { s with panel := { s.panel with enterStage := Nat.max 1 s.panel.enterStage } } .parasolEnter
  else if s.dev.state != .parasol then refuse s stBadState
  else if 5 ≤ s.pwr.stage then refuse s stNoResource
  else accept s .parasolWake

/-- PARASOL: the wake proceeds at once, or after the visit in progress. -/
def execParasol (c : Cmd) (s : State) : Host.Outcome State Fault Refusal :=
  .next (hostCmdWith (.parasol c) { op := 0x0C02 } parasolBody (fun _ s => s.wakeIfDue) c s)

/-! ### TILE_POWER (R316, R318) -/

/-- Table 12.5 for one tile: its supply rises, or reconcile runs again where it has one.
(DEDUCED, unsafe: log entry 55.) -/
def State.tileOn (s : State) (t : Nat) : State :=
  let s := { s with saf := { s.saf with tileHeld := putBit s.saf.tileHeld t false } }
  let d := s.tile t
  if d.off ≠ 0 then s.modTile t (fun d => { d with again := true })
  else if !d.powered then s.powerUp t 2
  else if 1 ≤ d.mode ∧ d.mode ≤ 4 ∨ d.mode = 8 then s
  else
    let s := s.modTile t (fun d => { d with mode := 0, tries := 0, cause := 2 })
    if s.ownActive t then s.reconcile t
    else if (s.port t).state = 0 then s.toDetect t 1
    else s

/-- Table 12.6 for one tile, once. (DEDUCED, unsafe: log entry 55.) -/
def State.tileOff (s : State) (t : Nat) : State :=
  let s := s.modTile t (fun d => { d with again := false })
  if (s.tile t).off ≠ 0 then s else s.orderlyOff t 2

/-- DEDUCED, unsafe: log entry 55. -/
def tilePowerBody (c : Cmd) (s : State) : Ran :=
  let op := c.f 1 127 120
  let ts := c.f 1 15 0
  if !s.dev.state.shows then refuse s stBadState
  else if !c.okBits 1 (mask 127 120 + mask 15 0) || decide (op = 0 ∨ 2 < op ∨ ts = 0)
      || (maskTiles ts).any (fun t => !bit (s.pget 0x0C00000D) t) then refuse s stBadArg
  else accept s (.tilePower ts (op == 1))

/-- What TILE_POWER begins. -/
def tilePowerPost (c : Cmd) (s : State) : State :=
  let on := c.f 1 127 120 == 1
  ((maskTiles (c.f 1 15 0)).foldl (fun (s : State) (t : Nat) => if on then s.tileOn t else s.tileOff t) s).powerSync.settleTilePower

/-- TILE_POWER (R318). -/
def execTilePower (c : Cmd) (s : State) : Host.Outcome State Fault Refusal :=
  .next (hostCmdWith (.tilePower c) { op := 0x0C03 } tilePowerBody tilePowerPost c s)

/-! ### REGION_UPDATE (R324, R326) -/

/-- The fields of Table 12.8. -/
def regionArgsOk (c : Cmd) (s : State) : Bool :=
  let x := c.f 1 95 80
  let y := c.f 1 79 64
  let w := c.f 1 63 48
  let h := c.f 1 47 32
  c.okBits 1 (mask 127 104 + mask 95 32) && c.okBits 2 (mask 63 0) && c.okBits 3 (mask 31 0) && decide (c.f 1 127 120 ≤ 15)
    && c.f 1 111 104 == s.pget 0x09000001 && c.f 2 3 0 == 0
    && x % 8 == 0 && y % 2 == 0 && w % 8 == 0 && h % 2 == 0 && decide (8 ≤ w ∧ 2 ≤ h)
    && (match s.geom with
        | some g => (g.entry (c.f 1 119 112)).isSome && decide (x + w ≤ g.tileW ∧ y + h ≤ g.tileH)
        | none => false)
    && c.f 3 31 0 == blockImageSize w h (c.f 1 111 104)

/-- A visit of the update's tile is in progress, and the commit of its rows still to come. -/
def State.rowsInFlight (s : State) (r : Region) : Bool :=
  let v := (s.tile r.tile).visit
  s.panel.visitTag.isSome && (v == 1 || v == 2 || (v == 3 && decide (0 < r.sent)))

/-- R326: the updates of a region accepted before. (DEDUCED, unsafe: log entry 56.) -/
def State.supersede (s : State) (region : Nat) : State :=
  (s.panel.regions.filter (fun (r : Region) => r.region == region)).foldl (fun (s : State) (r : Region) =>
    if r.started && s.rowsInFlight r then s.modRegion r.job (fun r => { r with superseded := true })
    else s.endRegion r.job stSuperseded) s

/-- An update joins the list: it supersedes its region's older one and takes room for its rows.
(DEDUCED, unsafe: log entry 56.) -/
def State.takeRegion (s : State) (r : Region) (ps : List Basket) : State :=
  let s := s.supersede r.region
  let s := s.reserve ps
  { s with panel := { s.panel with regions := s.panel.regions ++ [r] } }

/-- R324. (DEDUCED, unsafe: log entry 55.) -/
def regionUpdateBody (c : Cmd) (s : State) : Ran :=
  let job := s.host.nextJob
  let ps := regionPlan job (c.f 3 31 0)
  if s.dev.state != .parasol then refuse s stBadState
  else if !regionArgsOk c s then refuse s stBadArg
  else if s.freeBaskets < planNeed ps then refuse s stNoSpace
  else
    let r : Region := {
      region := c.f 1 127 120, job := job, tile := c.f 1 119 112, code := c.f 1 111 104
      x := c.f 1 95 80, y := c.f 1 79 64, w := c.f 1 63 48, h := c.f 1 47 32, src := c.f 2 63 0, srcLen := c.f 3 31 0 }
    accept (s.takeRegion r ps) (.regionUpdate r.region)

/-- REGION_UPDATE (R324). -/
def execRegionUpdate (c : Cmd) (s : State) : Host.Outcome State Fault Refusal :=
  .next (hostCmd (.regionUpdate c) { op := 0x0C04 } regionUpdateBody c s)

/-- The block rows of a block image with the CRCs that it gives them (R229). -/
def imageRows (form w h : Nat) (bs : List Byte) : List (List Nat × Nat) :=
  let n := formB form / 8
  let per := w / 8
  (List.range (h / 2)).map (fun i =>
    ((List.range per).map (fun b => bytesAt bs ((i * per + b) * n) n), bytesAt bs (per * (h / 2) * n + 4 * i) 4))

/-- The block image of a region's newest update is staged: the rows whose CRCs match theirs wait for visits (R324). -/
def execRegionStagingComplete (region : Nat) (src : List Byte) (s : State) : Host.Outcome State Fault Refusal :=
  .next (
    match s.panel.regions.find? (fun (r : Region) => r.region == region && r.rows.isNone) with
    | none => s
    | some r =>
      let rows := imageRows r.code r.w r.h (padTo (0 : Byte) r.srcLen (src.take r.srcLen))
      if rows.all (fun x => reconCrc r.code x.1 == x.2) then s.modRegion r.job (fun r => { r with rows := some rows })
      else s.endRegion r.job stIntegrity)

/-! ### Visits (R322, R325) -/

/-- Its tile's port can take part in a visit: owned, and ACTIVE or in standby. -/
def State.visitable (s : State) (t : Nat) : Bool :=
  let p := s.port t
  p.own && (p.state == 5 || p.state == 6 || p.state == 7)

/-- What the visit before left: rows without their check are due again, and a superseded update ends (R325, R326). -/
def State.visitReset (s : State) : State :=
  let old := s.panel.regions.filter (·.superseded)
  let s := old.foldl (fun (s : State) (r : Region) => s.endRegion r.job stSuperseded) s
  { s with panel := { s.panel with regions := s.panel.regions.map (fun (r : Region) => { r with sent := 0 }) } }

/-- R325: an update whose tile's port is not ACTIVE and owned at its first visit. (DEDUCED, unsafe: log entry 56.) -/
def State.visitDrop (s : State) : State :=
  let gone := s.panel.regions.filter (fun (r : Region) => !r.started && s.regionDue r.tile r && !s.visitable r.tile)
  gone.foldl (fun (s : State) (r : Region) => s.endRegion r.job stNoResource) s

/-- Step 1 of R322 for a tile: its port wakes, or is awake and gets its HEARTBEAT. (DEDUCED, unsafe: log entry 56.) -/
def State.visitTile (s : State) (t : Nat) : State :=
  if !s.visitable t then s
  else if (s.port t).state = 5 then (s.modTile t (fun d => { d with visit := 2 })).sendHeartbeat t
  else (s.modTile t (fun d => { d with visit := 1 })).wakePort t

/-- A visit begins: one panel frame (R269, R322). (DEDUCED, unsafe: log entry 56.) -/
def State.visit (s : State) : State :=
  let f := s.tim.nextFrame
  let s := { s with
    tim := { s.tim with frame := f, nextFrame := f + 1 }
    panel := { s.panel with lastVisit := s.now, visits := s.panel.visits + 1, visitsEntry := s.panel.visitsEntry + 1 } }
  let s := (s.selfRefreshGo false).frameValues.visitReset.visitDrop
  let s := { s with panel := { s.panel with visitTag := none } }
  let s := if s.panel.regions.any (fun (r : Region) => s.regionDue r.tile r && s.visitable r.tile) then s.visitCount else s
  (tileNums.foldl (fun (s : State) (t : Nat) => s.visitTile t) s).wakeIfDue

/-- PARASOL_VISIT (R322). (DEDUCED, unsafe: log entry 56.) -/
def execParasolVisit (s : State) : Host.Outcome State Fault Refusal :=
  .next (
    if s.dev.state != .parasol || s.panel.enterStage != 3 || s.host.jobs.any (fun j => j.key == .parasolWake) then s
    else
      let s := s.advanceTo (s.panel.lastVisit + 1000000000 / s.pget 0x0C00000F)
      (tileNums.foldl State.visitOver s).visit)

/-! ### Stress (R297, R298) -/

/-- d of R298: the lit duty of a subframe, with the tile's SETTLE_US, in u0.16. (DEDUCED, unsafe: log entry 57.) -/
def State.litDuty (s : State) (t : Nat) : Nat :=
  let settle := match (s.port t).caps with
    | some c => c.settle
    | none => 0
  let lost := s.tim.sCount * Nat.max s.tim.dark settle * s.tim.fps
  Nat.min (rneDiv (65536 * (1000000 - lost)) 1000000) 0xFFFF

/-- The object's counter updates of one cell row: byte offset and amount. (DEDUCED, unsafe: log entry 57.) -/
def rowDeltas (bs : List Byte) (d p : Nat) (tileW : Nat) (r : CellRow) : List (Nat × Nat) :=
  let w1 := wordAt bs 1
  match findIdx? (fun x => x == r.tile) (mapTiles 12 bs) 0 with
  | none => []
  | some i =>
    let base := 32 + i * cellStride 12 (bits w1 127 112) (bits w1 111 96) + 16 + 12 * (r.row * (tileW / 4))
    (List.range r.m.length).map (fun n => (base + 4 * n, rneDiv (r.m.getD n 0 * d * p * 16) (2 ^ 32)))

/-- An OBJECT_READ copies the object. -/
def State.beingRead (s : State) (obj : Nat) : Bool :=
  s.host.jobs.any (fun j => match j.key with
    | .objectRead x _ _ _ _ => x == obj
    | _ => false)

/-- Counter updates of an object, at once or held for the end of a copy (R296). (DEDUCED, unsafe: log entry 33.) -/
def State.addCounts (s : State) (obj : Nat) (ds : List (Nat × Nat)) : State :=
  if s.beingRead obj then
    { s with panel := { s.panel with heldCounts := s.panel.heldCounts ++ ds.map (fun x => (obj, x.1, x.2)) } }
  else s.modObj obj (fun o => { o with data := ds.foldl (fun b x => bumpCounter b x.1 x.2) o.data })

/-- The samples of one cell row of every tile enter the counters in force. (DEDUCED, unsafe: log entry 57.) -/
def State.sampleRow (s : State) (g : Geom) : State :=
  let id := s.pget 0x0C000004
  let k := s.panel.period % g.states
  let made := match s.synth.cur with
    | some x => x.states
    | none => []
  let k := if made.contains k then k else 0
  match s.obj? id with
  | none => s
  | some o =>
    if id = 0 ∨ o.lost = true then s
    else
      let rows := s.panel.cells.filter (fun (r : CellRow) => r.k == k && r.row == s.panel.nextRow)
      s.addCounts id (rows.flatMap (fun r => rowDeltas o.data (s.litDuty r.tile) s.panel.stressP g.tileW r))

/-- The next cell row, of the next period after the last. (DEDUCED, unsafe: log entry 57.) -/
def State.nextSample (s : State) (g : Geom) : State :=
  if s.panel.nextRow + 1 < g.tileH / 4 then { s with panel := { s.panel with nextRow := s.panel.nextRow + 1 } }
  else { s with panel := { s.panel with nextRow := 0, period := s.panel.period + 1 } }

/-- P of a period: `panel.age.period_s` as the period begins. (DEDUCED, unsafe: log entry 57.) -/
def State.periodBegins (s : State) : State :=
  if s.panel.nextRow = 0 then { s with panel := { s.panel with stressP := s.pget 0x0C000007 } } else s

/-- STRESS_SAMPLE (R297): none in PARASOL. (DEDUCED, unsafe: log entry 57.) -/
def execStressSample (s : State) : Host.Outcome State Fault Refusal :=
  .next (
    match s.geom with
    | none => s
    | some g => if s.dev.state.shows then (s.periodBegins.sampleRow g).nextSample g else s)

/-! ### Rebuilds (R300) -/

/-- A periodic rebuild, `panel.age.rebuild_s` after the one before. (DESIGN CHOICE, unsafe: log entry 58.) -/
def execGainMapRebuild (s : State) : Host.Outcome State Fault Refusal :=
  .next (
    if !s.dev.state.run || s.geom.isNone then s
    else
      let s := s.advanceTo (s.panel.rebuildAt + s.pget 0x0C000008 * 1000000000)
      ({ s with panel := { s.panel with rebuildAt := s.now } } : State).askRebuild none)

/-- The rebuild under way ends. (DESIGN CHOICE, unsafe: log entry 58.) -/
def execGainMapRebuildComplete (s : State) : Host.Outcome State Fault Refusal := .next s.endRebuild

end Sys2Proof.Machine
end

