-- ==== Sys2Proof/Machine/Dispatch.lean ====
section
/-! DEFINITION. The dispatch: one arm for each command of the table. -/

namespace Sys2Proof.Machine

open Sys2Proof

/-- What a command does to everything but the queue. -/
def exec (i : Instr) (s : State) : Host.Outcome State Fault Refusal :=
  match i with
  | .nop c => Sys2Proof.Machine.execNop c s
  | .fence c => Sys2Proof.Machine.execFence c s
  | .fenceCompletion mb => Sys2Proof.Machine.execFenceCompletion mb s
  | .devInfo c => Sys2Proof.Machine.execDevInfo c s
  | .paramSet c => Sys2Proof.Machine.execParamSet c s
  | .paramGet c => Sys2Proof.Machine.execParamGet c s
  | .paramDiscard c => Sys2Proof.Machine.execParamDiscard c s
  | .commit c => Sys2Proof.Machine.execCommit c s
  | .objectCreate c => Sys2Proof.Machine.execObjectCreate c s
  | .objectCreateCompletion obj data => Sys2Proof.Machine.execObjectCreateCompletion obj data s
  | .objectDestroy c => Sys2Proof.Machine.execObjectDestroy c s
  | .objectRead c => Sys2Proof.Machine.execObjectRead c s
  | .objectReadCompletion job => Sys2Proof.Machine.execObjectReadCompletion job s
  | .restart c => Sys2Proof.Machine.execRestart c s
  | .fwStage c => Sys2Proof.Machine.execFwStage c s
  | .fwStageCompletion r => Sys2Proof.Machine.execFwStageCompletion r s
  | .fwActivate c => Sys2Proof.Machine.execFwActivate c s
  | .fwConfirm c => Sys2Proof.Machine.execFwConfirm c s
  | .fwStatus c => Sys2Proof.Machine.execFwStatus c s
  | .hostStatus c => Sys2Proof.Machine.execHostStatus c s
  | .mbCmdTailWrite mb v => Sys2Proof.Machine.execMbCmdTailWrite mb v s
  | .mbRspHeadWrite mb v => Sys2Proof.Machine.execMbRspHeadWrite mb v s
  | .pendingResponseWrite mb => Sys2Proof.Machine.execPendingResponseWrite mb s
  | .mbCfgWrite mb v => Sys2Proof.Machine.execMbCfgWrite mb v s
  | .ringFetchError mb => Sys2Proof.Machine.execRingFetchError mb s
  | .dmaReadTimeout t => Sys2Proof.Machine.execDmaReadTimeout t s
  | .eqCfgWrite v => Sys2Proof.Machine.execEqCfgWrite v s
  | .eqHeadWrite v => Sys2Proof.Machine.execEqHeadWrite v s
  | .eqHoldoffExpiry => Sys2Proof.Machine.execEqHoldoffExpiry s
  | .eventQueueWrite => Sys2Proof.Machine.execEventQueueWrite s
  | .irqStatusWrite hi v => Sys2Proof.Machine.execIrqStatusWrite hi v s
  | .irqMaskWrite hi v => Sys2Proof.Machine.execIrqMaskWrite hi v s
  | .msixEntryUnmask vector => Sys2Proof.Machine.execMsixEntryUnmask vector s
  | .functionLevelReset => Sys2Proof.Machine.execFunctionLevelReset s
  | .pcieLinkDown => Sys2Proof.Machine.execPcieLinkDown s
  | .pcieLinkUp speed width => Sys2Proof.Machine.execPcieLinkUp speed width s
  | .pcieError correctable aer => Sys2Proof.Machine.execPcieError correctable aer s
  | .registerWrite offset v => Sys2Proof.Machine.execRegisterWrite offset v s
  | .sceneOpen c => Sys2Proof.Machine.execSceneOpen c s
  | .sceneSubmit c => Sys2Proof.Machine.execSceneSubmit c s
  | .sceneSubmitCompletion slot => Sys2Proof.Machine.execSceneSubmitCompletion slot s
  | .sceneClose c => Sys2Proof.Machine.execSceneClose c s
  | .sceneCloseDrainComplete slot => Sys2Proof.Machine.execSceneCloseDrainComplete slot s
  | .sceneStatus c => Sys2Proof.Machine.execSceneStatus c s
  | .seqParams p => Sys2Proof.Machine.execSeqParams p s
  | .frameBegin p => Sys2Proof.Machine.execFrameBegin p s
  | .anchorParams p => Sys2Proof.Machine.execAnchorParams p s
  | .textureAu p => Sys2Proof.Machine.execTextureAu p s
  | .depthAu p => Sys2Proof.Machine.execDepthAu p s
  | .layerTable p => Sys2Proof.Machine.execLayerTable p s
  | .overlay p => Sys2Proof.Machine.execOverlay p s
  | .frameEnd p => Sys2Proof.Machine.execFrameEnd p s
  | .keepalive p => Sys2Proof.Machine.execKeepalive p s
  | .cue p => Sys2Proof.Machine.execCue p s
  | .sceneSilenceTimeout slot => Sys2Proof.Machine.execSceneSilenceTimeout slot s
  | .selectionPoint => Sys2Proof.Machine.execSelectionPoint s
  | .auDecodeStart st info => Sys2Proof.Machine.execAuDecodeStart st info s
  | .auDecodeComplete st res => Sys2Proof.Machine.execAuDecodeComplete st res s
  | .ctuTimeout core st res => Sys2Proof.Machine.execCtuTimeout core st res s
  | .auBudgetExpiry st stop res => Sys2Proof.Machine.execAuBudgetExpiry st stop res s
  | .decodeStatus c => Sys2Proof.Machine.execDecodeStatus c s
  | .decodeCores c => Sys2Proof.Machine.execDecodeCores c s
  | .geomInfo c => Sys2Proof.Machine.execGeomInfo c s
  | .geomRay c => Sys2Proof.Machine.execGeomRay c s
  | .rayTileDispatch cluster => Sys2Proof.Machine.execRayTileDispatch cluster s
  | .rayTileRetire cluster wait => Sys2Proof.Machine.execRayTileRetire cluster wait s
  | .rayTileTimeout cluster => Sys2Proof.Machine.execRayTileTimeout cluster s
  | .forecastQuarterCheck => Sys2Proof.Machine.execForecastQuarterCheck s
  | .bandCompress tile => Sys2Proof.Machine.execBandCompress tile s
  | .synthStatus c => Sys2Proof.Machine.execSynthStatus c s
  | .synthProbe c => Sys2Proof.Machine.execSynthProbe c s
  | .placeStatus c => Sys2Proof.Machine.execPlaceStatus c s
  | .placeObject c => Sys2Proof.Machine.execPlaceObject c s
  | .placeHint c => Sys2Proof.Machine.execPlaceHint c s
  | .placementEpochTick => Sys2Proof.Machine.execPlacementEpochTick s
  | .basketCopyComplete obj index kind dest => Sys2Proof.Machine.execBasketCopyComplete obj index kind dest s
  | .basketSourceRelease obj index => Sys2Proof.Machine.execBasketSourceRelease obj index s
  | .channelFailedMark ch => Sys2Proof.Machine.execChannelFailedMark ch s
  | .mirrorRestorationComplete => Sys2Proof.Machine.execMirrorRestorationComplete s
  | .compStatus c => Sys2Proof.Machine.execCompStatus c s
  | .cmpJob c => Sys2Proof.Machine.execCmpJob c s
  | .cmpJobOutputComplete src => Sys2Proof.Machine.execCmpJobOutputComplete src s
  | .cmpJobCopyComplete => Sys2Proof.Machine.execCmpJobCopyComplete s
  | .cmpCancel c => Sys2Proof.Machine.execCmpCancel c s
  | .cmpStatus c => Sys2Proof.Machine.execCmpStatus c s
  | .subframeBoundary => Sys2Proof.Machine.execSubframeBoundary s
  | .blockRow tile => Sys2Proof.Machine.execBlockRow tile s
  | .rowCutoff => Sys2Proof.Machine.execRowCutoff s
  | .keepAlive => Sys2Proof.Machine.execKeepAlive s
  | .latencyToleranceReport => Sys2Proof.Machine.execLatencyToleranceReport s
  | .modeChangeNeutralPair => Sys2Proof.Machine.execModeChangeNeutralPair s
  | .modeChangeTn => Sys2Proof.Machine.execModeChangeTn s
  | .panelMode c => Sys2Proof.Machine.execPanelMode c s
  | .timStatus c => Sys2Proof.Machine.execTimStatus c s
  | .capsRequest tile => Sys2Proof.Machine.execCapsRequest tile s
  | .capsReply tile rx => Sys2Proof.Machine.execCapsReply tile rx s
  | .status tile rx => Sys2Proof.Machine.execStatus tile rx s
  | .ack tile rx => Sys2Proof.Machine.execAck tile rx s
  | .ackTimeout tile => Sys2Proof.Machine.execAckTimeout tile s
  | .heartbeat tile => Sys2Proof.Machine.execHeartbeat tile s
  | .signalDetect tile => Sys2Proof.Machine.execSignalDetect tile s
  | .trainComplete tile laneOrder => Sys2Proof.Machine.execTrainComplete tile laneOrder s
  | .lockComplete tile => Sys2Proof.Machine.execLockComplete tile s
  | .portStateTimeout tile => Sys2Proof.Machine.execPortStateTimeout tile s
  | .bitslipSearch tile lane offsets => Sys2Proof.Machine.execBitslipSearch tile lane offsets s
  | .blockLockLoss tile rx => Sys2Proof.Machine.execBlockLockLoss tile rx s
  | .statusTimeout tile => Sys2Proof.Machine.execStatusTimeout tile s
  | .reconcileRetry tile => Sys2Proof.Machine.execReconcileRetry tile s
  | .dischargeTimeout tile => Sys2Proof.Machine.execDischargeTimeout tile s
  | .tilePwrEnStagger => Sys2Proof.Machine.execTilePwrEnStagger s
  | .bootTileTimeout tile => Sys2Proof.Machine.execBootTileTimeout tile s
  | .linkCtrl c => Sys2Proof.Machine.execLinkCtrl c s
  | .linkStatus c => Sys2Proof.Machine.execLinkStatus c s
  | .eyeScan c => Sys2Proof.Machine.execEyeScan c s
  | .eyeScanCompletion counts => Sys2Proof.Machine.execEyeScanCompletion counts s
  | .panelStatus c => Sys2Proof.Machine.execPanelStatus c s
  | .parasol c => Sys2Proof.Machine.execParasol c s
  | .tilePower c => Sys2Proof.Machine.execTilePower c s
  | .regionUpdate c => Sys2Proof.Machine.execRegionUpdate c s
  | .regionStagingComplete region src => Sys2Proof.Machine.execRegionStagingComplete region src s
  | .parasolVisit => Sys2Proof.Machine.execParasolVisit s
  | .stressSample => Sys2Proof.Machine.execStressSample s
  | .gainMapRebuild => Sys2Proof.Machine.execGainMapRebuild s
  | .gainMapRebuildComplete => Sys2Proof.Machine.execGainMapRebuildComplete s
  | .memStatus c => Sys2Proof.Machine.execMemStatus c s
  | .memChannel c => Sys2Proof.Machine.execMemChannel c s
  | .memSetpoint c => Sys2Proof.Machine.execMemSetpoint c s
  | .setpointSwitch ns => Sys2Proof.Machine.execSetpointSwitch ns s
  | .setpointTimeout => Sys2Proof.Machine.execSetpointTimeout s
  | .memRetrain c => Sys2Proof.Machine.execMemRetrain c s
  | .fullRetrainingEnd ch m0 m1 => Sys2Proof.Machine.execFullRetrainingEnd ch m0 m1 s
  | .trackingPassTimer ch => Sys2Proof.Machine.execTrackingPassTimer ch s
  | .trainingStep ch ns done => Sys2Proof.Machine.execTrainingStep ch ns done s
  | .refreshWindow => Sys2Proof.Machine.execRefreshWindow s
  | .dramTemperatureRead temps => Sys2Proof.Machine.execDramTemperatureRead temps s
  | .rowguardTableClear => Sys2Proof.Machine.execRowguardTableClear s
  | .bankActivate ch bank row => Sys2Proof.Machine.execBankActivate ch bank row s
  | .pageIdleTimeout ch bank => Sys2Proof.Machine.execPageIdleTimeout ch bank s
  | .scrubTick => Sys2Proof.Machine.execScrubTick s
  | .correctedRead ch bank addr cw merge => Sys2Proof.Machine.execCorrectedRead ch bank addr cw merge s
  | .correctedWriteback ch bank => Sys2Proof.Machine.execCorrectedWriteback ch bank s
  | .uncorrectableRead ch bank addr at_ both reader cw merge => Sys2Proof.Machine.execUncorrectableRead ch bank addr at_ both reader cw merge s
  | .encRing c => Sys2Proof.Machine.execEncRing c s
  | .encRelease c => Sys2Proof.Machine.execEncRelease c s
  | .encIdr c => Sys2Proof.Machine.execEncIdr c s
  | .encStatus c => Sys2Proof.Machine.execEncStatus c s
  | .encPictureDue n params => Sys2Proof.Machine.execEncPictureDue n params s
  | .encSliceComplete n data qp fallback bp => Sys2Proof.Machine.execEncSliceComplete n data qp fallback bp s
  | .monitorFrameStart back => Sys2Proof.Machine.execMonitorFrameStart back s
  | .monHpdRise sinkMax => Sys2Proof.Machine.execMonHpdRise sinkMax s
  | .irqHpd lost => Sys2Proof.Machine.execIrqHpd lost s
  | .monLinkTrainingEnd best => Sys2Proof.Machine.execMonLinkTrainingEnd best s
  | .monStatus c => Sys2Proof.Machine.execMonStatus c s
  | .monRetrain c => Sys2Proof.Machine.execMonRetrain c s
  | .cvuReset n v => Sys2Proof.Machine.execCvuReset n v s
  | .cvuData8 n v => Sys2Proof.Machine.execCvuData8 n v s
  | .cvuData16 n v => Sys2Proof.Machine.execCvuData16 n v s
  | .cvuData32 n v => Sys2Proof.Machine.execCvuData32 n v s
  | .cvuFinal n v => Sys2Proof.Machine.execCvuFinal n v s
  | .g2dStart v => Sys2Proof.Machine.execG2dStart v s
  | .g2dAbort rows => Sys2Proof.Machine.execG2dAbort rows s
  | .g2dOperationEnd rows error part next => Sys2Proof.Machine.execG2dOperationEnd rows error part next s
  | .netStatus c => Sys2Proof.Machine.execNetStatus c s
  | .netFlow c => Sys2Proof.Machine.execNetFlow c s
  | .timeStatus c => Sys2Proof.Machine.execTimeStatus c s
  | .timeSet c => Sys2Proof.Machine.execTimeSet c s
  | .timeCompare c => Sys2Proof.Machine.execTimeCompare c s
  | .compareFire slot => Sys2Proof.Machine.execCompareFire slot s
  | .timeLatch v => Sys2Proof.Machine.execTimeLatch v s
  | .tsqPop p => Sys2Proof.Machine.execTsqPop p s
  | .ppsOutPulse => Sys2Proof.Machine.execPpsOutPulse s
  | .ppsInEdge => Sys2Proof.Machine.execPpsInEdge s
  | .ptpMessage base r => Sys2Proof.Machine.execPtpMessage base r s
  | .ptpSend base type seq => Sys2Proof.Machine.execPtpSend base type seq s
  | .announceReceiptTimeout base gm => Sys2Proof.Machine.execAnnounceReceiptTimeout base gm s
  | .netLinkChange port up => Sys2Proof.Machine.execNetLinkChange port up s
  | .udpDatagram port d => Sys2Proof.Machine.execUdpDatagram port d s
  | .reassemblyTimeout flow unit => Sys2Proof.Machine.execReassemblyTimeout flow unit s
  | .icmpEcho port arp => Sys2Proof.Machine.execIcmpEcho port arp s
  | .pwrStatus c => Sys2Proof.Machine.execPwrStatus c s
  | .paceReport c => Sys2Proof.Machine.execPaceReport c s
  | .thermStatus c => Sys2Proof.Machine.execThermStatus c s
  | .railStatus c => Sys2Proof.Machine.execRailStatus c s
  | .sagSample vcore pace => Sys2Proof.Machine.execSagSample vcore pace s
  | .supplyWarnNFall => Sys2Proof.Machine.execSupplyWarnNFall s
  | .supplyWarnNRise => Sys2Proof.Machine.execSupplyWarnNRise s
  | .avsTick r => Sys2Proof.Machine.execAvsTick r s
  | .pmbAlertNFall status => Sys2Proof.Machine.execPmbAlertNFall status s
  | .avsRetry r => Sys2Proof.Machine.execAvsRetry r s
  | .telemetryTick reads => Sys2Proof.Machine.execTelemetryTick reads s
  | .thermalSample temps => Sys2Proof.Machine.execThermalSample temps s
  | .thermtripShutdownTimeout => Sys2Proof.Machine.execThermtripShutdownTimeout s
  | .tempCompensationTick n => Sys2Proof.Machine.execTempCompensationTick n s
  | .domainUpStart => Sys2Proof.Machine.execDomainUpStart s
  | .domainUpComplete d failStep => Sys2Proof.Machine.execDomainUpComplete d failStep s
  | .domainDownComplete d => Sys2Proof.Machine.execDomainDownComplete d s
  | .domainTransitionTimeout d => Sys2Proof.Machine.execDomainTransitionTimeout d s
  | .safetyStatus c => Sys2Proof.Machine.execSafetyStatus c s
  | .safetyClear c => Sys2Proof.Machine.execSafetyClear c s
  | .safetyTest c => Sys2Proof.Machine.execSafetyTest c s
  | .safetyTestCompletion hit => Sys2Proof.Machine.execSafetyTestCompletion hit s
  | .rayProbeComplete probes => Sys2Proof.Machine.execRayProbeComplete probes s
  | .lockstepMismatch => Sys2Proof.Machine.execLockstepMismatch s
  | .fabricParityError => Sys2Proof.Machine.execFabricParityError s
  | .controlProcessorWatchdog => Sys2Proof.Machine.execControlProcessorWatchdog s
  | .hostHbWrite v => Sys2Proof.Machine.execHostHbWrite v s
  | .hostHbTimeout => Sys2Proof.Machine.execHostHbTimeout s
  | .smcAliveTick => Sys2Proof.Machine.execSmcAliveTick s
  | .pairStatus c => Sys2Proof.Machine.execPairStatus c s
  | .pairCtrl c => Sys2Proof.Machine.execPairCtrl c s
  | .xlinkStateSend => Sys2Proof.Machine.execXlinkStateSend s
  | .xlinkState m => Sys2Proof.Machine.execXlinkState m s
  | .xlinkStateTimeout => Sys2Proof.Machine.execXlinkStateTimeout s
  | .ledger frame sf settled rows => Sys2Proof.Machine.execLedger frame sf settled rows s
  | .handover kind epoch => Sys2Proof.Machine.execHandover kind epoch s
  | .hello epoch => Sys2Proof.Machine.execHello epoch s
  | .pairJoinTimeout => Sys2Proof.Machine.execPairJoinTimeout s
  | .witnessTimeout => Sys2Proof.Machine.execWitnessTimeout s
  | .autoDegradeTimer => Sys2Proof.Machine.execAutoDegradeTimer s
  | .porstNAssert => Sys2Proof.Machine.execPorstNAssert s
  | .porstNRelease sideB strapBoot => Sys2Proof.Machine.execPorstNRelease sideB strapBoot s
  | .vaonPowerOn => Sys2Proof.Machine.execVaonPowerOn s
  | .aonCounterTick => Sys2Proof.Machine.execAonCounterTick s
  | .firmwareLoadComplete r0 r1 => Sys2Proof.Machine.execFirmwareLoadComplete r0 r1 s
  | .channelTrainingComplete ch m0 m1 => Sys2Proof.Machine.execChannelTrainingComplete ch m0 m1 s
  | .synthesisStartupComplete => Sys2Proof.Machine.execSynthesisStartupComplete s
  | .selftestConditionCheck clk vMin vMax => Sys2Proof.Machine.execSelftestConditionCheck clk vMin vMax s
  | .selftestDomainComplete d sig count => Sys2Proof.Machine.execSelftestDomainComplete d sig count s
  | .shutdown c => Sys2Proof.Machine.execShutdown c s
  | .selftestRecord c => Sys2Proof.Machine.execSelftestRecord c s
  | .calStatus c => Sys2Proof.Machine.execCalStatus c s
  | .dmaReadPoisoned t => Sys2Proof.Machine.execDmaReadPoisoned t s
  | .detectRetryWait tile => Sys2Proof.Machine.execDetectRetryWait tile s
  | .l1WakeActive tile => Sys2Proof.Machine.execL1WakeActive tile s
  | .smcStartChecksPass => Sys2Proof.Machine.execSmcStartChecksPass s
  | .recordSectorProgrammed => Sys2Proof.Machine.execRecordSectorProgrammed s
  | .switchoverClaim => Sys2Proof.Machine.execSwitchoverClaim s

end Sys2Proof.Machine
end

