-- ==== Sys2Proof/WellFormed.lean ====
section
/-! DEFINITION. Well-formed commands: every operand lies within what the spec's tables give it (mailboxes 0 to 7, tiles
0 to 15, channels 0 to 31, ...). -/

namespace Sys2Proof

open Sys2Proof.Machine

/-- Fewer bytes than a data unit, within it (R329). -/
def Merge.ok (m : Merge) : Bool := decide (0 < m.bytes.length ∧ m.bytes.length < 64 ∧ m.off + m.bytes.length ≤ 64)

/-- A block's lane, place, sync header and payload fit their fields (R237, R240). -/
def LinkBlock.ok (b : LinkBlock) : Bool := decide (b.lane < 4 ∧ b.pos < 1024 ∧ b.sync < 16 ∧ b.wire < 2 ^ 128)

/-- A 128-bit word as a number. -/
def wordOk (w : Nat) : Bool := decide (w < 2 ^ 128)

/-- A slot of a command ring (Table 2.21) that holds an opcode: one of 8 mailboxes; word 0 and at most 63 payload words
fit a slot of 64. -/
def Cmd.ok (c : Cmd) (op : Nat) : Bool := decide (c.mb < 8) && decide (c.payload.length ≤ 63) && c.opcode == BitVec.ofNat 16 op

/-- A packet of the scene stream: one of 4 scene slots, a payload no longer than the largest of Table 3.2 with its padding. -/
def Pkt.ok (p : Pkt) : Bool := decide (p.slot < 4) && decide (p.payload.length ≤ 33554432)

/-- A decode stream (R110). -/
def StreamId.ok (d : StreamId) : Bool := decide (d.slot < 4) && decide (d.kind ≤ 1)

/-- Every operand is in its range. -/
def WellFormed (i : Instr) : Bool :=
  match i with
  | .nop c => c.ok 0x0101
  | .fence c => c.ok 0x0102
  | .fenceCompletion mb => decide (mb < 8)
  | .devInfo c => c.ok 0x0103
  | .paramSet c => c.ok 0x0104
  | .paramGet c => c.ok 0x0105
  | .paramDiscard c => c.ok 0x0106
  | .commit c => c.ok 0x0107
  | .objectCreate c => c.ok 0x0108
  | .objectCreateCompletion _ _ => true
  | .objectDestroy c => c.ok 0x0109
  | .objectRead c => c.ok 0x010A
  | .objectReadCompletion _ => true
  | .restart c => c.ok 0x010B
  | .fwStage c => c.ok 0x010C
  | .fwStageCompletion _ => true
  | .fwActivate c => c.ok 0x010D
  | .fwConfirm c => c.ok 0x010E
  | .fwStatus c => c.ok 0x010F
  | .hostStatus c => c.ok 0x0201
  | .mbCmdTailWrite mb _ => decide (mb < 8)
  | .mbRspHeadWrite mb _ => decide (mb < 8)
  | .pendingResponseWrite mb => decide (mb < 8)
  | .mbCfgWrite mb _ => decide (mb < 8)
  | .ringFetchError mb => decide (mb < 8)
  | .dmaReadTimeout _ => true
  | .eqCfgWrite _ => true
  | .eqHeadWrite _ => true
  | .eqHoldoffExpiry => true
  | .eventQueueWrite => true
  | .irqStatusWrite _ _ => true
  | .irqMaskWrite _ _ => true
  | .msixEntryUnmask vector => decide (vector < 64)
  | .functionLevelReset => true
  | .pcieLinkDown => true
  | .pcieLinkUp speed width => decide (1 ≤ speed ∧ speed ≤ 6 ∧ 1 ≤ width ∧ width ≤ 16)
  | .pcieError _ aer => decide (aer < 32)
  | .registerWrite offset _ => offset % 4 == 0
  | .sceneOpen c => c.ok 0x0301
  | .sceneSubmit c => c.ok 0x0302
  | .sceneSubmitCompletion slot => decide (slot < 4)
  | .sceneClose c => c.ok 0x0303
  | .sceneCloseDrainComplete slot => decide (slot < 4)
  | .sceneStatus c => c.ok 0x0304
  | .seqParams p => p.ok && p.type == 8
  | .frameBegin p => p.ok && p.type == 1
  | .anchorParams p => p.ok && p.type == 2
  | .textureAu p => p.ok && p.type == 3
  | .depthAu p => p.ok && p.type == 4
  | .layerTable p => p.ok && p.type == 5
  | .overlay p => p.ok && p.type == 6
  | .frameEnd p => p.ok && p.type == 7
  | .keepalive p => p.ok && (p.type == 9 || p.type == 0 || decide (10 < p.type))
  | .cue p => p.ok && p.type == 10
  | .sceneSilenceTimeout slot => decide (slot < 4)
  | .selectionPoint => true
  | .auDecodeStart d _ => d.ok
  | .auDecodeComplete d _ => d.ok
  | .ctuTimeout core d _ => decide (core < 24) && d.ok
  | .auBudgetExpiry d stop _ => d.ok && decide (stop ≤ 1)
  | .decodeStatus c => c.ok 0x0401
  | .decodeCores c => c.ok 0x0402
  | .geomInfo c => c.ok 0x0501
  | .geomRay c => c.ok 0x0502
  | .rayTileDispatch cluster => decide (cluster < 48)
  | .rayTileRetire cluster _ => decide (cluster < 48)
  | .rayTileTimeout cluster => decide (cluster < 48)
  | .forecastQuarterCheck => true
  | .bandCompress tile => decide (tile < 16)
  | .synthStatus c => c.ok 0x0601
  | .synthProbe c => c.ok 0x0602
  | .placeStatus c => c.ok 0x0701
  | .placeObject c => c.ok 0x0702
  | .placeHint c => c.ok 0x0703
  | .placementEpochTick => true
  | .basketCopyComplete _ _ kind dest => decide (kind < 4 ∧ dest < 32)
  | .basketSourceRelease _ _ => true
  | .channelFailedMark ch => decide (ch < 32)
  | .mirrorRestorationComplete => true
  | .compStatus c => c.ok 0x0801
  | .cmpJob c => c.ok 0x0901
  | .cmpJobOutputComplete _ => true
  | .cmpJobCopyComplete => true
  | .cmpCancel c => c.ok 0x0902
  | .cmpStatus c => c.ok 0x0903
  | .subframeBoundary => true
  | .blockRow tile => decide (tile < 16)
  | .rowCutoff => true
  | .keepAlive => true
  | .latencyToleranceReport => true
  | .modeChangeNeutralPair => true
  | .modeChangeTn => true
  | .panelMode c => c.ok 0x0B01
  | .timStatus c => c.ok 0x0B02
  | .capsRequest tile => decide (tile < 16)
  | .capsReply tile rx => decide (tile < 16) && rx.all LinkBlock.ok
  | .status tile rx => decide (tile < 16) && rx.all LinkBlock.ok
  | .ack tile rx => decide (tile < 16) && rx.all LinkBlock.ok
  | .ackTimeout tile => decide (tile < 16)
  | .heartbeat tile => decide (tile < 16)
  | .signalDetect tile => decide (tile < 16)
  | .trainComplete tile _ => decide (tile < 16)
  | .lockComplete tile => decide (tile < 16)
  | .portStateTimeout tile => decide (tile < 16)
  | .bitslipSearch tile lane offs => decide (tile < 16 ∧ lane < 4) && decide (offs.length ≤ 132)
  | .blockLockLoss tile rx => decide (tile ≤ 16) && rx.all LinkBlock.ok
  | .statusTimeout tile => decide (tile < 16)
  | .reconcileRetry tile => decide (tile < 16)
  | .dischargeTimeout tile => decide (tile < 16)
  | .tilePwrEnStagger => true
  | .bootTileTimeout tile => decide (tile < 16)
  | .linkCtrl c => c.ok 0x0A01
  | .linkStatus c => c.ok 0x0A02
  | .eyeScan c => c.ok 0x0A03
  | .eyeScanCompletion _ => true
  | .panelStatus c => c.ok 0x0C01
  | .parasol c => c.ok 0x0C02
  | .tilePower c => c.ok 0x0C03
  | .regionUpdate c => c.ok 0x0C04
  | .regionStagingComplete region _ => decide (region < 16)
  | .parasolVisit => true
  | .stressSample => true
  | .gainMapRebuild => true
  | .gainMapRebuildComplete => true
  | .memStatus c => c.ok 0x0D01
  | .memChannel c => c.ok 0x0D02
  | .memSetpoint c => c.ok 0x0D03
  | .setpointSwitch ns => decide (ns ≤ 10000)
  | .setpointTimeout => true
  | .memRetrain c => c.ok 0x0D04
  | .fullRetrainingEnd ch _ _ => decide (ch < 32)
  | .trackingPassTimer ch => decide (ch < 32)
  | .trainingStep ch ns _ => decide (ch < 32 ∧ ns ≤ 20000)
  | .refreshWindow => true
  | .dramTemperatureRead _ => true
  | .rowguardTableClear => true
  | .bankActivate ch bank row => decide (ch < 32 ∧ bank < 16 ∧ row < 65536)
  | .pageIdleTimeout ch bank => decide (ch < 32) && decide (bank < 16)
  | .scrubTick => true
  | .correctedRead ch bank _ cw merge => decide (ch < 32 ∧ bank < 16) && decide (cw.length = 72) && merge.all Merge.ok
  | .correctedWriteback ch bank => decide (ch < 32 ∧ bank < 16)
  | .uncorrectableRead ch bank _ _ _ r cw merge => decide (ch < 32 ∧ bank < 16) && decide (cw.length = 72) && merge.all Merge.ok
      && (match r with | some m => decide (m < 256) | none => true)
  | .encRing c => c.ok 0x0E01
  | .encRelease c => c.ok 0x0E02
  | .encIdr c => c.ok 0x0E03
  | .encStatus c => c.ok 0x0E04
  | .encPictureDue n _ => decide (n < 2)
  | .encSliceComplete n _ qp fb _ => decide (n < 2 ∧ qp < 256 ∧ fb < 65536)
  | .monitorFrameStart back => decide (back < 2 ^ 32)
  | .monHpdRise r => decide (r < 256)
  | .irqHpd _ => true
  | .monLinkTrainingEnd _ => true
  | .monStatus c => c.ok 0x0F01
  | .monRetrain c => c.ok 0x0F02
  | .cvuReset n _ => decide (n < 8)
  | .cvuData8 n _ => decide (n < 8)
  | .cvuData16 n _ => decide (n < 8)
  | .cvuData32 n _ => decide (n < 8)
  | .cvuFinal n _ => decide (n < 8)
  | .g2dStart _ => true
  | .g2dAbort _ => true
  | .g2dOperationEnd _ e part _ => decide (e < 16 ∧ part < 65536)
  | .netStatus c => c.ok 0x1201
  | .netFlow c => c.ok 0x1202
  | .timeStatus c => c.ok 0x1203
  | .timeSet c => c.ok 0x1204
  | .timeCompare c => c.ok 0x1205
  | .compareFire slot => decide (slot < 8)
  | .timeLatch _ => true
  | .tsqPop p => decide (p < 4)
  | .ppsOutPulse => true
  | .ppsInEdge => true
  | .ptpMessage base _ => decide (1 ≤ base ∧ base ≤ 2)
  | .ptpSend base type seq => decide (1 ≤ base ∧ base ≤ 2) && decide (type ≤ 1 ∧ seq < 65536)
  | .announceReceiptTimeout base gm => decide (1 ≤ base ∧ base ≤ 2) && decide (gm < 2 ^ 64)
  | .netLinkChange port _ => decide (port < 4)
  | .udpDatagram port d => decide (port < 4) && decide (d.header < 2 ^ 128 ∧ d.dport < 65536 ∧ d.len < 65536)
  | .reassemblyTimeout flow _ => decide (flow < 16)
  | .icmpEcho port _ => decide (port < 4)
  | .pwrStatus c => c.ok 0x1301
  | .paceReport c => c.ok 0x1302
  | .thermStatus c => c.ok 0x1303
  | .railStatus c => c.ok 0x1304
  | .sagSample _ _ => true
  | .supplyWarnNFall => true
  | .supplyWarnNRise => true
  | .avsTick _ => true
  | .pmbAlertNFall _ => true
  | .avsRetry _ => true
  | .telemetryTick _ => true
  | .thermalSample _ => true
  | .thermtripShutdownTimeout => true
  | .tempCompensationTick n => decide (n < 2 ^ 32)
  | .domainUpStart => true
  | .domainUpComplete d step => decide (1 ≤ d ∧ d ≤ 50) && decide (step ≤ 8)
  | .domainDownComplete d => decide (1 ≤ d ∧ d ≤ 50)
  | .domainTransitionTimeout d => decide (1 ≤ d ∧ d ≤ 50)
  | .safetyStatus c => c.ok 0x1401
  | .safetyClear c => c.ok 0x1402
  | .safetyTest c => c.ok 0x1403
  | .safetyTestCompletion _ => true
  | .rayProbeComplete probes => probes.all (fun p => decide (p.cluster < 48 ∧ p.got < 2 ^ 128 ∧ p.own < 2 ^ 128))
  | .lockstepMismatch => true
  | .fabricParityError => true
  | .controlProcessorWatchdog => true
  | .hostHbWrite _ => true
  | .hostHbTimeout => true
  | .smcAliveTick => true
  | .pairStatus c => c.ok 0x1501
  | .pairCtrl c => c.ok 0x1502
  | .xlinkStateSend => true
  | .xlinkState _ => true
  | .xlinkStateTimeout => true
  | .ledger frame sf _ rows => decide (frame < 2 ^ 32 ∧ sf < 4) && rows.all (fun r => decide (r.tile < 16))
  | .handover kind epoch => decide (kind < 256 ∧ epoch < 2 ^ 32)
  | .hello epoch => decide (epoch < 2 ^ 32)
  | .pairJoinTimeout => true
  | .witnessTimeout => true
  | .autoDegradeTimer => true
  | .porstNAssert => true
  | .porstNRelease _ strap => decide (strap < 4)
  | .vaonPowerOn => true
  | .aonCounterTick => true
  | .firmwareLoadComplete _ _ => true
  | .channelTrainingComplete ch _ _ => decide (ch < 32)
  | .synthesisStartupComplete => true
  | .selftestConditionCheck _ _ _ => true
  | .selftestDomainComplete d _ _ => decide (1 ≤ d ∧ d ≤ 50)
  | .shutdown c => c.ok 0x1601
  | .selftestRecord c => c.ok 0x1602
  | .calStatus c => c.ok 0x1603
  | .dmaReadPoisoned _ => true
  | .detectRetryWait tile => decide (tile < 16)
  | .l1WakeActive tile => decide (tile < 16)
  | .smcStartChecksPass => true
  | .recordSectorProgrammed => true
  | .switchoverClaim => true

end Sys2Proof
end

