-- ==== Sys2Proof/Safety.lean ====
section
/-! DEFINITION. What counts as a safe step, and the terms that the statements use: which command is at hand, what it
reads, what it is refused with, and which groups of registers a step leaves alone. -/

namespace Sys2Proof.Safety

open Sys2Proof
open Sys2Proof.Machine

/-- Every file of registers, and every table of units, has the number of entries that the spec gives the unit. -/
structure Sized (s : State) : Prop where
  mailboxes : s.host.mb.length = 8
  ports : s.link.ports.length = 16
  tiles : s.panel.tiles.length = 16
  channels : s.mem.chans.length = 32
  clusters : s.synth.clusters.length = 48
  cores : s.dec.cores.length = 24
  cvus : s.direct.cvu.length = 8
  compares : s.time.compares.length = 8
  latches : s.time.latches.length = 4
  stampQueues : s.time.tsq.length = 4
  netPorts : s.time.ports.length = 4

/-! ### Host commands (R54) -/

/-- The host commands: the ring slot, and the row that R54 checks. -/
def hostRow (i : Instr) : Option (Cmd × CmdRow) :=
  match i with
  | .nop c => some (c, { op := 0x0101 })
  | .fence c => some (c, { op := 0x0102 })
  | .devInfo c => some (c, { op := 0x0103 })
  | .paramSet c => some (c, { op := 0x0104 })
  | .paramGet c => some (c, { op := 0x0105 })
  | .paramDiscard c => some (c, { op := 0x0106 })
  | .commit c => some (c, { op := 0x0107 })
  | .objectCreate c => some (c, { op := 0x0108 })
  | .objectDestroy c => some (c, { op := 0x0109, obj := none, lostOk := true })
  | .objectRead c => some (c, { op := 0x010A, obj := none })
  | .restart c => some (c, { op := 0x010B })
  | .fwStage c => some (c, { op := 0x010C })
  | .fwActivate c => some (c, { op := 0x010D })
  | .fwConfirm c => some (c, { op := 0x010E })
  | .fwStatus c => some (c, { op := 0x010F })
  | .hostStatus c => some (c, { op := 0x0201 })
  | .sceneOpen c => some (c, { op := 0x0301 })
  | .sceneSubmit c => some (c, { op := 0x0302, obj := some 1 })
  | .sceneClose c => some (c, { op := 0x0303, obj := some 1 })
  | .sceneStatus c => some (c, { op := 0x0304, obj := some 1 })
  | .decodeStatus c => some (c, { op := 0x0401, obj := some 1 })
  | .decodeCores c => some (c, { op := 0x0402 })
  | .geomInfo c => some (c, { op := 0x0501, obj := some 3 })
  | .geomRay c => some (c, { op := 0x0502, obj := some 3 })
  | .synthStatus c => some (c, { op := 0x0601 })
  | .synthProbe c => some (c, { op := 0x0602 })
  | .placeStatus c => some (c, { op := 0x0701 })
  | .placeObject c => some (c, { op := 0x0702, obj := none })
  | .placeHint c => some (c, { op := 0x0703, obj := none })
  | .compStatus c => some (c, { op := 0x0801 })
  | .cmpJob c => some (c, { op := 0x0901 })
  | .cmpCancel c => some (c, { op := 0x0902, obj := some 8, lostOk := true })
  | .cmpStatus c => some (c, { op := 0x0903 })
  | .linkCtrl c => some (c, { op := 0x0A01 })
  | .linkStatus c => some (c, { op := 0x0A02 })
  | .eyeScan c => some (c, { op := 0x0A03 })
  | .panelMode c => some (c, { op := 0x0B01 })
  | .timStatus c => some (c, { op := 0x0B02 })
  | .panelStatus c => some (c, { op := 0x0C01 })
  | .parasol c => some (c, { op := 0x0C02 })
  | .tilePower c => some (c, { op := 0x0C03 })
  | .regionUpdate c => some (c, { op := 0x0C04 })
  | .memStatus c => some (c, { op := 0x0D01 })
  | .memChannel c => some (c, { op := 0x0D02 })
  | .memSetpoint c => some (c, { op := 0x0D03 })
  | .memRetrain c => some (c, { op := 0x0D04 })
  | .encRing c => some (c, { op := 0x0E01 })
  | .encRelease c => some (c, { op := 0x0E02 })
  | .encIdr c => some (c, { op := 0x0E03 })
  | .encStatus c => some (c, { op := 0x0E04 })
  | .monStatus c => some (c, { op := 0x0F01 })
  | .monRetrain c => some (c, { op := 0x0F02 })
  | .netStatus c => some (c, { op := 0x1201 })
  | .netFlow c => some (c, { op := 0x1202, obj := none })
  | .timeStatus c => some (c, { op := 0x1203 })
  | .timeSet c => some (c, { op := 0x1204, obj := none })
  | .timeCompare c => some (c, { op := 0x1205, obj := none })
  | .pwrStatus c => some (c, { op := 0x1301 })
  | .paceReport c => some (c, { op := 0x1302 })
  | .thermStatus c => some (c, { op := 0x1303 })
  | .railStatus c => some (c, { op := 0x1304 })
  | .safetyStatus c => some (c, { op := 0x1401 })
  | .safetyClear c => some (c, { op := 0x1402 })
  | .safetyTest c => some (c, { op := 0x1403 })
  | .pairStatus c => some (c, { op := 0x1501 })
  | .pairCtrl c => some (c, { op := 0x1502 })
  | .shutdown c => some (c, { op := 0x1601 })
  | .selftestRecord c => some (c, { op := 0x1602 })
  | .calStatus c => some (c, { op := 0x1603 })
  | _ => none

/-- The state once the device has taken a command (R50, R51, R465). -/
def taken (c : Cmd) (s : State) : State := s.takeCmd c

/-- The device takes the command now: its mailbox is served, it is the ring's next, and nothing makes it wait. -/
def Fetched (i : Instr) (s : State) : Prop :=
  match hostRow i with
  | none => False
  | some (c, _) => s.fetchable c.mb = true ∧ s.limited i = false ∧
      (s.host.fetching = some c.mb ∨ ((s.mailbox c.mb).ring = [] ∧ s.turnOf c.mb = true))

/-- The status of the first of the checks 1 to 5 of R54 that fails. -/
def firstFailed (i : Instr) (s : State) : Option Nat :=
  match hostRow i with
  | none => none
  | some (c, row) => commonChecks row c (taken c s)

/-- The device takes the command now, and it passes the checks 1 to 5 of R54. -/
def AtHand (i : Instr) (s : State) : Prop := Fetched i s ∧ firstFailed i s = none

/-- No self-test has to stop for the command (R465). -/
def NoTestMet (c : Cmd) (s : State) : Prop := (taken c s).start.service = false

/-- The command answers OK with these payload words, and nothing changes but its ring, the answer and the count of free
values. -/
def Reads (i : Instr) (c : Cmd) (s : State) (ws : List Word) : Prop :=
  ∃ n, exec i s = .next (report c (answer { taken c s with free := s.free + n } ws))

/-- The command is refused with a status and has no effect but its answer. -/
def RefusedWith (i : Instr) (c : Cmd) (s : State) (st : Nat) : Prop := exec i s = .next (report c (refuse (taken c s) st))

/-- The values that a PANEL_MODE names (R289). -/
def modeVals (c : Cmd) : List PVal :=
  [({ id := 0x0B000001, v := c.f 1 63 0 } : PVal)] ++
    (if bit (c.f 1 127 120) 0 then [({ id := 0x0A000001, v := c.f 1 119 112 } : PVal)] else []) ++
    (if bit (c.f 1 127 120) 1 then [({ id := 0x09000001, v := c.f 1 111 104 } : PVal)] else [])

/-- The value of a parameter after a COMMIT: the staged one that it takes, else the one in force (R59). -/
def takenValue (c : Cmd) (s : State) (id : Nat) : Nat := (pfind (s.commitTakes (c.f 1 31 0)) id).getD (s.pget id)

/-- A COMMIT takes a staged value of a parameter. -/
def takenChange (c : Cmd) (s : State) (id : Nat) : Bool := (s.commitTakes (c.f 1 31 0)).any (fun p => p.id == id)

/-! ### Scene packets (R71) -/

/-- The checks that a packet's TYPE selects (Table 3.2). -/
def pktForm (type : Nat) : PktForm :=
  match type with
  | 1 => beginForm
  | 2 => camForm
  | 3 => auForm 0
  | 4 => auForm 1
  | 5 => tableForm
  | 6 => ovlForm
  | 7 => endForm
  | 8 => seqForm
  | 10 => cueForm
  | _ => aliveForm

/-- A packet is the next of its scene's carrier: no other waits before it. -/
def NextOf (p : Pkt) (s : State) (k : Carrier) : Prop :=
  ∃ x, s.scene? p.slot = some x ∧ x.carrier = some k ∧ (x.waiting = [] ∨ s.ingest.resuming = some p.slot)

/-- A packet has been counted (R71, R99). -/
def counted (p : Pkt) (s : State) : State :=
  ({ s with ingest := { s.ingest with resuming := none } } : State).modScene p.slot (fun (x : Scene) =>
    ({ x with received := x.received + 1 } : Scene).modCarrier (fun (c : Carrier) => { c with read := c.read + 1 }))

/-- A packet that passes the checks 1 to 6 of R71 has been heard; a FRAME_BEGIN closes the frame that is open (R80). -/
def heard (p : Pkt) (s : State) : State :=
  let s := (counted p s).heardPkt p
  if p.type = 1 then (s.closeFrame p.slot none).modScene p.slot (fun (x : Scene) => { x with dead := none }) else s

/-- The carrier has been read past a packet. -/
def readPast (p : Pkt) (s : State) : State :=
  s.modScene p.slot (fun (x : Scene) => x.modCarrier (fun (c : Carrier) => { c with off := c.off + p.size }))

/-- A packet passes the checks 1 to 7 of R71; x is its scene then. -/
def Passes (p : Pkt) (s : State) (x : Scene) : Prop :=
  ∃ k, NextOf p s k ∧ p.lost k = none ∧ (pktForm p.type).framed p = none ∧ (heard p s).scene? p.slot = some x ∧
    (pktForm p.type).inRange x p = true

/-- A packet passes the checks 1 to 7 of R71 within an open frame f that carries its FRAME (R73, R80, R81). -/
def InFrame (p : Pkt) (s : State) (x : Scene) (f : SFrame) : Prop :=
  Passes p s x ∧ x.seq.isSome = true ∧ x.openFrame = some f ∧ p.frame.toNat = f.num

/-! ### Ledgers (R306 to R308) -/

/-- A tile's ledgers are balanced: L0 is 0 or 1, L1 follows it by the inversion mode of the tile, and the drive in flight,
if any, keeps that so once it is made; a tile without a mode has not been driven. -/
def Balanced (d : TileDrive) : Prop :=
  (d.l0 = 0 ∨ d.l0 = 1) ∧ (d.inv = none → d.l0 = 0 ∧ d.drive = none) ∧ d.l1 = (if d.inv.getD 0 = 0 then d.l0 else -d.l0) ∧
    match d.drive with
    | none => True
    | some x => x.dl0 = (if d.l0 = 1 then -1 else 1) ∧ x.dl1 = (if d.inv.getD 0 = 0 then x.dl0 else -x.dl0)

end Sys2Proof.Safety
end

