-- ==== Sys2Proof/Certificates/Slice0/Obligations.lean ====
section
/-! DEFINITION. The statements for the provers.  Each formalises rules of spec/ or, where its docstring says so, a choice
of the model; the numbers are those of OBLIGATIONS.json. -/

open Sys2Proof Sys2Proof.Machine Sys2Proof.Safety

/-! ### The queue and the step -/

/-- O1.  A step runs the command at the front of the queue on the state with the queue's rest. -/
def Obligations.StepRunsFront : Prop :=
  ∀ (s : State) (c : Instr) (rest : List Instr), s.pending = c :: rest → step s = exec c { s with pending := rest }

/-- O2.  On an empty queue the block fetches a command that waits in a ring, else takes a scene packet that waited for
room, else lets 1 ns pass: the model's choice of what the block does of itself (log entry 8). -/
def Obligations.IdleStep : Prop :=
  ∀ s : State, s.pending = [] →
    (∀ n c cs, s.nextRing = some n → (s.mailbox n).ring = c :: cs →
      step s = exec c ((s.modMb n (fun m => { m with ring := cs })).setFetching n)) ∧
    (∀ n p, s.nextRing = none → s.nextResume = some (n, p) → ∃ t, step s = exec (pktInstr p) t ∧ t.ingest.resuming = some n) ∧
    (s.nextRing = none → s.nextResume = none → step s = .next (s.advance 1))

/-- O3.  No command stops the block: every one, with any operands, answers a next state. -/
def Obligations.NoCommandStops : Prop := ∀ (i : Instr) (s : State), ∃ t, exec i s = .next t

/-- O4.  A command acts on everything but the queue. -/
def Obligations.QueueUntouched : Prop := ∀ (i : Instr) (s t : State), exec i s = .next t → t.pending = s.pending

/-- O5.  Every step keeps the number of entries of every file of registers. -/
def Obligations.StepKeepsSizes : Prop := ∀ s t : State, Sized s → step s = .next t → Sized t

/-- O6.  At reset every file of registers has the number of entries that the spec gives the unit; the device is in
BOOT, no command waits, no value is staged, the event sequence stands at 0 and every ledger at 0. -/
def Obligations.ResetState : Prop :=
  Sized State.reset ∧ State.reset.dev.state = .boot ∧ State.reset.pending = [] ∧ State.reset.par.staged = [] ∧
    State.reset.ev.nextSeq = 0 ∧ ∀ x ∈ State.reset.panel.tiles, x.l0 = 0 ∧ x.l1 = 0

/-! ### Host commands: the checks of R54 -/

/-- O7.  R54: the first failed check of 1 to 5 sets the status, and the command then has no effect but its answer. Of
every host command. -/
def Obligations.FirstFailedCheck : Prop :=
  ∀ (i : Instr) (c : Cmd) (row : CmdRow) (s : State) (st : Nat),
    hostRow i = some (c, row) → Fetched i s → firstFailed i s = some st → RefusedWith i c s st

/-- O8.  A host command that the device does not take now keeps its place in its ring, and nothing else changes. -/
def Obligations.WaitsInRing : Prop :=
  ∀ (i : Instr) (c : Cmd) (row : CmdRow) (s : State),
    hostRow i = some (c, row) → ¬ Fetched i s →
      exec i s = .next (({ s with host := { s.host with fetching := none } } : State).modMb c.mb (fun m =>
        { m with ring := if s.host.fetching = some c.mb then i :: m.ring else m.ring ++ [i] }))

/-- O9.  The answer to a host command touches the host interface, the event collector and what the block sends; every
other group of registers, the parameters, the objects and the queue stay as the command's work left them. -/
def Obligations.ReportFrame : Prop :=
  ∀ (c : Cmd) (s : State) (a : Answer),
    let t := report c { s := s, a := a }
    t.dev = s.dev ∧ t.par = s.par ∧ t.objs = s.objs ∧ t.fw = s.fw ∧ t.tim = s.tim ∧ t.time = s.time ∧ t.mem = s.mem ∧
      t.pwr = s.pwr ∧ t.saf = s.saf ∧ t.pair = s.pair ∧ t.start = s.start ∧ t.direct = s.direct ∧ t.enc = s.enc ∧
      t.ingest = s.ingest ∧ t.dec = s.dec ∧ t.synth = s.synth ∧ t.place = s.place ∧ t.link = s.link ∧ t.panel = s.panel ∧
      t.comp = s.comp ∧ t.free = s.free ∧ t.pending = s.pending ∧
      t.host.eq.head = s.host.eq.head ∧ t.host.irq.mask = s.host.irq.mask ∧ t.host.pcie = s.host.pcie

/-- O10.  A host command's answer with FLAGS bit 0 set, bit 1 clear, and room in the response ring: the response is
written at RSP_TAIL, RSP_TAIL rises by 1, and the vector of the mailbox becomes pending. -/
def Obligations.ResponseWritten : Prop :=
  ∀ (c : Cmd) (s : State) (st : Nat) (ws : List Word),
    c.mb < s.host.mb.length → c.mb < 8 → bit c.flags.toNat 0 = true → bit c.flags.toNat 1 = false →
    (s.mailbox c.mb).writes = true → (s.mailbox c.mb).rspFull = false → (s.mailbox c.mb).held = [] →
    let t := report c { s := s, a := { status := st, payload := ws } }
    let r : Rsp := { opcode := c.opcode, tag := c.tag, final := true, status := st, object := c.object, payload := ws
                     first := true, safety := c.safety }
    Out.response c.mb (s.mailbox c.mb).rspTail.toNat r ∈ t.out ∧
      (t.mailbox c.mb).rspTail = (s.mailbox c.mb).rspTail + 1 ∧
      bit t.host.irq.status.toNat (2 + c.mb) = true ∧
      ∀ n, n ≠ c.mb → t.mailbox n = s.mailbox n

/-! ### Host commands that read -/

/-- O11.  Commands that report and take no argument, and those that report counters with their clear bit 0: they
answer OK and change nothing else. -/
def Obligations.Reports : Prop :=
  (∀ (c : Cmd) (s : State),
      (AtHand (.nop c) s → Reads (.nop c) c s []) ∧
      (AtHand (.devInfo c) s → Reads (.devInfo c) c s (devInfoWords s)) ∧
      (AtHand (.fwStatus c) s → Reads (.fwStatus c) c s [fwWord s.fw.slot0, fwWord s.fw.slot1]) ∧
      (AtHand (.decodeCores c) s → Reads (.decodeCores c) c s ((List.range 3).map s.coresWord)) ∧
      (AtHand (.encStatus c) s → Reads (.encStatus c) c s [encWord (s.encS 0), encWord (s.encS 1)]) ∧
      (AtHand (.timeStatus c) s → Reads (.timeStatus c) c s ((List.range 4).map s.timeWord)) ∧
      (AtHand (.paceReport c) s → NoTestMet c s → Reads (.paceReport c) c s (paceReportWords s)) ∧
      (AtHand (.railStatus c) s → NoTestMet c s → Reads (.railStatus c) c s ((List.range 8).map (railWord s))) ∧
      (AtHand (.calStatus c) s → NoTestMet c s → Reads (.calStatus c) c s ((List.range 8).map (fun i => calWord s (i + 1)))) ∧
      (AtHand (.monStatus c) s → ∃ w, Reads (.monStatus c) c s [w]) ∧
      (AtHand (.compStatus c) s → ∃ w1 w2, Reads (.compStatus c) c s [w1, w2]) ∧
      (AtHand (.safetyStatus c) s → NoTestMet c s → ∃ w1 w2, Reads (.safetyStatus c) c s [w1, w2]) ∧
      (AtHand (.pairStatus c) s → NoTestMet c s → ∃ w1 w2, Reads (.pairStatus c) c s [w1, w2])) ∧
  (∀ (c : Cmd) (s : State), c.f 1 0 0 = 0 → c.okBits 1 1 = true →
      (AtHand (.hostStatus c) s → ∃ w, Reads (.hostStatus c) c s [w]) ∧
      (∀ x, AtHand (.sceneStatus c) s → s.sceneOf c.object.toNat = some x → Reads (.sceneStatus c) c s (sceneStatusWords x)) ∧
      (AtHand (.synthStatus c) s → ∃ w1 w2 w3 w4, Reads (.synthStatus c) c s [w1, w2, w3, w4]) ∧
      (AtHand (.placeStatus c) s → ∃ r, Reads (.placeStatus c) c s (placeStatusWords s r)) ∧
      (AtHand (.cmpStatus c) s → ∃ w1 w2 w3, Reads (.cmpStatus c) c s [w1, w2, w3]) ∧
      (AtHand (.timStatus c) s → ∃ w1 w2 w3, Reads (.timStatus c) c s [w1, w2, w3]) ∧
      (AtHand (.linkStatus c) s → Reads (.linkStatus c) c s (s.link.ports.map linkWord)) ∧
      (AtHand (.panelStatus c) s → ∃ w1 w2 w3, Reads (.panelStatus c) c s [w1, w2, w3]) ∧
      (AtHand (.memStatus c) s → ∃ r, Reads (.memStatus c) c s (memStatusWords s r)) ∧
      (AtHand (.pwrStatus c) s → NoTestMet c s → Reads (.pwrStatus c) c s (pwrStatusWords s)) ∧
      (AtHand (.thermStatus c) s → NoTestMet c s → Reads (.thermStatus c) c s (thermStatusWords s)))

/-- O12.  Commands that report on what their operands name: they answer OK and change nothing else; the clear bit of
MEM_CHANNEL, NET_STATUS and DECODE_STATUS sets the counters of the one they name to 0. -/
def Obligations.NamedReports : Prop :=
  (∀ (c : Cmd) (s : State),
      (AtHand (.paramGet c) s → 0 < c.nWords →
        (∀ n, n < c.nWords → bits (c.w (n + 1)) 95 88 ≤ 1 ∧ bits (c.w (n + 1)) 87 0 = 0 ∧ (paramDef (bits (c.w (n + 1)) 127 96)).isSome) →
        Reads (.paramGet c) c s ((List.range c.nWords).map (fun n => s.getWord (c.w (n + 1))))) ∧
      (∀ o, AtHand (.geomInfo c) s → s.obj? c.object.toNat = some o → ∃ w1 w2 w3, Reads (.geomInfo c) c s [w1, w2, w3]) ∧
      (∀ o e i j k, AtHand (.geomRay c) s → s.obj? c.object.toNat = some o →
        geomRayArgs (parseGeom o.data) c = some (e, i, j, k) → Reads (.geomRay c) c s (rayWords (parseGeom o.data) e i j k)) ∧
      (∀ x g e i j k, AtHand (.synthProbe c) s → s.dev.state.full = true → s.synth.cur = some x → x.blanket = false →
        x.geom = some g → geomRayArgs g c = some (e, i, j, k) → x.states.contains k = true →
        Reads (.synthProbe c) c s (probeWords (x.rayResult g e (s.tileStep x e.tile k (j / 16) (i / 64)) i j k)
          (s.tileStep x e.tile k (j / 16) (i / 64)) x.frame)) ∧
      (∀ o, AtHand (.placeObject c) s → s.obj? c.object.toNat = some o → o.cls ≠ 7 →
        Reads (.placeObject c) c s (placeObjectWords o)) ∧
      (∀ r b, AtHand (.selftestRecord c) s → NoTestMet c s → c.okBits 1 1 = true → s.start.newest = some (r, b) →
        Reads (.selftestRecord c) c s (recordReport s (if c.f 1 0 0 = 0 then some r else s.start.rec_ (!b))))) ∧
  (∀ (c : Cmd) (s : State),
      (AtHand (.memChannel c) s → c.okBits 1 (mask 8 8 + mask 4 0) = true → c.f 1 8 8 = 0 →
        Reads (.memChannel c) c s (memChannelWords s (c.f 1 4 0))) ∧
      (AtHand (.memChannel c) s → c.okBits 1 (mask 8 8 + mask 4 0) = true → c.f 1 8 8 = 1 →
        ∃ t, exec (.memChannel c) s = .next t ∧
          t.mem.chans = updAt s.mem.chans (c.f 1 4 0) (fun x => { x with ce := 0, ue := 0, guard := 0 })) ∧
      (AtHand (.netStatus c) s → c.okBits 1 0x103 = true → c.f 1 8 8 = 0 → ∃ w1 w2 w3, Reads (.netStatus c) c s [w1, w2, w3]) ∧
      (AtHand (.netStatus c) s → c.okBits 1 0x103 = true → c.f 1 8 8 = 1 →
        ∃ t, exec (.netStatus c) s = .next t ∧
          t.time.ports = updAt s.time.ports (c.f 1 1 0) (fun x =>
            { x with rxFrames := 0, rxErrors := 0, txFrames := 0, rxDropped := 0, txDropped := 0, fecCorr := 0, fecUncorr := 0 })) ∧
      (∀ x, AtHand (.decodeStatus c) s → s.sceneOf c.object.toNat = some x → c.okBits 1 (mask 12 8 + 1) = true →
        c.f 1 12 8 < x.maxAnchors → c.f 1 0 0 = 0 →
        Reads (.decodeStatus c) c s ((anchorStreams x.slot (c.f 1 12 8) 4).map (fun d => streamWord (s.stream? d)))) ∧
      (∀ x, AtHand (.decodeStatus c) s → s.sceneOf c.object.toNat = some x → c.okBits 1 (mask 12 8 + 1) = true →
        c.f 1 12 8 < x.maxAnchors → c.f 1 0 0 = 1 →
        ∃ t, exec (.decodeStatus c) s = .next t ∧
          t.dec.streams = s.dec.streams.map (fun d =>
            if d.id.slot = x.slot ∧ d.id.anchor = c.f 1 12 8 then { d with decoded := 0, concealed := 0 } else d)))

/-- O13.  The clear bit of a report sets its counters to 0 once they are read. -/
def Obligations.ClearCounters : Prop :=
  ∀ (c : Cmd) (s : State), c.f 1 0 0 = 1 → c.okBits 1 1 = true →
    (AtHand (.hostStatus c) s → ∃ t, exec (.hostStatus c) s = .next t ∧ t.host.pcie.corr = 0 ∧ t.host.pcie.uncorr = 0 ∧ t.host.pcie.cto = 0) ∧
    (AtHand (.synthStatus c) s → ∃ t, exec (.synthStatus c) s = .next t ∧ t.synth.degraded = 0 ∧ t.synth.escalated = 0 ∧
      t.synth.resets = 0 ∧ t.synth.waitMax = 0 ∧ t.synth.cur = s.synth.cur) ∧
    (AtHand (.placeStatus c) s → ∃ t, exec (.placeStatus c) s = .next t ∧ t.place.migrated = 0 ∧ t.place.steals = 0 ∧
      t.place.evicted = 0 ∧ t.place.reserved = s.place.reserved) ∧
    (AtHand (.cmpStatus c) s → ∃ t, exec (.cmpStatus c) s = .next t ∧ t.comp.jobsOk = 0 ∧ t.comp.jobsFailed = 0 ∧
      t.comp.jobs = s.comp.jobs) ∧
    (AtHand (.timStatus c) s → ∃ t, exec (.timStatus c) s = .next t ∧
      t.tim = { s.tim with holds := 0, underrun := 0, freeze := 0 }) ∧
    (AtHand (.panelStatus c) s → ∃ t, exec (.panelStatus c) s = .next t ∧
      t.panel = { s.panel with fmFail := 0, excursions := 0, visits := 0 }) ∧
    (AtHand (.memStatus c) s → ∃ t, exec (.memStatus c) s = .next t ∧
      t.mem = { s.mem with ce := 0, ue := 0, guard := 0, stalls := 0 }) ∧
    (AtHand (.pwrStatus c) s → NoTestMet c s → ∃ t, exec (.pwrStatus c) s = .next t ∧
      t.pwr = { s.pwr with sagRises := 0, warnFalls := 0, throttleMs := 0, pmbErrors := 0 }) ∧
    (AtHand (.thermStatus c) s → NoTestMet c s → ∃ t, exec (.thermStatus c) s = .next t ∧ t.pwr = { s.pwr with warnings := 0, throttles := 0 }) ∧
    (AtHand (.linkStatus c) s → ∃ t, exec (.linkStatus c) s = .next t ∧
      t.link = { s.link with ports := s.link.ports.map (fun p => { p with retrains := 0, rcrc := 0, missing := 0, hcrc := 0 }) })

/-! ### Parameters, objects, firmware -/

/-- O14.  PARAM_SET stages every word or, with a word that may not be staged, nothing: a word that names an object
under creation is BUSY, else one that names a destroyed object is BAD_OBJECT, else one that names a LOST object is
INTEGRITY, else the first bad word is named with BAD_ARG (that objects come before values is log entry 83's choice);
PARAM_DISCARD drops the staged values of the subsystems selected; PANEL_MODE stages what it names. Nothing else
changes. -/
def Obligations.ParamStaging : Prop :=
  ∀ (c : Cmd) (s : State),
    (AtHand (.paramSet c) s → 0 < c.nWords → (∀ n, n < c.nWords → s.entryOk (c.w (n + 1)) = true ∧
        s.namesCreating (c.w (n + 1)) = false ∧ s.namesDestroyed (c.w (n + 1)) = false ∧ s.namesLost (c.w (n + 1)) = false) →
      exec (.paramSet c) s = .next (report c (answer
        { taken c s with par := { s.par with staged := stageWords c s.par.staged c.nWords } } []))) ∧
    (∀ n, AtHand (.paramSet c) s → 1 ≤ n → n ≤ c.nWords → s.entryOk (c.w n) = false →
      (∀ m, 1 ≤ m → m < n → s.entryOk (c.w m) = true) → (∀ m, m < c.nWords → s.namesCreating (c.w (m + 1)) = false ∧
        s.namesDestroyed (c.w (m + 1)) = false ∧ s.namesLost (c.w (m + 1)) = false) →
      exec (.paramSet c) s = .next (report c { s := taken c s, a := { status := stBadArg, payload := offending (c.f n 127 96) n } })) ∧
    (∀ n, AtHand (.paramSet c) s → n < c.nWords → s.namesCreating (c.w (n + 1)) = true → RefusedWith (.paramSet c) c s stBusy) ∧
    (∀ n, AtHand (.paramSet c) s → n < c.nWords → s.namesDestroyed (c.w (n + 1)) = true →
      (∀ m, m < c.nWords → s.namesCreating (c.w (m + 1)) = false) → RefusedWith (.paramSet c) c s stBadObject) ∧
    (∀ n, AtHand (.paramSet c) s → n < c.nWords → s.namesLost (c.w (n + 1)) = true →
      (∀ m, m < c.nWords → s.namesCreating (c.w (m + 1)) = false ∧ s.namesDestroyed (c.w (m + 1)) = false) →
      RefusedWith (.paramSet c) c s stIntegrity) ∧
    (AtHand (.paramDiscard c) s → c.okBits 1 0x7FFFFE = true →
      exec (.paramDiscard c) s = .next (report c (answer
        { taken c s with par := { s.par with staged := s.par.staged.filter (fun p => !maskTakes (c.f 1 31 0) p.id) } } []))) ∧
    (AtHand (.panelMode c) s → c.okBits 1 (mask 127 104 + mask 63 0) = true → c.f 1 127 120 ≤ 3 →
      (bit (c.f 1 127 120) 0 = false → c.f 1 119 112 = 0) → (bit (c.f 1 127 120) 1 = false → c.f 1 111 104 = 0) →
      (∀ p ∈ modeVals c, ∀ d, paramDef p.id = some d → s.valueOk d p.v = true) →
      (∀ id ∈ s.checkTiming (fun id => (pfind (modeVals c) id).getD ((pfind s.par.staged id).getD (s.pget id)))
        (fun id => id == 0x0B000001 || id == 0x0A000001 || id == 0x09000001) true, id = 0x0B000003) →
      exec (.panelMode c) s = .next (report c (answer { taken c s with par := { s.par with
        staged := (modeVals c).foldl (fun l p => pput l p.id p.v) s.par.staged } } [])))

/-- O15.  A parameter reads the value last written to it, and a write leaves every other one alone (R58). Of the words
of one PARAM_SET, the last that names an ID gives the staged value; an ID that none names keeps its own. -/
def Obligations.ParamLists : Prop :=
  (∀ (s : State) (id v : Nat), (s.pset id v).pget id = v ∧ ∀ other, other ≠ id → (s.pset id v).pget other = s.pget other) ∧
  (∀ (c : Cmd) (l : List PVal) (n : Nat),
      (∀ k, 1 ≤ k → k ≤ n → (∀ m, k < m → m ≤ n → c.f m 127 96 ≠ c.f k 127 96) →
        pfind (stageWords c l n) (c.f k 127 96) = some (c.f k 63 0)) ∧
      (∀ id, (∀ m, 1 ≤ m → m ≤ n → c.f m 127 96 ≠ id) → pfind (stageWords c l n) id = pfind l id))

/-- O16.  COMMIT of values that take effect at a panel frame, with the window of the next frame open: the staged
values it takes leave the staging area, and they wait, with their target frame, for their boundary; nothing else
changes but the answer. A COMMIT while one is pending is BUSY (R59); one with a target frame whose window has closed
is LATE (R60); one with an offending value is BAD_ARG and names it; one of another code in PARASOL is BAD_STATE
(R228). In each case the staged values stay (R62). -/
def Obligations.Commits : Prop :=
  (∀ (c : Cmd) (s : State),
      AtHand (.commit c) s → s.par.commit = none → c.okBits 1 (mask 64 32 + 0x7FFFFE) = true → s.dev.state ≠ .parasol →
      s.commitTakes (c.f 1 31 0) ≠ [] → (∀ p ∈ s.commitTakes (c.f 1 31 0), ∃ d, paramDef p.id = some d ∧ d.cls = .panelFrame) →
      s.offendingId (takenValue c s) (takenChange c s) = none → c.f 1 64 64 = 0 → s.missedFrame = none → s.monRuns = true →
      exec (.commit c) s = .next (report c (accept { taken c s with par := { s.par with
        staged := s.par.staged.filter (fun q => !takenChange c s q.id)
        commit := some {
          job := s.host.nextJob, tag := c.tag.toNat, all := s.commitTakes (c.f 1 31 0)
          panel := s.commitTakes (c.f 1 31 0), monitor := [], target := none
          panelAt := s.openFrame, monitorAt := if s.nextMon.2 then (s.nextMon.1 + 1) % 2 ^ 32 else s.nextMon.1
          mode := s.modeChanges (takenValue c s) } } } .commit))) ∧
  (∀ (c : Cmd) (s : State),
      (AtHand (.commit c) s → s.par.commit.isSome = true → RefusedWith (.commit c) c s stBusy) ∧
      (AtHand (.commit c) s → s.par.commit = none → c.okBits 1 (mask 64 32 + 0x7FFFFE) = true → s.dev.state ≠ .parasol →
        s.offendingId (takenValue c s) (takenChange c s) = none → c.f 1 64 64 = 1 → s.tim.on = true →
        after 32 s.openFrame (s.targetFrame (c.f 1 63 32)) = true → RefusedWith (.commit c) c s stLate) ∧
      (∀ id, AtHand (.commit c) s → s.par.commit = none → c.okBits 1 (mask 64 32 + 0x7FFFFE) = true → s.dev.state ≠ .parasol →
        s.offendingId (takenValue c s) (takenChange c s) = some id →
        exec (.commit c) s = .next (report c { s := taken c s, a := { status := stBadArg, payload := offending id 0 } })) ∧
      (AtHand (.commit c) s → s.par.commit = none → c.okBits 1 (mask 64 32 + 0x7FFFFE) = true → s.dev.state = .parasol →
        takenValue c s 0x09000001 ≠ s.pget 0x09000001 → RefusedWith (.commit c) c s stBadState))

/-- O17.  Objects: creation takes the ID and the space at acceptance, and keeps or removes the object at its end;
destruction removes it; a read is accepted and ends with the bytes of the object in host memory. -/
def Obligations.ObjectLife : Prop :=
  ∀ (c : Cmd) (s : State),
    (AtHand (.objectCreate c) s → c.okBits 1 (mask 127 120 + mask 63 0) = true → c.okBits 2 (mask 63 0) = true →
      2 ≤ c.f 1 127 120 → c.f 1 127 120 ≤ 6 → c.f 1 3 0 = 0 → c.f 2 63 32 % 16 = 0 → 16 ≤ c.f 2 63 32 → c.f 2 31 0 ≤ c.f 2 63 32 →
      s.place.mirrorShort = false → s.fits (plan 0 (ceilDiv (c.f 2 63 32) basketBytes) 0 0 0 0) = true →
      exec (.objectCreate c) s = .next (report c {
        s := (taken c s).addObj { id := s.nextId (c.f 1 127 120), cls := c.f 1 127 120, size := c.f 2 63 32, data := [], creating := true }
          (plan 0 (ceilDiv (c.f 2 63 32) basketBytes) 0 0 0 0)
        a := { status := stAccepted, object := some (s.nextId (c.f 1 127 120))
               job := some (.objectCreate (s.nextId (c.f 1 127 120)) (c.f 2 31 0)) } })) ∧
    (∀ o j n data, s.obj? o.id = some o → o.creating = true →
      s.findJob (fun j => match j.key with | .objectCreate x _ => x == o.id | _ => false) = some j → j.key = .objectCreate o.id n →
      exec (.objectCreateCompletion o.id data) s = .next (
        if objectOk o.cls o.size (padTo (0 : Byte) o.size (data.take n)) then
          (s.modObj o.id (fun x => { x with data := padTo (0 : Byte) o.size (data.take n), creating := false })).endJob j.id stOk []
        else (s.removeObj o.id).endJob j.id stBadArg [])) ∧
    (∀ o, AtHand (.objectDestroy c) s → s.obj? c.object.toNat = some o → s.inUse o = false → s.named o.id = false →
      exec (.objectDestroy c) s = .next (report c (answer (((taken c s).dropScene o.id).removeObj o.id) []))) ∧
    (∀ o, AtHand (.objectRead c) s → s.obj? c.object.toNat = some o → c.okBits 1 (mask 63 0) = true →
      c.okBits 2 (mask 63 0) = true → c.f 1 3 0 = 0 → c.f 2 63 32 % 16 = 0 → c.f 2 31 0 % 16 = 0 →
      c.f 2 63 32 + c.f 2 31 0 ≤ o.size →
      exec (.objectRead c) s = .next (report c (accept (taken c s)
        (.objectRead o.id (c.f 1 63 0) (c.f 2 63 32) (c.f 2 31 0) (slice o.data (c.f 2 63 32) (c.f 2 31 0)))))) ∧
    (∀ o j dest off len, s.job? j.id = some j → s.obj? o.id = some o →
      j.key = .objectRead o.id dest off len (slice o.data off len) →
      ∃ t, exec (.objectReadCompletion j.id) s = .next t ∧ Out.hostWrite dest (slice o.data off len) ∈ t.out ∧ t.job? j.id = none)

/-- O18.  Firmware slots: FW_STAGE is accepted for the slot that does not run and empties it; its end verifies the
slot or leaves it empty; FW_ACTIVATE marks a slot; FW_CONFIRM makes a trial permanent, and warns where none runs (R65,
R66). -/
def Obligations.FirmwareSlots : Prop :=
  ∀ (c : Cmd) (s : State),
    (AtHand (.fwStage c) s → c.okBits 1 (mask 63 0) = true → c.okBits 2 (mask 31 0) = true → c.f 1 3 0 = 0 →
      c.f 2 31 0 ≤ 32 * 2 ^ 20 → s.fw.staging = none → (s.domain 47).failed = false →
      exec (.fwStage c) s = .next (report c (accept
        { taken c s with fw := { s.fw.setSlot s.stageSlot {} with staging := some s.stageSlot } }
        (.fwStage s.stageSlot (c.f 1 63 0) (c.f 2 31 0)))).powerSync) ∧
    (∀ n r, s.fw.staging = some n → r.ok = true → r.tooLong = false →
      ∃ t, exec (.fwStageCompletion r) s = .next t ∧ t.fw = { s.fw.setSlot n { version := r.version, state := 1 } with staging := none }) ∧
    (∀ n r, s.fw.staging = some n → (r.ok = false ∨ r.tooLong = true) →
      ∃ t, exec (.fwStageCompletion r) s = .next t ∧ t.fw = { s.fw.setSlot n {} with staging := none }) ∧
    (AtHand (.fwActivate c) s → c.okBits 1 1 = true → s.fw.staging = none → (s.fw.slot (c.f 1 0 0)).state ≠ 0 →
      exec (.fwActivate c) s = .next (report c (answer { taken c s with fw := { s.fw with activate := some (c.f 1 0 0) } } []))) ∧
    (AtHand (.fwConfirm c) s → s.dev.trial = false →
      exec (.fwConfirm c) s = .next (report c { s := taken c s, a := { status := stWarn } })) ∧
    (AtHand (.fwConfirm c) s → s.dev.trial = true →
      ∃ t, exec (.fwConfirm c) s = .next t ∧ t.dev = { s.dev with trial := false } ∧ (t.fw.slot s.fw.running).state = 3 ∧
        t.fw.running = s.fw.running ∧ (t.fw.slot (1 - s.fw.running)).version = (s.fw.slot (1 - s.fw.running)).version)

/-- O19.  RESTART answers, then enters BOOT: no command runs or waits in a ring, no value is staged, every ledger is 0
(R310), the time base, the parameters in force but those of class RESTART, the fuses and the link stay (R64). -/
def Obligations.RestartEntersBoot : Prop :=
  ∀ (c : Cmd) (s : State),
    AtHand (.restart c) s → c.okBits 1 3 = true → c.f 1 1 0 ≤ 1 → (s.start.thermalLock = true → s.pwr.tmax < 85) →
    ∃ t, exec (.restart c) s = .next t ∧ t.dev.state = .boot ∧ t.host.jobs = [] ∧ t.par.staged = [] ∧ t.par.commit = none ∧
      t.objs.objs = [] ∧ t.time.tb0 = s.time.tb0 ∧ t.dev.serial = s.dev.serial ∧ t.dev.gradeS = s.dev.gradeS ∧
      t.host.pcie = s.host.pcie ∧ (∀ m ∈ t.host.mb, m.en = false ∧ m.ring = []) ∧ (∀ x ∈ t.panel.tiles, x.l0 = 0 ∧ x.l1 = 0)

/-! ### Fences and jobs -/

/-- O20.  FENCE is accepted at once; it completes once it is the oldest accepted command of its mailbox (R57). -/
def Obligations.FenceOrder : Prop :=
  ∀ (c : Cmd) (s : State) (mb : Nat),
    (AtHand (.fence c) s → exec (.fence c) s = .next (report c (accept (taken c s) .fence))) ∧
    (∀ j, s.findJob (fun j => j.mb == mb) = some j → j.key = .fence → exec (.fenceCompletion mb) s = .next (s.endJob j.id stOk [])) ∧
    (∀ j, s.findJob (fun j => j.mb == mb) = some j → j.key ≠ .fence → exec (.fenceCompletion mb) s = .next s)

/-- O21.  The end of a job takes that job off the list and no other, reports once, and leaves every group of registers
but the host interface, the collector and what is sent. -/
def Obligations.JobEnds : Prop :=
  ∀ (s : State) (id st : Nat) (ws : List Word),
    let t := s.endJob id st ws
    t.host.jobs = (if (s.job? id).isSome then s.host.jobs.filter (fun k => k.id != id) else s.host.jobs) ∧
      t.host.nextJob = s.host.nextJob ∧ t.par = s.par ∧ t.objs = s.objs ∧ t.dev = s.dev ∧ t.tim = s.tim ∧ t.panel = s.panel ∧
      t.link = s.link ∧ t.place = s.place ∧ t.saf = s.saf ∧ t.mem = s.mem ∧ t.pwr = s.pwr ∧ t.time = s.time ∧ t.fw = s.fw ∧
      t.ingest = s.ingest ∧ t.comp = s.comp ∧ t.enc = s.enc ∧ t.pending = s.pending

/-! ### Rings, the event queue, interrupts, the link -/

/-- O22.  Ring pointers: a CMD_TAIL within the ring is taken, one too far ahead stops the mailbox with cause 1, and
one of a mailbox whose EN is 0 is ignored; RSP_HEAD is taken; a held response is written once its ring has room, and a
JOB object that waited for it goes (R232). A rising EN sets all four indices of that mailbox to 0; with both ring
sizes from 4 to 10 the mailbox is served, otherwise CFG_ERR is set; while EN is 1 a write of MBn_CFG takes EN alone
and sets CFG_ERR where a ring size differs from the one held, and a write of a base register sets CFG_ERR alone (R48).
A falling EN ends the mailbox: its responses are discarded, its jobs answer no more; another mailbox stays. -/
def Obligations.Rings : Prop :=
  (∀ (s : State) (mb : Nat) (v : BitVec 16), mb < 8 →
      ((s.mailbox mb).en = true →
        ((s.mailbox mb).active = false ∨ wsub 16 v.toNat (s.mailbox mb).cmdHead.toNat ≤ 2 ^ (s.mailbox mb).cmdLog2.toNat) →
        exec (.mbCmdTailWrite mb v) s = .next (s.modMb mb (fun m => { m with cmdTail := v }))) ∧
      ((s.mailbox mb).en = true → (s.mailbox mb).active = true →
        2 ^ (s.mailbox mb).cmdLog2.toNat < wsub 16 v.toNat (s.mailbox mb).cmdHead.toNat →
        exec (.mbCmdTailWrite mb v) s = .next ((s.modMb mb (fun m => { m with cmdTail := v })).stopMb mb 1)) ∧
      ((s.mailbox mb).en = false → exec (.mbCmdTailWrite mb v) s = .next s) ∧
      exec (.mbRspHeadWrite mb v) s = .next (s.modMb mb (fun m => { m with rspHead := v })) ∧
      (∀ r rs, (s.mailbox mb).held = r :: rs → (s.mailbox mb).writes = true → (s.mailbox mb).rspFull = false →
        exec (.pendingResponseWrite mb) s = .next ((s.modMb mb (fun m => { m with held := rs })).putRsp mb r).freeJobs)) ∧
  (∀ (s : State) (mb : Nat) (v : BitVec 32), mb < 8 → s.host.mb.length = 8 →
      ((s.mailbox mb).en = false → bit v.toNat 0 = true → 4 ≤ bits v.toNat 11 8 → bits v.toNat 11 8 ≤ 10 →
        4 ≤ bits v.toNat 15 12 → bits v.toNat 15 12 ≤ 10 →
        ∃ t, exec (.mbCfgWrite mb v) s = .next t ∧ (t.mailbox mb).active = true ∧ (t.mailbox mb).en = true ∧
          (t.mailbox mb).cmdTail = 0 ∧ (t.mailbox mb).cmdHead = 0 ∧ (t.mailbox mb).rspHead = 0 ∧ (t.mailbox mb).rspTail = 0 ∧
          (∀ n, n ≠ mb → t.mailbox n = s.mailbox n) ∧ t.host.jobs = s.host.jobs) ∧
      ((s.mailbox mb).en = false → bit v.toNat 0 = true →
        (bits v.toNat 11 8 < 4 ∨ 10 < bits v.toNat 11 8 ∨ bits v.toNat 15 12 < 4 ∨ 10 < bits v.toNat 15 12) →
        ∃ t, exec (.mbCfgWrite mb v) s = .next t ∧ (t.mailbox mb).active = false ∧ (t.mailbox mb).en = true ∧
          (t.mailbox mb).cfgErr = true ∧ (t.mailbox mb).cmdTail = 0 ∧ (t.mailbox mb).cmdHead = 0 ∧ (t.mailbox mb).rspHead = 0 ∧
          (t.mailbox mb).rspTail = 0 ∧ (∀ n, n ≠ mb → t.mailbox n = s.mailbox n)) ∧
      ((s.mailbox mb).en = true → bit v.toNat 0 = true →
        exec (.mbCfgWrite mb v) s = .next (s.modMb mb (fun m => { m with
          cfgErr := m.cfgErr || decide (bits v.toNat 11 8 ≠ (s.mailbox mb).cmdLog2.toNat ∨ bits v.toNat 15 12 ≠ (s.mailbox mb).rspLog2.toNat) }))) ∧
      ((s.mailbox mb).en = true → ∀ r ∈ [0x00, 0x04, 0x08, 0x0C],
        exec (.registerWrite (0x200 + 0x20 * mb + r) v) s = .next (s.modMb mb (fun m => { m with cfgErr := true }))) ∧
      ((s.mailbox mb).en = true → bit v.toNat 0 = false →
        ∃ t, exec (.mbCfgWrite mb v) s = .next t ∧ (t.mailbox mb).en = false ∧ (t.mailbox mb).active = false ∧
          (t.mailbox mb).cmdLog2 = (s.mailbox mb).cmdLog2 ∧ (t.mailbox mb).rspLog2 = (s.mailbox mb).rspLog2 ∧
          (t.mailbox mb).cfgErr = ((s.mailbox mb).cfgErr ||
            decide (bits v.toNat 11 8 ≠ (s.mailbox mb).cmdLog2.toNat ∨ bits v.toNat 15 12 ≠ (s.mailbox mb).rspLog2.toNat)) ∧
          (t.mailbox mb).held = [] ∧ (∀ n, n ≠ mb → t.mailbox n = s.mailbox n) ∧
          (∀ j ∈ t.host.jobs, j.mb = mb → j.respond = false)))

/-- O23.  A failed ring fetch stops a served mailbox: its error flag is set, it fetches no more, RING_ERROR names its
cause; a timed-out read is counted as well. A failed read of a command's data ends the command's job (R44). A
function-level reset and a lost link stop the host interface: every EN is 0, every ring empty, no job answers; the
reset also sets the units with direct access to their reset state. The link's return sets no EN; a PCI Express error
is counted and reported (R49, R68). -/
def Obligations.HostFailures : Prop :=
  (∀ (s : State) (mb id : Nat), mb < s.host.mb.length → (s.mailbox mb).active = true →
      exec (.ringFetchError mb) s = .next (s.stopMb mb 2) ∧
      exec (.dmaReadPoisoned (.ring mb)) s = .next (s.stopMb mb 2) ∧
      exec (.dmaReadTimeout (.ring mb)) s = .next (s.countCto.stopMb mb 3) ∧
      exec (.dmaReadPoisoned (.job id)) s = .next (s.dmaFail id stIntegrity) ∧
      exec (.dmaReadTimeout (.job id)) s = .next (s.countCto.dmaFail id stTimeout) ∧
      ((s.stopMb mb 2).mailbox mb).err = true ∧ ((s.stopMb mb 2).mailbox mb).active = false ∧
      (∀ n, n ≠ mb → (s.stopMb mb 2).mailbox n = s.mailbox n) ∧ s.countCto.host.pcie.cto = s.host.pcie.cto + 1) ∧
  (∀ (s : State) (speed width aer : Nat),
      (∃ t, exec .functionLevelReset s = .next t ∧ t.direct = { cvu := s.direct.cvu.map (fun _ => {}) } ∧ t.host.eq.en = false ∧ t.time.tb0 = s.time.tb0 ∧
        (∀ m ∈ t.host.mb, m.en = false ∧ m.ring = []) ∧ ∀ j ∈ t.host.jobs, j.respond = false) ∧
      (s.host.pcie.up = true →
        ∃ t, exec .pcieLinkDown s = .next t ∧ t.host.pcie.up = false ∧ t.host.eq.en = false ∧
          (∀ m ∈ t.host.mb, m.en = false ∧ m.ring = []) ∧ ∀ j ∈ t.host.jobs, j.respond = false) ∧
      (s.host.pcie.up = false →
        ∃ t, exec (.pcieLinkUp speed width) s = .next t ∧ t.host.pcie = { s.host.pcie with up := true, speed := speed, width := width } ∧
          t.host.mb = s.host.mb) ∧
      (∃ t, exec (.pcieError true aer) s = .next t ∧ t.host.pcie = { s.host.pcie with corr := s.host.pcie.corr + 1 } ∧ t.host.mb = s.host.mb) ∧
      (∃ t, exec (.pcieError false aer) s = .next t ∧ t.host.pcie = { s.host.pcie with uncorr := s.host.pcie.uncorr + 1 } ∧ t.host.mb = s.host.mb))

/-- O24.  The event queue: the rising edge of EN sets both indices to 0; EQ_HEAD moves only forward, up to EQ_TAIL;
the hold-off time makes vector 1 pending while records are unread; held records are written as space allows (R63). -/
def Obligations.EventQueueWrites : Prop :=
  ∀ (s : State) (v : BitVec 32) (h : BitVec 16),
    (bit v.toNat 0 = true → s.host.eq.en = false →
      exec (.eqCfgWrite v) s = .next (s.modEq (fun q => { q with en := true, head := 0, tail := 0, holdoffPassed := false })).reportDrops) ∧
    (bit v.toNat 0 = false → exec (.eqCfgWrite v) s = .next (s.modEq (fun q => { q with en := false }))) ∧
    (0 < wsub 16 h.toNat s.host.eq.head.toNat → wsub 16 h.toNat s.host.eq.head.toNat ≤ s.host.eq.unread →
      exec (.eqHeadWrite h) s = .next (s.modEq (fun q => { q with head := h, holdoffPassed := false })).reportDrops) ∧
    (s.host.eq.unread < wsub 16 h.toNat s.host.eq.head.toNat → exec (.eqHeadWrite h) s = .next s) ∧
    (0 < s.host.eq.unread → ∃ t, exec .eqHoldoffExpiry s = .next t ∧ bit t.host.irq.status.toNat 1 = true ∧
      t.host.eq = { s.host.eq with holdoffPassed := true }) ∧
    exec .eventQueueWrite s = .next s.writeHeld.reportDrops

/-- O25.  Interrupts: written ones clear PEND bits of edges for good; a PEND bit whose MASK bit falls, or whose table
entry is unmasked, sends its message; the written half of MASK changes and the other half stays (R47). -/
def Obligations.Interrupts : Prop :=
  ∀ (s : State) (hi : Bool) (v : BitVec 32) (n : Nat), n < 64 →
    (∃ t, exec (.irqStatusWrite hi v) s = .next t ∧
      (bit (if hi then v.toNat * 2 ^ 32 else v.toNat) n = true → s.causeHolds n = false → bit t.host.irq.status.toNat n = false) ∧
      (bit (if hi then v.toNat * 2 ^ 32 else v.toNat) n = true → s.causeHolds n = true → bit s.host.irq.status.toNat n = true →
        bit t.host.irq.status.toNat n = true) ∧
      (bit (if hi then v.toNat * 2 ^ 32 else v.toNat) n = false → bit t.host.irq.status.toNat n = bit s.host.irq.status.toNat n)) ∧
    (∃ t, exec (.irqMaskWrite hi v) s = .next t ∧ t.host.irq.status = s.host.irq.status ∧
      bit t.host.irq.mask.toNat n = (if hi = decide (32 ≤ n) then bit v.toNat (n % 32) else bit s.host.irq.mask.toNat n) ∧
      (bit s.host.irq.mask.toNat n = true → bit t.host.irq.mask.toNat n = false → bit s.host.irq.status.toNat n = true →
        bit s.host.irq.msixMask.toNat n = false → s.host.pcie.up = true → Out.msix n ∈ t.out)) ∧
    (bit s.host.irq.msixMask.toNat n = true →
      ∃ t, exec (.msixEntryUnmask n) s = .next t ∧ bit t.host.irq.msixMask.toNat n = false ∧ t.host.irq.status = s.host.irq.status ∧
        (bit s.host.irq.status.toNat n = true → bit s.host.irq.mask.toNat n = false → s.host.pcie.up = true → Out.msix n ∈ t.out))

/-- O26.  The collector discards an event of a severity below `host.event_min_severity`, and one of severity 0 or 1 of
a source whose bit of `host.event_quiet_mask` is set, but none of severity 3 or 4; a discarded event leaves everything
as it was, its sequence number and the count of dropped events too (R67). An event touches the collector, the host
interface, the safety mirror and what is sent, and nothing else; one of severity 4 latches. -/
def Obligations.RaiseFrame : Prop :=
  ∀ (s : State) (source code severity arg arg2 : Nat),
    let t := s.raise source code severity arg arg2
    (s.discards source severity = true ↔
      severity < 3 ∧ (severity < s.pget 0x02000001 ∨ (severity ≤ 1 ∧ bit (s.pget 0x02000002) source = true))) ∧
    (s.discards source severity = true → t = s) ∧
    (severity = 4 → t.saf.latch = true ∧ t.saf.lastSeq = s.ev.nextSeq ∧ bit t.host.irq.status.toNat 0 = true) ∧
    (severity ≠ 4 → t.saf = s.saf) ∧
    t.dev = s.dev ∧ t.par = s.par ∧ t.objs = s.objs ∧ t.fw = s.fw ∧ t.tim = s.tim ∧ t.time = s.time ∧ t.mem = s.mem ∧
      t.pwr = s.pwr ∧ t.pair = s.pair ∧ t.start = s.start ∧ t.direct = s.direct ∧ t.enc = s.enc ∧ t.ingest = s.ingest ∧
      t.dec = s.dec ∧ t.synth = s.synth ∧ t.place = s.place ∧ t.link = s.link ∧ t.panel = s.panel ∧ t.comp = s.comp ∧
      t.free = s.free ∧ t.pending = s.pending ∧ t.host.mb = s.host.mb ∧ t.host.jobs = s.host.jobs

/-- O27.  An event of severity 3 or 4 is never lost: it is held whole, or it is counted in the entry of its source and
code (R36). -/
def Obligations.SevereKept : Prop :=
  ∀ (s : State) (source code severity arg arg2 : Nat), 3 ≤ severity → severity ≤ 4 →
    let t := s.raise source code severity arg arg2
    let e : Event := { source := source, code := code, severity := severity, arg := arg % 2 ^ 64, arg2 := arg2 % 2 ^ 48, time := s.now }
    ({ seq := s.ev.nextSeq, ev := e } : HeldEvent) ∈ t.ev.held ∨
      ∃ x ∈ t.ev.overflow, x.first.ev.source = source ∧ x.first.ev.code = code ∧ x.last = s.ev.nextSeq

/-! ### In-package memory -/

/-- O28.  MEM_SETPOINT: the set point in force answers OK at once; another is asked for where no request is pending
and every working channel has a setting there. MEM_RETRAIN is accepted for a trained channel and its full pass begins
(R341, R344). Passes and set points: a tracking pass begins on a trained idle channel, every 16th for the other set
point; a step of a pass counts one long stall and closes the channel's rows; the end of a full pass without a setting
fails the channel; a switch takes the set point asked for, and its time-out gives the request up (R335, R341 to R344).
-/
def Obligations.MemSetpoints : Prop :=
  (∀ (c : Cmd) (s : State),
      (AtHand (.memSetpoint c) s → c.okBits 1 1 = true → s.mem.request = none → c.f 1 0 0 = s.mem.setpoint →
        (c.f 1 0 0 = 1 → s.dev.state = .blanket ∨ s.dev.state = .parasol) → Reads (.memSetpoint c) c s []) ∧
      (AtHand (.memSetpoint c) s → c.okBits 1 1 = true → s.mem.request = none → c.f 1 0 0 ≠ s.mem.setpoint →
        (c.f 1 0 0 = 1 → s.dev.state = .blanket ∨ s.dev.state = .parasol) → s.noSetting (c.f 1 0 0) = false →
        exec (.memSetpoint c) s = .next (report c (accept
          { taken c s with mem := { s.mem with request := some { target := c.f 1 0 0, requester := 1, t0 := s.now } } } .memSetpoint))) ∧
      (AtHand (.memRetrain c) s → c.okBits 1 (mask 4 0) = true → (s.chan (c.f 1 4 0)).state ≠ 0 → (s.chan (c.f 1 4 0)).state ≠ 3 →
        s.dev.state ≠ .parasol → (s.chan (c.f 1 4 0)).fullRuns = false → s.mem.request = none →
        exec (.memRetrain c) s = .next ((report c (accept (taken c s) (.memRetrain (c.f 1 4 0)))).beginFull (c.f 1 4 0) 1))) ∧
  (∀ (s : State) (ch ns : Nat) (m0 m1 : TrainMargins), ch < s.mem.chans.length →
      ((s.chan ch).state = 1 → (s.chan ch).pass = none → s.mem.request = none → s.mem.selfRefresh = false → s.dev.state ≠ .off →
        let u := s.advanceTo ((s.chan ch).trackAt + s.pget 0x0D000006 * 1000000)
        exec (.trackingPassTimer ch) s = .next (u.modChan ch (fun c => { c with
          trackAt := u.now, tracks := c.tracks + 1
          pass := some { kind := 0, other := (c.tracks.toNat + 1) % 16 == 0, steps := 0, cause := 0 } }))) ∧
      (∀ p, (s.chan ch).pass = some p → s.mem.selfRefresh = false → s.stallFits ns = true →
        p.steps < (if p.kind = 0 then 8 else 2048) →
        ∃ t, exec (.trainingStep ch ns none) s = .next t ∧ t.mem.stalls = s.mem.stalls + 1 ∧
          (t.chan ch).pass = some { p with steps := p.steps + 1 } ∧ (∀ b ∈ (t.chan ch).banks, b.openRow = none) ∧
          (∀ n, n ≠ ch → t.chan n = s.chan n) ∧
          ∀ m, exec (.trainingStep ch ns (some m)) s = .next (if p.kind = 0 then t.trackDone ch p (marginsOf m) else t)) ∧
      (s.mem.selfRefresh = false → s.stallFits ns = false → exec (.trainingStep ch ns none) s = .next s) ∧
      (s.stallFits ns = true ↔ ns + 10000 ≤ s.tim.ltrNow ∧ s.now + ns < s.mem.refreshAt + s.mem.refi) ∧
      (∀ p, (s.chan ch).pass = some p → p.kind = 1 → (if s.mem.setpoint = 0 then m0.ok else m1.ok) = false →
        exec (.fullRetrainingEnd ch m0 m1) s = .next ((((s.modChan ch (fun c => { c with
          pass := none, fulls := c.fulls + 1, lastFull := s.now })).failChannel ch 2).endRetrainJob ch stNoResource).evaluate)) ∧
      (∀ p, (s.chan ch).pass = some p → p.kind = 1 → (if s.mem.setpoint = 0 then m0.ok else m1.ok) = true →
        ∃ t, exec (.fullRetrainingEnd ch m0 m1) s = .next t ∧ (t.chan ch).pass = none ∧
          (t.chan ch).result = some (marginsOf m0, marginsOf m1) ∧ (t.chan ch).fulls = (s.chan ch).fulls + 1 ∧
          ∀ n, n ≠ ch → t.chan n = s.chan n) ∧
      (∀ r, s.mem.request = some r → (∀ c ∈ s.mem.chans, c.pass = none) → (s.mem.selfRefresh = true ∨ s.stallFits ns = true) →
        s.now < r.t0 + 50000000 →
        (s.noSetting r.target = false →
          ∃ t, exec (.setpointSwitch ns) s = .next t ∧ t.mem.setpoint = r.target ∧ t.mem.request = none ∧
            t.mem.stalls = s.mem.stalls + 1 ∧ t.mem.chans = s.mem.chans.map closeRows) ∧
        (s.noSetting r.target = true →
          ∃ t, exec (.setpointSwitch ns) s = .next t ∧ t.mem = { s.mem with request := none })) ∧
      (∀ r, s.mem.request = some r → ∃ t, exec .setpointTimeout s = .next t ∧ t.mem.request = none ∧ t.mem.setpoint = s.mem.setpoint))

/-- O29.  Banks: an activate opens its row and, in counted mode, counts it; a full queue holds the activate back; the
idle time closes the row; the 32 ms clear empties every table and no queue; a refresh window closes every row of a
working channel and executes at most two neighbour refreshes a bank; it leaves any other channel (R334, R336 to R339).
Errors: the scrubber takes the next codeword and counts a round once every working channel is read; a new round begins
no earlier than its span after the one before; a corrected read is counted and queued for write-back, or merged with a
writer's bytes and written with fresh check bytes; a write of the codeword drops its write-back; an uncorrectable read
is counted and acts by where the codeword lies, a critical basket with a good copy being read from there; a
temperature reading is kept, in OFF too (R28, R329, R331 to R334). -/
def Obligations.MemTraffic : Prop :=
  (∀ (s : State) (ch bank row : Nat), ch < s.mem.chans.length → bank < (s.chan ch).banks.length →
      (((s.chan ch).banks.getD bank {}).queue.length < 8 → s.pget 0x0D000001 ≠ 1 →
        ∃ t, exec (.bankActivate ch bank row) s = .next t ∧ ((t.chan ch).banks.getD bank {}).openRow = some row ∧
          (s.pget 0x0D000001 = 0 → ((t.chan ch).banks.getD bank {}).table = ((s.chan ch).banks.getD bank {}).table) ∧
          (s.pget 0x0D000001 = 2 → ((t.chan ch).banks.getD bank {}) =
            ({ (s.chan ch).banks.getD bank {} with openRow := some row, idle := s.pget 0x0D000005, at_ := s.now } : Bank).count row (s.pget 0x0D000003)) ∧
          (∀ n, n ≠ bank → (t.chan ch).banks.getD n {} = (s.chan ch).banks.getD n {}) ∧ ∀ n, n ≠ ch → t.chan n = s.chan n) ∧
      (((s.chan ch).banks.getD bank {}).queue.length < 8 → s.pget 0x0D000001 = 1 →
        ∃ t, exec (.bankActivate ch bank row) s = .next t ∧ ((t.chan ch).banks.getD bank {}).openRow = some row ∧
          (((t.chan ch).banks.getD bank {}).queue = ((s.chan ch).banks.getD bank {}).queue ∨
            ((t.chan ch).banks.getD bank {}).queue = ((s.chan ch).banks.getD bank {}).queue ++ [row]) ∧ t.free = s.free + 1) ∧
      (8 ≤ ((s.chan ch).banks.getD bank {}).queue.length →
        exec (.bankActivate ch bank row) s = .next (s.rowHeld ch bank)) ∧
      (∃ t, exec (.pageIdleTimeout ch bank) s = .next t ∧ ((t.chan ch).banks.getD bank {}).openRow = none ∧
        (∀ n, n ≠ bank → (t.chan ch).banks.getD n {} = (s.chan ch).banks.getD n {}) ∧ ∀ n, n ≠ ch → t.chan n = s.chan n) ∧
      (∃ t, exec .rowguardTableClear s = .next t ∧ (t.chan ch).banks.map (·.table) = (s.chan ch).banks.map (fun _ => []) ∧
        (t.chan ch).banks.map (·.queue) = (s.chan ch).banks.map (·.queue)) ∧
      (s.mem.selfRefresh = false → s.dev.state ≠ .off → (s.chan ch).state ≠ 1 →
        ∃ t, exec .refreshWindow s = .next t ∧ t.chan ch = s.chan ch) ∧
      (s.mem.selfRefresh = false → s.dev.state ≠ .off → s.mem.guardClear = false → (s.chan ch).state = 1 →
        ∃ t, exec .refreshWindow s = .next t ∧ (t.chan ch).banks.map (·.queue) = (s.chan ch).banks.map (fun b => b.queue.drop 2) ∧
          (∀ b ∈ (t.chan ch).banks, b.openRow = none) ∧ (t.chan ch).result = none ∧
          (∀ a b, (s.chan ch).result = some (a, b) → (t.chan ch).m0 = a ∧ (t.chan ch).m1 = b))) ∧
  (∀ (s : State) (ch bank addr : Nat) (cw : List Byte) (at_ : UePlace) (both : Bool) (reader : Option Nat) (merge : Option Merge)
      (temps : List Int),
      (s.mem.selfRefresh = false → s.mem.scrubOn = true →
        (∀ k ks, s.scrubLeft = k :: ks → (s.chan k).scrubbed + 1 < channelCodewords →
          exec .scrubTick s = .next (s.modChan k (fun c => { c with scrubbed := c.scrubbed + 1 }))) ∧
        (∀ k, s.scrubLeft = [k] → (s.chan k).scrubbed + 1 = channelCodewords →
          ∃ t, exec .scrubTick s = .next t ∧ t.mem.scrubs = s.mem.scrubs + 1 ∧ t.mem.scrubOn = false)) ∧
      (s.mem.selfRefresh = false → s.mem.scrubOn = false → s.workList ≠ [] →
        exec .scrubTick s = exec .scrubTick s.scrubBegin ∧ s.mem.scrubAt + s.mem.scrubNs ≤ s.scrubBegin.now ∧
          s.scrubBegin.mem.scrubOn = true ∧ s.scrubBegin.mem.scrubNs = s.pget 0x0D000009 * 3600000000000 ∧
          ∀ c ∈ s.scrubBegin.mem.chans, c.scrubbed = 0) ∧
      (∀ f fs, rsDecode (cwNats cw) = some (f :: fs) →
        ∃ t, exec (.correctedRead ch bank addr cw merge) s = .next t ∧ t.mem.ce = s.mem.ce + 1 ∧ t.mem.ue = s.mem.ue ∧
          let data := (rsApply (f :: fs) (cwNats cw)).take 64
          match merge with
          | none => t.mem.writebacks = s.mem.writebacks ++ [{ ch := ch, bank := bank, addr := addr, data := data }]
          | some m => Out.dram ch bank 0 (addr :: rsEncode (mergeUnit data m)) ∈ t.out ∧
              t.mem.writebacks = s.mem.writebacks.filter (fun w => !(w.ch == ch && w.bank == bank && w.addr == addr))) ∧
      (∀ w, s.mem.writebacks.find? (fun w => w.ch == ch && w.bank == bank) = some w →
        ∃ t, exec (.correctedWriteback ch bank) s = .next t ∧ Out.dram ch bank 0 (w.addr :: rsEncode w.data) ∈ t.out ∧
          t.mem.writebacks = s.mem.writebacks.filter (fun x => !(x.ch == ch && x.bank == bank && x.addr == w.addr))) ∧
      (rsDecode (cwNats cw) = none →
        let u := ((((s.countUe ch).touch ch bank).mergeBad ch bank addr cw merge).ueOutcome ch at_ both reader)
        exec (.uncorrectableRead ch bank addr at_ both reader cw merge) s =
          .next (if u.pget 0x0D000008 ≤ (u.chan ch).ueReads.length then u.beginFull ch 3 else u)) ∧
      (s.countUe ch).mem.ue = s.mem.ue + 1 ∧
      (∀ o i x b, s.obj? o = some x → s.basket? o i = some b → b.cls = 0 → b.lastCopy ch = false →
        s.ueOutcome ch (.object o i) false reader = s.memUe o ch 0 1) ∧
      (s.dev.state ≠ .off →
        let doubled := if s.mem.doubled then (padTo (0 : Int) 8 temps).any (fun t => decide (82 < t)) else (padTo (0 : Int) 8 temps).any (fun t => decide (85 < t))
        ∃ u : State, exec (.dramTemperatureRead temps) s = .next u.thermalUpdate ∧
          u.mem = { s.mem with temps := padTo (0 : Int) 8 temps, doubled := doubled } ∧ u.pwr = s.pwr ∧ u.dev = s.dev) ∧
      (s.dev.state = .off →
        ∃ t, exec (.dramTemperatureRead temps) s = .next t ∧ t.mem = { s.mem with temps := padTo (0 : Int) 8 temps } ∧
          t.pwr = { s.pwr with tmax := t.tempMax.1, tsource := t.tempMax.2 } ∧ t.dev = s.dev))

/-- O30.  In counted mode a row whose count reaches the threshold is scheduled for a neighbour refresh and counts from
0 again; below it the count rises by one and nothing is scheduled (R337). -/
def Obligations.RowCounted : Prop :=
  ∀ (b : Bank) (row threshold n : Nat), b.table.find? (fun x => x.row == row) = some { row := row, count := n } → 0 < threshold →
    (threshold ≤ n + 1 → (b.count row threshold).queue = b.queue ++ [row] ∧
      (b.count row threshold).table.find? (fun x => x.row == row) = some { row := row, count := 0 }) ∧
    (n + 1 < threshold → (∀ x ∈ b.table, x.row = row → x.count = n) → (b.count row threshold).queue = b.queue ∧
      (b.count row threshold).table.find? (fun x => x.row == row) = some { row := row, count := n + 1 })

/-! ### Power and temperature -/

/-- O31.  Sag stages: a sample of the 48 sites moves the stage by R413; SUPPLY_WARN_N low brings at least stage 4, and
its rise restarts the dwell (R412, R413). -/
def Obligations.SagStages : Prop :=
  ∀ (s : State) (vcore pace : List Nat),
    (s.dev.state ≠ .off → (s.domain 46).st = 2 →
      let sites := pushSites s.pwr.sites vcore pace
      let u := s.advanceTo (s.pwr.sagAt + 10000)
      exec (.sagSample vcore pace) s = .next (u.modPwr (fun p => { p with
        sites := sites, sagAt := u.now
        input := (lowest (sites.map (fun x => meanN x.vcore)) 0).1
        inputMon := (lowest (sites.map (fun x => meanN x.vcore)) 0).2 })).sagStep) ∧
    (∀ mv, sagLevel mv = countP (fun k => decide (mv < sagThreshold (k + 1))) (List.range 6)) ∧
    (s.pwr.warnLow = false →
      let u := (s.modPwr (fun p => { p with warnLow := true, warnFalls := p.warnFalls + 1, above := none })).stopSelfTest 4 3
      exec .supplyWarnNFall s = .next (if u.pwr.stage < 4 then u.setStage 4 2 else u)) ∧
    (s.pwr.warnLow = true → exec .supplyWarnNRise s = .next (s.modPwr (fun p => { p with warnLow := false, above := none })))

/-- O32.  The stage rises at once and falls one step at a time, once its input has stood 10 mV above its threshold for
200 µs; a sample below that begins the time anew; SUPPLY_WARN_N low asks for stage 4 at least (R412, R413). -/
def Obligations.SagDwell : Prop :=
  ∀ s : State,
    (s.pwr.warnLow = false →
      (s.pwr.stage < sagLevel s.pwr.input → s.sagStep = s.setStage (sagLevel s.pwr.input) 1) ∧
      (sagLevel s.pwr.input ≤ s.pwr.stage → 0 < s.pwr.stage → s.pwr.stage < 6 →
        (s.pwr.input < sagThreshold s.pwr.stage + 10 → s.sagStep = s.modPwr (fun p => { p with above := none })) ∧
        (sagThreshold s.pwr.stage + 10 ≤ s.pwr.input → (∀ t, s.pwr.above = some t → s.now < t + 200000) →
          s.sagStep = s.modPwr (fun p => { p with above := some (p.above.getD s.now) })) ∧
        (∀ t, sagThreshold s.pwr.stage + 10 ≤ s.pwr.input → s.pwr.above = some t → t + 200000 ≤ s.now →
          s.sagStep = s.setStage (s.pwr.stage - 1) 3)) ∧
      (sagLevel s.pwr.input ≤ s.pwr.stage → s.pwr.stage = 6 → s.sagStep = s.modPwr (fun p => { p with above := none }))) ∧
    (s.pwr.warnLow = true → s.pwr.stage < 4 → sagLevel s.pwr.input < 4 → s.sagStep = s.setStage 4 2) ∧
    (s.pwr.warnLow = true → s.pwr.stage = 4 → sagLevel s.pwr.input ≤ 4 → s.sagStep = s.modPwr (fun p => { p with above := none }))

/-- O33.  The voltage loop: a period with a good exchange sets v as R415 computes it, from the floor to the ceiling; a
failed exchange freezes the loop, and a good one later thaws it; an alert is read and reported (R414 to R416).
Telemetry reads every regulator with an address; a good reading is kept with its time. A thermal sample keeps every
sensor's reading; in OFF nothing else. A THERMTRIP shutdown that has not ended after 1 s trips; compensations are
counted (R417 to R422). -/
def Obligations.PowerRegulation : Prop :=
  (∀ (s : State) (r : PmbRead) (status : Nat),
      (s.avsRuns = true → s.pwr.frozen = false → pmbDead r.fail r.times = false → r.linear16 = true →
        ∃ t, exec (.avsTick r) s = .next t ∧ s.pwr.avsAt + s.pget 0x13000006 * 1000 ≤ t.now ∧ t.pwr.v = s.avsNext ∧ s.avsFloor ≤ t.pwr.v ∧ t.pwr.v ≤ s.avsCeiling ∧
          t.pwr.vRead = r.vout ∧ t.pwr.frozen = false) ∧
      (s.avsRuns = true → s.pwr.frozen = false → (pmbDead r.fail r.times = true ∨ r.linear16 = false) →
        ∃ t, exec (.avsTick r) s = .next t ∧ t = (s.avsWait (s.pget 0x13000006 * 1000) r).avsFreeze r ∧ t.pwr.frozen = true ∧
          t.pwr.v = s.pwr.v) ∧
      (s.avsRuns = true → s.pwr.frozen = true → pmbDead r.fail r.times = false → r.linear16 = true →
        ∃ t, exec (.avsRetry r) s = .next t ∧ t.pwr.frozen = false ∧ t.pwr.v = s.pwr.v ∧ t.pwr.vRead = r.vout) ∧
      (s.avsRuns = true → s.pwr.frozen = true → (pmbDead r.fail r.times = true ∨ r.linear16 = false) →
        exec (.avsRetry r) s = .next ((s.avsWait 1000000000 r).avsFreeze r)) ∧
      (s.dev.state ≠ .off → exec (.pmbAlertNFall status) s = .next ((s.emit (.pmbus s.avsAddr 0x03 0)).pwrAvs 3 s.avsAddr status))) ∧
  (∀ (s : State) (reads : List PmbRail) (temps : List Int) (n k : Nat) (r : PmbRail),
      (s.dev.state ≠ .off → 
        let u := s.advanceTo (s.pwr.teleAt + 100000000)
        exec (.telemetryTick reads) s = .next ((u.modPwr (fun p => { p with teleAt := u.now })).teleAll 0 (reads.take 8))) ∧
      (pmbDead r.fail r.times = false → s.teleAddr k ≠ 0 → k < s.pwr.rails.length →
        (s.teleOne k r).pwr.rails.getD k {} = { mv := r.mv, cur := r.cur, temp := r.temp, status := r.status, t := some s.now } ∧
          ∀ m, m ≠ k → (s.teleOne k r).pwr.rails.getD m {} = s.pwr.rails.getD m {}) ∧
      (s.dev.state = .off → temps.length = 32 → n < 32 →
        ∃ t, exec (.thermalSample temps) s = .next t ∧ (t.pwr.sensors.getD n {}).t = temps.getD n 0 ∧ t.pwr.level = s.pwr.level ∧
          t.pwr.tmax = t.tempMax.1 ∧ t.dev = s.dev) ∧
      (s.dev.state ≠ .off →
        let u₁ := s.advanceTo (s.pwr.thermAt + 1000000)
        let u₀ := u₁.modPwr (fun p => { p with thermAt := u₁.now })
        let first := s.dev.state == .boot && (s.start.cal.getD 1 {}).result == 0
        let v := if hotTwice s.pwr.sensors (temps.take 32) then u₀.trip else u₀
        let u := (if first then v.calRun 2 true else v).sensorAll (temps.take 32) first 0 (temps.take 32)
        let w := (if 2 ≤ u.pwr.level then u.modPwr (fun p => { p with throttleMs := p.throttleMs + 1 }) else u).thermalUpdate
        exec (.thermalSample temps) s = .next (
          if countP (fun x => x.excluded) s.pwr.sensors < 4 ∧ 4 ≤ countP (fun x => x.excluded) w.pwr.sensors then w.safeByFault else w)) ∧
      (s.dev.state = .shutdown → s.start.shutReason = 5 →
        exec .thermtripShutdownTimeout s = .next (s.advanceTo (s.start.shutAt + 1000000000)).trip ∧
          (s.advanceTo (s.start.shutAt + 1000000000)).trip.pwr.tripLow = true) ∧
      (s.dev.state ≠ .off → 
        let u := s.advanceTo (s.pwr.compAt + 100000000)
        exec (.tempCompensationTick n) s = .next (u.modPwr (fun p =>
          { p with compAt := u.now, corrections := p.corrections + BitVec.ofNat 32 n }))))

/-- O34.  Power domains: the lowest domain that waits begins UP at least 20 µs after the one before; a domain ends UP
powered, or on its way down where its enable fell meanwhile; it ends DOWN off, and pending again where its enable
rose; a transition that exceeds its maximum fails the domain (R409 to R411). -/
def Obligations.PowerDomains : Prop :=
  ∀ (s : State) (d fail : Nat), 1 ≤ d →
    (∀ w, w = s.powerSync.upRequests →
      ((List.range 50).map (· + 1)).find? (fun n => (w.domain n).wantUp && (w.domain n).st == 0 && !w.testBlocks n) = some d →
      ∃ t, exec .domainUpStart s = .next t ∧ (t.domain d).st = 1 ∧ (t.domain d).wantUp = false ∧ t.pwr.lastUp = some t.now ∧
        ∀ u, w.pwr.lastUp = some u → u + 20000 ≤ t.now) ∧
    ((s.domain d).st = 1 → s.domainLate d = false → (upSteps d).contains fail = false → d ≤ s.pwr.domains.length →
      ∃ u : State, exec (.domainUpComplete d fail) s = .next (if d = 31 then u.monBegin (if s.tim.monState = 2 then 5 else 4) else u) ∧
        (u.domain d).st = (if (s.domain d).held = some false then 3 else 2) ∧ (u.domain d).held = none ∧
        ∀ n, 1 ≤ n → n ≠ d → u.domain n = s.domain n) ∧
    ((s.domain d).st = 1 → s.domainLate d = false → (upSteps d).contains fail = true → fail ≠ 4 → fail ≠ 5 → fail ≠ 8 →
      exec (.domainUpComplete d fail) s = .next
        (((((upSteps d).foldl (fun s k => s.calRun k (k != fail)) s).calFail fail d (if domainCritical d then 5 else 1)).pwrDomain d 1).failDomain d)) ∧
    ((s.domain d).st = 1 → s.domainLate d = false → (upSteps d).contains fail = true → (fail = 4 ∨ fail = 5 ∨ fail = 8) →
      let u := ((upSteps d).foldl (fun s k => s.calRun k (k != fail)) s).calFail fail d (if fail = 8 then 1 else 3)
      let w := if fail = 8 then u.stopSelfTest 4 3 else u
      exec (.domainUpComplete d fail) s = .next (w.modDomain d (fun x =>
        if x.held = some false then { x with st := 3, held := none, since := w.now } else { x with st := 2, held := none, since := w.now }))) ∧
    ((s.domain d).st = 1 → s.domainLate d = true → exec (.domainUpComplete d fail) s = .next ((s.pwrDomain d 1).failDomain d)) ∧
    ((s.domain d).st = 3 → s.domainLate d = true → exec (.domainDownComplete d) s = .next ((s.pwrDomain d 2).failDomain d)) ∧
    ((s.domain d).st = 3 → s.domainLate d = false → exec (.domainDownComplete d) s =
      .next (s.modDomain d (fun x => { x with st := 0, wantUp := x.held == some true, held := none }))) ∧
    (∀ m, (s.domain d).st = 1 → upMax d = some m →
      exec (.domainTransitionTimeout d) s = .next (((s.advanceTo ((s.domain d).since + m + 1)).pwrDomain d 1).failDomain d)) ∧
    (∀ m, (s.domain d).st = 3 → downMax d = some m →
      exec (.domainTransitionTimeout d) s = .next (((s.advanceTo ((s.domain d).since + m + 1)).pwrDomain d 2).failDomain d))

/-! ### Start, self-test, shutdown -/

/-- O35.  PORST_N low holds the device in OFF with its outputs low and keeps what VAON, the fuses and the flash hold;
its rise samples the straps and enters BOOT; VAON's return clears its counter and asks for a full start; the counter
counts (R24, R450, R451). -/
def Obligations.PowerOnReset : Prop :=
  ∀ (s : State) (sideB : Bool) (strap : Nat),
    (∃ t, exec .porstNAssert s = .next t ∧ t.dev.state = .off ∧ t.start.porLow = true ∧ t.saf.safeStateLow = true ∧
      t.start.aon = s.start.aon ∧ t.start.recA = s.start.recA ∧ t.start.recB = s.start.recB ∧ t.dev.serial = s.dev.serial ∧
      t.host.jobs = [] ∧ Out.pin "SAFE_STATE_N" false ∈ t.out) ∧
    (s.start.porLow = true →
      ∃ t, exec (.porstNRelease sideB strap) s = .next t ∧ t.dev.state = .boot ∧ t.dev.sideB = sideB ∧
        t.start.strapBoot = strap % 4 ∧ t.start.porLow = false ∧ t.saf.safeStateLow = false ∧ t.start.aon = s.start.aon ∧
        Out.pin "SAFE_STATE_N" true ∈ t.out) ∧
    (s.start.porLow = false → exec (.porstNRelease sideB strap) s = .next s) ∧
    exec .vaonPowerOn s = .next { s with start := { s.start with aon := 0, forceFull := true } } ∧
    exec .aonCounterTick s = .next { s with start := { s.start with aon := s.start.aon + 1 } }

/-- O36.  Start-up: the first valid slot in the order of the straps runs, recovery where none is valid; a channel that
trains joins the pool and one that does not is FAILED; synthesis start-up ends, the safety core's start checks pass;
each may bring the next state of Table 1.4 (R66, R141, R340, R428, R454). Self-test: the record's header is programmed
before any domain is tested; every condition sample is kept, and one outside R462 stops the test; a service request
ends the test of its domain and powers it up (R465); a domain's result compares signature and count with the fuses,
and a failed one is FAILED after BOOT's test. SHUTDOWN is accepted, and the device enters SHUTDOWN (R28, R462 to
R464). -/
def Obligations.StartUpRuns : Prop :=
  (∀ (s : State) (r0 r1 : SlotRead) (ch n : Nat) (m0 m1 : TrainMargins),
      (s.dev.state = .boot → s.dev.fwReady = false → s.bootOrder.find? (fun n => (if n = 0 then r0 else r1).cause == 0) = some n →
        exec (.firmwareLoadComplete r0 r1) s = .next (s.bootFirmware n (if n = 0 then r0 else r1).version
          ((s.bootOrder.takeWhile (fun n => (if n = 0 then r0 else r1).cause != 0)).map (fun n => (n, (if n = 0 then r0 else r1).cause))))) ∧
      (s.dev.state = .boot → s.dev.fwReady = false → s.bootOrder.find? (fun n => (if n = 0 then r0 else r1).cause == 0) = none →
        exec (.firmwareLoadComplete r0 r1) s = .next (s.bootRecovery
          ((s.bootOrder.takeWhile (fun n => (if n = 0 then r0 else r1).cause != 0)).map (fun n => (n, (if n = 0 then r0 else r1).cause))))) ∧
      (ch < 32 → s.mem.chans.length = 32 → (s.chan ch).state = 0 → s.dev.state ≠ .off →
        ∃ u : State, exec (.channelTrainingComplete ch m0 m1) s = .next u.evaluate ∧
          (u.chan ch).state = (if m0.ok || m1.ok then 1 else 3) ∧ (u.chan ch).m0 = marginsOf m0 ∧ (u.chan ch).m1 = marginsOf m1 ∧
          ∀ k, k ≠ ch → u.chan k = s.chan k) ∧
      (s.start.synth = 1 → exec .synthesisStartupComplete s =
        .next ((({ s with start := { s.start with synth := 2 } } : State).milestone 6).evaluate)) ∧
      (s.dev.state = .boot → exec .smcStartChecksPass s = .next { s with saf := { s.saf with smcOk := true } })) ∧
  (∀ (s : State) (c : Cmd) (x : SelfTest) (clk vMin vMax d sig count : Nat),
      (s.start.selftest = some x → x.header = false →
        ∃ t, exec .recordSectorProgrammed s = .next t ∧
          t.start.selftest = some { x with header := true, running := phaseDomains ((testOrder x.occasion).getD 0 0) } ∧
          t.start.rec_ x.sectorB = some (s.newRecord x.occasion) ∧ t.start.rec_ (!x.sectorB) = s.start.rec_ (!x.sectorB)) ∧
      (s.start.selftest = some x → x.header = true →
        let u : State := { s with start := { s.start with selftest := some { x with
          clkMin := lowOf x.clkMin clk, clkMax := Nat.max x.clkMax clk, vMin := lowOf x.vMin vMin, vMax := Nat.max x.vMax vMax } } }
        ((s.domain 48).st = 2 → 5700 ≤ clk → clk ≤ 6300 → 780 ≤ vMin → vMax ≤ 820 → s.pwr.warnLow = false →
          exec (.selftestConditionCheck clk vMin vMax) s = .next u.serveCore) ∧
        (((s.domain 48).st ≠ 2 ∨ clk < 5700 ∨ 6300 < clk ∨ vMin < 780 ∨ 820 < vMax ∨ s.pwr.warnLow = true) →
          exec (.selftestConditionCheck clk vMin vMax) s = .next (u.stopSelfTest 4 3))) ∧
      (s.start.selftest = some x → x.running.contains d = true →
        let result := if count < Config.fullCount d then 3 else if sig = Config.fusedSignature d then 1 else 2
        ∃ u : State, exec (.selftestDomainComplete d sig count) s = .next ((if result = 2 ∧ x.occasion = 2 then u.failDomain d else u).nextPhase) ∧
          u.start.selftest = some { x with running := x.running.filter (· != d) } ∧ u.pwr = s.pwr ∧ u.dev = s.dev) ∧
      (s.start.selftest = some x → x.running.contains d = true →
        ∃ u : State, s.serviceRequest d = (u.modDomain d (Domain.request u.now true)).nextPhase ∧ u.now = s.now ∧
          u.start.selftest = some { x with running := x.running.filter (· != d) } ∧ u.start.served = d :: s.start.served) ∧
      (s.start.selftest = some x → x.running.contains d = false → s.serviceRequest d = s) ∧
      (AtHand (.shutdown c) s → c.okBits 1 1 = true → s.start.selftest = none →
        let u := report c (accept (taken c s) .shutdown)
        exec (.shutdown c) s = .next ((({ u with start := { u.start with shutTest := c.f 1 0 0 == 0 } } : State).enter .shutdown 2).shutdownStep)))

/-! ### Functional safety and the pair -/

/-- O37.  SAFETY_CLEAR drops the latch where no latched condition holds; SAFETY_TEST begins a test in SERVICE outside
instrument mode, and its end reports whether the injected fault was found within the detection time (R430, R433).
Safety mechanisms: a lockstep mismatch, a parity error and the processor's watchdog enter SAFE from every state but
OFF; a probe outside its tolerances does in instrument mode and is reported elsewhere; the heartbeat's loss is
reported and a changing write ends it; SMC_ALIVE counts while the core is well (R428, R431, R434, Table 18.2). -/
def Obligations.SafetyMonitor : Prop :=
  (∀ (c : Cmd) (s : State) (t : SafetyTest) (h : SafetyHit),
      (AtHand (.safetyClear c) s → s.dev.state ≠ .safe → s.safetyHolds = false →
        ∃ u, exec (.safetyClear c) s = .next u ∧ u.saf = { s.saf with latch := false } ∧ u.dev = s.dev) ∧
      (AtHand (.safetyTest c) s → s.dev.state = .service → s.instrument = false → c.okBits 1 0xFF = true →
        c.f 1 7 0 ∈ [5, 7, 8, 9, 12, 17] → s.saf.test = none →
        exec (.safetyTest c) s = .next (report c (accept
          { taken c s with saf := { s.saf with test := some { job := s.host.nextJob, mech := c.f 1 7 0, t0 := s.now } } } .safetyTest))) ∧
      (s.saf.test = some t → (s.job? t.job).isSome = true →
        (∃ u, exec (.safetyTestCompletion none) s = .next u ∧ u.saf.test = none ∧ u.job? t.job = none) ∧
        (∃ u, exec (.safetyTestCompletion (some h)) s = .next u ∧ u.saf.test = none ∧ u.job? t.job = none ∧ u.dev = s.dev))) ∧
  (∀ (s : State) (v : BitVec 32) (ps : List RayProbe),
      (s.dev.state ≠ .off →
        exec .fabricParityError s = .next (s.safetyFault 3 0xFF) ∧ exec .controlProcessorWatchdog s = .next (s.safetyFault 2 0xFF) ∧
        (s.saf.safeStateLow = true → exec .lockstepMismatch s =
          .next ((s.modSaf (fun x => { x with lockstepFail := true, safeStateLow := true })).safetyFault 1 0xFF)) ∧
        (s.saf.safeStateLow = false → exec .lockstepMismatch s =
          .next (((s.modSaf (fun x => { x with lockstepFail := true, safeStateLow := true })).emit (.pin "SAFE_STATE_N" false)).safetyFault 1 0xFF))) ∧
      (s.dev.state.run = true →
        ((∀ k < 48, ∀ p ∈ s.probesOf ps k, s.probeOk p = true) →
          ∃ u, exec (.rayProbeComplete ps) s = .next u ∧ u.free = s.free + 1 ∧ u.dev = s.dev ∧ u.ev = s.ev) ∧
        (s.instrument = false → ∃ u, exec (.rayProbeComplete ps) s = .next u ∧ u.dev = s.dev ∧ u.free = s.free + 1) ∧
        (∀ k p, s.instrument = true → k < 48 → p ∈ s.probesOf ps k → s.probeOk p = false →
          ∃ u, exec (.rayProbeComplete ps) s = .next u ∧ u.dev.state = .safe)) ∧
      (s.dev.state ≠ .off → s.saf.hostHb ≠ v →
        exec (.hostHbWrite v) s = .next (s.modSaf (fun x => { x with hostHb := v, hbLost := false, hbAt := s.now }))) ∧
      (s.dev.state ≠ .off → s.pget 0x14000002 ≠ 0 → s.saf.hbLost = false →
        ∃ u, exec .hostHbTimeout s = .next u ∧ u.saf.hbLost = true ∧ u.saf.latch = true ∧
          s.saf.hbAt + s.pget 0x14000002 * 1000000 ≤ u.now) ∧
      (s.saf.smcOk = true → s.saf.lockstepFail = false →
        let u := s.advanceTo (s.saf.aliveAt + 1000000)
        exec .smcAliveTick s = .next (u.modSaf (fun x => { x with alive := x.alive + 1, aliveAt := u.now }))))

/-- O38.  SAFE is entered with SAFE_STATE_N low: the device state is SAFE after a safety fault from every state but
OFF, no mode change or COMMIT is pending, and no region update is left (R59, R312, R428). -/
def Obligations.SafeEntered : Prop :=
  ∀ (s : State) (cause unit_ : Nat), s.dev.state ≠ .off → s.dev.state ≠ .safe →
    let t := s.safetyFault cause unit_
    t.dev.state = .safe ∧ t.saf.safeStateLow = true ∧ t.saf.latch = true ∧ t.tim.on = false ∧ t.tim.change = none ∧
      t.panel.regions = [] ∧ t.par.commit = none

/-- O39.  The cross-link: STATE is sent while it holds its lock, a received one is taken and the grid, the offset and
the roles follow it, silence brings it down; a LEDGER is taken by the side that does not own the tiles (R310, R437 to
R440). -/
def Obligations.CrossLink : Prop :=
  ∀ (s : State) (m : XState) (frame sf epoch : Nat) (settled : Bool) (r : LedgerRow), s.dev.pairCfg = true →
    (s.pair.xlock = true →
      let w := s.advanceTo (s.pair.sentAt + 100000)
      let u := (w.modPair (fun p => { p with digest := w.pairDigest, sentAt := w.now })).refreshReady
      exec .xlinkStateSend s = .next (u.emit (.xlink 1 u.stateWords))) ∧
    ((s.domain 44).st = 2 →
      let u := ((((((s.xlinkGo true 3).modPair (fun p => { p with
        xlock := true, partnerRole := m.role, partnerState := m.devState, partnerReady := m.ready, partnerDigest := m.digest
        epochSeen := Nat.max p.epochSeen m.epoch, gridErr := m.gridErr })).followGrid m.gridErr).fixD m).modPair (fun p =>
          { p with stateAt := s.now })).joinRoles).refreshReady
      let w := u.modPair (fun p => { p with rankAt := if u.ranksAbove then some (p.rankAt.getD u.now) else none })
      exec (.xlinkState m) s = .next (match w.pair.switch with
        | some x => if !x.toUs && !m.ready then w.dropPlanned else w
        | none => w)) ∧
    (s.pair.xlink = 2 → exec .xlinkStateTimeout s = .next ((s.advanceTo (s.pair.stateAt + 1000000)).xlinkDown 1)) ∧
    (s.owns = false → r.tile < s.panel.tiles.length →
      ∃ u, exec (.ledger frame sf settled [r]) s = .next u ∧ (u.tile r.tile).l0 = r.l0 ∧ (u.tile r.tile).l1 = r.l1 ∧
        (u.tile r.tile).drive = (if settled then none
          else some { frame := frame % 2 ^ 32, sf := sf % 256, k := 0, dl0 := r.dl0, dl1 := r.dl1 }) ∧ ∀ n, n ≠ r.tile → u.tile n = s.tile n) ∧
    ((s.domain 44).st = 2 →
      let u := s.modPair (fun p => { p with xlock := true, epochSeen := Nat.max p.epochSeen epoch, stateAt := s.now })
      exec (.hello epoch) s = .next ((u.emit (.xlink 3 [u.pair.epochSeen])).xlinkGo true 3))

/-- O40.  Ownership: PAIR_CTRL begins a planned switchover of an owner whose partner is ready, and lifts a yield; a
HANDOVER of kind 2 is claimed at once by a ready side, of kinds 1 and 4 it is announced; the time-outs of joining and
of the witness claim where R445 lets them; the degrade timer begins a switchover towards the better side; the new
owner claims 20 µs after its boundary (R438, R442, R445, Table 18.11). -/
def Obligations.Ownership : Prop :=
  ∀ (c : Cmd) (s : State) (kind epoch : Nat) (w : Switch) (b : Nat), s.dev.pairCfg = true →
    (AtHand (.pairCtrl c) s → c.okBits 1 0xFF = true → c.f 1 7 0 = 3 →
      exec (.pairCtrl c) s = .next (report c {
        s := { taken c s with pair := { s.pair with yielded := false } }
        a := { status := if s.pair.yielded then stOk else stWarn } })) ∧
    (AtHand (.pairCtrl c) s → c.okBits 1 0xFF = true → (c.f 1 7 0 = 1 ∨ c.f 1 7 0 = 2) → s.pair.partnerReady = true →
      s.pair.role ≠ 3 → s.pair.switch = none → s.owns = true →
      exec (.pairCtrl c) s = .next (report c (accept
        (((taken c s).modPair (fun p => { p with yielded := p.yielded || c.f 1 7 0 == 2 })).beginSwitch 1 false (c.f 1 7 0 == 2)) .pairCtrl))) ∧
    (s.pair.xlink = 2 →
      let u := s.modPair (fun p => { p with epochSeen := Nat.max p.epochSeen epoch })
      (u.pair.role = 2 → u.readyNow = true →
        exec (.handover 2 epoch) s = .next (u.claimBy 2 u.now 2) ∧
        ((kind = 1 ∨ kind = 4) → s.pair.switch = none → exec (.handover kind epoch) s = .next (u.beginSwitch kind true false))) ∧
      ((u.pair.role ≠ 2 ∨ u.readyNow = false) → exec (.handover kind epoch) s = .next u)) ∧
    (s.pair.role = 0 → s.dev.state.joins = true → s.pair.xlink ≠ 2 → s.pair.yielded = false →
      let u := (s.advanceTo (s.pair.aloneAt + s.pget 0x15000003 * 1000000)).modPair (fun p => { p with joinExpired := true })
      let up := s.link.ports.filter (fun p => p.state == 5)
      exec .pairJoinTimeout s = .next (if !up.isEmpty && up.all (fun p => p.owner == 0) then u.claimBy 3 u.now 1 else u)) ∧
    (s.pair.xlink ≠ 2 → s.pair.yielded = false → s.dev.state.joins = true →
      let u := s.witnessWait
      (s.pair.role = 2 → exec .witnessTimeout s = .next (u.claimBy 3 u.now 2)) ∧
      (s.pair.role = 0 → s.pair.joinExpired = true → exec .witnessTimeout s = .next (u.claimBy 3 u.now 1)) ∧
      (∀ p, p ∈ s.link.ports → p.state = 5 → p.owner ≠ 0 →
        s.pair.advancedAt + ceilDiv 1000000000 (s.tim.fps * s.tim.sCount) + 2000000 ≤ u.now)) ∧
    (∀ t, s.pget 0x15000004 = 1 → s.pair.switch = none → s.pair.rankAt = some t → s.pair.role = 1 → s.pair.partnerReady = true →
      stateRank s.dev.state.code < stateRank s.pair.partnerState →
      exec .autoDegradeTimer s = .next ((s.advanceTo (t + 1000000000)).beginSwitch 4 false false)) ∧
    (s.pair.switch = some w → w.bound = some b → w.toUs = true → w.stage = 1 →
      exec .switchoverClaim s = .next ((s.advanceTo (b + 20000)).claimBy w.kind w.t0 2))

/-! ### Scenes -/

/-- O41.  Scene commands: SCENE_OPEN takes the lowest free slot and its space; SCENE_SUBMIT queues its buffer; a close
without DRAIN ends at once; a buffer that has been read ends its SCENE_SUBMIT, with WARN where a packet of it was
discarded; a drained scene is closed; a silent scene is reported once, at the time that `scene.silence_ms` gives (R92,
R102 to R104). -/
def Obligations.SceneCommands : Prop :=
  ∀ (c : Cmd) (s : State) (x : Scene) (n j : Nat) (k : Carrier) (rest : List Carrier),
    (AtHand (.sceneOpen c) s → c.okBits 1 (mask 127 32) = true → c.f 1 127 120 ≤ 1 → 1 ≤ c.f 1 119 112 → c.f 1 119 112 ≤ 32 →
      1 ≤ c.f 1 111 104 → c.f 1 111 104 ≤ 4 → c.f 1 103 96 = 0 → c.f 1 63 32 = 0 → 64 ≤ c.f 1 95 80 → c.f 1 95 80 ≤ 8192 →
      64 ≤ c.f 1 79 64 → c.f 1 79 64 ≤ 4320 → n < 4 → s.scene? n = none → (∀ m, m < n → (s.scene? m).isSome = true) →
      sceneNeed (c.f 1 119 112) (c.f 1 111 104) (c.f 1 95 80) (c.f 1 79 64) 0 0 0 ≤ s.freeBaskets →
      pairsFit (s.pkgFree s.usage) 1 = true →
      ∃ t, exec (.sceneOpen c) s = .next t ∧
        t.ingest.scenes = s.ingest.scenes ++ [{ slot := n, obj := s.nextId 1, source := c.f 1 127 120, maxAnchors := c.f 1 119 112
                                                maxLayers := c.f 1 111 104, maxOvl := 0, maxW := c.f 1 95 80, maxH := c.f 1 79 64
                                                ovlW := 0, ovlH := 0 }]) ∧
    (AtHand (.sceneSubmit c) s → s.sceneOf c.object.toNat = some x → c.okBits 1 (mask 63 0) = true → c.okBits 2 (mask 31 0) = true →
      c.f 1 3 0 = 0 → c.f 2 31 0 % 16 = 0 → 16 ≤ c.f 2 31 0 → x.source = 0 → x.state = 0 →
      countP (fun (j : Job) => j.submits x.obj) s.host.jobs < 256 →
      exec (.sceneSubmit c) s = .next (report c (accept ((taken c s).modScene x.slot (fun y =>
        { y with carriers := y.carriers ++ [{ len := c.f 2 31 0, job := some s.host.nextJob }] })) (.sceneSubmit x.slot)))) ∧
    (AtHand (.sceneClose c) s → s.sceneOf c.object.toNat = some x → c.okBits 1 1 = true → c.f 1 0 0 = 1 → x.state ≠ 2 →
      ∃ t, exec (.sceneClose c) s = .next t ∧ t.job? s.host.nextJob = none ∧
        ∀ d ∈ t.dec.streams, d.id.slot = x.slot → d.queue = [] ∧ d.running = none ∧ d.queued = none) ∧
    (s.scene? n = some x → x.carriers = k :: rest → k.job = some j → k.len ≤ k.off →
      exec (.sceneSubmitCompletion n) s = .next (((s.modScene n (fun y => { y with carriers := rest })).endJob j
        (if k.discarded = 0 then stOk else stWarn) k.words).drainClose n)) ∧
    (s.scene? n = some x → x.drainJob = some j → x.state = 1 → x.carriers = [] → x.waiting = [] → x.queue = [] →
      exec (.sceneCloseDrainComplete n) s = .next ((s.modScene n (fun y => { y with state := 2, drainJob := none })).endJob j stOk [])) ∧
    (s.scene? n = some x → x.state = 0 → x.heard = true → x.silent = false →
      let u := (s.advanceTo (x.lastPkt + s.pget 0x03000004 * 1000000)).modScene n (fun y => { y with silent := true })
      exec (.sceneSilenceTimeout n) s = .next (u.raise 3 7 2 (x.lastNum * 2 ^ 32 + s.pget 0x03000004) (n * 2 ^ 40)))

/-- O42.  R71: the first failed check of 1 to 6 decides. Framing lost: the carrier is read to its end; another check:
the carrier is read past the packet. Either way the packet is counted as discarded, and reported. Of every packet. -/
def Obligations.PacketChecks : Prop :=
  ∀ (p : Pkt) (s : State) (k : Carrier) (r : Nat), NextOf p s k →
    (p.lost k = some r → exec (pktInstr p) s = .next (((counted p s).discardPkt p k.off r false).modScene p.slot (fun x =>
      x.modCarrier (fun c => { c with off := c.len })))) ∧
    (p.lost k = none → (pktForm p.type).framed p = some r →
      exec (pktInstr p) s = .next (readPast p ((counted p s).discardPkt p k.off r false)))

/-- O43.  What an accepted packet does to its scene: a repeated SEQ_PARAMS nothing more, a new one opens a sequence; a
FRAME_BEGIN queues a frame; cameras, tables, access units, overlays and cues join the open frame; FRAME_END closes it;
KEEPALIVE does nothing more, or is discarded where its FRAME is not the open frame's (R74 to R77, R80 to R84, R89,
R90, R92). -/
def Obligations.ScenePackets : Prop :=
  ∀ (p : Pkt) (s : State) (x : Scene) (f : SFrame) (q : SeqParams), Passes p s x →
    (p.type = 8 → x.openFrame = none → x.seq.map (·.raw) = some (p.w 1) → exec (.seqParams p) s = .next (readPast p (heard p s))) ∧
    (p.type = 8 → x.openFrame = none → x.seq.map (·.raw) ≠ some (p.w 1) →
      ∃ t y, exec (.seqParams p) s = .next t ∧ t.scene? p.slot = some y ∧ y.seq = some (seqOf p) ∧ y.first = some p.frame.toNat ∧
        y.cams = [] ∧ y.tables = [] ∧ y.ovl = List.replicate 7 {}) ∧
    (p.type = 1 → x.seq = some q → x.first = some p.frame.toNat → p.f 1 127 48 = 0 → x.queue.length < 4 →
      exec (.frameBegin p) s = .next (readPast p (((heard p s).modScene p.slot (fun y => { y with last := p.frame.toNat, first := none })).modScene
        p.slot (fun y => { y with
          queue := y.queue ++ [{ num := p.frame.toNat, uid := x.opened, pts := none, same := p.f 1 32 32 == 1, held := p.f 2 127 96, seq := q }]
          opened := y.opened + 1 })))) ∧
    (p.type = 9 → (∀ f, x.openFrame = some f → p.frame.toNat = f.num) → exec (.keepalive p) s = .next (readPast p (heard p s))) ∧
    (p.type = 9 → x.openFrame = some f → p.frame.toNat ≠ f.num →
      ∃ k, exec (.keepalive p) s = .next (readPast p ((heard p s).discardPkt p k 0x10 false))) ∧
    (x.seq.isSome = true → x.openFrame = some f → p.frame.toNat = f.num →
      (p.type = 2 → f.aus.any (fun d => d.anchor == p.index) = false →
        exec (.anchorParams p) s = .next (readPast p ((heard p s).modScene p.slot (fun y => ({ y with
          cams := { n := p.index, cam := camOf p } :: y.cams.filter (fun c => c.n != p.index) } : Scene).withContent)))) ∧
      (p.type = 5 → f.aus.any (fun d => d.anchor == p.index) = false →
        exec (.layerTable p) s = .next (readPast p ((heard p s).modScene p.slot (fun y => ({ y with
          tables := { n := p.index, layers := layersOf p } :: y.tables.filter (fun c => c.n != p.index)
          resized := if (x.table? p.index).elim false (fun old => tableShape old != tableShape (layersOf p)) then p.index :: y.resized
            else y.resized } : Scene).withContent)))) ∧
      (∀ kind cam ls, p.type = 3 + kind → kind ≤ 1 → x.cam? (p.index % 256) = some cam → x.table? (p.index % 256) = some ls →
        bit f.held (p.index % 256) = false → p.index / 256 < ls.length →
        let d : StreamId := { slot := p.slot, anchor := p.index % 256, layer := p.index / 256, kind := kind }
        f.aus.contains d = false →
        let t := readPast p (((heard p s).modScene p.slot (fun y =>
          y.modOpen (fun g => { g with content := true, aus := d :: g.aus }))).fileItem d
            { kind := 0, frame := f.num, seq := f.seq, ent := ls[p.index / 256]?, len := p.length
              resized := x.resized.contains (p.index % 256) })
        (kind = 0 → exec (.textureAu p) s = .next t) ∧ (kind = 1 → exec (.depthAu p) s = .next t)) ∧
      (p.type = 6 → exec (.overlay p) s = .next (readPast p ((heard p s).modScene p.slot (fun y =>
        ({ y with ovl := updAt y.ovl p.index (fun o => ovlApply o p) } : Scene).withContent)))) ∧
      (p.type = 7 → exec (.frameEnd p) s = .next (readPast p ((heard p s).closeFrame p.slot (some p.index)))) ∧
      (p.type = 10 → x.cues.length < 64 →
        exec (.cue p) s = .next (readPast p ((heard p s).modScene p.slot (fun y => { y with cues := y.cues ++ [
          { num := p.index, kind := p.f 1 127 120, value := p.f 1 63 0, time := (time80Ns (p.f 2 127 48)).getD 0, frame := f.uid }] })))))

/-! ### Decoding and synthesis -/

/-- O44.  Access units: one that is to be decoded starts on its team, or is queued at its core, once the unit before
it has finished and its turn for cores has come (R42, R113); a random-access point of usable parameter sets is to be
decoded; an end yields one picture and frees the stream; a core that does not complete a CTU is reset, the third time
within a second removed; a budget that runs out stops the picture no sooner than the budget (R108, R111, R116 to
R118). -/
def Obligations.AccessUnits : Prop :=
  ∀ (st : StreamId) (info : AuInfo) (res : AuResult) (core stop : Nat) (s : State) (x : DStream) (it : AuItem) (rest : List AuItem)
      (r : RunAu), s.stream? st = some x →
    (∀ q, info.slices = true → info.rap = true → x.setsOf info.sets = some q → q.bad (it.codec st.kind) = none →
      s.place.cut.contains ((s.scene? st.slot).elim 0 (·.obj)) = false → s.auFate x it info = .decodes q) ∧
    (∀ q, x.queue = it :: rest → it.kind = 0 → x.running = none → (∀ y ∈ s.dec.streams, y.queued = none) → s.decodes = true →
      coreNums.any s.coreOk = true → s.auFate ((x.take it).takeSets info) it info = .decodes q →
      (s.formsTeam x info.rap q = true → s.coreTurn st = true) →
      let a : RunAu := { item := it, info := info, sets := some q, t0 := s.now, epoch := s.place.epoch.toNat }
      ∃ t y, exec (.auDecodeStart st info) s = .next t ∧ t.stream? st = some y ∧ y.queue = rest ∧
        ((y.running = some a ∧ y.queued = none) ∨ (y.running = none ∧ y.queued = some a))) ∧
    (x.running = some r → x.queue = [] → x.queued = none →
      ∃ t y, exec (.auDecodeComplete st res) s = .next t ∧ t.stream? st = some y ∧ y.running = none ∧ y.decoded = x.decoded + 1) ∧
    (x.running = some r → x.queue = [] → x.queued = none → x.team.contains core = true → core < s.dec.cores.length →
      let l := recentResets s.now (s.dec.cores.getD core {}).resets
      ∃ t y, exec (.ctuTimeout core st res) s = .next t ∧ t.stream? st = some y ∧ y.running = none ∧
        (t.dec.cores.getD core {}).resets = l ∧ (3 ≤ l.length → (t.dec.cores.getD core {}).failed = true ∧ y.team.contains core = false) ∧
        (l.length < 3 → (t.dec.cores.getD core {}).failed = (s.dec.cores.getD core {}).failed)) ∧
    (x.running = some r → x.queue = [] → x.queued = none →
      ∃ t y, exec (.auBudgetExpiry st stop res) s = .next t ∧ t.stream? st = some y ∧ y.running = none ∧
        r.t0 + s.pget 0x04000002 * s.tim.tp ≤ t.now)

/-- O45.  Ray tiles: a cluster with room takes the next tile of its list, or, idle and allowed to, the earliest of the
richest list; a tile retires within 20 µs of its start, or its cluster is reset; each quarter of a subframe is checked
once, and with nothing left to do changes nothing else; a complete band with room goes through the chain (R159, R164,
R182 to R185). -/
def Obligations.RayTiles : Prop :=
  ∀ (s : State) (n m tile wait sf : Nat) (t : RTile) (ts : List RTile) (x : FrameFix) (g : Geom) (b : Band) (lt : LayTile),
    (s.dev.state.full = true → s.clusterPool.contains n = true → (s.cluster n).disp.length < 8 → s.bandHeld t = true →
      (s.domain (6 + n / 4)).st = 2 →
      ((s.cluster n).list = t :: ts →
        exec (.rayTileDispatch n) s = .next ((s.modCluster n (fun c => { c with list := ts })).modCluster n (fun c =>
          ({ c with disp := c.disp ++ [t] } : Cluster).startHead s.now s.place.epoch.toNat))) ∧
      ((s.cluster n).list = [] → s.pget 0x07000003 = 1 → s.richest n = some m → m ≠ n → earliest (s.cluster m).list = some t →
        ∃ u, exec (.rayTileDispatch n) s = .next u ∧ u.place.steals = s.place.steals + 1 ∧
          (u.cluster m).list = (s.cluster m).list.erase t)) ∧
    ((s.cluster n).disp = t :: ts → t.started = true →
      (s.now < t.t0 + 20000 → exec (.rayTileRetire n wait) s = .next (((s.deliver t).putWait t wait).modCluster n (fun c =>
        ({ c with disp := ts } : Cluster).startHead s.now s.place.epoch.toNat))) ∧
      (∃ u, exec (.rayTileTimeout n) s = .next u ∧ t.t0 + 20000 ≤ u.now ∧ u.synth.resets = s.synth.resets + 1)) ∧
    (s.dev.state.full = true → s.synth.cur = some x → x.blanket = false → x.geom = some g → x.states[s.synth.checks / 3]? = some sf →
      ∃ u, exec .forecastQuarterCheck s = .next u ∧ u.synth.checks = s.synth.checks + 1 ∧
        (s.unretired x.frame sf = [] → u.synth.clusters = s.synth.clusters ∧ u.ev = s.ev)) ∧
    (s.synth.bands.find? (fun (b : Band) => b.tile == tile) = some b → s.fixOf b.frame = some x →
      x.layout.find? (fun (t : LayTile) => t.tile == tile) = some lt → b.need ≤ b.got.length →
      (s.dropsRows b = true ∨ (s.scanOf tile).used + 8 * (lt.w / 8) * (formB x.code / 8) ≤ x.shareBytes) →
      exec (.bandCompress tile) s = .next (s.compressBand x lt b))

/-! ### Placement and compression jobs -/

/-- O46.  Placement: a hint is kept for the next epoch; the epoch advances by 1 after 1 ms without a subframe
boundary; a copy ends no earlier than the migration rate allows, waits for the next epoch and counts 2 MiB; a
voluntary move leaves the copies where they are until then; what a move left is released once no older operation can
address it, and not before; a channel marked FAILED is taken out of the placement; the end of a restoration ends its
run, and only once no critical basket is single (R177 to R181, R188, R189, R193). -/
def Obligations.Placement : Prop :=
  ∀ (c : Cmd) (s : State) (o : Obj) (b : Basket) (r : Restoration) (obj index kind dest ch : Nat),
    (AtHand (.placeHint c) s → s.obj? c.object.toNat = some o → o.cls ∈ [1, 2, 6, 8] → c.okBits 1 (mask 127 104) = true →
      c.f 1 127 120 ≤ 3 → c.f 1 119 112 ≤ 2 → c.f 1 111 104 ≤ 1 → (o.cls = 8 → c.f 1 119 112 = 0) →
      (o.cls = 1 ∨ o.cls = 8 → c.f 1 111 104 = 0) →
      (c.f 1 111 104 = 0 → o.mirror = 1 → o.baskets.length ≤ s.freeBaskets) →
      exec (.placeHint c) s = .next (report c (answer ((taken c s).modObj o.id (fun x =>
        { x with hint := some (c.f 1 127 120, c.f 1 119 112, c.f 1 111 104) })) []))) ∧
    (s.nextBoundary.any (fun b => decide (b ≤ s.place.epochAt + 1000000)) = false →
      ∃ t, exec .placementEpochTick s = .next t ∧ t.place.epoch = s.place.epoch + 1 ∧ s.place.epochAt + 1000000 ≤ t.now) ∧
    (s.nextBoundary.any (fun b => decide (b ≤ s.place.epochAt + 1000000)) = true → exec .placementEpochTick s = .next s) ∧
    (s.basket? obj index = some b → b.copying = true → s.copyRate b ≠ 0 → s.copyTurn b = true →
      ∃ t, exec (.basketCopyComplete obj index 2 dest) s = .next t ∧ t.place.migrated = s.place.migrated + 2 ∧
        s.place.copyEnd + ceilDiv basketBytes (s.copyRate b) ≤ t.now ∧ t.basket? obj index = some { b with copied := true }) ∧
    (s.basket? obj index = some b → kind = 0 ∨ kind = 3 → s.copyAllowed obj b kind dest = true → s.pget 0x07000001 ≠ 0 →
      s.place.restoration = none → (s.objs.objs.map (·.id)).Nodup →
      ∃ t b', exec (.basketCopyComplete obj index kind dest) s = .next t ∧ t.basket? obj index = some b' ∧ b'.moveTo = some dest ∧
        b'.moveFrom = b.chans.getD (if kind = 3 then 1 else 0) 0 ∧ b'.chans = b.chans ∧ b'.copied = false) ∧
    (s.basket? obj index = some b → (∀ k, k ∈ b.oldSources ∨ k ∈ b.oldReps → s.olderOps obj b k.epoch = false) →
      ∃ t, exec (.basketSourceRelease obj index) s = .next t ∧ t.basket? obj index = some { b with oldSources := [], oldReps := [] }) ∧
    (s.basket? obj index = some b → (∀ k ∈ b.oldSources, s.olderOps obj b k.epoch = true) →
      ∃ t b', exec (.basketSourceRelease obj index) s = .next t ∧ t.basket? obj index = some b' ∧ b'.oldSources = b.oldSources) ∧
    (s.place.marked.contains ch = true →
      exec (.channelFailedMark ch) s = .next (((s.placeChannelLoss ch).shutdownChannels).evaluate)) ∧
    (s.place.marked.contains ch = false → exec (.channelFailedMark ch) s = .next s) ∧
    (s.place.restoration = some r → s.critical.any (fun b => b.chans.length == 1) = true →
      exec .mirrorRestorationComplete s = .next s) ∧
    (s.place.restoration = some r → s.critical.any (fun b => b.chans.length == 1) = false →
      exec .mirrorRestorationComplete s = .next (({ s with place := { s.place with restoration := none } } : State).raise 7 2 1
        (packNat [at' 63 56 r.latest, at' 55 40 r.restored, at' 31 0 (Nat.min 0xFFFFFFFF ((s.now - r.t0) / 1000))]) s.arg2f))

/-- O47.  Compression jobs: an accepted one joins the end of the list with a JOB object; the oldest one's output is
checked and held; its copy to the destination commits it; a cancelled one ends ABORTED (R231 to R234). -/
def Obligations.CodecJobs : Prop :=
  ∀ (c : Cmd) (s : State) (j : CmpJob) (js : List CmpJob) (src out : List Byte),
    (AtHand (.cmpJob c) s → cmpArgsOk c = true →
      cmpExact (c.f 1 127 120) (c.f 1 119 112) (c.f 4 63 48) (c.f 4 47 32) ≤ c.f 4 95 64 →
      planNeed (plan 0 (ceilDiv (c.f 4 95 64) basketBytes) 2 0 0 0) ≤ s.freeBaskets → s.sagSeen < 2 → (s.domain 28).failed = false →
      ∃ t k, exec (.cmpJob c) s = .next t ∧ t.comp.jobs = s.comp.jobs ++ [k] ∧ k.obj = s.nextId 8 ∧ k.op = c.f 1 127 120 ∧
        k.src = c.f 2 63 0 ∧ k.dst = c.f 3 63 0 ∧ k.srcLen = c.f 4 127 96 ∧ k.dstLen = c.f 4 95 64 ∧ k.out = none) ∧
    (AtHand (.cmpCancel c) s → s.dev.state.run = true → s.comp.jobs.find? (fun j => j.obj == c.object.toNat) = some j →
      exec (.cmpCancel c) s = .next (report c (answer ((taken c s).closeCmpJob j stAborted (cmpPayload 0 j.gotSrcCrc 0 0 [])) []))) ∧
    (s.comp.jobs = j :: js → j.out = none → s.sagSeen < 2 → (s.domain 28).st = 2 → src.length = j.srcLen →
      (j.checkSrc = true → crc32c src = j.srcCrc) → (j.run src).ok = true → (j.run src).bytes.length ≤ j.dstLen →
      (j.checkDst = true → crc32c (j.run src).bytes = j.dstCrc) →
      let u := s.jobPaced (j.run src).bytes.length
      exec (.cmpJobOutputComplete src) s = .next { u with comp := { u.comp with jobAt := u.now, jobs := { j with
        out := some (j.run src).bytes, warn := (j.run src).warn, gotSrcCrc := crc32c src, modes := (j.run src).modes } :: js } }) ∧
    (s.comp.jobs = j :: js → j.out = some out →
      exec .cmpJobCopyComplete s = .next (((s.jobPaced out.length).emit (.hostWrite j.dst out)).closeCmpJob j (if 0 < j.warn then stWarn else stOk)
        (cmpPayload out.length j.gotSrcCrc (crc32c out) j.warn j.modes)))

/-! ### Panel and monitor timing -/

/-- O48.  The panel generator: the selection point fixes the coming frame; a boundary within a frame begins the next
subframe; rows go to a tile that may have them; the cutoff comes 2 µs before the boundary and the keep-alive at the
midpoint; the latency tolerance is reported each µs; a timing mode change drives its neutral pairs and starts the new
timing no sooner than 2 × Tp (R267, R270, R272, R275, R278, R279, R281). -/
def Obligations.PanelTiming : Prop :=
  ∀ (s : State) (tile : Nat) (r : RowEnt) (m : ModeChange),
    (s.tim.on = true → s.tim.change = none → s.tim.selected ≠ some s.tim.nextFrame → (s.tim.pairing = false ∨ s.tim.second = true) →
      s.panel.enterStage < 2 →
      ∃ t, exec .selectionPoint s = .next t ∧ t.tim.selected = some s.tim.nextFrame ∧
        s.tim.tfNs 0 - s.pget 0x0B000006 * 1000 ≤ t.now) ∧
    (s.tim.on = true → s.tim.change = none →
      exec .subframeBoundary s = .next s.boundary ∧
      (s.tim.begun = true → s.panel.enterStage = 0 → s.instrument = false → s.tim.nextK % s.tim.sCount ≠ 0 →
        s.tim.boundaryNs s.tim.nextK ≤ s.boundary.now ∧ s.boundary.tim.sf = s.tim.nextK % s.tim.sCount ∧
        s.boundary.tim.nextK = s.tim.nextK + 1 ∧ s.boundary.tim.frame = s.tim.frame)) ∧
    (s.rowsOpen tile = true →
      (s.scanOf tile).share.find? (fun r => some r.frame == s.synth.cur.map (·.frame) && r.sf == s.tim.sf) = some r →
      exec (.blockRow tile) s = .next (s.sendShareRow tile r)) ∧
    (s.tim.on = true → s.tim.begun = true → s.tim.cutDone = false →
      ∃ t, exec .rowCutoff s = .next t ∧ t.tim.cutDone = true ∧ s.tim.boundaryNs s.tim.nextK - 2000 ≤ t.now) ∧
    (s.tim.on = true → s.tim.begun = true → s.tim.keepDone = false → s.tim.change = none →
      s.tim.boundaryNs (s.tim.nextK - 1) + 20000000 < s.tim.boundaryNs s.tim.nextK →
      ∃ t, exec .keepAlive s = .next t ∧ t.tim.keepDone = true ∧
        (s.tim.boundaryNs (s.tim.nextK - 1) + s.tim.boundaryNs s.tim.nextK) / 2 ≤ t.now) ∧
    (s.tim.on = true → s.tim.begun = true →
      ∃ t, exec .latencyToleranceReport s = .next t ∧ s.tim.ltrAt + 1000 ≤ t.now ∧ t.tim.ltrAt = t.now ∧
        t.tim.ltrRun = Nat.min s.tim.ltrRun t.tim.ltrNow) ∧
    (s.tim.change = some m → m.stage = 2 →
      ∃ t m', exec .modeChangeNeutralPair s = .next t ∧ t.tim.change = some m' ∧ 3 ≤ m'.stage ∧ m'.f0 = m.f0 ∧
        s.tim.boundaryNs (m.k0 + 1) + s.tim.dark * 1000 ≤ t.now) ∧
    (s.tim.change = some m → 3 ≤ m.stage →
      (∀ tn, m.tn = some tn → exec .modeChangeTn s = .next ((s.advanceTo tn).newTiming m)) ∧
      (m.tn = none → ∃ u : State, exec .modeChangeTn s = .next (u.newTiming m) ∧ s.changeTn m ≤ u.now ∧
        u.tim.nextFrame = m.f0 + 2))

/-- O49.  The monitor: a frame begins with the next number; the read-back of the frame before counts as checked, and
as a mismatch where it differs from the signature of what was sent; a sink's arrival, a lost link and MON_RETRAIN
begin a training; its end within 100 ms at a rate that the sink offers gives that rate, else FAILED (R286, R361 to
R363). -/
def Obligations.MonitorOutput : Prop :=
  ∀ (c : Cmd) (s : State) (sinkMax r back : Nat),
    (s.tim.monState = 1 → s.par.commit = none →
      ∃ t, exec (.monitorFrameStart back) s = .next t ∧ t.tim.monFrame = (if s.tim.monBegun = true then s.tim.monFrame + 1 else 0) ∧
        t.tim.monBegun = true ∧ t.tim.monT0 = s.now ∧
        ∀ want, s.enc.mon.intended = some want → t.enc.mon.checked = s.enc.mon.checked + 1 ∧ t.enc.mon.lastChecked = s.tim.monFrame ∧
          (back = want → t.enc.mon.consec = 0 ∧ t.enc.mon.mismatches = s.enc.mon.mismatches) ∧
          (back ≠ want → t.enc.mon.consec = s.enc.mon.consec + 1 ∧ t.enc.mon.mismatches = s.enc.mon.mismatches + 1)) ∧
    (∃ t, exec (.monHpdRise sinkMax) s = .next t ∧ t.enc.mon.hpd = true ∧ t.enc.mon.sinkMax = sinkMax ∧
      (s.monWanted = true → t.enc.mon.link = 1 ∧ t.enc.mon.rate = s.pget 0x0F000002)) ∧
    (s.enc.mon.link = 2 → s.enc.mon.hpd = true → s.monWanted = true → ∃ t, exec (.irqHpd true) s = .next t ∧ t.enc.mon.link = 1) ∧
    exec (.irqHpd false) s = .next s ∧
    (s.enc.mon.link = 1 →
      (s.pget 0x0F000002 ≤ s.enc.mon.sinkMax → s.now ≤ s.enc.mon.trainAt + 100000000 →
        ∃ t, exec (.monLinkTrainingEnd (some (s.pget 0x0F000002))) s = .next t ∧ t.enc.mon.link = 2 ∧
          t.enc.mon.rate = s.pget 0x0F000002) ∧
      (s.pget 0x0F000002 < r ∨ s.enc.mon.sinkMax < r ∨ s.enc.mon.trainAt + 100000000 < s.now → ∃ t, exec (.monLinkTrainingEnd (some r)) s = .next t ∧ t.enc.mon.link = 3) ∧
      (∃ t, exec (.monLinkTrainingEnd none) s = .next t ∧ t.enc.mon.link = 3)) ∧
    (AtHand (.monRetrain c) s → s.tim.monState = 1 → s.enc.mon.hpd = true → s.pget 0x0B000013 = 1 → s.sagSeen < 2 →
      (s.domain 31).st = 2 → ∃ t, exec (.monRetrain c) s = .next t ∧ t.enc.mon.link = 1 ∧ t.enc.mon.cause = 3 ∧ t.saf.monIdle = false)

/-! ### Tile links -/

/-- O50.  Packets on a tile link: a port in CAPS or ACTIVE handles the packets that its blocks complete, in their
order; a block with an invalid sync header is a sync error of its lane and taken as DATA inside a packet and as IDLE
outside; a CTRL block of a KIND that starts no packet to the device ends the packet in progress; a CAPS reply, a
STATUS and an ACK are taken where their checks pass, and counted where a CRC fails; an ACK ends the wait it names; a
wait without an ACK ends at its bound; a HEARTBEAT carries the next sequence number, within link.hb_us of the last one
unless that time has passed (R238, R242, R254, R256, R262). -/
def Obligations.LinkPackets : Prop :=
  (∀ (s : State) (tile : Nat) (rx : List LinkBlock), (s.port tile).state = 4 ∨ (s.port tile).state = 5 →
    let ran := rx.foldl (Port.block s.now) (s.port tile, [])
    let t := (ran.2.foldl (fun s ws => s.takePacket tile ws) (s.modPort tile (fun _ => ran.1))).lockCheck tile
    exec (.capsReply tile rx) s = .next t ∧ exec (.status tile rx) s = .next t ∧ exec (.ack tile rx) s = .next t) ∧
  (∀ (now : Nat) (p : Port) (out : List (List Nat)) (b : LinkBlock),
    let q := Port.block now (p, out) b
    q.1.lanes = updAt p.lanes b.lane (RxLane.count now (b.sync != 3 && b.sync != 12)) ∧
    (b.pos ≠ 0 → b.sync ≠ 3 → b.sync ≠ 12 →
      (p.rx = [] → q.1.rx = [] ∧ q.2 = out) ∧
      (∀ w0, p.rx = [w0] → backUnits (bits w0 127 120) = some 2 → q.1.rx = [w0, linkPayload b] ∧ q.2 = out) ∧
      (∀ w0 w1, p.rx = [w0, w1] → backUnits (bits w0 127 120) = some 2 → q.1.rx = [] ∧ q.2 = out ++ [[w0, w1, linkPayload b]])) ∧
    (b.pos ≠ 0 → b.sync = 12 → backUnits (bits (linkPayload b) 127 120) = none → q.1.rx = [] ∧ q.2 = out)) ∧
  (∀ (s : State) (tile w0 w1 w2 : Nat) (a : AckWait),
    ((s.port tile).state = 4 →
      exec (.capsRequest tile) s = .next (s.sendCaps tile) ∧
      (bits w0 127 120 = 0x20 →
        (packetOk w0 w1 w2 = true → (parseCaps w0 w1 w2).ok = true →
          s.takePacket tile [w0, w1, w2] = s.takeCaps tile (parseCaps w0 w1 w2)) ∧
        (packetOk w0 w1 w2 = false → s.takePacket tile [w0, w1, w2] = s.modPort tile (fun p => { p with hcrc := p.hcrc + 1 })))) ∧
    ((s.port tile).state = 5 →
      (bits w0 127 120 = 0x21 →
        (packetOk w0 w1 w2 = true → bits w0 119 112 ≤ 1 → bits w1 55 52 ≤ 2 → bits w1 51 48 ≤ 6 →
          s.takePacket tile [w0, w1, w2] = s.takeStatus tile w0 w1 w2) ∧
        (packetOk w0 w1 w2 = false → s.takePacket tile [w0, w1, w2] = s.modPort tile (fun p => { p with hcrc := p.hcrc + 1 }))) ∧
      (bits w0 127 120 = 0x22 →
        (hdrOk w0 = false → s.takePacket tile [w0] = s.modPort tile (fun p => { p with hcrc := p.hcrc + 1 })) ∧
        (hdrOk w0 = true → bits w0 103 96 ≤ 4 →
          (s.port tile).acks.find? (fun a => a.tag == bits w0 119 112 && a.kind == bits w0 111 104) = some a →
          s.takePacket tile [w0] = (s.dropAck tile a).acked tile a (bits w0 103 96))) ∧
      (∃ t, exec (.heartbeat tile) s = .next t ∧ (t.port tile).hbSeq = ((s.port tile).hbSeq + 1) % 256 ∧
        (t.port tile).hbAt = t.now ∧
        t.now ≤ Nat.max s.now (Nat.max (s.port tile).hbAt (s.port tile).since + s.pget 0x0A000002 * 1000) ∧
        (∃ w, Out.tile tile 0x14 [w] ∈ t.out) ∧ ∀ n, n ≠ tile → t.port n = s.port n)) ∧
    (firstDue ((s.port tile).acks.filter (fun a => a.why != 6)) = some a →
      exec (.ackTimeout tile) s = .next (s.ackLost tile a)) ∧
    ((s.port tile).acks.find? (fun a => a.why == 6) = some a →
      exec (.dischargeTimeout tile) s = .next (s.ackLost tile a)))

/-- O51.  Port states: DETECT ends with a signal, at the end of the wait between attempts; TRAIN with its lanes in
order goes to LOCK, LOCK to CAPS or from L2 to ACTIVE; a state's time-out, a failed search or lanes out of order
return to DETECT; an ACTIVE port that loses block lock, has more sync errors than link.err_retrain, or misses its
STATUS trains again; a port leaves L1 for ACTIVE (R249 to R255, Table 10.16). -/
def Obligations.PortStates : Prop :=
  ∀ (s : State) (tile lane n : Nat) (offsets : List SlipCount) (rx : List LinkBlock), s.dev.state ≠ .parasol →
    ((s.port tile).state = 1 →
      ((s.tile tile).powered = true → (s.port tile).waiting = false →
        ∃ t, exec (.signalDetect tile) s = .next t ∧ (t.port tile).state = 2 ∧ (t.port tile).rate = s.trainRate tile) ∧
      ((s.tile tile).powered = true → (s.port tile).waiting = true →
        exec (.signalDetect tile) s = .next (s.modPort tile (fun p => { p with signal := true }))) ∧
      ((s.port tile).waiting = true → ∃ t, exec (.detectRetryWait tile) s = .next t ∧ (t.port tile).waiting = false ∧
        (s.port tile).since + (if 8 ≤ (s.port tile).tries then 100000000 else 1000000) ≤ t.now ∧
        (t.port tile).state = (if (s.port tile).signal then 2 else 1))) ∧
    ((s.port tile).state = 2 →
      (s.expired tile = false →
        (∃ t, exec (.trainComplete tile true) s = .next t ∧ (t.port tile).state = 3 ∧ (t.port tile).fails = 0) ∧
        (∃ t, exec (.trainComplete tile false) s = .next t ∧ (t.port tile).state = 1 ∧ (t.port tile).waiting = true ∧
          (t.port tile).tries = (s.port tile).tries + 1)) ∧
      (s.pget 0x0A000004 ≠ 0 → ∃ t, exec (.bitslipSearch tile lane offsets) s = .next t ∧
        (s.port tile).since + 10000000 ≤ t.now ∧
        (t.port tile).state = (if (slipOffset (offsets.take 132) 0).isSome then 2 else 1))) ∧
    ((s.port tile).state = 3 → s.expired tile = false → ∃ t, exec (.lockComplete tile) s = .next t ∧
      (t.port tile).state = (if (s.port tile).fromL2 then 5 else 4)) ∧
    ((s.port tile).state ≠ 0 → (s.port tile).limit = some n → ∃ t, exec (.portStateTimeout tile) s = .next t ∧ n ≤ t.now ∧
      (t.port tile).state = 1 ∧ (t.port tile).waiting = true ∧ (t.port tile).tries = (s.port tile).tries + 1) ∧
    ((s.port tile).state = 5 → tile ≠ 16 →
      (let ran := rx.foldl (Port.block s.now) (s.port tile, [])
       ran.2 = [] → ∃ t, exec (.blockLockLoss tile rx) s = .next t ∧
        if ran.1.lanes.any RxLane.lost = true ∨
            (s.pget 0x0A000005 ≠ 0 ∧ ∃ l ∈ ran.1.lanes, s.pget 0x0A000005 < l.errs.length) then
          (t.port tile).state = 2 ∧ (t.port tile).retrains = Nat.min 255 ((s.port tile).retrains + 1)
        else (t.port tile).state = 5 ∧ (t.port tile).lanes = ran.1.lanes) ∧
      (∃ t, exec (.statusTimeout tile) s = .next t ∧ (t.port tile).state = 2 ∧
        (s.port tile).statusAt + s.pget 0x0A000003 * 1000000 ≤ t.now)) ∧
    ((s.port tile).state = 6 → (s.port tile).wakeL1 = true →
      ∃ t, exec (.l1WakeActive tile) s = .next t ∧ (t.port tile).state = 5 ∧ (t.port tile).tries = 0)

/-- O52.  Tiles: in BOOT the next enabled tile that is DOWN gets its power, panel.pwr_stagger_ms after the last, and
keeps its ledgers; one not ACTIVE 1 s later is waited for no more; a failed reconcile is tried again; LINK_CTRL acts
on the tiles it names; an eye scan is accepted on an ACTIVE port with none under way, and its end writes the counts
(R26, R265, R266, R311, R315). -/
def Obligations.TileBringUp : Prop :=
  ∀ (c : Cmd) (s : State) (tile : Nat) (e : EyeScan) (counts : List Nat),
    (s.dev.state = .boot →
      s.enabledTiles.find? (fun t => (s.port t).state == 0 && !(s.domain (40 + t / 4)).failed &&
        !((s.tile t).powered && decide (0 < (s.tile t).rise))) = some tile →
      tile < s.panel.tiles.length → tile < s.link.ports.length →
      ∃ t, exec .tilePwrEnStagger s = .next t ∧ (t.tile tile).powered = true ∧ (t.tile tile).rise = t.now ∧ (t.port tile).state = 1 ∧
        (s.panel.tiles.any (·.powered) = true → maxN (s.panel.tiles.map (·.rise)) + s.pget 0x0C00000E * 1000000 ≤ t.now) ∧
        (t.tile tile).l0 = (s.tile tile).l0 ∧ (t.tile tile).l1 = (s.tile tile).l1) ∧
    (s.dev.state = .boot → (s.tile tile).powered = true → (s.port tile).state ≠ 5 →
      exec (.bootTileTimeout tile) s = .next
        (((s.advanceTo ((s.tile tile).rise + 1000000000)).modTile tile (fun d => { d with late := true })).evaluate)) ∧
    ((s.tile tile).mode = 7 → s.ownActive tile = true → s.mayReconcile = true →
      ∃ t, exec (.reconcileRetry tile) s = .next t ∧ (t.tile tile).mode = 1 ∧ (t.tile tile).tries = (s.tile tile).tries + 1) ∧
    (AtHand (.linkCtrl c) s → s.dev.state ≠ .safe → s.dev.state ≠ .shutdown → c.okBits 1 (mask 127 120 + mask 15 0) = true →
      1 ≤ c.f 1 127 120 → c.f 1 127 120 ≤ 3 → c.f 1 15 0 ≠ 0 →
      exec (.linkCtrl c) s = .next (report c (answer ((maskTiles (c.f 1 15 0)).foldl (fun u t => u.linkCtrlTile (c.f 1 127 120) t) (taken c s)) []))) ∧
    (AtHand (.eyeScan c) s → s.dev.state ≠ .safe → s.dev.state ≠ .shutdown → eyeArgsOk c = true → (s.port (c.f 1 127 120)).state = 5 →
      s.link.eye = none →
      ∃ e t, exec (.eyeScan c) s = .next t ∧ t.link.eye = some e ∧ e.job = s.host.nextJob ∧ e.tile = c.f 1 127 120 ∧
        e.lane = c.f 1 119 112 ∧ e.points = (eyePoints c).toNat ∧ e.dest = c.f 2 63 0 ∧ (t.job? e.job).isSome = true) ∧
    (s.link.eye = some e →
      ∃ t, exec (.eyeScanCompletion counts) s = .next t ∧ t.link.eye = none ∧ t.job? e.job = none ∧
        e.t0 + e.points * (2 ^ e.dwell / laneRate (s.port e.tile).rate + 20000) ≤ t.now ∧
        Out.hostWrite e.dest ((padTo 0 e.points counts).flatMap (leBytes 4)) ∈ t.out)

/-! ### Panel drive -/

/-- O53.  Panel commands and events: PARASOL enters from a showing state and wakes below stage S5; TILE_POWER is
accepted for enabled tiles; a region update is accepted in PARASOL, staged where its rows' CRCs agree, and dropped
where they do not; a visit takes the next frame number; a stress sample takes the next cell row; a rebuild is asked
for at its period, and ends with a result (R297, R300, R318, R321, R322, R324, R327). -/
def Obligations.PanelUnit : Prop :=
  ∀ (c : Cmd) (s : State) (r : Region) (g : Geom) (b : Rebuild) (region : Nat) (src : List Byte),
    (AtHand (.parasol c) s → c.okBits 1 0xFF = true → c.f 1 7 0 = 1 → s.dev.state.shows = true →
      exec (.parasol c) s = .next (report c (accept
        { taken c s with panel := { s.panel with enterStage := Nat.max 1 s.panel.enterStage } } .parasolEnter))) ∧
    (AtHand (.parasol c) s → c.okBits 1 0xFF = true → c.f 1 7 0 = 2 → s.dev.state = .parasol → s.pwr.stage < 5 →
      exec (.parasol c) s = .next ((report c (accept (taken c s) .parasolWake)).wakeIfDue)) ∧
    (AtHand (.tilePower c) s → s.dev.state.shows = true → c.okBits 1 (mask 127 120 + mask 15 0) = true →
      c.f 1 127 120 ∈ [1, 2] → c.f 1 15 0 ≠ 0 → (∀ t ∈ maskTiles (c.f 1 15 0), bit (s.pget 0x0C00000D) t = true) →
      exec (.tilePower c) s = .next (tilePowerPost c (report c (accept (taken c s) (.tilePower (c.f 1 15 0) (c.f 1 127 120 == 1)))))) ∧
    (AtHand (.regionUpdate c) s → s.dev.state = .parasol → regionArgsOk c s = true →
      planNeed (regionPlan s.host.nextJob (c.f 3 31 0)) ≤ s.freeBaskets →
      ∃ t x, exec (.regionUpdate c) s = .next t ∧ t.panel.regions.getLast? = some x ∧ x.region = c.f 1 127 120 ∧
        x.tile = c.f 1 119 112 ∧ x.job = s.host.nextJob ∧ x.rows = none) ∧
    (s.panel.regions.find? (fun r => r.region == region && r.rows.isNone) = some r →
      let rows := imageRows r.code r.w r.h (padTo (0 : Byte) r.srcLen (src.take r.srcLen))
      ((∀ x ∈ rows, reconCrc r.code x.1 = x.2) →
        exec (.regionStagingComplete region src) s = .next (s.modRegion r.job (fun r => { r with rows := some rows }))) ∧
      ((∃ x ∈ rows, reconCrc r.code x.1 ≠ x.2) →
        exec (.regionStagingComplete region src) s = .next (s.endRegion r.job stIntegrity))) ∧
    (s.dev.state = .parasol → s.panel.enterStage = 3 → s.host.jobs.any (fun j => j.key == .parasolWake) = false →
      ∃ t, exec .parasolVisit s = .next t ∧ t.panel.visits = s.panel.visits + 1 ∧
        s.panel.lastVisit + 1000000000 / s.pget 0x0C00000F ≤ t.now) ∧
    (s.geom = some g → s.dev.state.shows = true →
      ∃ t, exec .stressSample s = .next t ∧
        (s.panel.nextRow + 1 < g.tileH / 4 → t.panel.nextRow = s.panel.nextRow + 1 ∧ t.panel.period = s.panel.period) ∧
        (g.tileH / 4 ≤ s.panel.nextRow + 1 → t.panel.nextRow = 0 ∧ t.panel.period = s.panel.period + 1)) ∧
    (s.dev.state.run = true → s.geom = some g →
      ∃ t, exec .gainMapRebuild s = .next t ∧ t.panel.rebuild.isSome = true ∧ t.panel.rebuildAt = t.now ∧
        s.panel.rebuildAt + s.pget 0x0C000008 * 1000000000 ≤ t.now) ∧
    (s.panel.rebuild = some b → b.result = none →
      ∃ t m, exec .gainMapRebuildComplete s = .next t ∧ t.panel.rebuild = some { b with result := some m, at_ := s.openFrame } ∧
        t.panel.gain = s.panel.gain)

/-! ### Encoders and the direct window -/

/-- O54.  Encoders: a ring is given while the stream is disabled; a release moves the head to the start of a record;
an IDR is asked for; a picture that falls due while one is coded is skipped and counted; a slice within the picture's
budgets is coded, adds its bytes where it finds room, and is dropped where a slice before it was (R354 to R358, Table
14.4). -/
def Obligations.Encoders : Prop :=
  ∀ (c : Cmd) (s : State) (n : Nat) (params data : List Byte) (qp fallback : Nat) (bp : Bool) (k : Coding),
    (AtHand (.encRing c) s → c.okBits 1 (mask 127 112 + mask 63 0) = true → c.f 1 127 120 ≤ 1 → 20 ≤ c.f 1 119 112 → c.f 1 119 112 ≤ 28 →
      c.f 1 11 0 = 0 → s.encP (c.f 1 127 120) 1 = 0 →
      exec (.encRing c) s = .next (report c (answer ((taken c s).modEnc (c.f 1 127 120) (fun e =>
        { e with ring := some (c.f 1 63 0, c.f 1 119 112), tail := 0, head := 0, starts := [] })) []))) ∧
    (AtHand (.encRelease c) s → c.okBits 1 (mask 127 120 + mask 31 0) = true → c.f 1 127 120 ≤ 1 →
      (s.encS (c.f 1 127 120)).starts.contains (c.f 1 31 0) = true → c.f 1 127 120 < s.enc.streams.length →
      ∃ t, exec (.encRelease c) s = .next t ∧ (t.encS (c.f 1 127 120)).head = c.f 1 31 0 ∧
        (t.encS (c.f 1 127 120)).tail = (s.encS (c.f 1 127 120)).tail) ∧
    (AtHand (.encIdr c) s → c.okBits 1 (mask 127 120) = true → c.f 1 127 120 ≤ 1 →
      exec (.encIdr c) s = .next (report c (answer ((taken c s).modEnc (c.f 1 127 120) (fun e => { e with idrNext := true })) []))) ∧
    ((s.encS n).state = 1 → (s.encS n).phase = 0 → s.tim.begun = true → s.encPowered n = true →
      ((s.encS n).coding = some k → ∃ t, exec (.encPictureDue n params) s = .next t ∧ (t.encS n).skipped = (s.encS n).skipped + 1 ∧
        (t.encS n).coding = some k) ∧
      ((s.encS n).coding = none → (s.encS n).idrNext = false → s.encP n 9 = 0 →
        ∃ t k, exec (.encPictureDue n params) s = .next t ∧ (t.encS n).coding = some k ∧ k.frame = s.tim.frame ∧ k.idr = false ∧
          k.next = 0)) ∧
    ((s.encS n).coding = some k → k.admits data.length qp fallback bp = true → k.next + 1 < k.slices →
      ∃ t k', exec (.encSliceComplete n data qp fallback bp) s = .next t ∧ (t.encS n).coding = some k' ∧
        k'.next = k.next + 1 ∧ k'.coded = k.coded + data.length ∧ k'.coded ≤ k.budget ∧
        (k'.dropped = 0 → k'.bytes = k.bytes + data.length) ∧ (k'.dropped ≠ 0 → k'.bytes = k.bytes) ∧
        (0 < k.dropped → k'.dropped = k.dropped + 1)) ∧
    ((s.encS n).coding = some k → k.admits data.length qp fallback bp = false →
      exec (.encSliceComplete n data qp fallback bp) s = .next s)

/-- O55.  The check-value units and the 2D engine: bytes enter a unit from the lowest; a reset and a final result
clear the unit, and a result signals its vector; a START is latched, checked and begun, ignored while an operation
runs; an operation ends with DONE, and is counted; a write of a register without a behaviour keeps its reserved bits 0
(R45, R365 to R369, R374 to R379). -/
def Obligations.DirectUnits : Prop :=
  ∀ (s : State) (n : Nat) (v8 : BitVec 8) (v16 : BitVec 16) (v : BitVec 32) (rows : List G2dHostRow) (next : G2dHostRow),
    let u := s.serviceRequest 2
    let feed (b : Nat) (c : Cvu) : Cvu := c.feed b
    exec (.cvuData8 n v8) s = .next (u.modCvu n (feed v8.toNat)) ∧
    exec (.cvuData16 n v16) s = .next (u.modCvu n (fun c => feed (bits v16.toNat 15 8) (feed (bits v16.toNat 7 0) c))) ∧
    exec (.cvuData32 n v) s = .next (u.modCvu n (fun c =>
      feed (bits v.toNat 31 24) (feed (bits v.toNat 23 16) (feed (bits v.toNat 15 8) (feed (bits v.toNat 7 0) c))))) ∧
    (bit v.toNat 0 = true → exec (.cvuReset n v) s = .next (u.modCvu n Cvu.doReset)) ∧
    (n < 8 → (s.direct.cvu.getD n {}).cfgErr = false →
      ∃ t, exec (.cvuFinal n v) s = .next t ∧ bit t.host.irq.status.toNat (10 + n) = true ∧ t.direct = (u.modCvu n Cvu.final).direct) ∧
    (n < 8 → s.causeHolds (10 + n) = false) ∧
    (bit v.toNat 0 = true → s.direct.g2d.busy = true →
      exec (.g2dStart v) s = .next (s.modG2d (fun g => { g with ignored := true }))) ∧
    (bit v.toNat 0 = true → s.direct.g2d.busy = false →
      let w := (s.serviceRequest 29).modG2d (fun g => { g with lat := g.reg })
      (w.g2dCheck = 0 → ∃ t, exec (.g2dStart v) s = .next t ∧ t.direct.g2d = { s.direct.g2d with
        lat := s.direct.g2d.reg, busy := true, rowsDone := 0, startAt := t.now }) ∧
      (w.g2dCheck ≠ 0 → ∃ t, exec (.g2dStart v) s = .next t ∧ t.direct.g2d = { s.direct.g2d with
        lat := s.direct.g2d.reg, busy := false, error := BitVec.ofNat 8 w.g2dCheck, ops := s.direct.g2d.ops + 1, done := true })) ∧
    (s.direct.g2d.busy = true →
      (∃ t, exec (.g2dAbort rows) s = .next t ∧ t.direct.g2d.busy = false ∧ t.direct.g2d.error = 9 ∧
        t.direct.g2d.ops = s.direct.g2d.ops + 1 ∧ t.direct.g2d.done = true) ∧
      ((s.domain 29).st = 2 → ∃ t, exec (.g2dOperationEnd rows 0 0 next) s = .next t ∧ t.direct.g2d.busy = false ∧ t.direct.g2d.error = 0 ∧
        t.direct.g2d.ops = s.direct.g2d.ops + 1 ∧ t.direct.g2d.done = true)) ∧
    exec (.registerWrite 0x5014 v) s = .next ((s.serviceRequest 29).modG2d (fun g => { g with reg := { g.reg with fillLo := v } })) ∧
    exec (.registerWrite 0x2000 v) s = .next s ∧
    (∀ off, off % 4 ≠ 0 → exec (.registerWrite off v) s = .next s)

/-! ### Time and network -/

/-- O56.  Time: TIME_SET sets TB1 or TB2 while its PTP role is master-only, its port state MASTER or its PTP off, and
TB3 while its source is the host, else BAD_STATE; TB0 is BAD_ARG (R390). A base that does not run starts at the time
it names, one that runs is stepped to it. TIME_COMPARE arms a slot for a later time, and a slot that is reached
disarms and signals vector 23; a latch stores the base's time with its epoch; a pop drops the oldest timestamp;
PPS_OUT gives a pulse of its width; an edge of PPS_IN is stamped while `time.pps_in` is 1, but not within 500 ms of
the one before, and adjusts no base. -/
def Obligations.TimeBases : Prop :=
  ∀ (c : Cmd) (s : State) (t v slot p : Nat) (w : BitVec 32),
    (AtHand (.timeSet c) s → c.okBits 1 (mask 127 104 + mask 79 0) = true → c.f 1 119 104 = 0 → c.f 1 127 120 ∈ [1, 2] →
      timeObjOk c = true → time80Ns (c.f 1 79 0) = some t → s.mayTimeSet (c.f 1 127 120) = true →
      (s.tb (c.f 1 127 120)).running = false →
      exec (.timeSet c) s = .next (report c (answer ((taken c s).modTb (c.f 1 127 120) (fun b =>
        { b with running := true, v := t * 65536 })) []))) ∧
    (AtHand (.timeSet c) s → c.okBits 1 (mask 127 104 + mask 79 0) = true → c.f 1 119 104 = 0 → c.f 1 127 120 ∈ [1, 2] →
      timeObjOk c = true → time80Ns (c.f 1 79 0) = some t → s.mayTimeSet (c.f 1 127 120) = true →
      (s.tb (c.f 1 127 120)).running = true →
      exec (.timeSet c) s = .next (report c (answer ((taken c s).stepTb (c.f 1 127 120) t) []))) ∧
    (AtHand (.timeSet c) s → c.okBits 1 (mask 127 104 + mask 79 0) = true → c.f 1 119 104 = 0 → c.f 1 127 120 = 3 →
      timeObjOk c = true → time80Ns (c.f 1 79 0) = some t → s.mayTimeSet 3 = true →
      let set := (taken c s).modTime (fun x => { x with tb3 := { x.tb3 with hostRunning := true, hostV := t * 65536 } })
      exec (.timeSet c) s = .next (report c (answer (if s.time.tb3.hostRunning then
        set.stepTb3 ((t * 65536 : Nat) - (s.time.tb3.hostV : Int)) else set) []))) ∧
    (AtHand (.timeSet c) s → c.okBits 1 (mask 127 104 + mask 79 0) = true → c.f 1 119 104 = 0 → c.f 1 127 120 ∈ [1, 2, 3] →
      timeObjOk c = true → time80Ns (c.f 1 79 0) = some t → s.mayTimeSet (c.f 1 127 120) = false →
      RefusedWith (.timeSet c) c s stBadState) ∧
    (AtHand (.timeSet c) s → c.f 1 127 120 = 0 → RefusedWith (.timeSet c) c s stBadArg) ∧
    (∀ n, n ∈ [1, 2] → (s.mayTimeSet n = true ↔ bits (s.pget (0x12000000 + n)) 31 24 = 0 ∨ bits (s.pget (0x12000000 + n)) 7 0 = 1 ∨
      (s.tb n).portState = 6)) ∧
    (s.mayTimeSet 3 = true ↔ s.pget 0x12000051 = 3) ∧
    (AtHand (.timeCompare c) s → c.okBits 1 (mask 127 104 + mask 79 0) = true → c.f 1 127 120 ≤ 3 → c.f 1 119 112 ≤ 7 →
      c.f 1 111 104 = 1 → timeObjOk c = true → time80Ns (c.f 1 79 0) = some t → s.baseNs (c.f 1 127 120) = some v →
      v < t → t - v < 2 ^ 39 →
      exec (.timeCompare c) s = .next (report c (answer ((taken c s).modCompare (c.f 1 119 112) (fun _ =>
        { armed := true, base := c.f 1 127 120, t := t })) []))) ∧
    (slot < 8 → (s.time.compares.getD slot {}).armed = true → s.baseNs (s.time.compares.getD slot {}).base = some v →
      ∃ u, exec (.compareFire slot) s = .next u ∧ (u.time.compares.getD slot {}).armed = false ∧ bit u.host.irq.status.toNat 23 = true) ∧
    (s.dev.state ≠ .off → ∃ u, exec (.timeLatch w) s = .next u ∧
      (∀ n, n < s.time.latches.length → u.time.latches.getD n {} = if bit w.toNat n then s.latchOf n else s.time.latches.getD n {}) ∧
      u.time.tb0 = s.time.tb0 ∧ u.time.tb1 = s.time.tb1 ∧ u.time.tb2 = s.time.tb2 ∧ u.time.tb3 = s.time.tb3) ∧
    (s.dev.state ≠ .off → exec (.tsqPop p) s = .next (s.modTime (fun x => { x with
      tsq := updAt x.tsq p (fun q => { q with entries := q.entries.drop 1 }) }))) ∧
    (bits (s.pget 0x12000053) 7 0 ≠ 0 → s.baseNs (bits (s.pget 0x12000053) 7 0 - 1) = some v →
      ∃ u, exec .ppsOutPulse s = .next u ∧ Out.pulse "PPS_OUT" (bits (s.pget 0x12000053) 31 16) ∈ u.out ∧ u.time.ppsOutLast = some u.now ∧ s.now ≤ u.now) ∧
    (s.pget 0x12000054 = 1 → (∀ l, s.time.ppsInLast = some l → l + 500000000 ≤ s.now) →
      exec .ppsInEdge s = .next ((s.modTime (fun x => { x with ppsInLast := some s.now })).raise 0x12 6 0 (s.baseShort 1) (s.baseShort 2))) ∧
    (s.pget 0x12000054 ≠ 1 ∨ (∃ l, s.time.ppsInLast = some l ∧ s.now < l + 500000000) → exec .ppsInEdge s = .next s) ∧
    (∃ u, exec .ppsInEdge s = .next u ∧ u.time.tb0 = s.time.tb0 ∧ u.time.tb1 = s.time.tb1 ∧ u.time.tb2 = s.time.tb2 ∧
      u.time.tb3 = s.time.tb3)

/-- O57.  Network: NET_FLOW binds a transmit flow and clears a flow; a link's change is reported once; a datagram
without room, in IPv4 fragments or with another VLAN's tag is dropped and counted; an echo is answered; an incomplete
unit is abandoned at its time (R400, R401, R404, R407). -/
def Obligations.Network : Prop :=
  ∀ (c : Cmd) (s : State) (port : Nat) (up arp : Bool) (d : Udp) (f : Flow) (u : NetUnit),
    (AtHand (.netFlow c) s → c.f 1 127 120 ≤ 15 → c.f 1 119 112 = 2 → c.object.toNat = 0 → flowArgsOk c = true →
      s.flow? (c.f 1 127 120) = none → s.time.flows.any (fun f => f.port == c.f 1 111 104 && f.localPort == c.f 1 47 32) = false →
      exec (.netFlow c) s = .next (report c (answer ((taken c s).modTime (fun t => { t with flows := t.flows ++ [
        { n := c.f 1 127 120, op := 2, port := c.f 1 111 104, dscp := c.f 1 103 96, remoteIp := c.f 1 95 64, remotePort := c.f 1 63 48
          localPort := c.f 1 47 32, group := c.f 1 31 0, unitMax := c.f 2 31 0, scene := 0 }] })) []))) ∧
    (AtHand (.netFlow c) s → c.f 1 127 120 ≤ 15 → c.f 1 119 112 = 0 → c.object.toNat = 0 → c.okBits 2 (mask 31 0) = true →
      s.flowEncodes (c.f 1 127 120) = false →
      exec (.netFlow c) s = .next (report c (answer ((taken c s).clearFlow (c.f 1 127 120)) []))) ∧
    (port < 4 → (up = true → s.netP port 0 ≠ 0 ∧ (s.domain 45).st = 2) → port < s.time.ports.length →
      ∃ t, exec (.netLinkChange port up) s = .next t ∧ (t.netPort port).up = up ∧ (∀ n, n ≠ port → t.netPort n = s.netPort n) ∧
        ((s.netPort port).up = up → t = s)) ∧
    (AtHand (.netFlow c) s → c.f 1 127 120 ≤ 15 → c.f 1 119 112 = 0 → c.object.toNat = 0 → c.okBits 2 (mask 31 0) = false →
      RefusedWith (.netFlow c) c s stBadArg) ∧
    ((s.netPort port).up = false ∨ d.room = false ∨ d.frag = true ∨ d.vid ≠ bits (s.netP port 3) 11 0 →
      exec (.udpDatagram port d) s = .next (s.modNet port (fun x => { x with rxDropped := x.rxDropped + 1 }))) ∧
    ((s.netPort port).up = true → d.room = true → d.frag = false → d.vid = bits (s.netP port 3) 11 0 → s.time.flows.find? (s.flowTakes port d) = some f →
      exec (.udpDatagram port d) s = .next ((s.modNet port (fun x => { x with rxFrames := x.rxFrames + 1 })).flowDatagram f d)) ∧
    ((s.netPort port).up = true → exec (.icmpEcho port arp) s = .next
      ((s.modNet port (fun x => { x with rxFrames := x.rxFrames + 1, txFrames := x.txFrames + 1 })).emit
        (.ether port (if arp then 2 else 1) [s.netP port 4 / 2 ^ 32]))) ∧
    (s.flow? f.n = some f → f.unit? u.num = some u → u.gone = false → u.complete = false → f.raised = false → f.cause = 0 →
      ∃ t, exec (.reassemblyTimeout f.n u.num) s = .next t ∧ u.t0 + s.pget 0x12000055 * 1000000 ≤ t.now ∧
        ∃ g, t.flow? f.n = some g ∧ g.raised = true ∧ g.cause = 0)

/-- O58.  PTP: a message gives the base the port state that its role admits and the grandmaster; a Sync is sent, at
its interval since the one before, with its transmit timestamp queued; when the announces stop the base goes to
LISTENING or becomes the master (R385, R391, R399). That the port of a base which may be master becomes one is the
model's choice (PRESUMED, from IEEE 1588). -/
def Obligations.PtpMessages : Prop :=
  ∀ (s : State) (base seq gm : Nat) (r : PtpRx), s.ptpOn base = true →
    (roleAdmits (bits (s.ptpCfg base) 7 0) r.portState = true → r.master = none → r.answer = none →
      ∃ t, exec (.ptpMessage base r) s = .next t ∧ (t.tb base).portState = r.portState ∧ (t.tb base).gm = r.gm ∧
        (t.tb base).v = (s.tb base).v ∧ t.tb (3 - base) = s.tb (3 - base)) ∧
    ((s.tb base).portState = 6 → ((s.time.tsq.getD (bits (s.ptpCfg base) 15 8) {}).entries.length < 32) →
      bits (s.ptpCfg base) 15 8 < s.time.tsq.length →
      ∃ t e, exec (.ptpSend base 0 seq) s = .next t ∧
        (t.time.tsq.getD (bits (s.ptpCfg base) 15 8) {}).entries = (s.time.tsq.getD (bits (s.ptpCfg base) 15 8) {}).entries ++ [e] ∧
        e.type = 0 ∧ e.base = base ∧ e.seqId = seq % 65536 ∧ (t.tb base).lastSync = some t.now ∧
        ∀ l, (s.tb base).lastSync = some l → l + log2Ns (bits (s.pget (0x12000020 + base)) 15 8) ≤ t.now) ∧
    (bits (s.ptpCfg base) 7 0 = 0 → (s.tb base).portState ≠ 6 →
      ∃ t, exec (.announceReceiptTimeout base gm) s = .next t ∧ (t.tb base).portState = 4 ∧ (t.tb base).locked = false)

/-! ### Laws of shared operations -/

/-- O59.  The ledgers of a tile stay balanced: with the drive of the last boundary made or not, L0 is 0 or 1 and L1
follows it by the inversion mode, through every SUBFRAME_START and every STATUS that marks the drive as made (R306 to
R308). -/
def Obligations.LedgersBalanced : Prop :=
  ∀ (s : State) (t frame sf k rep sCount dark : Nat) (fm : Option Nat), Balanced (s.tile t) →
    Balanced ((s.sendStart t frame sf k rep sCount dark fm).tile t) ∧ Balanced ((s.tile t).mark frame sf) ∧
      (∀ n, n ≠ t → (s.sendStart t frame sf k rep sCount dark fm).tile n = s.tile n)

/-- O60.  Placement of new baskets: every copy lies on a working channel, and the two copies of a critical basket lie
in different packages (R172). -/
def Obligations.CopiesApart : Prop :=
  ∀ (s : State) (ps : List Basket) (a : Alloc),
    let out := (s.allotAll a ps).2
    out.length = ps.length ∧
    (∀ b ∈ out, (∀ c ∈ b.chans, s.works c = true) ∧ b.chans.length ≤ 2 ∧
      (∀ c d, b.chans = [c, d] → b.cls = 0 ∧ c / 4 ≠ d / 4))
end

