-- ==== Sys2Proof/Laws/Flags.lean ====
section
/-! SUPPORT. The bits of numbers: reading a bit after setting or clearing one. -/

namespace Sys2Proof.Machine

open Sys2Proof

theorem bit_eq_testBit (w n : Nat) : bit w n = w.testBit n := by
  unfold bit Nat.testBit
  rw [Nat.and_comm, Nat.and_one_is_mod]
  rcases Nat.mod_two_eq_zero_or_one (w >>> n) with h | h <;> rw [h] <;> rfl

/-- A bit that has been put reads as it was put. -/
@[simp] theorem bit_putBit_true (w n : Nat) : bit (putBit w n true) n = true := by
  rw [bit_eq_testBit]
  simp [putBit, Nat.one_shiftLeft]

/-- Setting a bit leaves the others alone. -/
theorem bit_putBit_true_of_ne {w n m : Nat} (h : m ≠ n) : bit (putBit w n true) m = bit w m := by
  simp only [bit_eq_testBit, putBit, if_true, Nat.testBit_or, Nat.one_shiftLeft, Nat.testBit_two_pow]
  simp [Ne.symm h]

/-- A bit that has been cleared reads 0. -/
@[simp] theorem bit_putBit_false (w n : Nat) : bit (putBit w n false) n = false := by
  have h : w &&& 1 <<< n = if w.testBit n then 2 ^ n else 0 := by
    apply Nat.eq_of_testBit_eq
    intro i
    rw [Nat.testBit_and, Nat.one_shiftLeft, Nat.testBit_two_pow]
    by_cases e : n = i
    · subst e
      cases hw : w.testBit n <;> simp
    · cases hw : w.testBit n <;> simp [e]
  simp only [putBit, Bool.false_eq_true, if_false, h]
  cases hw : w.testBit n
  · simpa [bit_eq_testBit] using hw
  · have hle : 2 ^ n * 1 ≤ w := by
      have := Nat.ge_two_pow_of_testBit hw
      omega
    have hd : (w - 2 ^ n * 1) / 2 ^ n = w / 2 ^ n - 1 := Nat.sub_mul_div_of_le _ _ _ hle
    have hb : w / 2 ^ n % 2 = 1 := by
      have := bit_eq_testBit w n
      rw [hw] at this
      simpa [bit, Nat.shiftRight_eq_div_pow] using this
    simp only [if_true, bit, Nat.shiftRight_eq_div_pow]
    rw [Nat.mul_one] at hd
    rw [hd]
    have : (w / 2 ^ n - 1) % 2 = 0 := by omega
    rw [this]; rfl

/-- A register keeps the bits that fit in it. -/
theorem bit_mod {w n k : Nat} (h : n < k) : bit (w % 2 ^ k) n = bit w n := by
  simp [bit_eq_testBit, Nat.testBit_mod_two_pow, h]

theorem bit_ofNat {w n k : Nat} (h : n < k) : bit (BitVec.ofNat k w).toNat n = bit w n := by
  rw [BitVec.toNat_ofNat, bit_mod h]

end Sys2Proof.Machine
end

