-- ==== Sys2Proof/Laws/HostCmd.lean ====
section
/-! SUPPORT. What a host command does: once for all of them, in the terms of the statements. -/

namespace Sys2Proof.Machine

open Sys2Proof Sys2Proof.Safety

/-- The fields of a state whose command has been taken: only the host interface and the wait for a self-test move. -/
theorem taken_host (c : Cmd) (s : State) : taken c s = { s with host := (taken c s).host, start := (taken c s).start } := rfl

@[simp] theorem taken_dev (c : Cmd) (s : State) : (taken c s).dev = s.dev := rfl
@[simp] theorem taken_ev (c : Cmd) (s : State) : (taken c s).ev = s.ev := rfl
@[simp] theorem taken_par (c : Cmd) (s : State) : (taken c s).par = s.par := rfl
@[simp] theorem taken_objs (c : Cmd) (s : State) : (taken c s).objs = s.objs := rfl
@[simp] theorem taken_fw (c : Cmd) (s : State) : (taken c s).fw = s.fw := rfl
@[simp] theorem taken_tim (c : Cmd) (s : State) : (taken c s).tim = s.tim := rfl
@[simp] theorem taken_time (c : Cmd) (s : State) : (taken c s).time = s.time := rfl
@[simp] theorem taken_mem (c : Cmd) (s : State) : (taken c s).mem = s.mem := rfl
@[simp] theorem taken_pwr (c : Cmd) (s : State) : (taken c s).pwr = s.pwr := rfl
@[simp] theorem taken_saf (c : Cmd) (s : State) : (taken c s).saf = s.saf := rfl
@[simp] theorem taken_pair (c : Cmd) (s : State) : (taken c s).pair = s.pair := rfl
@[simp] theorem taken_direct (c : Cmd) (s : State) : (taken c s).direct = s.direct := rfl
@[simp] theorem taken_enc (c : Cmd) (s : State) : (taken c s).enc = s.enc := rfl
@[simp] theorem taken_ingest (c : Cmd) (s : State) : (taken c s).ingest = s.ingest := rfl
@[simp] theorem taken_dec (c : Cmd) (s : State) : (taken c s).dec = s.dec := rfl
@[simp] theorem taken_synth (c : Cmd) (s : State) : (taken c s).synth = s.synth := rfl
@[simp] theorem taken_place (c : Cmd) (s : State) : (taken c s).place = s.place := rfl
@[simp] theorem taken_link (c : Cmd) (s : State) : (taken c s).link = s.link := rfl
@[simp] theorem taken_panel (c : Cmd) (s : State) : (taken c s).panel = s.panel := rfl
@[simp] theorem taken_comp (c : Cmd) (s : State) : (taken c s).comp = s.comp := rfl
@[simp] theorem taken_free (c : Cmd) (s : State) : (taken c s).free = s.free := rfl
@[simp] theorem taken_out (c : Cmd) (s : State) : (taken c s).out = s.out := rfl
@[simp] theorem taken_pending (c : Cmd) (s : State) : (taken c s).pending = s.pending := rfl
@[simp] theorem taken_pget (c : Cmd) (s : State) (id : Nat) : (taken c s).pget id = s.pget id := rfl
@[simp] theorem taken_obj (c : Cmd) (s : State) (id : Nat) : (taken c s).obj? id = s.obj? id := rfl
@[simp] theorem taken_sceneOf (c : Cmd) (s : State) (id : Nat) : (taken c s).sceneOf id = s.sceneOf id := rfl

/-- Outside a self-test nothing waits for one. -/
theorem taken_start (c : Cmd) (s : State) (h : s.start.selftest = none) : (taken c s).start = s.start := by
  have e : s.needsCore c = false := by unfold State.needsCore; simp [h]
  show ({ s.start with service := s.start.service || s.needsCore c } : Start) = s.start
  rw [e, Bool.or_false]

/-- A host command that the device takes now: the checks of R54, then its body. -/
theorem hostCmdWith_fetched {i : Instr} {row : CmdRow} {c : Cmd} {s : State} (body : Cmd → State → Ran) (post : Cmd → State → State)
    (h : hostRow i = some (c, row)) (f : Fetched i s) :
    hostCmdWith i row body post c s =
      match commonChecks row c (taken c s) with
      | some st => report c (refuse (taken c s) st)
      | none =>
        if (body c (taken c s)).a.status = stOk ∨ (body c (taken c s)).a.status = stAccepted
          then post c (report c (body c (taken c s))) else report c (body c (taken c s)) := by
  simp only [Fetched, h] at f
  obtain ⟨f1, f2, f3⟩ := f
  have e : (!({ s with host := { s.host with fetching := none } } : State).fetchable c.mb ||
      ({ s with host := { s.host with fetching := none } } : State).limited i || (!(s.host.fetching == some c.mb) &&
        (!(s.mailbox c.mb).ring.isEmpty || !({ s with host := { s.host with fetching := none } } : State).turnOf c.mb))) = false := by
    have e1 : ({ s with host := { s.host with fetching := none } } : State).fetchable c.mb = true := f1
    have e2 : ({ s with host := { s.host with fetching := none } } : State).limited i = false := f2
    have e3 : ({ s with host := { s.host with fetching := none } } : State).turnOf c.mb = s.turnOf c.mb := rfl
    rcases f3 with g | ⟨g, g'⟩ <;> simp [e1, e2, e3, g, *]
  unfold hostCmdWith
  exact (if_neg (by simp only [e]; exact Bool.false_ne_true)).trans rfl

/-- A host command that is at hand runs its body on the state that has taken it, answers, and then has its late effect. -/
theorem hostCmdWith_atHand {i : Instr} {row : CmdRow} {c : Cmd} {s : State} (body : Cmd → State → Ran) (post : Cmd → State → State)
    (h : hostRow i = some (c, row)) (a : AtHand i s) :
    hostCmdWith i row body post c s =
      if (body c (taken c s)).a.status = stOk ∨ (body c (taken c s)).a.status = stAccepted
        then post c (report c (body c (taken c s))) else report c (body c (taken c s)) := by
  have k := a.2
  simp only [firstFailed, h] at k
  rw [hostCmdWith_fetched body post h a.1, k]

theorem hostCmd_atHand {i : Instr} {row : CmdRow} {c : Cmd} {s : State} (body : Cmd → State → Ran)
    (h : hostRow i = some (c, row)) (a : AtHand i s) : hostCmd i row body c s = report c (body c (taken c s)) := by
  unfold hostCmd
  rw [hostCmdWith_atHand body _ h a]
  exact ite_self _

/-- A host command that fails a check of R54 is refused with that check's status. -/
theorem hostCmdWith_failed {i : Instr} {row : CmdRow} {c : Cmd} {s : State} {st : Nat} (body : Cmd → State → Ran)
    (post : Cmd → State → State) (h : hostRow i = some (c, row)) (f : Fetched i s) (k : firstFailed i s = some st) :
    hostCmdWith i row body post c s = report c (refuse (taken c s) st) := by
  simp only [firstFailed, h] at k
  rw [hostCmdWith_fetched body post h f, k]

/-- A host command that the device does not take now keeps its place in its ring. -/
theorem hostCmdWith_waits {i : Instr} {row : CmdRow} {c : Cmd} {s : State} (body : Cmd → State → Ran) (post : Cmd → State → State)
    (h : hostRow i = some (c, row)) (f : ¬ Fetched i s) :
    hostCmdWith i row body post c s = ({ s with host := { s.host with fetching := none } } : State).modMb c.mb (fun m =>
      { m with ring := if s.host.fetching = some c.mb then i :: m.ring else m.ring ++ [i] }) := by
  have e1 : ({ s with host := { s.host with fetching := none } } : State).fetchable c.mb = s.fetchable c.mb := rfl
  have e2 : ({ s with host := { s.host with fetching := none } } : State).limited i = s.limited i := rfl
  have e3 : ({ s with host := { s.host with fetching := none } } : State).turnOf c.mb = s.turnOf c.mb := rfl
  simp only [Fetched, h] at f
  unfold hostCmdWith
  simp only [e1, e2, e3]
  rw [if_pos]
  · by_cases g : s.host.fetching = some c.mb <;> simp [g]
  · cases h1 : s.fetchable c.mb <;> cases h2 : s.limited i <;> cases h4 : s.turnOf c.mb <;>
      by_cases g : s.host.fetching = some c.mb <;> by_cases h3 : (s.mailbox c.mb).ring = [] <;> simp_all

end Sys2Proof.Machine
end

