-- ==== Sys2Proof/Laws/Quiet.lean ====
section
/-! SUPPORT. What raising an event, setting a pending bit and sending leave alone: everything but the collector, the tail
and the dropped flag of the event queue, the pending bits, and what the block has sent. -/

namespace Sys2Proof.Machine

open Sys2Proof Sys2Proof.Safety

/-- A state without what an event touches. -/
def State.rest (s : State) : State :=
  { s with
    ev := {}
    out := []
    host := { s.host with eq := { s.host.eq with tail := 0, droppedFlag := false }, irq := { s.host.irq with status := 0 } } }

@[simp] theorem State.emit_rest (s : State) (o : Out) : (s.emit o).rest = s.rest := rfl

@[simp] theorem State.emits_rest (os : List Out) : ∀ s : State, (s.emits os).rest = s.rest := by
  induction os with
  | nil => intro s; rfl
  | cons o os ih => intro s; exact (ih _).trans (State.emit_rest s o)

@[simp] theorem State.irqMsg_rest (s : State) (v : Nat) : (s.irqMsg v).rest = s.rest := by
  unfold State.irqMsg; split <;> rfl

@[simp] theorem State.setPend_rest (s : State) (v : Nat) : (s.setPend v).rest = s.rest := by
  unfold State.setPend; exact (State.irqMsg_rest _ v).trans rfl

@[simp] theorem State.writeRecord_rest (s : State) (h : HeldEvent) : (s.writeRecord h).rest = s.rest := by
  unfold State.writeRecord
  extract_lets q x q' g y
  have e : y.rest = s.rest := rfl
  clear_value y
  split
  · exact (State.setPend_rest y 1).trans e
  · exact e

theorem State.rest_ev (s : State) (e : Collector) : ({ s with ev := e } : State).rest = s.rest := rfl

@[simp] theorem State.writeCoalesced_rest (s : State) (e : OverflowEntry) : (s.writeCoalesced e).rest = s.rest :=
  (State.writeRecord_rest _ _).trans rfl

@[simp] theorem State.writeKept_rest (s : State) (e : OverflowEntry) : (s.writeKept e).rest = s.rest :=
  (State.writeRecord_rest _ _).trans rfl

@[simp] theorem State.writeHeld_rest (s : State) : s.writeHeld.rest = s.rest := by
  unfold State.writeHeld
  split
  · rfl
  · split
    · exact State.writeCoalesced_rest s _
    · split
      · rfl
      · exact (State.writeRecord_rest _ _).trans rfl
      · exact State.writeKept_rest s _
      · split
        · exact State.writeKept_rest s _
        · exact (State.writeRecord_rest _ _).trans rfl

@[simp] theorem State.makeOpen_rest (severity n : Nat) : ∀ s : State, (s.makeOpen severity n).rest = s.rest := by
  induction n with
  | zero => intro s; rfl
  | succ n ih =>
    intro s
    unfold State.makeOpen
    split
    · rfl
    · exact (ih _).trans (State.writeHeld_rest s)

@[simp] theorem State.collect_rest (s : State) (h : HeldEvent) : (s.collect h).rest = s.rest := by
  unfold State.collect
  extract_lets n
  split
  · split
    · rfl
    · split <;> rfl
  · split <;> rfl

/-- A severity-4 event also moves the safety mirror. -/
theorem State.safetyEvent_rest (s : State) (source code : Nat) (seq : Reg) :
    (s.safetyEvent source code seq).rest = { s.rest with saf := (s.safetyEvent source code seq).saf } := by
  have hp : ∀ x : State, (x.setPend 0).saf = x.saf := fun x => by
    have e := congrArg (fun z : State => z.saf) (State.setPend_rest x 0)
    exact e
  unfold State.safetyEvent
  extract_lets g x
  rw [State.setPend_rest, hp]
  rfl

theorem State.raiseAt_rest_saf (s : State) (t source code severity arg arg2 : Nat) :
    (s.raiseAt t source code severity arg arg2).rest = { s.rest with saf := (s.raiseAt t source code severity arg arg2).saf } := by
  have key : ∀ x y : State, y.rest = x.rest → ∀ q : State, x.rest = { q with saf := x.saf } → y.rest = { q with saf := y.saf } := by
    intro x y h q e
    have hs : y.saf = x.saf := by
      have e := congrArg (fun z : State => z.saf) h
      exact e
    rw [h, hs]
    exact e
  unfold State.raiseAt
  split
  · rfl
  · extract_lets seq e h c y z
    refine key _ _ (State.collect_rest _ h) s.rest ?_
    refine key z _ (State.makeOpen_rest severity _ z) s.rest ?_
    simp only [z]
    split
    · exact State.safetyEvent_rest y source code seq
    · rfl

/-- An event of a severity below 4 touches the collector, the event queue's tail and dropped flag, the pending bits and
what is sent; nothing else. -/
theorem State.raiseAt_rest (s : State) (t source code severity arg arg2 : Nat) (h : severity ≠ 4) :
    (s.raiseAt t source code severity arg arg2).rest = s.rest := by
  unfold State.raiseAt
  split
  · rfl
  · extract_lets seq e h' c y z
    refine (State.collect_rest _ h').trans ((State.makeOpen_rest severity _ z).trans ?_)
    simp only [z, h, if_false]
    rfl

theorem State.raise_rest (s : State) (source code severity arg arg2 : Nat) (h : severity ≠ 4) :
    (s.raise source code severity arg arg2).rest = s.rest := State.raiseAt_rest s s.now source code severity arg arg2 h

theorem State.cmdDone_rest (s : State) (mb op tag status obj : Nat) : (s.cmdDone mb op tag status obj).rest = s.rest :=
  State.raise_rest s 2 1 0 _ _ (by decide)

/-- A response touches its mailbox, the pending bits and what is sent. -/
theorem State.respond_rest (s : State) (mb : Nat) (r : Rsp) :
    (s.respond mb r).rest = { s.rest with host := { s.rest.host with mb := (s.respond mb r).host.mb } } := by
  unfold State.respond
  extract_lets m
  split
  · rfl
  · split
    · rfl
    · unfold State.putRsp
      extract_lets i x y
      have e : ∀ z : State, (z.setPend (2 + mb)).host.mb = z.host.mb := fun z => by
        have e := congrArg (fun z : State => z.host.mb) (State.setPend_rest z (2 + mb))
        exact e
      rw [State.setPend_rest, e]
      rfl

/-- What is left of a state without its mailboxes and jobs too. -/
def State.restJobs (s : State) : State := { s.rest with host := { s.rest.host with mb := [], jobs := [], nextJob := 0 } }

theorem State.respond_restJobs (s : State) (mb : Nat) (r : Rsp) : (s.respond mb r).restJobs = s.restJobs := by
  unfold State.restJobs; rw [State.respond_rest]

theorem State.restJobs_of_rest {s t : State} (h : t.rest = s.rest) : t.restJobs = s.restJobs := by
  unfold State.restJobs; rw [h]

/-- The answer to a host command touches the host interface's mailboxes and jobs beside what an event touches. -/
theorem report_restJobs (c : Cmd) (r : Ran) : (report c r).restJobs = r.s.restJobs := by
  unfold report
  extract_lets x obj want ev
  have hx : x.restJobs = r.s.restJobs := rfl
  clear_value x obj want ev
  split
  · split
    · exact (State.respond_restJobs ..).trans hx
    · exact hx
  · rename_i _ y _ _
    have hy : y.restJobs = r.s.restJobs := by
      simp only [y]; split
      · exact (State.respond_restJobs ..).trans hx
      · exact hx
    clear_value y
    split
    · exact (State.restJobs_of_rest (State.cmdDone_rest ..)).trans hy
    · exact hy

/-- So does the end of a job. -/
theorem State.endJob_restJobs (s : State) (id status : Nat) (ws : List Word) : (s.endJob id status ws).restJobs = s.restJobs := by
  unfold State.endJob
  split
  · rfl
  · rename_i j _
    extract_lets g x y
    have hx : x.restJobs = s.restJobs := rfl
    clear_value x
    have hy : y.restJobs = s.restJobs := by
      simp only [y]; split
      · exact (State.respond_restJobs ..).trans hx
      · exact hx
    clear_value y
    split
    · exact (State.restJobs_of_rest (State.cmdDone_rest ..)).trans hy
    · exact hy

/-- A response leaves the jobs alone. -/
theorem State.respond_jobs (s : State) (mb : Nat) (r : Rsp) :
    (s.respond mb r).host.jobs = s.host.jobs ∧ (s.respond mb r).host.nextJob = s.host.nextJob := by
  have h := congrArg (fun z : State => (z.host.jobs, z.host.nextJob)) (State.respond_rest s mb r)
  exact ⟨congrArg Prod.fst h, congrArg Prod.snd h⟩

theorem State.jobs_of_rest {s t : State} (h : t.rest = s.rest) : t.host.jobs = s.host.jobs ∧ t.host.nextJob = s.host.nextJob := by
  have h := congrArg (fun z : State => (z.host.jobs, z.host.nextJob)) h
  exact ⟨congrArg Prod.fst h, congrArg Prod.snd h⟩

/-- The end of a job takes it off the list. -/
theorem State.endJob_jobs (s : State) (id status : Nat) (ws : List Word) :
    (s.endJob id status ws).host.jobs = (if (s.job? id).isSome then s.host.jobs.filter (fun k => k.id != id) else s.host.jobs) ∧
      (s.endJob id status ws).host.nextJob = s.host.nextJob := by
  unfold State.endJob
  split
  · rename_i h; rw [h]; exact ⟨rfl, rfl⟩
  · rename_i j h
    rw [h]
    extract_lets g x y
    have hx : x.host.jobs = s.host.jobs.filter (fun k => k.id != id) ∧ x.host.nextJob = s.host.nextJob := ⟨rfl, rfl⟩
    clear_value x
    have hy : y.host.jobs = s.host.jobs.filter (fun k => k.id != id) ∧ y.host.nextJob = s.host.nextJob := by
      simp only [y]; split
      · exact ⟨(State.respond_jobs ..).1.trans hx.1, (State.respond_jobs ..).2.trans hx.2⟩
      · exact hx
    clear_value y
    split
    · have hc := State.jobs_of_rest (State.cmdDone_rest y j.mb j.opcode.toNat j.tag.toNat status j.object.toNat)
      exact ⟨hc.1.trans hy.1, hc.2.trans hy.2⟩
    · exact hy

/-! ### What has been sent stays sent -/

/-- Every output of s is an output of t. -/
def Sent (s t : State) : Prop := ∀ o ∈ s.out, o ∈ t.out

theorem Sent.rfl' {s : State} : Sent s s := fun _ h => h

theorem Sent.trans {s t u : State} (h : Sent s t) (g : Sent t u) : Sent s u := fun o ho => g o (h o ho)

theorem sent_of_out {s t : State} (h : t.out = s.out) : Sent s t := fun _ ho => h ▸ ho

theorem sent_emit (s : State) (o : Out) : Sent s (s.emit o) := fun _ h => List.mem_cons_of_mem _ h

theorem sent_setPend (s : State) (v : Nat) : Sent s (s.setPend v) := by
  unfold State.setPend
  extract_lets g q x
  have h : Sent s x := sent_of_out rfl
  clear_value x
  unfold State.irqMsg
  split
  · exact h
  · exact h.trans (sent_emit x _)

theorem sent_writeRecord (s : State) (h : HeldEvent) : Sent s (s.writeRecord h) := by
  unfold State.writeRecord
  extract_lets q x q' g y
  have h : Sent s y := (sent_emit s _).trans (sent_of_out rfl)
  clear_value y
  split
  · exact h.trans (sent_setPend y 1)
  · exact h

theorem sent_ev {s t : State} (h : Sent s t) (e : Collector) : Sent s { t with ev := e } := h

theorem sent_writeCoalesced (s : State) (e : OverflowEntry) : Sent s (s.writeCoalesced e) :=
  (sent_ev Sent.rfl' _).trans (sent_writeRecord _ _)

theorem sent_writeKept (s : State) (e : OverflowEntry) : Sent s (s.writeKept e) :=
  (sent_ev Sent.rfl' _).trans (sent_writeRecord _ _)

theorem sent_writeHeld (s : State) : Sent s s.writeHeld := by
  unfold State.writeHeld
  split
  · exact Sent.rfl'
  · split
    · exact sent_writeCoalesced s _
    · split
      · exact Sent.rfl'
      · exact (sent_ev Sent.rfl' _).trans (sent_writeRecord _ _)
      · exact sent_writeKept s _
      · split
        · exact sent_writeKept s _
        · exact (sent_ev Sent.rfl' _).trans (sent_writeRecord _ _)

theorem sent_makeOpen (severity n : Nat) : ∀ s : State, Sent s (s.makeOpen severity n) := by
  induction n with
  | zero => intro s; exact Sent.rfl'
  | succ n ih =>
    intro s
    unfold State.makeOpen
    split
    · exact Sent.rfl'
    · exact (sent_writeHeld s).trans (ih _)

theorem collect_out (s : State) (h : HeldEvent) : (s.collect h).out = s.out := by
  unfold State.collect
  extract_lets n
  split
  · split
    · rfl
    · split <;> rfl
  · split <;> rfl

theorem sent_safetyEvent (s : State) (source code : Nat) (seq : Reg) : Sent s (s.safetyEvent source code seq) := by
  unfold State.safetyEvent
  extract_lets g x
  exact (sent_of_out (t := x) rfl).trans (sent_setPend x 0)

theorem sent_raiseAt (s : State) (t source code severity arg arg2 : Nat) : Sent s (s.raiseAt t source code severity arg arg2) := by
  unfold State.raiseAt
  split
  · exact Sent.rfl'
  · extract_lets seq e h c y z
    have hz : Sent s z := by
      simp only [z]; split
      · exact (sent_of_out (t := y) rfl).trans (sent_safetyEvent y _ _ _)
      · exact sent_of_out rfl
    exact (hz.trans (sent_makeOpen severity _ z)).trans (sent_of_out (collect_out _ h))

theorem sent_raise (s : State) (source code severity arg arg2 : Nat) : Sent s (s.raise source code severity arg arg2) :=
  sent_raiseAt s s.now source code severity arg arg2

theorem sent_respond (s : State) (mb : Nat) (r : Rsp) : Sent s (s.respond mb r) := by
  unfold State.respond
  extract_lets m
  split
  · exact Sent.rfl'
  · split
    · exact sent_of_out rfl
    · unfold State.putRsp
      extract_lets i x y
      have h : Sent s y := sent_emit s _
      clear_value y
      exact h.trans (sent_setPend y _)

theorem sent_endJob (s : State) (id status : Nat) (ws : List Word) : Sent s (s.endJob id status ws) := by
  unfold State.endJob
  split
  · exact Sent.rfl'
  · rename_i j _
    extract_lets g x y
    have hx : Sent s x := sent_of_out rfl
    have hy : Sent s y := by
      simp only [y]; split
      · exact hx.trans (sent_respond x _ _)
      · exact hx
    clear_value y
    split
    · exact hy.trans (sent_raise y _ _ _ _ _)
    · exact hy

end Sys2Proof.Machine
end

