-- ==== Sys2Proof/Laws/Shape.lean ====
section
/-! SUPPORT. The shape of a state: its queue, and how many entries each file of registers has. -/

namespace Sys2Proof.Machine

open Sys2Proof

/-- The queue, and the number of entries of every file of registers. -/
structure Shape where
  pending : List Instr
  mb : Nat
  ports : Nat
  tiles : Nat
  chans : Nat
  clusters : Nat
  cores : Nat
  cvu : Nat
  compares : Nat
  latches : Nat
  tsq : Nat
  netPorts : Nat

def State.shape (s : State) : Shape :=
  { pending := s.pending, mb := s.host.mb.length, ports := s.link.ports.length, tiles := s.panel.tiles.length
    chans := s.mem.chans.length, clusters := s.synth.clusters.length, cores := s.dec.cores.length, cvu := s.direct.cvu.length
    compares := s.time.compares.length, latches := s.time.latches.length, tsq := s.time.tsq.length, netPorts := s.time.ports.length }

/-- The shape right after an entry to BOOT that keeps the queue and the number of tiles. -/
def Shape.boot (p : List Instr) (tiles : Nat) : Shape :=
  { pending := p, mb := 8, ports := 16, tiles := tiles, chans := 32, clusters := 48, cores := 24, cvu := 8, compares := 8
    latches := 4, tsq := 4, netPorts := 4 }

@[simp] theorem updAt_length {α : Type} (f : α → α) : ∀ (xs : List α) (n : Nat), (updAt xs n f).length = xs.length
  | [], _ => rfl
  | _ :: _, 0 => rfl
  | _ :: xs, n + 1 => by simp [updAt, updAt_length f xs n]

theorem foldl_fst_length {α β γ : Type} (f : List α × β → γ → List α × β) (h : ∀ a x, (f a x).1.length = a.1.length) (l : List γ)
    (a : List α × β) : (l.foldl f a).1.length = a.1.length := by
  induction l generalizing a with
  | nil => rfl
  | cons x xs ih => rw [List.foldl_cons, ih, h]

theorem shape_foldl {α : Type} (f : State → α → State) (h : ∀ s a, (f s a).shape = s.shape) (l : List α) (s : State) :
    (l.foldl f s).shape = s.shape := by
  induction l generalizing s with
  | nil => rfl
  | cons x xs ih => rw [List.foldl_cons, ih, h]

/-- The state of an answer has a shape. -/
def FstShape {α : Type} (p : State × α) (t : Shape) : Prop := p.1.shape = t

def RanShape (r : Ran) (t : Shape) : Prop := r.s.shape = t

theorem fstShape_mk {α : Type} {s : State} {a : α} {t : Shape} (h : s.shape = t) : FstShape (s, a) t := h

theorem ranShape_mk {s : State} {a : Answer} {t : Shape} (h : s.shape = t) : RanShape (Ran.mk s a) t := h

theorem fstShape_eq {α : Type} {p : State × α} {t : Shape} (h : FstShape p t) : p.1.shape = t := h

theorem ranShape_eq {r : Ran} {t : Shape} (h : RanShape r t) : r.s.shape = t := h

theorem FstShape.trans {α : Type} {p : State × α} {t u : Shape} (h : FstShape p t) (e : t = u) : FstShape p u := e ▸ h

theorem RanShape.trans {r : Ran} {t u : Shape} (h : RanShape r t) (e : t = u) : RanShape r u := e ▸ h

/-- A state on the way has the shape, then so has the state after it. -/
theorem shape_cut (x : State) {y t : Shape} (h : x.shape = t) (g : x.shape = t → y = t) : y = t := g h

theorem shape_cut_fst {α : Type} (x : State × α) {y t : Shape} (h : FstShape x t) (g : FstShape x t → y = t) : y = t := g h

theorem shape_cut_ran (x : Ran) {y t : Shape} (h : RanShape x t) (g : RanShape x t → y = t) : y = t := g h

theorem fst_cut {α : Type} (x : State) {y : State × α} {t : Shape} (h : x.shape = t) (g : x.shape = t → FstShape y t) : FstShape y t := g h

theorem fst_cut_fst {α β : Type} (x : State × α) {y : State × β} {t : Shape} (h : FstShape x t) (g : FstShape x t → FstShape y t) :
    FstShape y t := g h

theorem ran_cut (x : State) {y : Ran} {t : Shape} (h : x.shape = t) (g : x.shape = t → RanShape y t) : RanShape y t := g h

theorem ran_cut_fst {α : Type} (x : State × α) {y : Ran} {t : Shape} (h : FstShape x t) (g : FstShape x t → RanShape y t) :
    RanShape y t := g h

theorem ran_cut_ran (x : Ran) {y : Ran} {t : Shape} (h : RanShape x t) (g : RanShape x t → RanShape y t) : RanShape y t := g h

/-- A row answers a next state that has the shape of the state before it. -/
def Keeps (s : State) (o : Host.Outcome State Fault Refusal) : Prop := ∃ t, o = .next t ∧ t.shape = s.shape

theorem keeps_next {s t : State} (h : t.shape = s.shape) : Keeps s (.next t) := ⟨t, rfl, h⟩

theorem keeps_cut (x : State) {s : State} {o : Host.Outcome State Fault Refusal} (h : x.shape = s.shape)
    (g : x.shape = s.shape → Keeps s o) : Keeps s o := g h

theorem keeps_cut_fst {α : Type} (x : State × α) {s : State} {o : Host.Outcome State Fault Refusal} (h : FstShape x s.shape)
    (g : FstShape x s.shape → Keeps s o) : Keeps s o := g h

theorem keeps_ite {c : Prop} [Decidable c] {s : State} {a b : Host.Outcome State Fault Refusal} (ha : Keeps s a) (hb : Keeps s b) :
    Keeps s (if c then a else b) := by split <;> assumption

/-- What a row does to the shape that may enter BOOT: it stays, or it is a fresh one with the same queue. -/
def Reboots (s : State) (o : Host.Outcome State Fault Refusal) : Prop :=
  ∃ t, o = .next t ∧ (t.shape = s.shape ∨ t.shape = Shape.boot s.shape.pending s.shape.tiles ∨ t.shape = Shape.boot s.shape.pending 16)

theorem shape_mk (a b c d e f g h i j k l m n o p q r s t u v w x y) :
    State.shape (State.mk a b c d e f g h i j k l m n o p q r s t u v w x y) =
      Shape.mk y c.mb.length t.ports.length u.tiles.length i.chans.length r.clusters.length q.cores.length n.cvu.length
        h.compares.length h.latches.length h.tsq.length h.ports.length := rfl

theorem shape_pending (s : State) : s.pending = s.shape.pending := rfl
theorem shape_mb (s : State) : s.host.mb.length = s.shape.mb := rfl
theorem shape_ports (s : State) : s.link.ports.length = s.shape.ports := rfl
theorem shape_tiles (s : State) : s.panel.tiles.length = s.shape.tiles := rfl
theorem shape_chans (s : State) : s.mem.chans.length = s.shape.chans := rfl
theorem shape_clusters (s : State) : s.synth.clusters.length = s.shape.clusters := rfl
theorem shape_cores (s : State) : s.dec.cores.length = s.shape.cores := rfl
theorem shape_cvu (s : State) : s.direct.cvu.length = s.shape.cvu := rfl
theorem shape_compares (s : State) : s.time.compares.length = s.shape.compares := rfl
theorem shape_latches (s : State) : s.time.latches.length = s.shape.latches := rfl
theorem shape_tsq (s : State) : s.time.tsq.length = s.shape.tsq := rfl
theorem shape_netPorts (s : State) : s.time.ports.length = s.shape.netPorts := rfl
theorem shape_eta (s : State) : Shape.mk s.shape.pending s.shape.mb s.shape.ports s.shape.tiles s.shape.chans s.shape.clusters
    s.shape.cores s.shape.cvu s.shape.compares s.shape.latches s.shape.tsq s.shape.netPorts = s.shape := rfl

end Sys2Proof.Machine
end

