-- ==== Sys2Proof/Laws/ShapeOps.lean ====
section
/-! SUPPORT. The shared operations: each keeps the shape of the state. -/

set_option linter.unusedSimpArgs false
set_option linter.unusedVariables false

namespace Sys2Proof.Machine

open Sys2Proof

/-! ### Ops -/

theorem State.advance_shape (s : State) (n : Nat) : (State.advance s n).shape = s.shape := rfl

theorem State.advanceTo_shape (s : State) (t : Nat) : (State.advanceTo s t).shape = s.shape := rfl

theorem State.emit_shape (s : State) (o : Out) : (State.emit s o).shape = s.shape := rfl

theorem State.emits_shape (os : List Out) : ∀ s : State, (s.emits os).shape = s.shape := by
  induction os with
  | nil => intro s; rfl
  | cons i is ih => intro s; rw [State.emits, ih, State.emit_shape]

theorem State.takeFree_shape (s : State) (n : Nat) : FstShape (State.takeFree s n) s.shape := rfl

theorem State.pset_shape (s : State) (id v : Nat) : (State.pset s id v).shape = s.shape := rfl

theorem State.modObj_shape (s : State) (id : Nat) (f : Obj → Obj) : (State.modObj s id f).shape = s.shape := rfl

theorem State.irqMsg_shape (s : State) (v : Nat) : (State.irqMsg s v).shape = s.shape := by
  unfold State.irqMsg
  repeat' first
    | with_reducible rfl
    | (with_reducible first | refine (State.emit_shape ..).trans ?_)
    | ((conv => lhs; arg 1; arg 1); split)

theorem State.setPend_shape (s : State) (v : Nat) : (State.setPend s v).shape = s.shape := by
  unfold State.setPend
  repeat' first
    | ((conv => lhs; arg 1; arg 25); exact rfl)
    | (with_reducible first | refine (State.irqMsg_shape ..).trans ?_)

theorem State.writeRecord_shape (s : State) (h : HeldEvent) : (State.writeRecord s h).shape = s.shape := by
  unfold State.writeRecord
  repeat' first
    | with_reducible rfl
    | with_reducible assumption
    | ((conv => lhs; arg 1; arg 25); exact rfl)
    | (with_reducible first | refine (State.emit_shape ..).trans ?_ | refine (State.setPend_shape ..).trans ?_)
    | ((conv => lhs; arg 1; arg 1); split)
    | (extract_lets +onlyGivenNames x; clear_value (e : x = _); first | (subst e))

theorem State.writeCoalesced_shape (s : State) (e : OverflowEntry) : (State.writeCoalesced s e).shape = s.shape := by
  unfold State.writeCoalesced
  repeat' first
    | ((conv => lhs; arg 1; arg 25); exact rfl)
    | (with_reducible first | refine (State.writeRecord_shape ..).trans ?_)

theorem State.writeKept_shape (s : State) (e : OverflowEntry) : (State.writeKept s e).shape = s.shape := by
  unfold State.writeKept
  repeat' first
    | ((conv => lhs; arg 1; arg 25); exact rfl)
    | (with_reducible first | refine (State.writeRecord_shape ..).trans ?_)

theorem State.writeHeld_shape (s : State) : (State.writeHeld s).shape = s.shape := by
  unfold State.writeHeld
  repeat' first
    | with_reducible rfl
    | ((conv => lhs; arg 1; arg 25); exact rfl)
    | (with_reducible first | refine (State.writeRecord_shape ..).trans ?_ | refine (State.writeCoalesced_shape ..).trans ?_ | refine (State.writeKept_shape ..).trans ?_)
    | split

theorem State.collect_shape (s : State) (h : HeldEvent) : (State.collect s h).shape = s.shape := by
  unfold State.collect
  repeat' first
    | ((conv => lhs; arg 1; arg 25); exact rfl)
    | (extract_lets +onlyGivenNames x; clear_value (e : x = _); first | (subst e))
    | split

theorem State.makeOpen_shape (s : State) (severity : Nat) (p0 : Nat) : (State.makeOpen s severity p0).shape = s.shape := by
  induction p0 generalizing s severity with
  | zero => rfl
  | succ n ih =>
    unfold State.makeOpen
    repeat' first
      | with_reducible rfl
      | with_reducible refine (ih ..).trans ?_
      | (with_reducible first | refine (State.writeHeld_shape ..).trans ?_)
      | ((conv => lhs; arg 1; arg 1); split)

theorem State.safetyEvent_shape (s : State) (source code : Nat) (seq : Reg) : (State.safetyEvent s source code seq).shape = s.shape := by
  unfold State.safetyEvent
  repeat' first
    | ((conv => lhs; arg 1; arg 25); exact rfl)
    | (with_reducible first | refine (State.setPend_shape ..).trans ?_)

theorem State.raiseAt_shape (s : State) (t source code severity arg arg2 : Nat) : (State.raiseAt s t source code severity arg arg2).shape = s.shape := by
  unfold State.raiseAt
  repeat' first
    | with_reducible rfl
    | ((conv => lhs; arg 1; arg 25); exact rfl)
    | (with_reducible first | refine (State.collect_shape ..).trans ?_ | refine (State.makeOpen_shape ..).trans ?_ | refine (State.safetyEvent_shape ..).trans ?_)
    | ((conv => lhs; arg 1; arg 1); split)

theorem State.raise_shape (s : State) (source code severity arg arg2 : Nat) : (State.raise s source code severity arg arg2).shape = s.shape := by
  unfold State.raise
  repeat' first
    | with_reducible rfl
    | (with_reducible first | refine (State.raiseAt_shape ..).trans ?_)

theorem State.reportDrops_shape (s : State) : (State.reportDrops s).shape = s.shape := by
  unfold State.reportDrops
  repeat' first
    | with_reducible rfl
    | with_reducible assumption
    | ((conv => lhs; arg 1; arg 25); with_reducible refine (shape_mk ..).trans ?_; simp only [↓shape_mk, ↓shape_pending, ↓shape_mb, ↓shape_ports, ↓shape_tiles, ↓shape_chans, ↓shape_clusters, ↓shape_cores, ↓shape_cvu, ↓shape_compares, ↓shape_latches, ↓shape_tsq, ↓shape_netPorts, updAt_length])
    | (with_reducible first | refine (State.makeOpen_shape ..).trans ?_ | refine (State.raise_shape ..).trans ?_)
    | (extract_lets +onlyGivenNames x; clear_value (e : x = _); first | (subst e))
    | split

theorem State.modMb_shape (s : State) (n : Nat) (f : Mailbox → Mailbox) : (State.modMb s n f).shape = s.shape := by
  unfold State.modMb
  repeat' first
    | ((conv => lhs; arg 1; arg 25); with_reducible refine (shape_mk ..).trans ?_; simp only [↓shape_mk, ↓shape_pending, ↓shape_mb, ↓shape_ports, ↓shape_tiles, ↓shape_chans, ↓shape_clusters, ↓shape_cores, ↓shape_cvu, ↓shape_compares, ↓shape_latches, ↓shape_tsq, ↓shape_netPorts, updAt_length])

theorem State.putRsp_shape (s : State) (mb : Nat) (r : Rsp) : (State.putRsp s mb r).shape = s.shape := by
  unfold State.putRsp
  repeat' first
    | with_reducible rfl
    | (with_reducible first | refine (State.emit_shape ..).trans ?_ | refine (State.setPend_shape ..).trans ?_ | refine (State.modMb_shape ..).trans ?_)

theorem State.respond_shape (s : State) (mb : Nat) (r : Rsp) : (State.respond s mb r).shape = s.shape := by
  unfold State.respond
  repeat' first
    | with_reducible rfl
    | (with_reducible first | refine (State.modMb_shape ..).trans ?_ | refine (State.putRsp_shape ..).trans ?_)
    | ((conv => lhs; arg 1; arg 1); split)
    | (extract_lets +onlyGivenNames x; clear_value (e : x = _); first | (subst e))

theorem State.cmdDone_shape (s : State) (mb op tag status obj : Nat) : (State.cmdDone s mb op tag status obj).shape = s.shape := by
  unfold State.cmdDone
  repeat' first
    | with_reducible rfl
    | (with_reducible first | refine (State.raise_shape ..).trans ?_)

theorem State.endJob_shape (s : State) (id status : Nat) (payload : List Word) : (State.endJob s id status payload).shape = s.shape := by
  unfold State.endJob
  repeat' first
    | with_reducible rfl
    | with_reducible assumption
    | ((conv => lhs; arg 1; arg 25); exact rfl)
    | (with_reducible first | refine (State.respond_shape ..).trans ?_ | refine (State.cmdDone_shape ..).trans ?_)
    | (extract_lets +onlyGivenNames x; clear_value (e : x = _); first | (subst e))
    | split

theorem State.endJobs_shape (ids : List Nat) (status : Nat) : ∀ s : State, (s.endJobs ids status).shape = s.shape := by
  induction ids with
  | nil => intro s; rfl
  | cons i is ih => intro s; rw [State.endJobs, ih, State.endJob_shape]

theorem refuse_shape (s : State) (status : Nat) : RanShape (refuse s status) s.shape := rfl

theorem answer_shape (s : State) (payload : List Word) : RanShape (answer s payload) s.shape := rfl

theorem accept_shape (s : State) (job : JobKey) : RanShape (accept s job) s.shape := rfl

theorem report_shape (c : Cmd) (r : Ran) : (report c r).shape = r.s.shape := by
  unfold report
  repeat' first
    | with_reducible rfl
    | with_reducible assumption
    | ((conv => lhs; arg 1; arg 25); exact rfl)
    | (with_reducible first | refine (State.respond_shape ..).trans ?_ | refine (State.cmdDone_shape ..).trans ?_)
    | (extract_lets +onlyGivenNames x; clear_value (e : x = _); first | (subst e))
    | split

theorem State.takeCmd_shape (s : State) (c : Cmd) : (State.takeCmd s c).shape = s.shape := by
  unfold State.takeCmd
  repeat' first
    | with_reducible rfl
    | with_reducible assumption
    | ((conv => lhs; arg 1; arg 25); with_reducible refine (shape_mk ..).trans ?_; simp only [↓shape_mk, ↓shape_pending, ↓shape_mb, ↓shape_ports, ↓shape_tiles, ↓shape_chans, ↓shape_clusters, ↓shape_cores, ↓shape_cvu, ↓shape_compares, ↓shape_latches, ↓shape_tsq, ↓shape_netPorts, updAt_length])
    | (with_reducible first | refine (State.modMb_shape ..).trans ?_)
    | (extract_lets +onlyGivenNames x; clear_value (e : x = _); first | (subst e))

theorem hostCmdWith_shape (i : Instr) (row : CmdRow) (body : Cmd → State → Ran) (post : Cmd → State → State) (c : Cmd) (s : State)
    (hb : ∀ c s, RanShape (body c s) s.shape) (hp : ∀ c s, (post c s).shape = s.shape) :
    (hostCmdWith i row body post c s).shape = s.shape := by
  unfold hostCmdWith
  repeat' first
    | with_reducible assumption
    | ((conv => lhs; arg 1; arg 25); exact rfl)
    | (with_reducible first | refine (State.modMb_shape ..).trans ?_ | refine (refuse_shape ..).trans ?_ | refine (report_shape ..).trans ?_ | refine (State.takeCmd_shape ..).trans ?_ | refine (hb ..).trans ?_ | refine (hp ..).trans ?_)
    | (extract_lets +onlyGivenNames x; clear_value (e : x = _); first | (subst e))
    | with_reducible refine ranShape_eq ?_
    | split

theorem hostCmd_shape (i : Instr) (row : CmdRow) (body : Cmd → State → Ran) (c : Cmd) (s : State)
    (hb : ∀ c s, RanShape (body c s) s.shape) : (hostCmd i row body c s).shape = s.shape :=
  hostCmdWith_shape i row body _ c s hb (fun _ _ => rfl)

theorem State.setFetching_shape (s : State) (n : Nat) : (State.setFetching s n).shape = s.shape := rfl

/-! ### PlaceOps -/

theorem State.allot_shape (s : State) (ps : List Basket) : FstShape (State.allot s ps) s.shape := rfl

theorem State.makeRoom_shape (s : State) : (State.makeRoom s).shape = s.shape := by
  unfold State.makeRoom
  repeat' first
    | with_reducible rfl
    | with_reducible refine (shape_foldl _ (fun _ _ => ?_) _ _).trans ?_
    | (with_reducible first | refine (State.modObj_shape ..).trans ?_)
    | ((conv => arg 1; arg 1); split)
    | (extract_lets +onlyGivenNames x; clear_value (e : x = _); first | (subst e))

theorem State.capacityCheck_shape (s : State) : (State.capacityCheck s).shape = s.shape := by
  unfold State.capacityCheck
  repeat' first
    | with_reducible rfl
    | ((conv => lhs; arg 1; arg 25); exact rfl)
    | (with_reducible first | refine (State.raise_shape ..).trans ?_)
    | ((conv => lhs; arg 1; arg 1); split)
    | (extract_lets +onlyGivenNames x; clear_value (e : x = _); first | (subst e))

theorem State.addObj_shape (s : State) (o : Obj) (ps : List Basket) : (State.addObj s o ps).shape = s.shape := by
  unfold State.addObj
  repeat' first
    | with_reducible rfl
    | ((conv => lhs; arg 1; arg 25); exact rfl)
    | (with_reducible first | refine (State.allot_shape ..).trans ?_ | refine (State.makeRoom_shape ..).trans ?_ | refine (State.capacityCheck_shape ..).trans ?_)
    | with_reducible refine fstShape_eq ?_

theorem State.giveUp_shape (s : State) (obj : Nat) (bs : List Basket) : (State.giveUp s obj bs).shape = s.shape := rfl

theorem State.removeObj_shape (s : State) (id : Nat) : (State.removeObj s id).shape = s.shape := by
  unfold State.removeObj
  repeat' first
    | with_reducible rfl
    | ((conv => lhs; arg 1; arg 25); exact rfl)
    | (with_reducible first | refine (State.capacityCheck_shape ..).trans ?_ | refine (State.giveUp_shape ..).trans ?_)
    | split

theorem State.reserve_shape (s : State) (ps : List Basket) : (State.reserve s ps).shape = s.shape := by
  unfold State.reserve
  repeat' first
    | with_reducible rfl
    | ((conv => lhs; arg 1; arg 25); exact rfl)
    | (with_reducible first | refine (State.allot_shape ..).trans ?_ | refine (State.makeRoom_shape ..).trans ?_ | refine (State.capacityCheck_shape ..).trans ?_)
    | with_reducible refine fstShape_eq ?_

theorem State.unreserve_shape (s : State) (p : Basket → Bool) : (State.unreserve s p).shape = s.shape := by
  unfold State.unreserve
  repeat' first
    | ((conv => lhs; arg 1; arg 25); exact rfl)
    | (with_reducible first | refine (State.capacityCheck_shape ..).trans ?_)

theorem State.reserveBoot_shape (s : State) : (State.reserveBoot s).shape = s.shape := by
  unfold State.reserveBoot
  repeat' first
    | with_reducible rfl
    | with_reducible assumption
    | ((conv => lhs; arg 1; arg 25); with_reducible refine (shape_mk ..).trans ?_; simp only [↓shape_mk, ↓shape_pending, ↓shape_mb, ↓shape_ports, ↓shape_tiles, ↓shape_chans, ↓shape_clusters, ↓shape_cores, ↓shape_cvu, ↓shape_compares, ↓shape_latches, ↓shape_tsq, ↓shape_netPorts, updAt_length])
    | (with_reducible first | refine (State.allot_shape ..).trans ?_)
    | with_reducible refine fstShape_eq ?_
    | ((conv => arg 1; arg 1); split)
    | (extract_lets +onlyGivenNames x; clear_value (e : x = _); first | (with_reducible refine shape_cut_fst x ?_ (fun _ => ?_); (subst e); rotate_left; clear e) | (subst e))

theorem State.mapBaskets_shape (s : State) (f : Basket → Basket) : (State.mapBaskets s f).shape = s.shape := rfl

theorem State.copyBegins_shape (s : State) : (State.copyBegins s).shape = s.shape := by
  unfold State.copyBegins
  repeat' first
    | with_reducible rfl
    | ((conv => lhs; arg 1; arg 25); exact rfl)
    | ((conv => lhs; arg 1; arg 1); split)

theorem State.mirrorAll_shape (s : State) : (State.mirrorAll s).shape = s.shape := by
  unfold State.mirrorAll
  repeat' first
    | with_reducible rfl
    | ((conv => lhs; arg 1; arg 25); with_reducible refine (shape_mk ..).trans ?_; simp only [↓shape_mk, ↓shape_pending, ↓shape_mb, ↓shape_ports, ↓shape_tiles, ↓shape_chans, ↓shape_clusters, ↓shape_cores, ↓shape_cvu, ↓shape_compares, ↓shape_latches, ↓shape_tsq, ↓shape_netPorts, updAt_length])
    | (with_reducible first | refine (State.makeRoom_shape ..).trans ?_ | refine (State.copyBegins_shape ..).trans ?_)
    | ((conv => lhs; arg 1; arg 1); split)

theorem State.restoreCut_shape (s : State) (p0 : List Nat) : (State.restoreCut s p0).shape = s.shape := by
  induction p0 generalizing s with
  | nil => rfl
  | cons x xs ih =>
    unfold State.restoreCut
    repeat' first
      | with_reducible rfl
      | ((conv => lhs; arg 1; arg 25); exact rfl)
      | with_reducible refine (ih ..).trans ?_
      | (with_reducible first | refine (State.modObj_shape ..).trans ?_ | refine (State.allot_shape ..).trans ?_ | refine (State.makeRoom_shape ..).trans ?_)
      | with_reducible refine fstShape_eq ?_
      | ((conv => arg 1; arg 1); split)

theorem State.shortEnds_shape (s : State) : (State.shortEnds s).shape = s.shape := by
  unfold State.shortEnds
  repeat' first
    | with_reducible rfl
    | with_reducible assumption
    | ((conv => lhs; arg 1; arg 25); exact rfl)
    | (with_reducible first | refine (State.mapBaskets_shape ..).trans ?_)
    | ((conv => lhs; arg 1; arg 1); split)
    | (extract_lets +onlyGivenNames x; clear_value (e : x = _); first | (subst e))

theorem State.epochBoundary_shape (s : State) : (State.epochBoundary s).shape = s.shape := by
  unfold State.epochBoundary
  repeat' first
    | ((conv => lhs; arg 1; arg 25); exact rfl)
    | (with_reducible first | refine (State.capacityCheck_shape ..).trans ?_ | refine (State.mapBaskets_shape ..).trans ?_ | refine (State.mirrorAll_shape ..).trans ?_ | refine (State.restoreCut_shape ..).trans ?_ | refine (State.shortEnds_shape ..).trans ?_)

theorem State.modCluster_shape (s : State) (n : Nat) (f : Cluster → Cluster) : (State.modCluster s n f).shape = s.shape := by
  unfold State.modCluster
  repeat' first
    | ((conv => lhs; arg 1; arg 25); with_reducible refine (shape_mk ..).trans ?_; simp only [↓shape_mk, ↓shape_pending, ↓shape_mb, ↓shape_ports, ↓shape_tiles, ↓shape_chans, ↓shape_clusters, ↓shape_cores, ↓shape_cvu, ↓shape_compares, ↓shape_latches, ↓shape_tsq, ↓shape_netPorts, updAt_length])

theorem State.reassign_shape (s : State) (n : Nat) (t : RTile) : (State.reassign s n t).shape = s.shape := by
  unfold State.reassign
  repeat' first
    | with_reducible rfl
    | (with_reducible first | refine (State.modCluster_shape ..).trans ?_)

theorem State.spreadTiles_shape (s : State) (ts : List RTile) : (State.spreadTiles s ts).shape = s.shape := by
  unfold State.spreadTiles
  extract_lets pool put
  have e := foldl_fst_length put (fun a x => by simp only [put]; split <;> simp) (ts.foldl (fun l t => scanInsert t l) []) (s.synth.clusters, 0)
  rw [shape_mk, e]
  rfl

/-! ### LinkOps -/

theorem State.modPort_shape (s : State) (t : Nat) (f : Port → Port) : (State.modPort s t f).shape = s.shape := by
  unfold State.modPort
  repeat' first
    | ((conv => lhs; arg 1; arg 25); with_reducible refine (shape_mk ..).trans ?_; simp only [↓shape_mk, ↓shape_pending, ↓shape_mb, ↓shape_ports, ↓shape_tiles, ↓shape_chans, ↓shape_clusters, ↓shape_cores, ↓shape_cvu, ↓shape_compares, ↓shape_latches, ↓shape_tsq, ↓shape_netPorts, updAt_length])

theorem State.modTile_shape (s : State) (t : Nat) (f : TileDrive → TileDrive) : (State.modTile s t f).shape = s.shape := by
  unfold State.modTile
  repeat' first
    | ((conv => lhs; arg 1; arg 25); with_reducible refine (shape_mk ..).trans ?_; simp only [↓shape_mk, ↓shape_pending, ↓shape_mb, ↓shape_ports, ↓shape_tiles, ↓shape_chans, ↓shape_clusters, ↓shape_cores, ↓shape_cvu, ↓shape_compares, ↓shape_latches, ↓shape_tsq, ↓shape_netPorts, updAt_length])

theorem State.sendTile_shape (s : State) (t kind : Nat) (words : List Nat) : (State.sendTile s t kind words).shape = s.shape := by
  unfold State.sendTile
  repeat' first
    | with_reducible rfl
    | (with_reducible first | refine (State.emit_shape ..).trans ?_)
    | ((conv => lhs; arg 1; arg 1); split)

theorem State.eyeAbort_shape (s : State) (t : Nat) : (State.eyeAbort s t).shape = s.shape := by
  unfold State.eyeAbort
  repeat' first
    | with_reducible rfl
    | ((conv => lhs; arg 1; arg 25); exact rfl)
    | (with_reducible first | refine (State.endJob_shape ..).trans ?_)
    | split

theorem State.portGo_shape (s : State) (t new cause : Nat) : (State.portGo s t new cause).shape = s.shape := by
  unfold State.portGo
  repeat' first
    | with_reducible rfl
    | with_reducible assumption
    | (with_reducible first | refine (State.raise_shape ..).trans ?_ | refine (State.modPort_shape ..).trans ?_ | refine (State.eyeAbort_shape ..).trans ?_)
    | ((conv => lhs; arg 1; arg 1); split)
    | (extract_lets +onlyGivenNames x; clear_value (e : x = _); first | (subst e))

theorem State.toDetect_shape (s : State) (t cause : Nat) : (State.toDetect s t cause).shape = s.shape := by
  unfold State.toDetect
  repeat' first
    | with_reducible rfl
    | (with_reducible first | refine (State.modPort_shape ..).trans ?_ | refine (State.portGo_shape ..).trans ?_)
    | ((conv => lhs; arg 1; arg 1); split)

theorem State.toTrain_shape (s : State) (t cause : Nat) : (State.toTrain s t cause).shape = s.shape := by
  unfold State.toTrain
  repeat' first
    | with_reducible rfl
    | (with_reducible first | refine (State.modPort_shape ..).trans ?_ | refine (State.portGo_shape ..).trans ?_)

theorem State.portReturn_shape (s : State) (t cause : Nat) : (State.portReturn s t cause).shape = s.shape := by
  unfold State.portReturn
  repeat' first
    | with_reducible rfl
    | with_reducible assumption
    | (with_reducible first | refine (State.modPort_shape ..).trans ?_ | refine (State.portGo_shape ..).trans ?_)
    | ((conv => lhs; arg 1; arg 1); split)
    | (extract_lets +onlyGivenNames x; clear_value (e : x = _); first | (subst e))

theorem State.nextTag_shape (s : State) : FstShape (State.nextTag s) s.shape := rfl

theorem State.sendPair_shape (s : State) (t pol amp width why : Nat) : (State.sendPair s t pol amp width why).shape = s.shape := by
  unfold State.sendPair
  repeat' first
    | with_reducible rfl
    | (with_reducible first | refine (State.modPort_shape ..).trans ?_ | refine (State.sendTile_shape ..).trans ?_ | refine (State.nextTag_shape ..).trans ?_)
    | with_reducible refine fstShape_eq ?_

theorem State.sendPower_shape (s : State) (t op show_ wake why : Nat) : (State.sendPower s t op show_ wake why).shape = s.shape := by
  unfold State.sendPower
  repeat' first
    | with_reducible rfl
    | (with_reducible first | refine (State.modPort_shape ..).trans ?_ | refine (State.sendTile_shape ..).trans ?_ | refine (State.nextTag_shape ..).trans ?_)
    | with_reducible refine fstShape_eq ?_

theorem State.sendHeartbeat_shape (s : State) (t : Nat) : (State.sendHeartbeat s t).shape = s.shape := by
  unfold State.sendHeartbeat
  repeat' first
    | with_reducible rfl
    | (with_reducible first | refine (State.modPort_shape ..).trans ?_ | refine (State.sendTile_shape ..).trans ?_)

theorem State.sendHold_shape (s : State) (t sf count mode frame reason : Nat) : (State.sendHold s t sf count mode frame reason).shape = s.shape := by
  unfold State.sendHold
  repeat' first
    | with_reducible rfl
    | (with_reducible first | refine (State.sendTile_shape ..).trans ?_)

theorem State.sendCaps_shape (s : State) (t : Nat) : (State.sendCaps s t).shape = s.shape := rfl

theorem State.panelPower_shape (s : State) (t step cause : Nat) : (State.panelPower s t step cause).shape = s.shape := by
  unfold State.panelPower
  repeat' first
    | with_reducible rfl
    | (with_reducible first | refine (State.raise_shape ..).trans ?_)

theorem State.settleTilePower_shape (s : State) : (State.settleTilePower s).shape = s.shape := by
  unfold State.settleTilePower
  repeat' first
    | with_reducible rfl
    | with_reducible refine (shape_foldl _ (fun _ _ => ?_) _ _).trans ?_
    | (with_reducible first | refine (State.endJob_shape ..).trans ?_)

theorem State.powerUp_shape (s : State) (t cause : Nat) : (State.powerUp s t cause).shape = s.shape := by
  unfold State.powerUp
  repeat' first
    | with_reducible rfl
    | (with_reducible first | refine (State.emit_shape ..).trans ?_ | refine (State.modPort_shape ..).trans ?_ | refine (State.modTile_shape ..).trans ?_ | refine (State.toDetect_shape ..).trans ?_ | refine (State.panelPower_shape ..).trans ?_)
    | ((conv => lhs; arg 1; arg 1); split)

theorem State.settleAll_shape (s : State) : (State.settleAll s).shape = s.shape := by
  unfold State.settleAll
  repeat' first
    | with_reducible rfl
    | with_reducible refine (shape_foldl _ (fun _ _ => ?_) _ _).trans ?_
    | (with_reducible first | refine (State.modTile_shape ..).trans ?_)
    | ((conv => lhs; arg 1; arg 1); split)

theorem State.powerLow_shape (s : State) (t : Nat) : (State.powerLow s t).shape = s.shape := by
  unfold State.powerLow
  repeat' first
    | with_reducible rfl
    | (with_reducible first | refine (State.emit_shape ..).trans ?_ | refine (State.modPort_shape ..).trans ?_ | refine (State.modTile_shape ..).trans ?_ | refine (State.portGo_shape ..).trans ?_ | refine (State.panelPower_shape ..).trans ?_ | refine (State.settleTilePower_shape ..).trans ?_)
    | ((conv => lhs; arg 1; arg 1); split)

theorem State.reconcile_shape (s : State) (t : Nat) : (State.reconcile s t).shape = s.shape := by
  unfold State.reconcile
  repeat' first
    | with_reducible rfl
    | (with_reducible first | refine (State.modTile_shape ..).trans ?_ | refine (State.sendPair_shape ..).trans ?_)
    | ((conv => lhs; arg 1; arg 1); split)

theorem State.startReconciles_shape (s : State) : (State.startReconciles s).shape = s.shape := by
  unfold State.startReconciles
  repeat' first
    | with_reducible rfl
    | with_reducible refine (shape_foldl _ (fun _ _ => ?_) _ _).trans ?_
    | (with_reducible first | refine (State.reconcile_shape ..).trans ?_)
    | ((conv => lhs; arg 1; arg 1); split)

theorem State.reconcileFailed_shape (s : State) (t result : Nat) : (State.reconcileFailed s t result).shape = s.shape := by
  unfold State.reconcileFailed
  repeat' first
    | with_reducible rfl
    | (with_reducible first | refine (State.raise_shape ..).trans ?_ | refine (State.modTile_shape ..).trans ?_ | refine (State.settleTilePower_shape ..).trans ?_)
    | ((conv => lhs; arg 1; arg 1); split)
    | (extract_lets +onlyGivenNames x; clear_value (e : x = _); first | (subst e))

theorem State.neutral_shape (s : State) (t why : Nat) : (State.neutral s t why).shape = s.shape := by
  unfold State.neutral
  repeat' first
    | with_reducible rfl
    | (with_reducible first | refine (State.modTile_shape ..).trans ?_ | refine (State.sendPair_shape ..).trans ?_)

theorem State.fastOff_shape (s : State) (cause : Nat) : (State.fastOff s cause).shape = s.shape := by
  unfold State.fastOff
  repeat' first
    | with_reducible rfl
    | with_reducible assumption
    | with_reducible refine (shape_foldl _ (fun _ _ => ?_) _ _).trans ?_
    | (with_reducible first | refine (State.modPort_shape ..).trans ?_ | refine (State.modTile_shape ..).trans ?_ | refine (State.sendPower_shape ..).trans ?_ | refine (State.powerLow_shape ..).trans ?_)
    | ((conv => lhs; arg 1; arg 1); split)
    | (extract_lets +onlyGivenNames x; clear_value (e : x = _); first | (subst e))

theorem State.orderlyOff_shape (s : State) (t cause : Nat) : (State.orderlyOff s t cause).shape = s.shape := by
  unfold State.orderlyOff
  repeat' first
    | with_reducible rfl
    | with_reducible assumption
    | (with_reducible first | refine (State.modTile_shape ..).trans ?_ | refine (State.sendHold_shape ..).trans ?_ | refine (State.powerLow_shape ..).trans ?_ | refine (State.neutral_shape ..).trans ?_)
    | ((conv => lhs; arg 1; arg 1); split)
    | (extract_lets +onlyGivenNames x; clear_value (e : x = _); first | (subst e))

theorem State.decideShow_shape (s : State) (t tstate owner ownEpoch : Nat) : (State.decideShow s t tstate owner ownEpoch).shape = s.shape := by
  unfold State.decideShow
  repeat' first
    | with_reducible rfl
    | with_reducible assumption
    | (with_reducible first | refine (State.modTile_shape ..).trans ?_ | refine (State.reconcile_shape ..).trans ?_)
    | ((conv => lhs; arg 1; arg 1); split)
    | (extract_lets +onlyGivenNames x; clear_value (e : x = _); first | (subst e))

theorem State.checkGeomMatch_shape (s : State) (t : Nat) : (State.checkGeomMatch s t).shape = s.shape := by
  unfold State.checkGeomMatch
  repeat' first
    | with_reducible rfl
    | (with_reducible first | refine (State.raise_shape ..).trans ?_ | refine (State.modPort_shape ..).trans ?_)
    | split

theorem State.sendStart_shape (s : State) (t frame sf k repeat_ sCount dark : Nat) (fm : Option Nat) : (State.sendStart s t frame sf k repeat_ sCount dark fm).shape = s.shape := by
  unfold State.sendStart
  repeat' first
    | with_reducible rfl
    | (with_reducible first | refine (State.modTile_shape ..).trans ?_ | refine (State.sendTile_shape ..).trans ?_)

theorem State.sendKeep_shape (s : State) (t : Nat) : (State.sendKeep s t).shape = s.shape := by
  unfold State.sendKeep
  repeat' first
    | with_reducible rfl
    | (with_reducible first | refine (State.sendTile_shape ..).trans ?_)
    | split

/-! ### UnitOps -/

theorem State.modEnc_shape (s : State) (n : Nat) (f : EncStream → EncStream) : (State.modEnc s n f).shape = s.shape := rfl

theorem State.sendFlow_shape (s : State) (flow : Nat) (bytes : List Byte) : FstShape (State.sendFlow s flow bytes) s.shape := by
  unfold State.sendFlow
  repeat' first
    | ((conv => lhs; arg 1; arg 25); with_reducible refine (shape_mk ..).trans ?_; simp only [↓shape_mk, ↓shape_pending, ↓shape_mb, ↓shape_ports, ↓shape_tiles, ↓shape_chans, ↓shape_clusters, ↓shape_cores, ↓shape_cvu, ↓shape_compares, ↓shape_latches, ↓shape_tsq, ↓shape_netPorts, updAt_length])
    | (with_reducible first | refine (State.emit_shape ..).trans ?_)
    | split
    | with_reducible refine fstShape_mk ?_
    | simp only [↓shape_clusters, ↓shape_mb, ↓shape_chans, ↓shape_ports, ↓shape_tiles, ↓shape_cores, ↓shape_cvu, shape_eta]

theorem State.storeRecord_shape (s : State) (addr : Nat) (rec_ : List Byte) : (State.storeRecord s addr rec_).shape = s.shape := rfl

theorem State.encRecord_shape (s : State) (n type slice frame tf flags qp spare : Nat) (payload : List Byte) : FstShape (State.encRecord s n type slice frame tf flags qp spare payload) s.shape := by
  unfold State.encRecord
  repeat' first
    | with_reducible rfl
    | with_reducible assumption
    | (with_reducible first | refine (State.modEnc_shape ..).trans ?_ | refine (State.sendFlow_shape ..).trans ?_ | refine (State.storeRecord_shape ..).trans ?_)
    | with_reducible refine fstShape_eq ?_
    | (extract_lets +onlyGivenNames x; clear_value (e : x = _); first | (subst e))
    | split
    | with_reducible refine fstShape_mk ?_

theorem State.encEvent_shape (s : State) (code sev arg : Nat) : (State.encEvent s code sev arg).shape = s.shape := by
  unfold State.encEvent
  repeat' first
    | with_reducible rfl
    | (with_reducible first | refine (State.raise_shape ..).trans ?_)

theorem State.encPictureEnd_shape (s : State) (n : Nat) (c : Coding) : (State.encPictureEnd s n c).shape = s.shape := by
  unfold State.encPictureEnd
  repeat' first
    | with_reducible rfl
    | with_reducible assumption
    | (with_reducible first | refine (State.modEnc_shape ..).trans ?_ | refine (State.encRecord_shape ..).trans ?_ | refine (State.encEvent_shape ..).trans ?_)
    | with_reducible refine fstShape_eq ?_
    | (extract_lets +onlyGivenNames x; clear_value (e : x = _); first | (subst e))
    | split

theorem State.encDropRunning_shape (s : State) (n cause : Nat) : (State.encDropRunning s n cause).shape = s.shape := by
  unfold State.encDropRunning
  repeat' first
    | with_reducible rfl
    | (with_reducible first | refine (State.encPictureEnd_shape ..).trans ?_)
    | split

theorem State.encStop_shape (s : State) (n cause : Nat) : (State.encStop s n cause).shape = s.shape := by
  unfold State.encStop
  repeat' first
    | with_reducible rfl
    | (with_reducible first | refine (State.modEnc_shape ..).trans ?_ | refine (State.encEvent_shape ..).trans ?_ | refine (State.encDropRunning_shape ..).trans ?_)
    | ((conv => lhs; arg 1; arg 1); split)
    | (extract_lets +onlyGivenNames x; clear_value (e : x = _); first | (subst e))

theorem State.encStopAll_shape (s : State) (cause : Nat) : (State.encStopAll s cause).shape = s.shape := by
  unfold State.encStopAll
  repeat' first
    | with_reducible rfl
    | (with_reducible first | refine (State.encStop_shape ..).trans ?_)

theorem State.encResume_shape (s : State) : (State.encResume s).shape = s.shape := by
  unfold State.encResume
  repeat' first
    | with_reducible rfl
    | with_reducible refine (shape_foldl _ (fun _ _ => ?_) _ _).trans ?_
    | (with_reducible first | refine (State.modEnc_shape ..).trans ?_)
    | ((conv => lhs; arg 1; arg 1); split)
    | (extract_lets +onlyGivenNames x; clear_value (e : x = _); first | (subst e))

theorem State.freeJobs_shape (s : State) : (State.freeJobs s).shape = s.shape := by
  unfold State.freeJobs
  repeat' first
    | with_reducible rfl
    | with_reducible refine (shape_foldl _ (fun _ _ => ?_) _ _).trans ?_
    | (with_reducible first | refine (State.removeObj_shape ..).trans ?_)

theorem State.endCmpJob_shape (s : State) (j : CmpJob) (status : Nat) (payload : List Word) : (State.endCmpJob s j status payload).shape = s.shape := by
  unfold State.endCmpJob
  repeat' first
    | ((conv => lhs; arg 1; arg 25); exact rfl)
    | (with_reducible first | refine (State.endJob_shape ..).trans ?_ | refine (State.freeJobs_shape ..).trans ?_)
    | split

theorem State.failCmpJob_shape (s : State) (j : CmpJob) (status : Nat) : (State.failCmpJob s j status).shape = s.shape := by
  unfold State.failCmpJob
  repeat' first
    | with_reducible rfl
    | (with_reducible first | refine (State.endCmpJob_shape ..).trans ?_)

theorem State.endCmpJobs_shape (s : State) (status cause : Nat) : (State.endCmpJobs s status cause).shape = s.shape := by
  unfold State.endCmpJobs
  repeat' first
    | with_reducible rfl
    | with_reducible assumption
    | with_reducible refine (shape_foldl _ (fun _ _ => ?_) _ _).trans ?_
    | (with_reducible first | refine (State.raise_shape ..).trans ?_ | refine (State.failCmpJob_shape ..).trans ?_)
    | ((conv => lhs; arg 1; arg 1); split)
    | (extract_lets +onlyGivenNames x; clear_value (e : x = _); first | (subst e))

theorem State.g2dWrite_shape (s : State) (g : G2dSide) (i : Nat) (bs : List Byte) : (State.g2dWrite s g i bs).shape = s.shape := by
  unfold State.g2dWrite
  repeat' first
    | with_reducible rfl
    | (with_reducible first | refine (State.emit_shape ..).trans ?_ | refine (State.modObj_shape ..).trans ?_)
    | ((conv => lhs; arg 1; arg 1); split)

theorem State.g2dRows_shape (s : State) (a : Option G2dSide) (d : G2dSide) (p0 : Nat) (p1 : List G2dHostRow) : (State.g2dRows s a d p0 p1).shape = s.shape := by
  induction p1 generalizing s a d p0 with
  | nil => rfl
  | cons x xs ih =>
    unfold State.g2dRows
    repeat' first
      | with_reducible rfl
      | ((conv => lhs; arg 1; arg 25); with_reducible refine (shape_mk ..).trans ?_; simp only [↓shape_mk, ↓shape_pending, ↓shape_mb, ↓shape_ports, ↓shape_tiles, ↓shape_chans, ↓shape_clusters, ↓shape_cores, ↓shape_cvu, ↓shape_compares, ↓shape_latches, ↓shape_tsq, ↓shape_netPorts, updAt_length])
      | with_reducible refine (ih ..).trans ?_
      | (with_reducible first | refine (State.g2dWrite_shape ..).trans ?_)

theorem State.g2dFinish_shape (s : State) (error : Nat) : (State.g2dFinish s error).shape = s.shape := by
  unfold State.g2dFinish
  repeat' first
    | with_reducible assumption
    | ((conv => lhs; arg 1; arg 25); exact rfl)
    | (with_reducible first | refine (State.setPend_shape ..).trans ?_)
    | ((conv => lhs; arg 1; arg 1); split)
    | (extract_lets +onlyGivenNames x; clear_value (e : x = _); first | (subst e))

theorem State.g2dEnd_shape (s : State) (rows : List G2dHostRow) (partial_ : Nat) (next : G2dHostRow) (error : Nat) : (State.g2dEnd s rows partial_ next error).shape = s.shape := by
  unfold State.g2dEnd
  repeat' first
    | with_reducible rfl
    | (with_reducible first | refine (State.g2dWrite_shape ..).trans ?_ | refine (State.g2dRows_shape ..).trans ?_ | refine (State.g2dFinish_shape ..).trans ?_)
    | split

theorem State.g2dForce_shape (s : State) (error : Nat) : (State.g2dForce s error).shape = s.shape := by
  unfold State.g2dForce
  repeat' first
    | with_reducible rfl
    | ((conv => lhs; arg 1; arg 25); exact rfl)
    | (with_reducible first | refine (State.takeFree_shape ..).trans ?_ | refine (State.g2dEnd_shape ..).trans ?_)
    | with_reducible refine fstShape_eq ?_
    | ((conv => lhs; arg 1; arg 1); split)

/-! ### TimOps -/

theorem State.startGrid_shape (s : State) : (State.startGrid s).shape = s.shape := by
  unfold State.startGrid
  repeat' first
    | with_reducible rfl
    | with_reducible assumption
    | ((conv => lhs; arg 1; arg 25); exact rfl)
    | (with_reducible first | refine (State.takeFree_shape ..).trans ?_)
    | with_reducible refine fstShape_eq ?_
    | ((conv => arg 1; arg 1); split)
    | (extract_lets +onlyGivenNames x; clear_value (e : x = _); first | (subst e))

theorem State.stopGrid_shape (s : State) : (State.stopGrid s).shape = s.shape := by
  unfold State.stopGrid
  repeat' first
    | ((conv => lhs; arg 1; arg 25); with_reducible refine (shape_mk ..).trans ?_; simp only [↓shape_mk, ↓shape_pending, ↓shape_mb, ↓shape_ports, ↓shape_tiles, ↓shape_chans, ↓shape_clusters, ↓shape_cores, ↓shape_cvu, ↓shape_compares, ↓shape_latches, ↓shape_tsq, ↓shape_netPorts, updAt_length, List.length_map])

theorem State.modDomain_shape (s : State) (d : Nat) (f : Domain → Domain) : (State.modDomain s d f).shape = s.shape := rfl

theorem State.powerSync_shape (s : State) : (State.powerSync s).shape = s.shape := rfl

theorem State.encAllot_shape (s : State) (n : Nat) : (State.encAllot s n).shape = s.shape := by
  unfold State.encAllot
  repeat' first
    | with_reducible rfl
    | with_reducible assumption
    | (with_reducible first | refine (State.reserve_shape ..).trans ?_ | refine (State.unreserve_shape ..).trans ?_ | refine (State.encStop_shape ..).trans ?_)
    | ((conv => lhs; arg 1; arg 1); split)
    | (extract_lets +onlyGivenNames x; clear_value (e : x = _); first | (subst e))

theorem State.encEnable_shape (s : State) (n : Nat) : (State.encEnable s n).shape = s.shape := by
  unfold State.encEnable
  repeat' first
    | with_reducible rfl
    | (with_reducible first | refine (State.modEnc_shape ..).trans ?_ | refine (State.encAllot_shape ..).trans ?_)

theorem State.encBoot_shape (s : State) : (State.encBoot s).shape = s.shape := by
  unfold State.encBoot
  repeat' first
    | with_reducible rfl
    | with_reducible refine (shape_foldl _ (fun _ _ => ?_) _ _).trans ?_
    | (with_reducible first | refine (State.encEnable_shape ..).trans ?_)
    | ((conv => lhs; arg 1; arg 1); split)

theorem State.milestone_shape (s : State) (m : Nat) : (State.milestone s m).shape = s.shape := by
  unfold State.milestone
  repeat' first
    | with_reducible rfl
    | ((conv => lhs; arg 1; arg 25); exact rfl)
    | (with_reducible first | refine (State.raise_shape ..).trans ?_)
    | ((conv => lhs; arg 1; arg 1); split)

/-! ### Transit -/

theorem State.dropCommit_shape (s : State) (status : Nat) : (State.dropCommit s status).shape = s.shape := by
  unfold State.dropCommit
  repeat' first
    | with_reducible rfl
    | ((conv => lhs; arg 1; arg 25); exact rfl)
    | (with_reducible first | refine (State.endJob_shape ..).trans ?_)
    | split

theorem State.restartTiles_shape (s : State) : (State.restartTiles s).shape = s.shape := by
  unfold State.restartTiles
  repeat' first
    | ((conv => lhs; arg 1; arg 25); with_reducible refine (shape_mk ..).trans ?_; simp only [↓shape_mk, ↓shape_pending, ↓shape_mb, ↓shape_ports, ↓shape_tiles, ↓shape_chans, ↓shape_clusters, ↓shape_cores, ↓shape_cvu, ↓shape_compares, ↓shape_latches, ↓shape_tsq, ↓shape_netPorts, updAt_length, List.length_map])

theorem State.stopChange_shape (s : State) : (State.stopChange s).shape = s.shape := by
  unfold State.stopChange
  repeat' first
    | with_reducible rfl
    | ((conv => lhs; arg 1; arg 25); exact rfl)
    | (with_reducible first | refine (State.restartTiles_shape ..).trans ?_)
    | split

theorem State.roleGo_shape (s : State) (new cause : Nat) : (State.roleGo s new cause).shape = s.shape := by
  unfold State.roleGo
  repeat' first
    | with_reducible rfl
    | ((conv => lhs; arg 1; arg 25); exact rfl)
    | (with_reducible first | refine (State.raise_shape ..).trans ?_)
    | ((conv => lhs; arg 1; arg 1); split)
    | (extract_lets +onlyGivenNames x; clear_value (e : x = _); first | (subst e))

theorem State.claimAll_shape (s : State) : (State.claimAll s).shape = s.shape := by
  unfold State.claimAll
  repeat' first
    | with_reducible rfl
    | with_reducible assumption
    | ((conv => lhs; arg 1; arg 25); exact rfl)
    | with_reducible refine (shape_foldl _ (fun _ _ => ?_) _ _).trans ?_
    | (with_reducible first | refine (State.modPort_shape ..).trans ?_ | refine (State.sendHeartbeat_shape ..).trans ?_)
    | ((conv => lhs; arg 1; arg 1); split)
    | (extract_lets +onlyGivenNames x; clear_value (e : x = _); first | (subst e))

theorem State.disownAll_shape (s : State) : (State.disownAll s).shape = s.shape := by
  unfold State.disownAll
  repeat' first
    | with_reducible rfl
    | with_reducible assumption
    | with_reducible refine (shape_foldl _ (fun _ _ => ?_) _ _).trans ?_
    | (with_reducible first | refine (State.modPort_shape ..).trans ?_ | refine (State.sendHeartbeat_shape ..).trans ?_)
    | ((conv => lhs; arg 1; arg 1); split)
    | (extract_lets +onlyGivenNames x; clear_value (e : x = _); first | (subst e))

theorem State.handoverStep_shape (s : State) : (State.handoverStep s).shape = s.shape := by
  unfold State.handoverStep
  repeat' first
    | with_reducible rfl
    | with_reducible refine (shape_foldl _ (fun _ _ => ?_) _ _).trans ?_
    | (with_reducible first | refine (State.emit_shape ..).trans ?_ | refine (State.powerLow_shape ..).trans ?_ | refine (State.disownAll_shape ..).trans ?_)
    | ((conv => lhs; arg 1; arg 1); split)

theorem State.handover_shape (s : State) (cause : Nat) : (State.handover s cause).shape = s.shape := by
  unfold State.handover
  repeat' first
    | with_reducible rfl
    | with_reducible assumption
    | with_reducible refine (shape_foldl _ (fun _ _ => ?_) _ _).trans ?_
    | (with_reducible first | refine (State.modPort_shape ..).trans ?_ | refine (State.modTile_shape ..).trans ?_ | refine (State.sendPower_shape ..).trans ?_ | refine (State.handoverStep_shape ..).trans ?_)
    | ((conv => lhs; arg 1; arg 1); split)
    | (extract_lets +onlyGivenNames x; clear_value (e : x = _); first | (subst e))

theorem State.tilesFast_shape (s : State) (cause : Nat) : (State.tilesFast s cause).shape = s.shape := by
  unfold State.tilesFast
  repeat' first
    | with_reducible rfl
    | (with_reducible first | refine (State.fastOff_shape ..).trans ?_ | refine (State.handover_shape ..).trans ?_)
    | ((conv => lhs; arg 1; arg 1); split)

theorem State.leavePair_shape (s : State) : (State.leavePair s).shape = s.shape := by
  unfold State.leavePair
  repeat' first
    | with_reducible rfl
    | ((conv => lhs; arg 1; arg 25); exact rfl)
    | (with_reducible first | refine (State.endJobs_shape ..).trans ?_ | refine (State.roleGo_shape ..).trans ?_)
    | ((conv => lhs; arg 1; arg 1); split)

theorem State.beginSwitch_shape (s : State) (kind : Nat) (toUs yield : Bool) : (State.beginSwitch s kind toUs yield).shape = s.shape := by
  unfold State.beginSwitch
  repeat' first
    | with_reducible assumption
    | ((conv => lhs; arg 1; arg 25); exact rfl)
    | (with_reducible first | refine (State.emit_shape ..).trans ?_)
    | ((conv => lhs; arg 1; arg 1); split)
    | (extract_lets +onlyGivenNames x; clear_value (e : x = _); first | (subst e))

theorem State.startWaiting_shape (s : State) (d : StreamId) : (State.startWaiting s d).shape = s.shape := by
  unfold State.startWaiting
  repeat' first
    | with_reducible rfl
    | ((conv => lhs; arg 1; arg 25); exact rfl)
    | split

theorem State.startQueued_shape (s : State) : (State.startQueued s).shape = s.shape := by
  unfold State.startQueued
  repeat' first
    | with_reducible rfl
    | with_reducible refine (shape_foldl _ (fun _ _ => ?_) _ _).trans ?_
    | (with_reducible first | refine (State.startWaiting_shape ..).trans ?_)

theorem State.shedDecoders_shape (s : State) : (State.shedDecoders s).shape = s.shape := rfl

theorem State.setpointEvent_shape (s : State) (r : SpRequest) (what : Nat) : (State.setpointEvent s r what).shape = s.shape := by
  unfold State.setpointEvent
  repeat' first
    | with_reducible rfl
    | (with_reducible first | refine (State.raise_shape ..).trans ?_)

theorem State.selfRefreshGo_shape (s : State) (on : Bool) : (State.selfRefreshGo s on).shape = s.shape := by
  unfold State.selfRefreshGo
  repeat' first
    | with_reducible rfl
    | ((conv => lhs; arg 1; arg 25); with_reducible refine (shape_mk ..).trans ?_; simp only [↓shape_mk, ↓shape_pending, ↓shape_mb, ↓shape_ports, ↓shape_tiles, ↓shape_chans, ↓shape_clusters, ↓shape_cores, ↓shape_cvu, ↓shape_compares, ↓shape_latches, ↓shape_tsq, ↓shape_netPorts, updAt_length, List.length_map])
    | ((conv => lhs; arg 1; arg 1); split)

theorem State.clearSynth_shape (s : State) : (State.clearSynth s).shape = s.shape := by
  unfold State.clearSynth
  repeat' first
    | ((conv => lhs; arg 1; arg 25); with_reducible refine (shape_mk ..).trans ?_; simp only [↓shape_mk, ↓shape_pending, ↓shape_mb, ↓shape_ports, ↓shape_tiles, ↓shape_chans, ↓shape_clusters, ↓shape_cores, ↓shape_cvu, ↓shape_compares, ↓shape_latches, ↓shape_tsq, ↓shape_netPorts, updAt_length, List.length_map])

theorem State.askSetpoint_shape (s : State) (target requester : Nat) : (State.askSetpoint s target requester).shape = s.shape := by
  unfold State.askSetpoint
  repeat' first
    | with_reducible rfl
    | ((conv => lhs; arg 1; arg 25); exact rfl)
    | (with_reducible first | refine (State.endJobs_shape ..).trans ?_)
    | split

theorem State.endAllJobs_shape (s : State) (keep : Job → Bool) : (State.endAllJobs s keep).shape = s.shape := by
  unfold State.endAllJobs
  repeat' first
    | with_reducible rfl
    | (with_reducible first | refine (State.endJobs_shape ..).trans ?_)

theorem State.stateChange_shape (s : State) (old : DevState) (reason : Nat) (fault : Bool) : (State.stateChange s old reason fault).shape = s.shape := by
  unfold State.stateChange
  repeat' first
    | with_reducible rfl
    | (with_reducible first | refine (State.raise_shape ..).trans ?_)

theorem State.onSafe_shape (s : State) : (State.onSafe s).shape = s.shape := by
  unfold State.onSafe
  repeat' first
    | with_reducible rfl
    | ((conv => lhs; arg 1; arg 25); with_reducible refine (shape_mk ..).trans ?_; simp only [↓shape_mk, ↓shape_pending, ↓shape_mb, ↓shape_ports, ↓shape_tiles, ↓shape_chans, ↓shape_clusters, ↓shape_cores, ↓shape_cvu, ↓shape_compares, ↓shape_latches, ↓shape_tsq, ↓shape_netPorts, updAt_length])
    | (with_reducible first | refine (State.emit_shape ..).trans ?_ | refine (State.setPend_shape ..).trans ?_ | refine (State.encStopAll_shape ..).trans ?_ | refine (State.endCmpJobs_shape ..).trans ?_ | refine (State.g2dForce_shape ..).trans ?_ | refine (State.stopGrid_shape ..).trans ?_ | refine (State.tilesFast_shape ..).trans ?_ | refine (State.leavePair_shape ..).trans ?_ | refine (State.endAllJobs_shape ..).trans ?_)

theorem State.onShutdown_shape (s : State) (reason : Nat) (old : DevState) : (State.onShutdown s reason old).shape = s.shape := by
  unfold State.onShutdown
  repeat' first
    | with_reducible rfl
    | with_reducible assumption
    | ((conv => lhs; arg 1; arg 25); first | exact rfl | assumption)
    | with_reducible refine (shape_foldl _ (fun _ _ => ?_) _ _).trans ?_
    | (with_reducible first | refine (State.fastOff_shape ..).trans ?_ | refine (State.orderlyOff_shape ..).trans ?_ | refine (State.encStopAll_shape ..).trans ?_ | refine (State.endCmpJobs_shape ..).trans ?_ | refine (State.g2dForce_shape ..).trans ?_ | refine (State.stopGrid_shape ..).trans ?_ | refine (State.tilesFast_shape ..).trans ?_ | refine (State.leavePair_shape ..).trans ?_ | refine (State.beginSwitch_shape ..).trans ?_ | refine (State.endAllJobs_shape ..).trans ?_)
    | ((conv => lhs; arg 1; arg 1); split)
    | (extract_lets +onlyGivenNames x; clear_value (e : x = _); first | (with_reducible refine shape_cut x ?_ (fun _ => ?_); (subst e); rotate_left; clear e) | (subst e))

theorem State.onParasol_shape (s : State) (reason : Nat) : (State.onParasol s reason).shape = s.shape := by
  unfold State.onParasol
  repeat' first
    | ((conv => lhs; arg 1; arg 25); with_reducible refine (shape_mk ..).trans ?_; simp only [↓shape_mk, ↓shape_pending, ↓shape_mb, ↓shape_ports, ↓shape_tiles, ↓shape_chans, ↓shape_clusters, ↓shape_cores, ↓shape_cvu, ↓shape_compares, ↓shape_latches, ↓shape_tsq, ↓shape_netPorts, updAt_length, List.length_map])
    | (with_reducible first | refine (State.endJobs_shape ..).trans ?_ | refine (State.encStopAll_shape ..).trans ?_ | refine (State.shedDecoders_shape ..).trans ?_ | refine (State.selfRefreshGo_shape ..).trans ?_ | refine (State.clearSynth_shape ..).trans ?_ | refine (State.askSetpoint_shape ..).trans ?_)
    | ((conv => lhs; arg 1; arg 1); split)
    | simp only [↓shape_clusters, ↓shape_mb, ↓shape_chans, ↓shape_ports, ↓shape_tiles, ↓shape_cores, ↓shape_cvu, shape_eta]

theorem State.onRun_shape (s : State) : (State.onRun s).shape = s.shape := by
  unfold State.onRun
  repeat' first
    | with_reducible rfl
    | (with_reducible first | refine (State.encResume_shape ..).trans ?_ | refine (State.startGrid_shape ..).trans ?_ | refine (State.clearSynth_shape ..).trans ?_ | refine (State.askSetpoint_shape ..).trans ?_)
    | ((conv => lhs; arg 1; arg 1); split)

theorem State.onEntry_shape (s : State) (reason : Nat) (old : DevState) : (State.onEntry s reason old).shape = s.shape := by
  unfold State.onEntry
  repeat' first
    | with_reducible rfl
    | (with_reducible first | refine (State.onSafe_shape ..).trans ?_ | refine (State.onShutdown_shape ..).trans ?_ | refine (State.onParasol_shape ..).trans ?_ | refine (State.onRun_shape ..).trans ?_)
    | split

theorem State.enterBy_shape (s : State) (d : DevState) (reason : Nat) (fault : Bool) : (State.enterBy s d reason fault).shape = s.shape := by
  unfold State.enterBy
  repeat' first
    | ((conv => lhs; arg 1; arg 25); with_reducible refine (shape_mk ..).trans ?_; simp only [↓shape_mk, ↓shape_pending, ↓shape_mb, ↓shape_ports, ↓shape_tiles, ↓shape_chans, ↓shape_clusters, ↓shape_cores, ↓shape_cvu, ↓shape_compares, ↓shape_latches, ↓shape_tsq, ↓shape_netPorts, updAt_length])
    | (with_reducible first | refine (State.powerSync_shape ..).trans ?_ | refine (State.dropCommit_shape ..).trans ?_ | refine (State.stopChange_shape ..).trans ?_ | refine (State.stateChange_shape ..).trans ?_ | refine (State.onEntry_shape ..).trans ?_)
    | ((conv => lhs; arg 1; arg 1); split)

theorem State.enter_shape (s : State) (d : DevState) (reason : Nat) : (State.enter s d reason).shape = s.shape := by
  unfold State.enter
  repeat' first
    | with_reducible rfl
    | (with_reducible first | refine (State.enterBy_shape ..).trans ?_)

theorem State.safetyFault_shape (s : State) (cause unit_ : Nat) : (State.safetyFault s cause unit_).shape = s.shape := by
  unfold State.safetyFault
  repeat' first
    | with_reducible rfl
    | with_reducible assumption
    | (with_reducible first | refine (State.raise_shape ..).trans ?_ | refine (State.enterBy_shape ..).trans ?_)
    | ((conv => lhs; arg 1; arg 1); split)
    | (extract_lets +onlyGivenNames x; clear_value (e : x = _); first | (subst e))

theorem State.safeByFault_shape (s : State) : (State.safeByFault s).shape = s.shape := by
  unfold State.safeByFault
  repeat' first
    | with_reducible rfl
    | (with_reducible first | refine (State.enterBy_shape ..).trans ?_)
    | ((conv => lhs; arg 1; arg 1); split)

theorem State.reductionCheck_shape (s : State) : (State.reductionCheck s).shape = s.shape := by
  unfold State.reductionCheck
  repeat' first
    | with_reducible rfl
    | ((conv => lhs; arg 1; arg 25); exact rfl)
    | (with_reducible first | refine (State.stateChange_shape ..).trans ?_ | refine (State.safetyFault_shape ..).trans ?_)
    | split

theorem State.eraseOther_shape (s : State) : (State.eraseOther s).shape = s.shape := by
  unfold State.eraseOther
  repeat' first
    | ((conv => lhs; arg 1; arg 25); exact rfl)
    | split

theorem State.leaveBoot_shape (s : State) : (State.leaveBoot s).shape = s.shape := by
  unfold State.leaveBoot
  repeat' first
    | with_reducible rfl
    | (with_reducible first | refine (State.reserveBoot_shape ..).trans ?_ | refine (State.encBoot_shape ..).trans ?_ | refine (State.eraseOther_shape ..).trans ?_)
    | ((conv => lhs; arg 1; arg 1); split)

theorem State.tilesMilestone_shape (s : State) : (State.tilesMilestone s).shape = s.shape := by
  unfold State.tilesMilestone
  repeat' first
    | with_reducible rfl
    | (with_reducible first | refine (State.milestone_shape ..).trans ?_)
    | ((conv => lhs; arg 1; arg 1); split)

theorem State.evaluateN_shape (s : State) (p0 : Nat) : (State.evaluateN s p0).shape = s.shape := by
  induction p0 generalizing s with
  | zero => rfl
  | succ n ih =>
    unfold State.evaluateN
    repeat' first
      | with_reducible rfl
      | with_reducible assumption
      | with_reducible refine (ih ..).trans ?_
      | (with_reducible first | refine (State.enter_shape ..).trans ?_ | refine (State.safetyFault_shape ..).trans ?_ | refine (State.reductionCheck_shape ..).trans ?_ | refine (State.leaveBoot_shape ..).trans ?_)
      | (extract_lets +onlyGivenNames x; clear_value (e : x = _); first | (subst e))
      | split

theorem State.evaluate_shape (s : State) : (State.evaluate s).shape = s.shape := by
  unfold State.evaluate
  repeat' first
    | with_reducible rfl
    | (with_reducible first | refine (State.tilesMilestone_shape ..).trans ?_ | refine (State.evaluateN_shape ..).trans ?_)

/-! ### Boot -/

theorem State.restartKeep_shape (s : State) : (State.restartKeep s).shape = Shape.boot s.shape.pending s.shape.tiles := by
  unfold State.restartKeep
  simp [State.shape, Shape.boot, List.length_map]

theorem State.porKeep_shape (s : State) : (State.porKeep s).shape = Shape.boot s.shape.pending 16 := by
  unfold State.porKeep
  rfl

theorem State.bootEntry_shape (s : State) (old : DevState) (askFull : Bool) : (State.bootEntry s old askFull).shape = s.shape := by
  unfold State.bootEntry
  repeat' first
    | ((conv => lhs; arg 1; arg 25); with_reducible refine (shape_mk ..).trans ?_; simp only [↓shape_mk, ↓shape_pending, ↓shape_mb, ↓shape_ports, ↓shape_tiles, ↓shape_chans, ↓shape_clusters, ↓shape_cores, ↓shape_cvu, ↓shape_compares, ↓shape_latches, ↓shape_tsq, ↓shape_netPorts, updAt_length, List.length_map])
    | (with_reducible first | refine (State.emits_shape ..).trans ?_ | refine (State.stateChange_shape ..).trans ?_)

theorem State.restart_shape (s : State) (askFull : Bool) : (State.restart s askFull).shape = Shape.boot s.shape.pending s.shape.tiles := by
  unfold State.restart
  exact (State.bootEntry_shape ..).trans (State.restartKeep_shape s)

theorem State.muteJobs_shape (s : State) (p : Nat → Bool) : (State.muteJobs s p).shape = s.shape := rfl

theorem State.disableMb_shape (s : State) (n : Nat) : (State.disableMb s n).shape = s.shape := by
  unfold State.disableMb
  repeat' first
    | with_reducible rfl
    | (with_reducible first | refine (State.modMb_shape ..).trans ?_ | refine (State.freeJobs_shape ..).trans ?_ | refine (State.muteJobs_shape ..).trans ?_)

theorem State.hostStop_shape (s : State) : (State.hostStop s).shape = s.shape := by
  unfold State.hostStop
  repeat' first
    | ((conv => lhs; arg 1; arg 25); with_reducible refine (shape_mk ..).trans ?_; simp only [↓shape_mk, ↓shape_pending, ↓shape_mb, ↓shape_ports, ↓shape_tiles, ↓shape_chans, ↓shape_clusters, ↓shape_cores, ↓shape_cvu, ↓shape_compares, ↓shape_latches, ↓shape_tsq, ↓shape_netPorts, updAt_length, List.length_map])
    | (with_reducible first | refine (State.freeJobs_shape ..).trans ?_ | refine (State.muteJobs_shape ..).trans ?_)

/-! ### NetOps -/

theorem State.modTime_shape (s : State) (f : TimeSt → TimeSt) : (State.modTime s f).shape = State.shape { s with time := f s.time } := rfl

theorem State.modNet_shape (s : State) (p : Nat) (f : NetPort → NetPort) : (State.modNet s p f).shape = s.shape := by
  unfold State.modNet
  repeat' first
    | ((conv => lhs; arg 1; arg 25); with_reducible refine (shape_mk ..).trans ?_; simp only [↓shape_mk, ↓shape_pending, ↓shape_mb, ↓shape_ports, ↓shape_tiles, ↓shape_chans, ↓shape_clusters, ↓shape_cores, ↓shape_cvu, ↓shape_compares, ↓shape_latches, ↓shape_tsq, ↓shape_netPorts, updAt_length])
    | (with_reducible first | refine (State.modTime_shape ..).trans ?_)

theorem State.modFlow_shape (s : State) (n : Nat) (f : Flow → Flow) : (State.modFlow s n f).shape = s.shape := rfl

theorem State.netLoss_shape (s : State) (n : Nat) : (State.netLoss s n).shape = s.shape := by
  unfold State.netLoss
  repeat' first
    | with_reducible rfl
    | (with_reducible first | refine (State.raise_shape ..).trans ?_ | refine (State.modFlow_shape ..).trans ?_)
    | ((conv => lhs; arg 1; arg 1); split)
    | split

theorem State.loseFlowBaskets_shape (s : State) (n : Nat) : (State.loseFlowBaskets s n).shape = s.shape := by
  unfold State.loseFlowBaskets
  repeat' first
    | with_reducible rfl
    | (with_reducible first | refine (State.modFlow_shape ..).trans ?_ | refine (State.netLoss_shape ..).trans ?_)

theorem State.clearFlow_shape (s : State) (n : Nat) : (State.clearFlow s n).shape = s.shape := by
  unfold State.clearFlow
  repeat' first
    | with_reducible rfl
    | ((conv => lhs; arg 1; arg 25); with_reducible refine (shape_mk ..).trans ?_; simp only [↓shape_mk, ↓shape_pending, ↓shape_mb, ↓shape_ports, ↓shape_tiles, ↓shape_chans, ↓shape_clusters, ↓shape_cores, ↓shape_cvu, ↓shape_compares, ↓shape_latches, ↓shape_tsq, ↓shape_netPorts, updAt_length])
    | (with_reducible first | refine (State.emit_shape ..).trans ?_ | refine (State.unreserve_shape ..).trans ?_ | refine (State.modTime_shape ..).trans ?_ | refine (State.modNet_shape ..).trans ?_)
    | ((conv => lhs; arg 1; arg 1); split)
    | split

theorem State.clearFlowOf_shape (s : State) (obj : Nat) : (State.clearFlowOf s obj).shape = s.shape := by
  unfold State.clearFlowOf
  repeat' first
    | with_reducible rfl
    | (with_reducible first | refine (State.clearFlow_shape ..).trans ?_)
    | split

theorem State.dropScene_shape (s : State) (obj : Nat) : (State.dropScene s obj).shape = s.shape := by
  unfold State.dropScene
  repeat' first
    | with_reducible rfl
    | ((conv => lhs; arg 1; arg 25); exact rfl)
    | (with_reducible first | refine (State.clearFlowOf_shape ..).trans ?_)
    | split

end Sys2Proof.Machine
end

