-- ==== Sys2Proof/Laws/ShapeDevice.lean ====
section
/-! SUPPORT. The commands and events of the device, the placement, the power, the start, the memory, the host: each keeps the shape of the state. -/

set_option linter.unusedSimpArgs false
set_option linter.unusedVariables false

namespace Sys2Proof.Machine

open Sys2Proof

/-! ### DevRows -/

theorem execNop_shape (c : Cmd) (s : State) : Keeps s (execNop c s) := by
  unfold execNop
  repeat' first
    | with_reducible rfl
    | with_reducible refine keeps_next ?_
    | with_reducible refine hostCmd_shape _ _ _ _ _ (fun _ _ => ?_)
    | (with_reducible first | refine (answer_shape ..).trans ?_)

theorem execFence_shape (c : Cmd) (s : State) : Keeps s (execFence c s) := by
  unfold execFence
  repeat' first
    | with_reducible rfl
    | with_reducible refine keeps_next ?_
    | with_reducible refine hostCmd_shape _ _ _ _ _ (fun _ _ => ?_)
    | (with_reducible first | refine (accept_shape ..).trans ?_)

theorem execFenceCompletion_shape (mb : Nat) (s : State) : Keeps s (execFenceCompletion mb s) := by
  unfold execFenceCompletion
  repeat' first
    | with_reducible rfl
    | with_reducible refine keeps_next ?_
    | (with_reducible first | refine (State.endJob_shape ..).trans ?_)
    | ((conv => arg 1; arg 1); split)

theorem execDevInfo_shape (c : Cmd) (s : State) : Keeps s (execDevInfo c s) := by
  unfold execDevInfo
  repeat' first
    | with_reducible rfl
    | with_reducible refine keeps_next ?_
    | with_reducible refine hostCmd_shape _ _ _ _ _ (fun _ _ => ?_)
    | (with_reducible first | refine (answer_shape ..).trans ?_)

theorem paramSetBody_shape (c : Cmd) (s : State) : RanShape (paramSetBody c s) s.shape := by
  unfold paramSetBody
  repeat' first
    | with_reducible rfl
    | ((conv => lhs; arg 1; arg 25); exact rfl)
    | (with_reducible first | refine (refuse_shape ..).trans ?_ | refine (answer_shape ..).trans ?_)
    | ((conv => lhs; arg 1; arg 1); split)
    | with_reducible refine ranShape_eq ?_
    | with_reducible refine ranShape_mk ?_

theorem execParamSet_shape (c : Cmd) (s : State) : Keeps s (execParamSet c s) := by
  unfold execParamSet
  repeat' first
    | with_reducible rfl
    | with_reducible refine keeps_next ?_
    | with_reducible refine hostCmd_shape _ _ _ _ _ (fun _ _ => ?_)
    | (with_reducible first | refine (paramSetBody_shape ..).trans ?_)

theorem paramGetBody_shape (c : Cmd) (s : State) : RanShape (paramGetBody c s) s.shape := by
  unfold paramGetBody
  repeat' first
    | with_reducible rfl
    | (with_reducible first | refine (refuse_shape ..).trans ?_ | refine (answer_shape ..).trans ?_)
    | ((conv => lhs; arg 1; arg 1); split)
    | (extract_lets +onlyGivenNames x; clear_value (e : x = _); first | (subst e))

theorem execParamGet_shape (c : Cmd) (s : State) : Keeps s (execParamGet c s) := by
  unfold execParamGet
  repeat' first
    | with_reducible rfl
    | with_reducible refine keeps_next ?_
    | with_reducible refine hostCmd_shape _ _ _ _ _ (fun _ _ => ?_)
    | (with_reducible first | refine (paramGetBody_shape ..).trans ?_)

theorem paramDiscardBody_shape (c : Cmd) (s : State) : RanShape (paramDiscardBody c s) s.shape := by
  unfold paramDiscardBody
  repeat' first
    | with_reducible rfl
    | ((conv => lhs; arg 1; arg 25); exact rfl)
    | (with_reducible first | refine (refuse_shape ..).trans ?_ | refine (answer_shape ..).trans ?_)
    | ((conv => lhs; arg 1; arg 1); split)
    | (extract_lets +onlyGivenNames x; clear_value (e : x = _); first | (subst e))

theorem execParamDiscard_shape (c : Cmd) (s : State) : Keeps s (execParamDiscard c s) := by
  unfold execParamDiscard
  repeat' first
    | with_reducible rfl
    | with_reducible refine keeps_next ?_
    | with_reducible refine hostCmd_shape _ _ _ _ _ (fun _ _ => ?_)
    | (with_reducible first | refine (paramDiscardBody_shape ..).trans ?_)

theorem objectCreateBody_shape (c : Cmd) (s : State) : RanShape (objectCreateBody c s) s.shape := by
  unfold objectCreateBody
  repeat' first
    | with_reducible rfl
    | with_reducible assumption
    | (with_reducible first | refine (refuse_shape ..).trans ?_ | refine (State.addObj_shape ..).trans ?_)
    | ((conv => lhs; arg 1; arg 1); split)
    | (extract_lets +onlyGivenNames x; clear_value (e : x = _); first | (with_reducible refine ran_cut x ?_ (fun _ => ?_); (subst e); rotate_left; clear e) | (subst e))
    | with_reducible refine ranShape_mk ?_

theorem execObjectCreate_shape (c : Cmd) (s : State) : Keeps s (execObjectCreate c s) := by
  unfold execObjectCreate
  repeat' first
    | with_reducible rfl
    | with_reducible refine keeps_next ?_
    | with_reducible refine hostCmd_shape _ _ _ _ _ (fun _ _ => ?_)
    | (with_reducible first | refine (objectCreateBody_shape ..).trans ?_)

theorem execObjectCreateCompletion_shape (obj : Nat) (data : List Byte) (s : State) : Keeps s (execObjectCreateCompletion obj data s) := by
  unfold execObjectCreateCompletion
  repeat' first
    | with_reducible rfl
    | with_reducible refine keeps_next ?_
    | (with_reducible first | refine (State.modObj_shape ..).trans ?_ | refine (State.endJob_shape ..).trans ?_ | refine (State.removeObj_shape ..).trans ?_)
    | ((conv => arg 1; arg 1); split)
    | (extract_lets +onlyGivenNames x; clear_value (e : x = _); first | (subst e))

theorem objectDestroyBody_shape (c : Cmd) (s : State) : RanShape (objectDestroyBody c s) s.shape := by
  unfold objectDestroyBody
  repeat' first
    | with_reducible rfl
    | (with_reducible first | refine (refuse_shape ..).trans ?_ | refine (answer_shape ..).trans ?_ | refine (State.removeObj_shape ..).trans ?_ | refine (State.dropScene_shape ..).trans ?_)
    | split

theorem execObjectDestroy_shape (c : Cmd) (s : State) : Keeps s (execObjectDestroy c s) := by
  unfold execObjectDestroy
  repeat' first
    | with_reducible rfl
    | with_reducible refine keeps_next ?_
    | with_reducible refine hostCmd_shape _ _ _ _ _ (fun _ _ => ?_)
    | (with_reducible first | refine (objectDestroyBody_shape ..).trans ?_)

theorem objectReadBody_shape (c : Cmd) (s : State) : RanShape (objectReadBody c s) s.shape := by
  unfold objectReadBody
  repeat' first
    | with_reducible rfl
    | (with_reducible first | refine (refuse_shape ..).trans ?_ | refine (accept_shape ..).trans ?_)
    | (extract_lets +onlyGivenNames x; clear_value (e : x = _); first | (subst e))
    | split

theorem execObjectRead_shape (c : Cmd) (s : State) : Keeps s (execObjectRead c s) := by
  unfold execObjectRead
  repeat' first
    | with_reducible rfl
    | with_reducible refine keeps_next ?_
    | with_reducible refine hostCmd_shape _ _ _ _ _ (fun _ _ => ?_)
    | (with_reducible first | refine (objectReadBody_shape ..).trans ?_)

theorem State.applyHeldCounts_shape (s : State) (obj : Nat) : (State.applyHeldCounts s obj).shape = s.shape := rfl

theorem execObjectReadCompletion_shape (job : Nat) (s : State) : Keeps s (execObjectReadCompletion job s) := by
  unfold execObjectReadCompletion
  repeat' first
    | with_reducible rfl
    | with_reducible assumption
    | ((conv => lhs; arg 1; arg 25); exact rfl)
    | with_reducible refine keeps_next ?_
    | (with_reducible first | refine (State.emit_shape ..).trans ?_ | refine (State.endJob_shape ..).trans ?_ | refine (State.applyHeldCounts_shape ..).trans ?_)
    | with_reducible refine fstShape_eq ?_
    | ((conv => arg 1; arg 1); split)
    | (extract_lets +onlyGivenNames x; clear_value (e : x = _); first | (subst e))
    | with_reducible refine fstShape_mk ?_

theorem restartBody_shape (c : Cmd) (s : State) : RanShape (restartBody c s) s.shape := by
  unfold restartBody
  repeat' first
    | with_reducible rfl
    | (with_reducible first | refine (refuse_shape ..).trans ?_ | refine (answer_shape ..).trans ?_)
    | ((conv => lhs; arg 1; arg 1); split)

theorem execRestart_reboots (c : Cmd) (s : State) : Reboots s (execRestart c s) := by
  refine ⟨_, rfl, ?_⟩
  unfold hostCmdWith
  extract_lets m fr h0 x z r t
  have h : x.shape = s.shape := rfl
  have hz : z.shape = s.shape := (State.takeCmd_shape x c).trans h
  have ht : t.shape = s.shape := (report_shape ..).trans ((ranShape_eq (restartBody_shape ..)).trans hz)
  clear_value t r z x h0 fr m
  split
  · exact Or.inl ((State.modMb_shape ..).trans h)
  · split
    · exact Or.inl ((report_shape ..).trans ((ranShape_eq (refuse_shape ..)).trans hz))
    · split
      · exact Or.inr (Or.inl (ht ▸ State.restart_shape t _))
      · exact Or.inl ht

theorem fwStageBody_shape (c : Cmd) (s : State) : RanShape (fwStageBody c s) s.shape := by
  unfold fwStageBody
  repeat' first
    | with_reducible rfl
    | ((conv => lhs; arg 1; arg 25); exact rfl)
    | (with_reducible first | refine (refuse_shape ..).trans ?_ | refine (accept_shape ..).trans ?_)
    | ((conv => lhs; arg 1; arg 1); split)

theorem execFwStage_shape (c : Cmd) (s : State) : Keeps s (execFwStage c s) := by
  unfold execFwStage
  repeat' first
    | with_reducible rfl
    | with_reducible refine keeps_next ?_
    | with_reducible refine hostCmdWith_shape _ _ _ _ _ _ (fun _ _ => ?_) (fun _ _ => ?_)
    | (with_reducible first | refine (State.powerSync_shape ..).trans ?_ | refine (fwStageBody_shape ..).trans ?_)

theorem execFwStageCompletion_shape (r : FwImage) (s : State) : Keeps s (execFwStageCompletion r s) := by
  unfold execFwStageCompletion
  repeat' first
    | with_reducible rfl
    | ((conv => lhs; arg 1; arg 25); exact rfl)
    | with_reducible refine keeps_next ?_
    | (with_reducible first | refine (State.endJobs_shape ..).trans ?_ | refine (State.powerSync_shape ..).trans ?_)
    | ((conv => arg 1; arg 1); split)

theorem fwActivateBody_shape (c : Cmd) (s : State) : RanShape (fwActivateBody c s) s.shape := by
  unfold fwActivateBody
  repeat' first
    | with_reducible rfl
    | ((conv => lhs; arg 1; arg 25); exact rfl)
    | (with_reducible first | refine (refuse_shape ..).trans ?_ | refine (answer_shape ..).trans ?_)
    | ((conv => lhs; arg 1; arg 1); split)
    | (extract_lets +onlyGivenNames x; clear_value (e : x = _); first | (subst e))

theorem execFwActivate_shape (c : Cmd) (s : State) : Keeps s (execFwActivate c s) := by
  unfold execFwActivate
  repeat' first
    | with_reducible rfl
    | with_reducible refine keeps_next ?_
    | with_reducible refine hostCmd_shape _ _ _ _ _ (fun _ _ => ?_)
    | (with_reducible first | refine (fwActivateBody_shape ..).trans ?_)

theorem fwConfirmBody_shape (u00 : Cmd) (s : State) : RanShape (fwConfirmBody u00 s) s.shape := by
  unfold fwConfirmBody
  repeat' first
    | with_reducible rfl
    | ((conv => lhs; arg 1; arg 25); exact rfl)
    | (with_reducible first | refine (answer_shape ..).trans ?_)
    | ((conv => lhs; arg 1; arg 1); split)
    | with_reducible refine ranShape_mk ?_

theorem execFwConfirm_shape (c : Cmd) (s : State) : Keeps s (execFwConfirm c s) := by
  unfold execFwConfirm
  repeat' first
    | with_reducible rfl
    | with_reducible refine keeps_next ?_
    | with_reducible refine hostCmd_shape _ _ _ _ _ (fun _ _ => ?_)
    | (with_reducible first | refine (fwConfirmBody_shape ..).trans ?_)

theorem execFwStatus_shape (c : Cmd) (s : State) : Keeps s (execFwStatus c s) := by
  unfold execFwStatus
  repeat' first
    | with_reducible rfl
    | with_reducible refine keeps_next ?_
    | with_reducible refine hostCmd_shape _ _ _ _ _ (fun _ _ => ?_)
    | (with_reducible first | refine (answer_shape ..).trans ?_)

theorem hostStatusBody_shape (c : Cmd) (s : State) : RanShape (hostStatusBody c s) s.shape := by
  unfold hostStatusBody
  repeat' first
    | with_reducible rfl
    | ((conv => lhs; arg 1; arg 25); exact rfl)
    | (with_reducible first | refine (refuse_shape ..).trans ?_ | refine (answer_shape ..).trans ?_)
    | ((conv => lhs; arg 1; arg 1); split)
    | (extract_lets +onlyGivenNames x; clear_value (e : x = _); first | (subst e))

theorem execHostStatus_shape (c : Cmd) (s : State) : Keeps s (execHostStatus c s) := by
  unfold execHostStatus
  repeat' first
    | with_reducible rfl
    | with_reducible refine keeps_next ?_
    | with_reducible refine hostCmd_shape _ _ _ _ _ (fun _ _ => ?_)
    | (with_reducible first | refine (hostStatusBody_shape ..).trans ?_)

/-! ### PlaceRows -/

theorem State.decodeConceal_shape (s : State) (d : StreamId) (frame reason ctus : Nat) : (State.decodeConceal s d frame reason ctus).shape = s.shape := by
  unfold State.decodeConceal
  repeat' first
    | with_reducible rfl
    | ((conv => lhs; arg 1; arg 25); exact rfl)
    | (with_reducible first | refine (State.raise_shape ..).trans ?_)
    | split

theorem placeStatusBody_shape (c : Cmd) (s : State) : RanShape (placeStatusBody c s) s.shape := by
  unfold placeStatusBody
  repeat' first
    | with_reducible rfl
    | ((conv => lhs; arg 1; arg 25); exact rfl)
    | (with_reducible first | refine (State.takeFree_shape ..).trans ?_ | refine (refuse_shape ..).trans ?_ | refine (answer_shape ..).trans ?_)
    | with_reducible refine fstShape_eq ?_
    | ((conv => lhs; arg 1; arg 1); split)

theorem execPlaceStatus_shape (c : Cmd) (s : State) : Keeps s (execPlaceStatus c s) := by
  unfold execPlaceStatus
  repeat' first
    | with_reducible rfl
    | with_reducible refine keeps_next ?_
    | with_reducible refine hostCmd_shape _ _ _ _ _ (fun _ _ => ?_)
    | (with_reducible first | refine (placeStatusBody_shape ..).trans ?_)

theorem placeObjectBody_shape (c : Cmd) (s : State) : RanShape (placeObjectBody c s) s.shape := by
  unfold placeObjectBody
  repeat' first
    | with_reducible rfl
    | (with_reducible first | refine (refuse_shape ..).trans ?_ | refine (answer_shape ..).trans ?_)
    | split

theorem execPlaceObject_shape (c : Cmd) (s : State) : Keeps s (execPlaceObject c s) := by
  unfold execPlaceObject
  repeat' first
    | with_reducible rfl
    | with_reducible refine keeps_next ?_
    | with_reducible refine hostCmd_shape _ _ _ _ _ (fun _ _ => ?_)
    | (with_reducible first | refine (placeObjectBody_shape ..).trans ?_)

theorem placeHintBody_shape (c : Cmd) (s : State) : RanShape (placeHintBody c s) s.shape := by
  unfold placeHintBody
  repeat' first
    | with_reducible rfl
    | (with_reducible first | refine (State.modObj_shape ..).trans ?_ | refine (refuse_shape ..).trans ?_ | refine (answer_shape ..).trans ?_)
    | (extract_lets +onlyGivenNames x; clear_value (e : x = _); first | (subst e))
    | split

theorem execPlaceHint_shape (c : Cmd) (s : State) : Keeps s (execPlaceHint c s) := by
  unfold execPlaceHint
  repeat' first
    | with_reducible rfl
    | with_reducible refine keeps_next ?_
    | with_reducible refine hostCmd_shape _ _ _ _ _ (fun _ _ => ?_)
    | (with_reducible first | refine (placeHintBody_shape ..).trans ?_)

theorem execPlacementEpochTick_shape (s : State) : Keeps s (execPlacementEpochTick s) := by
  unfold execPlacementEpochTick
  repeat' first
    | with_reducible rfl
    | with_reducible refine keeps_next ?_
    | (with_reducible first | refine (State.advanceTo_shape ..).trans ?_ | refine (State.epochBoundary_shape ..).trans ?_)
    | ((conv => lhs; arg 1; arg 1); split)
    | (extract_lets +onlyGivenNames x; clear_value (e : x = _); first | (subst e))

theorem State.modBasket_shape (s : State) (obj index : Nat) (f : Basket → Basket) : (State.modBasket s obj index f).shape = s.shape := by
  unfold State.modBasket
  repeat' first
    | with_reducible rfl
    | ((conv => lhs; arg 1; arg 25); exact rfl)
    | (with_reducible first | refine (State.modObj_shape ..).trans ?_)
    | ((conv => lhs; arg 1; arg 1); split)
    | (extract_lets +onlyGivenNames x; clear_value (e : x = _); first | (subst e))

theorem State.copyEnds_shape (s : State) (obj index : Nat) (b : Basket) : (State.copyEnds s obj index b).shape = s.shape := by
  unfold State.copyEnds
  repeat' first
    | with_reducible rfl
    | with_reducible assumption
    | ((conv => lhs; arg 1; arg 25); with_reducible refine (shape_mk ..).trans ?_; simp only [↓shape_mk, ↓shape_pending, ↓shape_mb, ↓shape_ports, ↓shape_tiles, ↓shape_chans, ↓shape_clusters, ↓shape_cores, ↓shape_cvu, ↓shape_compares, ↓shape_latches, ↓shape_tsq, ↓shape_netPorts, updAt_length])
    | (with_reducible first | refine (State.advanceTo_shape ..).trans ?_ | refine (State.modBasket_shape ..).trans ?_)
    | ((conv => lhs; arg 1; arg 1); split)
    | (extract_lets +onlyGivenNames x; clear_value (e : x = _); first | (subst e))

theorem execBasketCopyComplete_shape (obj index kind dest : Nat) (s : State) : Keeps s (execBasketCopyComplete obj index kind dest s) := by
  unfold execBasketCopyComplete
  repeat' first
    | with_reducible rfl
    | with_reducible refine keeps_next ?_
    | (with_reducible first | refine (State.makeRoom_shape ..).trans ?_ | refine (State.copyBegins_shape ..).trans ?_ | refine (State.modBasket_shape ..).trans ?_ | refine (State.copyEnds_shape ..).trans ?_)
    | ((conv => arg 1; arg 1); split)

theorem execBasketSourceRelease_shape (obj index : Nat) (s : State) : Keeps s (execBasketSourceRelease obj index s) := by
  unfold execBasketSourceRelease
  repeat' first
    | with_reducible rfl
    | ((conv => lhs; arg 1; arg 25); with_reducible refine (shape_mk ..).trans ?_; simp only [↓shape_mk, ↓shape_pending, ↓shape_mb, ↓shape_ports, ↓shape_tiles, ↓shape_chans, ↓shape_clusters, ↓shape_cores, ↓shape_cvu, ↓shape_compares, ↓shape_latches, ↓shape_tsq, ↓shape_netPorts, updAt_length])
    | with_reducible refine keeps_next ?_
    | (with_reducible first | refine (State.capacityCheck_shape ..).trans ?_ | refine (State.modBasket_shape ..).trans ?_)

theorem State.placeLost_shape (s : State) (obj : Nat) : (State.placeLost s obj).shape = s.shape := by
  unfold State.placeLost
  repeat' first
    | with_reducible rfl
    | (with_reducible first | refine (State.raise_shape ..).trans ?_)

theorem State.loseObj_shape (s : State) (o : Obj) : FstShape (State.loseObj s o) s.shape := by
  unfold State.loseObj
  repeat' first
    | ((conv => lhs; arg 1; arg 25); exact rfl)
    | (with_reducible first | refine (State.modObj_shape ..).trans ?_ | refine (State.placeLost_shape ..).trans ?_)
    | with_reducible refine fstShape_mk ?_

theorem State.loseAll_shape (s : State) (os : List Obj) (fault : Bool) : FstShape (State.loseAll s os fault) s.shape := by
  induction os generalizing s fault with
  | nil => exact rfl
  | cons o r ih =>
    unfold State.loseAll
    exact (ih ..).trans (fstShape_eq (State.loseObj_shape s o))

theorem State.abandonTile_shape (s : State) (n : Nat) : (State.abandonTile s n).shape = s.shape := by
  unfold State.abandonTile
  repeat' first
    | with_reducible rfl
    | (with_reducible first | refine (State.modCluster_shape ..).trans ?_ | refine (State.reassign_shape ..).trans ?_)
    | split

theorem State.losePics_shape (s : State) (hit : StreamId → Bool) : (State.losePics s hit).shape = s.shape := by
  unfold State.losePics
  repeat' first
    | with_reducible rfl
    | with_reducible assumption
    | ((conv => lhs; arg 1; arg 25); exact rfl)
    | with_reducible refine (shape_foldl _ (fun _ _ => ?_) _ _).trans ?_
    | (with_reducible first | refine (State.abandonTile_shape ..).trans ?_)
    | ((conv => lhs; arg 1; arg 1); split)
    | (extract_lets +onlyGivenNames x; clear_value (e : x = _); first | (subst e))

theorem State.starveStreams_shape (s : State) (hit : StreamId → Bool) (reason : Nat) (raise_ : Bool) : (State.starveStreams s hit reason raise_).shape = s.shape := by
  unfold State.starveStreams
  repeat' first
    | with_reducible rfl
    | with_reducible assumption
    | ((conv => lhs; arg 1; arg 25); exact rfl)
    | with_reducible refine (shape_foldl _ (fun _ _ => ?_) _ _).trans ?_
    | (with_reducible first | refine (State.startQueued_shape ..).trans ?_ | refine (State.decodeConceal_shape ..).trans ?_)
    | ((conv => lhs; arg 1; arg 1); split)
    | (extract_lets +onlyGivenNames x; clear_value (e : x = _); first | (subst e))

theorem State.reallotAll_shape (s : State) : (State.reallotAll s).shape = s.shape := rfl

theorem State.placeEvict_shape (s : State) (obj what : Nat) : (State.placeEvict s obj what).shape = s.shape := by
  unfold State.placeEvict
  repeat' first
    | ((conv => lhs; arg 1; arg 25); exact rfl)
    | (with_reducible first | refine (State.raise_shape ..).trans ?_)

theorem State.freeStaging_shape (s : State) (job : Nat) : (State.freeStaging s job).shape = s.shape := by
  unfold State.freeStaging
  repeat' first
    | with_reducible rfl
    | (with_reducible first | refine (State.unreserve_shape ..).trans ?_)

theorem State.endRegion_shape (s : State) (job status : Nat) : (State.endRegion s job status).shape = s.shape := by
  unfold State.endRegion
  repeat' first
    | ((conv => lhs; arg 1; arg 25); exact rfl)
    | (with_reducible first | refine (State.endJob_shape ..).trans ?_ | refine (State.freeStaging_shape ..).trans ?_)

theorem State.endScratch_shape (s : State) (u : ScratchUser) : (State.endScratch s u).shape = s.shape := by
  unfold State.endScratch
  repeat' first
    | with_reducible rfl
    | (with_reducible first | refine (State.unreserve_shape ..).trans ?_ | refine (State.encStop_shape ..).trans ?_ | refine (State.failCmpJob_shape ..).trans ?_ | refine (State.placeEvict_shape ..).trans ?_ | refine (State.endRegion_shape ..).trans ?_)
    | split

theorem State.evictScratch_shape (s : State) (p0 : List ScratchUser) : (State.evictScratch s p0).shape = s.shape := by
  induction p0 generalizing s with
  | nil => rfl
  | cons x xs ih =>
    unfold State.evictScratch
    repeat' first
      | with_reducible rfl
      | with_reducible refine (ih ..).trans ?_
      | (with_reducible first | refine (State.endScratch_shape ..).trans ?_)
      | ((conv => lhs; arg 1; arg 1); split)

theorem State.cutScenes_shape (s : State) (p0 : List Scene) : (State.cutScenes s p0).shape = s.shape := by
  induction p0 generalizing s with
  | nil => rfl
  | cons x xs ih =>
    unfold State.cutScenes
    repeat' first
      | with_reducible rfl
      | ((conv => lhs; arg 1; arg 25); exact rfl)
      | with_reducible refine (ih ..).trans ?_
      | (with_reducible first | refine (State.modObj_shape ..).trans ?_ | refine (State.giveUp_shape ..).trans ?_ | refine (State.starveStreams_shape ..).trans ?_ | refine (State.placeEvict_shape ..).trans ?_)
      | ((conv => lhs; arg 1; arg 1); split)

theorem State.evictOrder_shape (s : State) : (State.evictOrder s).shape = s.shape := by
  unfold State.evictOrder
  repeat' first
    | with_reducible rfl
    | (with_reducible first | refine (State.evictScratch_shape ..).trans ?_ | refine (State.cutScenes_shape ..).trans ?_)

theorem State.mirrorShortCheck_shape (s : State) : (State.mirrorShortCheck s).shape = s.shape := by
  unfold State.mirrorShortCheck
  repeat' first
    | with_reducible rfl
    | with_reducible assumption
    | ((conv => lhs; arg 1; arg 25); exact rfl)
    | (with_reducible first | refine (State.raise_shape ..).trans ?_ | refine (State.mapBaskets_shape ..).trans ?_)
    | ((conv => lhs; arg 1; arg 1); split)
    | (extract_lets +onlyGivenNames x; clear_value (e : x = _); first | (subst e))

theorem State.loseTaps_shape (s : State) (ch : Nat) : (State.loseTaps s ch).shape = s.shape := by
  unfold State.loseTaps
  repeat' first
    | ((conv => lhs; arg 1; arg 25); exact rfl)
    | (with_reducible first | refine (State.raise_shape ..).trans ?_)

theorem State.loseHbRecord_shape (s : State) : (State.loseHbRecord s).shape = s.shape := by
  unfold State.loseHbRecord
  repeat' first
    | ((conv => lhs; arg 1; arg 25); with_reducible refine (shape_mk ..).trans ?_; simp only [↓shape_mk, ↓shape_pending, ↓shape_mb, ↓shape_ports, ↓shape_tiles, ↓shape_chans, ↓shape_clusters, ↓shape_cores, ↓shape_cvu, ↓shape_compares, ↓shape_latches, ↓shape_tsq, ↓shape_netPorts, updAt_length, List.length_map])
    | (with_reducible first | refine (State.raise_shape ..).trans ?_)
    | with_reducible refine fstShape_eq ?_
    | with_reducible refine fstShape_eq ?_
    | with_reducible refine ranShape_eq ?_
    | split
    | with_reducible refine fstShape_mk ?_
    | with_reducible refine ranShape_mk ?_
    | simp only [↓shape_clusters, ↓shape_mb, ↓shape_chans, ↓shape_ports, ↓shape_tiles, ↓shape_cores, ↓shape_cvu, shape_eta]
    | dsimp only

theorem State.loseEncBuffers_shape (s : State) (n : Nat) : (State.loseEncBuffers s n).shape = s.shape := by
  unfold State.loseEncBuffers
  repeat' first
    | with_reducible rfl
    | (with_reducible first | refine (State.modEnc_shape ..).trans ?_ | refine (State.encDropRunning_shape ..).trans ?_)

theorem State.loseScratch_shape (s : State) (ch : Nat) (lost : List Basket) : (State.loseScratch s ch lost).shape = s.shape := by
  unfold State.loseScratch
  repeat' first
    | with_reducible rfl
    | with_reducible refine (shape_foldl _ (fun _ _ => ?_) _ _).trans ?_
    | (with_reducible first | refine (State.loseFlowBaskets_shape ..).trans ?_ | refine (State.endRegion_shape ..).trans ?_ | refine (State.loseTaps_shape ..).trans ?_ | refine (State.loseHbRecord_shape ..).trans ?_ | refine (State.loseEncBuffers_shape ..).trans ?_)
    | ((conv => lhs; arg 1; arg 1); split)

theorem State.joinRestoration_shape (s : State) (ch : Nat) : (State.joinRestoration s ch).shape = s.shape := by
  unfold State.joinRestoration
  repeat' first
    | with_reducible rfl
    | ((conv => lhs; arg 1; arg 25); exact rfl)
    | ((conv => lhs; arg 1; arg 1); split)

theorem State.beginRestoration_shape (s : State) (ch : Nat) : (State.beginRestoration s ch).shape = s.shape := by
  unfold State.beginRestoration
  repeat' first
    | ((conv => lhs; arg 1; arg 25); exact rfl)
    | (with_reducible first | refine (State.mirrorAll_shape ..).trans ?_ | refine (State.mirrorShortCheck_shape ..).trans ?_ | refine (State.joinRestoration_shape ..).trans ?_)

theorem State.settleLoss_shape (s : State) (ch crit strm scr : Nat) (fault : Bool) : (State.settleLoss s ch crit strm scr fault).shape = s.shape := by
  unfold State.settleLoss
  repeat' first
    | with_reducible rfl
    | with_reducible assumption
    | with_reducible refine (shape_foldl _ (fun _ _ => ?_) _ _).trans ?_
    | (with_reducible first | refine (State.raise_shape ..).trans ?_ | refine (State.makeRoom_shape ..).trans ?_ | refine (State.capacityCheck_shape ..).trans ?_ | refine (State.encStop_shape ..).trans ?_ | refine (State.safeByFault_shape ..).trans ?_ | refine (State.placeLost_shape ..).trans ?_ | refine (State.reallotAll_shape ..).trans ?_ | refine (State.evictOrder_shape ..).trans ?_ | refine (State.beginRestoration_shape ..).trans ?_)
    | ((conv => lhs; arg 1; arg 1); split)
    | (extract_lets +onlyGivenNames x; clear_value (e : x = _); first | (with_reducible refine shape_cut x ?_ (fun _ => ?_); (subst e); rotate_left; clear e) | (subst e))

theorem State.placeChannelLoss_shape (s : State) (ch : Nat) : (State.placeChannelLoss s ch).shape = s.shape := by
  unfold State.placeChannelLoss
  repeat' first
    | with_reducible rfl
    | ((conv => lhs; arg 1; arg 25); exact rfl)
    | with_reducible refine (shape_foldl _ (fun _ _ => ?_) _ _).trans ?_
    | (with_reducible first | refine (State.raise_shape ..).trans ?_ | refine (State.mapBaskets_shape ..).trans ?_ | refine (State.failCmpJob_shape ..).trans ?_ | refine (State.loseAll_shape ..).trans ?_ | refine (State.losePics_shape ..).trans ?_ | refine (State.starveStreams_shape ..).trans ?_ | refine (State.loseScratch_shape ..).trans ?_ | refine (State.settleLoss_shape ..).trans ?_)
    | with_reducible refine fstShape_eq ?_
    | ((conv => lhs; arg 1; arg 1); split)

theorem State.shutdownChannels_shape (s : State) : (State.shutdownChannels s).shape = s.shape := by
  unfold State.shutdownChannels
  repeat' first
    | with_reducible rfl
    | (with_reducible first | refine (State.enter_shape ..).trans ?_)
    | ((conv => lhs; arg 1; arg 1); split)

theorem execChannelFailedMark_shape (ch : Nat) (s : State) : Keeps s (execChannelFailedMark ch s) := by
  unfold execChannelFailedMark
  repeat' first
    | with_reducible rfl
    | with_reducible refine keeps_next ?_
    | (with_reducible first | refine (State.evaluate_shape ..).trans ?_ | refine (State.placeChannelLoss_shape ..).trans ?_ | refine (State.shutdownChannels_shape ..).trans ?_)
    | ((conv => lhs; arg 1; arg 1); split)

theorem execMirrorRestorationComplete_shape (s : State) : Keeps s (execMirrorRestorationComplete s) := by
  unfold execMirrorRestorationComplete
  repeat' first
    | with_reducible rfl
    | ((conv => lhs; arg 1; arg 25); exact rfl)
    | with_reducible refine keeps_next ?_
    | (with_reducible first | refine (State.raise_shape ..).trans ?_)
    | ((conv => arg 1; arg 1); split)

/-! ### StartOps -/

theorem State.calRun_shape (s : State) (step : Nat) (ok : Bool) : (State.calRun s step ok).shape = s.shape := rfl

theorem State.calFail_shape (s : State) (step unit_ consequence : Nat) : (State.calFail s step unit_ consequence).shape = s.shape := by
  unfold State.calFail
  repeat' first
    | with_reducible rfl
    | ((conv => lhs; arg 1; arg 25); exact rfl)
    | (with_reducible first | refine (State.raise_shape ..).trans ?_)
    | ((conv => lhs; arg 1; arg 1); split)

theorem State.startSelfTest_shape (s : State) (occasion : Nat) : (State.startSelfTest s occasion).shape = s.shape := rfl

theorem State.modRecord_shape (s : State) (f : Record → Record) : (State.modRecord s f).shape = s.shape := by
  unfold State.modRecord
  repeat' first
    | with_reducible rfl
    | ((conv => lhs; arg 1; arg 25); exact rfl)
    | split

theorem State.testAbort_shape (s : State) (d cause count : Nat) : (State.testAbort s d cause count).shape = s.shape := by
  unfold State.testAbort
  repeat' first
    | with_reducible rfl
    | (with_reducible first | refine (State.raise_shape ..).trans ?_)

theorem State.maybeStartSynth_shape (s : State) : (State.maybeStartSynth s).shape = s.shape := by
  unfold State.maybeStartSynth
  repeat' first
    | with_reducible rfl
    | ((conv => lhs; arg 1; arg 25); exact rfl)
    | (with_reducible first | refine (State.powerSync_shape ..).trans ?_)
    | ((conv => lhs; arg 1; arg 1); split)

theorem State.finishShutdown_shape (s : State) (seq result : Nat) : (State.finishShutdown s seq result).shape = s.shape := by
  unfold State.finishShutdown
  repeat' first
    | with_reducible rfl
    | with_reducible assumption
    | ((conv => lhs; arg 1; arg 25); with_reducible refine (shape_mk ..).trans ?_; simp only [↓shape_mk, ↓shape_pending, ↓shape_mb, ↓shape_ports, ↓shape_tiles, ↓shape_chans, ↓shape_clusters, ↓shape_cores, ↓shape_cvu, ↓shape_compares, ↓shape_latches, ↓shape_tsq, ↓shape_netPorts, updAt_length])
    | with_reducible refine (shape_foldl _ (fun _ _ => ?_) _ _).trans ?_
    | (with_reducible first | refine (State.emit_shape ..).trans ?_ | refine (State.setPend_shape ..).trans ?_ | refine (State.endJob_shape ..).trans ?_ | refine (State.stopGrid_shape ..).trans ?_ | refine (State.enter_shape ..).trans ?_)
    | ((conv => lhs; arg 1; arg 1); split)
    | (extract_lets +onlyGivenNames x; clear_value (e : x = _); first | (subst e))

theorem State.finishSelfTest_shape (s : State) (whole : Bool) : (State.finishSelfTest s whole).shape = s.shape := by
  unfold State.finishSelfTest
  repeat' first
    | with_reducible rfl
    | with_reducible assumption
    | ((conv => lhs; arg 1; arg 25); with_reducible refine (shape_mk ..).trans ?_; simp only [↓shape_mk, ↓shape_pending, ↓shape_mb, ↓shape_ports, ↓shape_tiles, ↓shape_chans, ↓shape_clusters, ↓shape_cores, ↓shape_cvu, ↓shape_compares, ↓shape_latches, ↓shape_tsq, ↓shape_netPorts, updAt_length])
    | (with_reducible first | refine (State.emit_shape ..).trans ?_ | refine (State.raise_shape ..).trans ?_ | refine (State.startReconciles_shape ..).trans ?_ | refine (State.powerSync_shape ..).trans ?_ | refine (State.milestone_shape ..).trans ?_ | refine (State.eraseOther_shape ..).trans ?_ | refine (State.modRecord_shape ..).trans ?_ | refine (State.testAbort_shape ..).trans ?_ | refine (State.maybeStartSynth_shape ..).trans ?_ | refine (State.finishShutdown_shape ..).trans ?_)
    | (extract_lets +onlyGivenNames x; clear_value (e : x = _); first | (subst e))
    | split

theorem State.cutTest_shape (s : State) (d result cause : Nat) : (State.cutTest s d result cause).shape = s.shape := by
  unfold State.cutTest
  repeat' first
    | with_reducible rfl
    | with_reducible assumption
    | (with_reducible first | refine (State.takeFree_shape ..).trans ?_ | refine (State.modRecord_shape ..).trans ?_ | refine (State.testAbort_shape ..).trans ?_)
    | with_reducible refine fstShape_eq ?_
    | ((conv => lhs; arg 1; arg 1); split)
    | (extract_lets +onlyGivenNames x; clear_value (e : x = _); first | (subst e))

theorem State.stopSelfTest_shape (s : State) (result cause : Nat) : (State.stopSelfTest s result cause).shape = s.shape := by
  unfold State.stopSelfTest
  repeat' first
    | with_reducible rfl
    | with_reducible refine (shape_foldl _ (fun _ _ => ?_) _ _).trans ?_
    | (with_reducible first | refine (State.modRecord_shape ..).trans ?_ | refine (State.finishSelfTest_shape ..).trans ?_ | refine (State.cutTest_shape ..).trans ?_)
    | split

theorem State.nextPhase_shape (s : State) : (State.nextPhase s).shape = s.shape := by
  unfold State.nextPhase
  repeat' first
    | with_reducible rfl
    | ((conv => lhs; arg 1; arg 25); with_reducible refine (shape_mk ..).trans ?_; simp only [↓shape_mk, ↓shape_pending, ↓shape_mb, ↓shape_ports, ↓shape_tiles, ↓shape_chans, ↓shape_clusters, ↓shape_cores, ↓shape_cvu, ↓shape_compares, ↓shape_latches, ↓shape_tsq, ↓shape_netPorts, updAt_length])
    | (with_reducible first | refine (State.startReconciles_shape ..).trans ?_ | refine (State.finishSelfTest_shape ..).trans ?_)
    | split

theorem State.serviceRequest_shape (s : State) (d : Nat) : (State.serviceRequest s d).shape = s.shape := by
  unfold State.serviceRequest
  repeat' first
    | with_reducible rfl
    | ((conv => lhs; arg 1; arg 25); with_reducible refine (shape_mk ..).trans ?_; simp only [↓shape_mk, ↓shape_pending, ↓shape_mb, ↓shape_ports, ↓shape_tiles, ↓shape_chans, ↓shape_clusters, ↓shape_cores, ↓shape_cvu, ↓shape_compares, ↓shape_latches, ↓shape_tsq, ↓shape_netPorts, updAt_length])
    | (with_reducible first | refine (State.modDomain_shape ..).trans ?_ | refine (State.cutTest_shape ..).trans ?_ | refine (State.nextPhase_shape ..).trans ?_)
    | split

theorem State.serveCore_shape (s : State) : (State.serveCore s).shape = s.shape := by
  unfold State.serveCore
  repeat' first
    | with_reducible rfl
    | ((conv => lhs; arg 1; arg 25); exact rfl)
    | (with_reducible first | refine (State.serviceRequest_shape ..).trans ?_)
    | ((conv => lhs; arg 1; arg 1); split)

theorem State.shutdownStep_shape (s : State) : (State.shutdownStep s).shape = s.shape := by
  unfold State.shutdownStep
  repeat' first
    | with_reducible rfl
    | with_reducible assumption
    | ((conv => lhs; arg 1; arg 25); with_reducible refine (shape_mk ..).trans ?_; simp only [↓shape_mk, ↓shape_pending, ↓shape_mb, ↓shape_ports, ↓shape_tiles, ↓shape_chans, ↓shape_clusters, ↓shape_cores, ↓shape_cvu, ↓shape_compares, ↓shape_latches, ↓shape_tsq, ↓shape_netPorts, updAt_length])
    | (with_reducible first | refine (State.stopGrid_shape ..).trans ?_ | refine (State.powerSync_shape ..).trans ?_ | refine (State.startSelfTest_shape ..).trans ?_ | refine (State.finishShutdown_shape ..).trans ?_)
    | ((conv => lhs; arg 1; arg 1); split)
    | (extract_lets +onlyGivenNames x; clear_value (e : x = _); first | (subst e))

theorem State.modPair_shape (s : State) (f : PairSt → PairSt) : (State.modPair s f).shape = s.shape := rfl

theorem State.endPairJobs_shape (s : State) (status : Nat) : (State.endPairJobs s status).shape = s.shape := by
  unfold State.endPairJobs
  repeat' first
    | with_reducible rfl
    | (with_reducible first | refine (State.endJobs_shape ..).trans ?_)

theorem State.dropPlanned_shape (s : State) : (State.dropPlanned s).shape = s.shape := by
  unfold State.dropPlanned
  repeat' first
    | with_reducible rfl
    | with_reducible assumption
    | with_reducible refine (shape_foldl _ (fun _ _ => ?_) _ _).trans ?_
    | (with_reducible first | refine (State.orderlyOff_shape ..).trans ?_ | refine (State.stopGrid_shape ..).trans ?_ | refine (State.leavePair_shape ..).trans ?_ | refine (State.shutdownStep_shape ..).trans ?_ | refine (State.modPair_shape ..).trans ?_ | refine (State.endPairJobs_shape ..).trans ?_)
    | (extract_lets +onlyGivenNames x; clear_value (e : x = _); first | (with_reducible refine shape_cut x ?_ (fun _ => ?_); (subst e); rotate_left; clear e))
    | split

theorem State.xlinkGo_shape (s : State) (up : Bool) (cause : Nat) : (State.xlinkGo s up cause).shape = s.shape := by
  unfold State.xlinkGo
  repeat' first
    | with_reducible rfl
    | (with_reducible first | refine (State.raise_shape ..).trans ?_ | refine (State.modPair_shape ..).trans ?_)
    | ((conv => lhs; arg 1; arg 1); split)

theorem State.xlinkDown_shape (s : State) (cause : Nat) : (State.xlinkDown s cause).shape = s.shape := by
  unfold State.xlinkDown
  repeat' first
    | with_reducible rfl
    | with_reducible assumption
    | (with_reducible first | refine (State.roleGo_shape ..).trans ?_ | refine (State.modPair_shape ..).trans ?_ | refine (State.dropPlanned_shape ..).trans ?_ | refine (State.xlinkGo_shape ..).trans ?_)
    | ((conv => lhs; arg 1; arg 1); split)
    | (extract_lets +onlyGivenNames x; clear_value (e : x = _); first | (subst e))

theorem State.netLink_shape (s : State) (p : Nat) (up : Bool) : (State.netLink s p up).shape = s.shape := by
  unfold State.netLink
  repeat' first
    | with_reducible rfl
    | (with_reducible first | refine (State.raise_shape ..).trans ?_ | refine (State.modNet_shape ..).trans ?_)
    | ((conv => lhs; arg 1; arg 1); split)

theorem State.modChan_shape (s : State) (ch : Nat) (f : MemChan → MemChan) : (State.modChan s ch f).shape = s.shape := by
  unfold State.modChan
  repeat' first
    | ((conv => lhs; arg 1; arg 25); with_reducible refine (shape_mk ..).trans ?_; simp only [↓shape_mk, ↓shape_pending, ↓shape_mb, ↓shape_ports, ↓shape_tiles, ↓shape_chans, ↓shape_clusters, ↓shape_cores, ↓shape_cvu, ↓shape_compares, ↓shape_latches, ↓shape_tsq, ↓shape_netPorts, updAt_length])

theorem State.failChannel_shape (s : State) (ch where_ : Nat) : (State.failChannel s ch where_).shape = s.shape := by
  unfold State.failChannel
  repeat' first
    | with_reducible rfl
    | ((conv => lhs; arg 1; arg 25); with_reducible refine (shape_mk ..).trans ?_; simp only [↓shape_mk, ↓shape_pending, ↓shape_mb, ↓shape_ports, ↓shape_tiles, ↓shape_chans, ↓shape_clusters, ↓shape_cores, ↓shape_cvu, ↓shape_compares, ↓shape_latches, ↓shape_tsq, ↓shape_netPorts, updAt_length])
    | (with_reducible first | refine (State.raise_shape ..).trans ?_ | refine (State.modChan_shape ..).trans ?_)
    | ((conv => lhs; arg 1; arg 1); split)

theorem State.failCluster_shape (s : State) (n : Nat) : (State.failCluster s n).shape = s.shape := by
  unfold State.failCluster
  repeat' first
    | with_reducible rfl
    | ((conv => lhs; arg 1; arg 25); with_reducible refine (shape_mk ..).trans ?_; simp only [↓shape_mk, ↓shape_pending, ↓shape_mb, ↓shape_ports, ↓shape_tiles, ↓shape_chans, ↓shape_clusters, ↓shape_cores, ↓shape_cvu, ↓shape_compares, ↓shape_latches, ↓shape_tsq, ↓shape_netPorts, updAt_length])
    | (with_reducible first | refine (State.raise_shape ..).trans ?_ | refine (State.spreadTiles_shape ..).trans ?_)
    | ((conv => lhs; arg 1; arg 1); split)
    | (extract_lets +onlyGivenNames x; clear_value (e : x = _); first | (subst e))

theorem State.failCore_shape (s : State) (n : Nat) : (State.failCore s n).shape = s.shape := by
  unfold State.failCore
  repeat' first
    | with_reducible rfl
    | ((conv => lhs; arg 1; arg 25); with_reducible refine (shape_mk ..).trans ?_; simp only [↓shape_mk, ↓shape_pending, ↓shape_mb, ↓shape_ports, ↓shape_tiles, ↓shape_chans, ↓shape_clusters, ↓shape_cores, ↓shape_cvu, ↓shape_compares, ↓shape_latches, ↓shape_tsq, ↓shape_netPorts, updAt_length])
    | (with_reducible first | refine (State.raise_shape ..).trans ?_)
    | ((conv => lhs; arg 1; arg 1); split)
    | (extract_lets +onlyGivenNames x; clear_value (e : x = _); first | (subst e))

theorem State.domainBlocks_shape (s : State) (d : Nat) : (State.domainBlocks s d).shape = s.shape := by
  unfold State.domainBlocks
  repeat' first
    | with_reducible rfl
    | with_reducible refine (shape_foldl _ (fun _ _ => ?_) _ _).trans ?_
    | (with_reducible first | refine (State.portGo_shape ..).trans ?_ | refine (State.safeByFault_shape ..).trans ?_ | refine (State.evaluate_shape ..).trans ?_ | refine (State.modPair_shape ..).trans ?_ | refine (State.xlinkDown_shape ..).trans ?_ | refine (State.netLink_shape ..).trans ?_ | refine (State.failChannel_shape ..).trans ?_ | refine (State.failCluster_shape ..).trans ?_ | refine (State.failCore_shape ..).trans ?_)
    | ((conv => lhs; arg 1; arg 1); split)
    | (extract_lets +onlyGivenNames x; clear_value (e : x = _); first | (subst e))

theorem State.failDomain_shape (s : State) (d : Nat) : (State.failDomain s d).shape = s.shape := by
  unfold State.failDomain
  repeat' first
    | with_reducible rfl
    | (with_reducible first | refine (State.modDomain_shape ..).trans ?_ | refine (State.domainBlocks_shape ..).trans ?_)

/-! ### MonOps -/

theorem State.modMon_shape (s : State) (f : Mon → Mon) : (State.modMon s f).shape = s.shape := rfl

theorem State.monLink_shape (s : State) (what cause : Nat) : (State.monLink s what cause).shape = s.shape := by
  unfold State.monLink
  repeat' first
    | with_reducible rfl
    | (with_reducible first | refine (State.raise_shape ..).trans ?_)

theorem State.monIdleNow_shape (s : State) (cause : Nat) : (State.monIdleNow s cause).shape = s.shape := by
  unfold State.monIdleNow
  repeat' first
    | with_reducible rfl
    | (with_reducible first | refine (State.modMon_shape ..).trans ?_ | refine (State.monLink_shape ..).trans ?_)
    | ((conv => lhs; arg 1; arg 1); split)

theorem State.monStop_shape (s : State) (st cause : Nat) : (State.monStop s st cause).shape = s.shape := by
  unfold State.monStop
  repeat' first
    | ((conv => lhs; arg 1; arg 25); exact rfl)
    | (with_reducible first | refine (State.monIdleNow_shape ..).trans ?_)

theorem State.monTrain_shape (s : State) (cause : Nat) : (State.monTrain s cause).shape = s.shape := by
  unfold State.monTrain
  repeat' first
    | with_reducible rfl
    | (with_reducible first | refine (State.modMon_shape ..).trans ?_)
    | ((conv => lhs; arg 1; arg 1); split)

theorem State.monBegin_shape (s : State) (cause : Nat) : (State.monBegin s cause).shape = s.shape := by
  unfold State.monBegin
  repeat' first
    | with_reducible rfl
    | ((conv => lhs; arg 1; arg 25); exact rfl)
    | (with_reducible first | refine (State.monTrain_shape ..).trans ?_)
    | ((conv => lhs; arg 1; arg 1); split)

/-! ### PwrRows -/

theorem State.modPwr_shape (s : State) (f : Pwr → Pwr) : (State.modPwr s f).shape = s.shape := rfl

theorem State.sagReact_shape (s : State) (old : Nat) : (State.sagReact s old).shape = s.shape := by
  unfold State.sagReact
  repeat' first
    | with_reducible rfl
    | with_reducible assumption
    | (with_reducible first | refine (State.encStopAll_shape ..).trans ?_ | refine (State.encResume_shape ..).trans ?_ | refine (State.endCmpJobs_shape ..).trans ?_ | refine (State.g2dForce_shape ..).trans ?_ | refine (State.powerSync_shape ..).trans ?_ | refine (State.evaluate_shape ..).trans ?_ | refine (State.monStop_shape ..).trans ?_)
    | ((conv => lhs; arg 1; arg 1); split)
    | (extract_lets +onlyGivenNames x; clear_value (e : x = _); first | (subst e))

theorem State.setStage_shape (s : State) (new cause : Nat) : (State.setStage s new cause).shape = s.shape := by
  unfold State.setStage
  repeat' first
    | with_reducible rfl
    | (with_reducible first | refine (State.raise_shape ..).trans ?_ | refine (State.stopSelfTest_shape ..).trans ?_ | refine (State.modPwr_shape ..).trans ?_ | refine (State.sagReact_shape ..).trans ?_)
    | ((conv => lhs; arg 1; arg 1); split)
    | (extract_lets +onlyGivenNames x; clear_value (e : x = _); first | (subst e))

theorem State.sagStep_shape (s : State) : (State.sagStep s).shape = s.shape := by
  unfold State.sagStep
  repeat' first
    | with_reducible rfl
    | (with_reducible first | refine (State.modPwr_shape ..).trans ?_ | refine (State.setStage_shape ..).trans ?_)
    | ((conv => lhs; arg 1; arg 1); split)
    | (extract_lets +onlyGivenNames x; clear_value (e : x = _); first | (subst e))

theorem execSagSample_shape (vcore pace : List Nat) (s : State) : Keeps s (execSagSample vcore pace s) := by
  unfold execSagSample
  repeat' first
    | with_reducible rfl
    | with_reducible refine keeps_next ?_
    | (with_reducible first | refine (State.advanceTo_shape ..).trans ?_ | refine (State.modPwr_shape ..).trans ?_ | refine (State.sagStep_shape ..).trans ?_)
    | ((conv => lhs; arg 1; arg 1); split)

theorem execSupplyWarnNFall_shape (s : State) : Keeps s (execSupplyWarnNFall s) := by
  unfold execSupplyWarnNFall
  repeat' first
    | with_reducible rfl
    | with_reducible assumption
    | with_reducible refine keeps_next ?_
    | (with_reducible first | refine (State.stopSelfTest_shape ..).trans ?_ | refine (State.modPwr_shape ..).trans ?_ | refine (State.setStage_shape ..).trans ?_)
    | ((conv => lhs; arg 1; arg 1); split)
    | (extract_lets +onlyGivenNames x; clear_value (e : x = _); first | (subst e))

theorem execSupplyWarnNRise_shape (s : State) : Keeps s (execSupplyWarnNRise s) := by
  unfold execSupplyWarnNRise
  repeat' first
    | with_reducible rfl
    | with_reducible refine keeps_next ?_
    | (with_reducible first | refine (State.modPwr_shape ..).trans ?_)
    | ((conv => lhs; arg 1; arg 1); split)

theorem State.pwrAvs_shape (s : State) (cause addr status : Nat) : (State.pwrAvs s cause addr status).shape = s.shape := by
  unfold State.pwrAvs
  repeat' first
    | with_reducible rfl
    | (with_reducible first | refine (State.raise_shape ..).trans ?_)

theorem State.avsFreeze_shape (s : State) (r : PmbRead) : (State.avsFreeze s r).shape = s.shape := by
  unfold State.avsFreeze
  repeat' first
    | with_reducible rfl
    | (with_reducible first | refine (State.modPwr_shape ..).trans ?_ | refine (State.pwrAvs_shape ..).trans ?_)

theorem State.avsRead_shape (s : State) (r : PmbRead) : (State.avsRead s r).shape = s.shape := by
  unfold State.avsRead
  repeat' first
    | with_reducible rfl
    | with_reducible assumption
    | (with_reducible first | refine (State.modPwr_shape ..).trans ?_ | refine (State.pwrAvs_shape ..).trans ?_)
    | ((conv => lhs; arg 1; arg 1); split)
    | (extract_lets +onlyGivenNames x; clear_value (e : x = _); first | (subst e))

theorem State.avsWait_shape (s : State) (period : Nat) (r : PmbRead) : (State.avsWait s period r).shape = s.shape := rfl

theorem execAvsTick_shape (r : PmbRead) (s : State) : Keeps s (execAvsTick r s) := by
  unfold execAvsTick
  repeat' first
    | with_reducible rfl
    | with_reducible refine keeps_next ?_
    | (with_reducible first | refine (State.emit_shape ..).trans ?_ | refine (State.modPwr_shape ..).trans ?_ | refine (State.avsFreeze_shape ..).trans ?_ | refine (State.avsRead_shape ..).trans ?_ | refine (State.avsWait_shape ..).trans ?_)
    | ((conv => arg 1; arg 1); split)

theorem execAvsRetry_shape (r : PmbRead) (s : State) : Keeps s (execAvsRetry r s) := by
  unfold execAvsRetry
  repeat' first
    | with_reducible rfl
    | with_reducible refine keeps_next ?_
    | (with_reducible first | refine (State.modPwr_shape ..).trans ?_ | refine (State.avsFreeze_shape ..).trans ?_ | refine (State.avsRead_shape ..).trans ?_ | refine (State.avsWait_shape ..).trans ?_)
    | ((conv => arg 1; arg 1); split)

theorem execPmbAlertNFall_shape (status : Nat) (s : State) : Keeps s (execPmbAlertNFall status s) := by
  unfold execPmbAlertNFall
  repeat' first
    | with_reducible rfl
    | with_reducible refine keeps_next ?_
    | (with_reducible first | refine (State.emit_shape ..).trans ?_ | refine (State.pwrAvs_shape ..).trans ?_)
    | ((conv => lhs; arg 1; arg 1); split)

theorem State.teleOne_shape (s : State) (k : Nat) (r : PmbRail) : (State.teleOne s k r).shape = s.shape := by
  unfold State.teleOne
  repeat' first
    | with_reducible rfl
    | with_reducible assumption
    | (with_reducible first | refine (State.modPwr_shape ..).trans ?_ | refine (State.pwrAvs_shape ..).trans ?_)
    | ((conv => lhs; arg 1; arg 1); split)
    | (extract_lets +onlyGivenNames x; clear_value (e : x = _); first | (subst e))

theorem State.teleAll_shape (s : State) (p0 : Nat) (p1 : List PmbRail) : (State.teleAll s p0 p1).shape = s.shape := by
  induction p1 generalizing s p0 with
  | nil => rfl
  | cons x xs ih =>
    unfold State.teleAll
    repeat' first
      | with_reducible rfl
      | with_reducible refine (ih ..).trans ?_
      | (with_reducible first | refine (State.teleOne_shape ..).trans ?_)

theorem execTelemetryTick_shape (reads : List PmbRail) (s : State) : Keeps s (execTelemetryTick reads s) := by
  unfold execTelemetryTick
  repeat' first
    | with_reducible rfl
    | with_reducible refine keeps_next ?_
    | (with_reducible first | refine (State.advanceTo_shape ..).trans ?_ | refine (State.modPwr_shape ..).trans ?_ | refine (State.teleAll_shape ..).trans ?_)
    | ((conv => lhs; arg 1; arg 1); split)

theorem State.excludeSensor_shape (s : State) (n cause : Nat) (first : Bool) : (State.excludeSensor s n cause first).shape = s.shape := by
  unfold State.excludeSensor
  repeat' first
    | with_reducible rfl
    | with_reducible assumption
    | (with_reducible first | refine (State.raise_shape ..).trans ?_ | refine (State.calRun_shape ..).trans ?_ | refine (State.calFail_shape ..).trans ?_ | refine (State.modPwr_shape ..).trans ?_)
    | ((conv => lhs; arg 1; arg 1); split)
    | (extract_lets +onlyGivenNames x; clear_value (e : x = _); first | (subst e))

theorem State.sensorStep_shape (s : State) (temps : List Int) (first : Bool) (n : Nat) (t : Int) : (State.sensorStep s temps first n t).shape = s.shape := by
  unfold State.sensorStep
  repeat' first
    | with_reducible rfl
    | with_reducible assumption
    | (with_reducible first | refine (State.modPwr_shape ..).trans ?_ | refine (State.excludeSensor_shape ..).trans ?_)
    | ((conv => lhs; arg 1; arg 1); split)
    | (extract_lets +onlyGivenNames x; clear_value (e : x = _); first | (subst e))

theorem State.sensorAll_shape (s : State) (temps : List Int) (first : Bool) (p0 : Nat) (p1 : List Int) : (State.sensorAll s temps first p0 p1).shape = s.shape := by
  induction p1 generalizing s temps first p0 with
  | nil => rfl
  | cons x xs ih =>
    unfold State.sensorAll
    repeat' first
      | with_reducible rfl
      | with_reducible refine (ih ..).trans ?_
      | (with_reducible first | refine (State.sensorStep_shape ..).trans ?_)

theorem State.takeTmax_shape (s : State) : (State.takeTmax s).shape = s.shape := rfl

theorem State.thermalUpdate_shape (s : State) : (State.thermalUpdate s).shape = s.shape := by
  unfold State.thermalUpdate
  repeat' first
    | with_reducible rfl
    | with_reducible assumption
    | (with_reducible first | refine (State.raise_shape ..).trans ?_ | refine (State.stopSelfTest_shape ..).trans ?_ | refine (State.modPwr_shape ..).trans ?_ | refine (State.sagReact_shape ..).trans ?_ | refine (State.takeTmax_shape ..).trans ?_)
    | (extract_lets +onlyGivenNames x; clear_value (e : x = _); first | (subst e))
    | split

theorem State.trip_shape (s : State) : (State.trip s).shape = s.shape := by
  unfold State.trip
  repeat' first
    | with_reducible rfl
    | (with_reducible first | refine (State.emit_shape ..).trans ?_ | refine (State.modPwr_shape ..).trans ?_)
    | ((conv => lhs; arg 1; arg 1); split)

theorem execThermalSample_shape (temps : List Int) (s : State) : Keeps s (execThermalSample temps s) := by
  unfold execThermalSample
  repeat' first
    | with_reducible rfl
    | with_reducible assumption
    | with_reducible refine keeps_next ?_
    | (with_reducible first | refine (State.advanceTo_shape ..).trans ?_ | refine (State.safeByFault_shape ..).trans ?_ | refine (State.calRun_shape ..).trans ?_ | refine (State.modPwr_shape ..).trans ?_ | refine (State.sensorAll_shape ..).trans ?_ | refine (State.takeTmax_shape ..).trans ?_ | refine (State.thermalUpdate_shape ..).trans ?_ | refine (State.trip_shape ..).trans ?_)
    | ((conv => lhs; arg 1; arg 1); split)
    | (extract_lets +onlyGivenNames x; clear_value (e : x = _); first | (subst e))

theorem execThermtripShutdownTimeout_shape (s : State) : Keeps s (execThermtripShutdownTimeout s) := by
  unfold execThermtripShutdownTimeout
  repeat' first
    | with_reducible rfl
    | with_reducible refine keeps_next ?_
    | (with_reducible first | refine (State.advanceTo_shape ..).trans ?_ | refine (State.trip_shape ..).trans ?_)
    | ((conv => lhs; arg 1; arg 1); split)

theorem execTempCompensationTick_shape (n : Nat) (s : State) : Keeps s (execTempCompensationTick n s) := by
  unfold execTempCompensationTick
  repeat' first
    | with_reducible rfl
    | with_reducible refine keeps_next ?_
    | (with_reducible first | refine (State.advanceTo_shape ..).trans ?_ | refine (State.modPwr_shape ..).trans ?_)
    | ((conv => lhs; arg 1; arg 1); split)

theorem State.upRequests_shape (s : State) : (State.upRequests s).shape = s.shape := by
  unfold State.upRequests
  repeat' first
    | with_reducible rfl
    | with_reducible refine (shape_foldl _ (fun _ _ => ?_) _ _).trans ?_
    | (with_reducible first | refine (State.serviceRequest_shape ..).trans ?_)
    | ((conv => lhs; arg 1; arg 1); split)

theorem execDomainUpStart_shape (s : State) : Keeps s (execDomainUpStart s) := by
  unfold execDomainUpStart
  repeat' first
    | with_reducible rfl
    | with_reducible assumption
    | with_reducible refine keeps_next ?_
    | (with_reducible first | refine (State.advanceTo_shape ..).trans ?_ | refine (State.modDomain_shape ..).trans ?_ | refine (State.powerSync_shape ..).trans ?_ | refine (State.modPwr_shape ..).trans ?_ | refine (State.upRequests_shape ..).trans ?_)
    | ((conv => arg 1; arg 1); split)
    | (extract_lets +onlyGivenNames x; clear_value (e : x = _); first | (subst e))

theorem State.pwrDomain_shape (s : State) (d what : Nat) : (State.pwrDomain s d what).shape = s.shape := by
  unfold State.pwrDomain
  repeat' first
    | with_reducible rfl
    | (with_reducible first | refine (State.raise_shape ..).trans ?_)

theorem State.domainTimeout_shape (s : State) (d : Nat) : (State.domainTimeout s d).shape = s.shape := by
  unfold State.domainTimeout
  repeat' first
    | with_reducible rfl
    | (with_reducible first | refine (State.failDomain_shape ..).trans ?_ | refine (State.pwrDomain_shape ..).trans ?_)

theorem execDomainUpComplete_shape (d fail : Nat) (s : State) : Keeps s (execDomainUpComplete d fail s) := by
  unfold execDomainUpComplete
  repeat' first
    | with_reducible rfl
    | with_reducible assumption
    | with_reducible refine keeps_next ?_
    | with_reducible refine (shape_foldl _ (fun _ _ => ?_) _ _).trans ?_
    | (with_reducible first | refine (State.modDomain_shape ..).trans ?_ | refine (State.calRun_shape ..).trans ?_ | refine (State.calFail_shape ..).trans ?_ | refine (State.stopSelfTest_shape ..).trans ?_ | refine (State.failDomain_shape ..).trans ?_ | refine (State.monBegin_shape ..).trans ?_ | refine (State.pwrDomain_shape ..).trans ?_ | refine (State.domainTimeout_shape ..).trans ?_)
    | ((conv => lhs; arg 1; arg 1); split)
    | (extract_lets +onlyGivenNames x; clear_value (e : x = _); first | (subst e))

theorem execDomainDownComplete_shape (d : Nat) (s : State) : Keeps s (execDomainDownComplete d s) := by
  unfold execDomainDownComplete
  repeat' first
    | with_reducible rfl
    | with_reducible refine keeps_next ?_
    | (with_reducible first | refine (State.modDomain_shape ..).trans ?_ | refine (State.domainTimeout_shape ..).trans ?_)
    | ((conv => lhs; arg 1; arg 1); split)

theorem execDomainTransitionTimeout_shape (d : Nat) (s : State) : Keeps s (execDomainTransitionTimeout d s) := by
  unfold execDomainTransitionTimeout
  repeat' first
    | with_reducible rfl
    | with_reducible refine keeps_next ?_
    | (with_reducible first | refine (State.advanceTo_shape ..).trans ?_ | refine (State.domainTimeout_shape ..).trans ?_)
    | ((conv => arg 1; arg 1); split)
    | (extract_lets +onlyGivenNames x; clear_value (e : x = _); first | (subst e))

theorem pwrStatusBody_shape (c : Cmd) (s : State) : RanShape (pwrStatusBody c s) s.shape := by
  unfold pwrStatusBody
  repeat' first
    | with_reducible rfl
    | (with_reducible first | refine (refuse_shape ..).trans ?_ | refine (answer_shape ..).trans ?_ | refine (State.modPwr_shape ..).trans ?_)
    | ((conv => lhs; arg 1; arg 1); split)

theorem execPwrStatus_shape (c : Cmd) (s : State) : Keeps s (execPwrStatus c s) := by
  unfold execPwrStatus
  repeat' first
    | with_reducible rfl
    | with_reducible refine keeps_next ?_
    | with_reducible refine hostCmdWith_shape _ _ _ _ _ _ (fun _ _ => ?_) (fun _ _ => ?_)
    | (with_reducible first | refine (State.serveCore_shape ..).trans ?_ | refine (pwrStatusBody_shape ..).trans ?_)

theorem execPaceReport_shape (c : Cmd) (s : State) : Keeps s (execPaceReport c s) := by
  unfold execPaceReport
  repeat' first
    | with_reducible rfl
    | with_reducible refine keeps_next ?_
    | with_reducible refine hostCmdWith_shape _ _ _ _ _ _ (fun _ _ => ?_) (fun _ _ => ?_)
    | (with_reducible first | refine (answer_shape ..).trans ?_ | refine (State.serveCore_shape ..).trans ?_)

theorem thermStatusBody_shape (c : Cmd) (s : State) : RanShape (thermStatusBody c s) s.shape := by
  unfold thermStatusBody
  repeat' first
    | with_reducible rfl
    | (with_reducible first | refine (refuse_shape ..).trans ?_ | refine (answer_shape ..).trans ?_ | refine (State.modPwr_shape ..).trans ?_)
    | ((conv => lhs; arg 1; arg 1); split)

theorem execThermStatus_shape (c : Cmd) (s : State) : Keeps s (execThermStatus c s) := by
  unfold execThermStatus
  repeat' first
    | with_reducible rfl
    | with_reducible refine keeps_next ?_
    | with_reducible refine hostCmdWith_shape _ _ _ _ _ _ (fun _ _ => ?_) (fun _ _ => ?_)
    | (with_reducible first | refine (State.serveCore_shape ..).trans ?_ | refine (thermStatusBody_shape ..).trans ?_)

theorem execRailStatus_shape (c : Cmd) (s : State) : Keeps s (execRailStatus c s) := by
  unfold execRailStatus
  repeat' first
    | with_reducible rfl
    | with_reducible refine keeps_next ?_
    | with_reducible refine hostCmdWith_shape _ _ _ _ _ _ (fun _ _ => ?_) (fun _ _ => ?_)
    | (with_reducible first | refine (answer_shape ..).trans ?_ | refine (State.serveCore_shape ..).trans ?_)

/-! ### StartRows -/

theorem execPorstNAssert_reboots (s : State) : Reboots s (execPorstNAssert s) := by
  refine ⟨_, rfl, Or.inr (Or.inr ?_)⟩
  extract_lets up trip x g1 g2 g3 g4 y a b
  have h : x.shape = Shape.boot s.shape.pending 16 := State.porKeep_shape s
  clear_value x
  have hb : b.shape = Shape.boot s.shape.pending 16 := (State.emit_shape ..).trans ((State.emits_shape ..).trans h)
  clear_value b
  split
  · exact hb
  · exact hb

theorem execPorstNRelease_reboots (sideB : Bool) (strapBoot : Nat) (s : State) : Reboots s (execPorstNRelease sideB strapBoot s) := by
  refine ⟨_, rfl, ?_⟩
  split
  · exact Or.inl rfl
  · exact Or.inr (Or.inr ((State.bootEntry_shape ..).trans (State.porKeep_shape s)))

theorem execVaonPowerOn_shape (s : State) : Keeps s (execVaonPowerOn s) := by
  unfold execVaonPowerOn
  repeat' first
    | ((conv => lhs; arg 1; arg 25); exact rfl)
    | with_reducible refine keeps_next ?_

theorem execAonCounterTick_shape (s : State) : Keeps s (execAonCounterTick s) := by
  unfold execAonCounterTick
  repeat' first
    | ((conv => lhs; arg 1; arg 25); exact rfl)
    | with_reducible refine keeps_next ?_

theorem State.bootImages_shape (s : State) (bad : List (Nat × Nat)) (recovery : Bool) : (State.bootImages s bad recovery).shape = s.shape := by
  unfold State.bootImages
  repeat' first
    | with_reducible rfl
    | with_reducible refine (shape_foldl _ (fun _ _ => ?_) _ _).trans ?_
    | (with_reducible first | refine (State.raise_shape ..).trans ?_)

theorem State.bootFirmware_shape (s : State) (n : Nat) (version : Reg) (bad : List (Nat × Nat)) : (State.bootFirmware s n version bad).shape = s.shape := by
  unfold State.bootFirmware
  repeat' first
    | ((conv => lhs; arg 1; arg 25); exact rfl)
    | (with_reducible first | refine (State.raise_shape ..).trans ?_ | refine (State.startReconciles_shape ..).trans ?_ | refine (State.powerSync_shape ..).trans ?_ | refine (State.milestone_shape ..).trans ?_ | refine (State.evaluate_shape ..).trans ?_ | refine (State.startSelfTest_shape ..).trans ?_ | refine (State.bootImages_shape ..).trans ?_)
    | ((conv => lhs; arg 1; arg 1); split)

theorem State.bootRecovery_shape (s : State) (bad : List (Nat × Nat)) : (State.bootRecovery s bad).shape = s.shape := by
  unfold State.bootRecovery
  repeat' first
    | ((conv => lhs; arg 1; arg 25); exact rfl)
    | (with_reducible first | refine (State.startReconciles_shape ..).trans ?_ | refine (State.milestone_shape ..).trans ?_ | refine (State.enter_shape ..).trans ?_ | refine (State.bootImages_shape ..).trans ?_)

theorem execFirmwareLoadComplete_shape (r0 r1 : SlotRead) (s : State) : Keeps s (execFirmwareLoadComplete r0 r1 s) := by
  unfold execFirmwareLoadComplete
  repeat' first
    | with_reducible rfl
    | with_reducible refine keeps_next ?_
    | (with_reducible first | refine (State.bootFirmware_shape ..).trans ?_ | refine (State.bootRecovery_shape ..).trans ?_)
    | ((conv => arg 1; arg 1); split)
    | (extract_lets +onlyGivenNames x; clear_value (e : x = _); first | (subst e))

theorem execChannelTrainingComplete_shape (ch : Nat) (m0 m1 : TrainMargins) (s : State) : Keeps s (execChannelTrainingComplete ch m0 m1 s) := by
  unfold execChannelTrainingComplete
  repeat' first
    | with_reducible rfl
    | with_reducible refine keeps_next ?_
    | (with_reducible first | refine (State.milestone_shape ..).trans ?_ | refine (State.evaluate_shape ..).trans ?_ | refine (State.calRun_shape ..).trans ?_ | refine (State.calFail_shape ..).trans ?_ | refine (State.modChan_shape ..).trans ?_ | refine (State.failChannel_shape ..).trans ?_)
    | ((conv => lhs; arg 1; arg 1); split)

theorem execSynthesisStartupComplete_shape (s : State) : Keeps s (execSynthesisStartupComplete s) := by
  unfold execSynthesisStartupComplete
  repeat' first
    | with_reducible rfl
    | ((conv => lhs; arg 1; arg 25); exact rfl)
    | with_reducible refine keeps_next ?_
    | (with_reducible first | refine (State.milestone_shape ..).trans ?_ | refine (State.evaluate_shape ..).trans ?_)
    | ((conv => lhs; arg 1; arg 1); split)

theorem execSmcStartChecksPass_shape (s : State) : Keeps s (execSmcStartChecksPass s) := by
  unfold execSmcStartChecksPass
  repeat' first
    | with_reducible rfl
    | ((conv => lhs; arg 1; arg 25); exact rfl)
    | with_reducible refine keeps_next ?_
    | ((conv => lhs; arg 1; arg 1); split)

theorem execRecordSectorProgrammed_shape (s : State) : Keeps s (execRecordSectorProgrammed s) := by
  unfold execRecordSectorProgrammed
  repeat' first
    | with_reducible rfl
    | ((conv => lhs; arg 1; arg 25); exact rfl)
    | with_reducible refine keeps_next ?_
    | ((conv => arg 1; arg 1); split)
    | (extract_lets +onlyGivenNames x; clear_value (e : x = _); first | (subst e))

theorem execSelftestConditionCheck_shape (clk vMin vMax : Nat) (s : State) : Keeps s (execSelftestConditionCheck clk vMin vMax s) := by
  unfold execSelftestConditionCheck
  repeat' first
    | ((conv => lhs; arg 1; arg 25); exact rfl)
    | with_reducible refine keeps_next ?_
    | (with_reducible first | refine (State.stopSelfTest_shape ..).trans ?_ | refine (State.serveCore_shape ..).trans ?_)
    | ((conv => arg 1; arg 1); split)
    | simp only [↓shape_clusters, ↓shape_mb, ↓shape_chans, ↓shape_ports, ↓shape_tiles, ↓shape_cores, ↓shape_cvu, shape_eta]

theorem execSelftestDomainComplete_shape (d sig count : Nat) (s : State) : Keeps s (execSelftestDomainComplete d sig count s) := by
  unfold execSelftestDomainComplete
  repeat' first
    | with_reducible rfl
    | ((conv => lhs; arg 1; arg 25); with_reducible refine (shape_mk ..).trans ?_; simp only [↓shape_mk, ↓shape_pending, ↓shape_mb, ↓shape_ports, ↓shape_tiles, ↓shape_chans, ↓shape_clusters, ↓shape_cores, ↓shape_cvu, ↓shape_compares, ↓shape_latches, ↓shape_tsq, ↓shape_netPorts, updAt_length])
    | with_reducible refine keeps_next ?_
    | (with_reducible first | refine (State.modRecord_shape ..).trans ?_ | refine (State.nextPhase_shape ..).trans ?_ | refine (State.failDomain_shape ..).trans ?_)
    | ((conv => arg 1; arg 1); split)

theorem shutdownBody_shape (c : Cmd) (s : State) : RanShape (shutdownBody c s) s.shape := by
  unfold shutdownBody
  repeat' first
    | with_reducible rfl
    | (with_reducible first | refine (refuse_shape ..).trans ?_ | refine (accept_shape ..).trans ?_)
    | ((conv => lhs; arg 1; arg 1); split)

theorem execShutdown_shape (c : Cmd) (s : State) : Keeps s (execShutdown c s) := by
  unfold execShutdown
  repeat' first
    | with_reducible rfl
    | ((conv => lhs; arg 1; arg 25); exact rfl)
    | with_reducible refine keeps_next ?_
    | with_reducible refine hostCmdWith_shape _ _ _ _ _ _ (fun _ _ => ?_) (fun _ _ => ?_)
    | (with_reducible first | refine (State.enter_shape ..).trans ?_ | refine (State.shutdownStep_shape ..).trans ?_ | refine (shutdownBody_shape ..).trans ?_)

theorem selftestRecordBody_shape (c : Cmd) (s : State) : RanShape (selftestRecordBody c s) s.shape := by
  unfold selftestRecordBody
  repeat' first
    | with_reducible rfl
    | (with_reducible first | refine (refuse_shape ..).trans ?_ | refine (answer_shape ..).trans ?_)
    | ((conv => lhs; arg 1; arg 1); split)

theorem execSelftestRecord_shape (c : Cmd) (s : State) : Keeps s (execSelftestRecord c s) := by
  unfold execSelftestRecord
  repeat' first
    | with_reducible rfl
    | with_reducible refine keeps_next ?_
    | with_reducible refine hostCmdWith_shape _ _ _ _ _ _ (fun _ _ => ?_) (fun _ _ => ?_)
    | (with_reducible first | refine (State.serveCore_shape ..).trans ?_ | refine (selftestRecordBody_shape ..).trans ?_)

theorem execCalStatus_shape (c : Cmd) (s : State) : Keeps s (execCalStatus c s) := by
  unfold execCalStatus
  repeat' first
    | with_reducible rfl
    | with_reducible refine keeps_next ?_
    | with_reducible refine hostCmdWith_shape _ _ _ _ _ _ (fun _ _ => ?_) (fun _ _ => ?_)
    | (with_reducible first | refine (answer_shape ..).trans ?_ | refine (State.serveCore_shape ..).trans ?_)

/-! ### MemRows -/

theorem State.modMem_shape (s : State) (f : Mem → Mem) : (State.modMem s f).shape = State.shape { s with mem := f s.mem } := rfl

theorem State.memRetrainEvent_shape (s : State) (ch what cause : Nat) : (State.memRetrainEvent s ch what cause).shape = s.shape := by
  unfold State.memRetrainEvent
  repeat' first
    | with_reducible rfl
    | (with_reducible first | refine (State.raise_shape ..).trans ?_)

theorem State.beginFull_shape (s : State) (ch cause : Nat) : (State.beginFull s ch cause).shape = s.shape := by
  unfold State.beginFull
  repeat' first
    | with_reducible rfl
    | (with_reducible first | refine (State.modChan_shape ..).trans ?_ | refine (State.memRetrainEvent_shape ..).trans ?_)
    | ((conv => lhs; arg 1; arg 1); split)
    | (extract_lets +onlyGivenNames x; clear_value (e : x = _); first | (subst e))

theorem execTrackingPassTimer_shape (ch : Nat) (s : State) : Keeps s (execTrackingPassTimer ch s) := by
  unfold execTrackingPassTimer
  repeat' first
    | with_reducible rfl
    | with_reducible assumption
    | with_reducible refine keeps_next ?_
    | (with_reducible first | refine (State.advanceTo_shape ..).trans ?_ | refine (State.modChan_shape ..).trans ?_)
    | ((conv => lhs; arg 1; arg 1); split)
    | (extract_lets +onlyGivenNames x; clear_value (e : x = _); first | (subst e))

theorem State.trackDone_shape (s : State) (ch : Nat) (p : MemPass) (m : Margins) : (State.trackDone s ch p m).shape = s.shape := by
  unfold State.trackDone
  repeat' first
    | with_reducible rfl
    | with_reducible assumption
    | (with_reducible first | refine (State.modChan_shape ..).trans ?_ | refine (State.beginFull_shape ..).trans ?_)
    | ((conv => lhs; arg 1; arg 1); split)
    | (extract_lets +onlyGivenNames x; clear_value (e : x = _); first | (subst e))

theorem execTrainingStep_shape (ch ns : Nat) (done : Option TrainMargins) (s : State) : Keeps s (execTrainingStep ch ns done s) := by
  unfold execTrainingStep
  repeat' first
    | with_reducible rfl
    | ((conv => lhs; arg 1; arg 25); exact rfl)
    | with_reducible refine keeps_next ?_
    | (with_reducible first | refine (State.modChan_shape ..).trans ?_ | refine (State.modMem_shape ..).trans ?_ | refine (State.trackDone_shape ..).trans ?_)
    | ((conv => arg 1; arg 1); split)

theorem State.endRetrainJob_shape (s : State) (ch status : Nat) : (State.endRetrainJob s ch status).shape = s.shape := by
  unfold State.endRetrainJob
  repeat' first
    | with_reducible rfl
    | (with_reducible first | refine (State.endJobs_shape ..).trans ?_)

theorem execFullRetrainingEnd_shape (ch : Nat) (m0 m1 : TrainMargins) (s : State) : Keeps s (execFullRetrainingEnd ch m0 m1 s) := by
  unfold execFullRetrainingEnd
  repeat' first
    | with_reducible rfl
    | with_reducible refine keeps_next ?_
    | (with_reducible first | refine (State.evaluate_shape ..).trans ?_ | refine (State.modChan_shape ..).trans ?_ | refine (State.failChannel_shape ..).trans ?_ | refine (State.memRetrainEvent_shape ..).trans ?_ | refine (State.endRetrainJob_shape ..).trans ?_)
    | ((conv => arg 1; arg 1); split)
    | (extract_lets +onlyGivenNames x; clear_value (e : x = _); first | (subst e))

theorem State.refreshAll_shape (s : State) : (State.refreshAll s).shape = s.shape := by
  unfold State.refreshAll
  repeat' first
    | ((conv => lhs; arg 1; arg 25); with_reducible refine (shape_mk ..).trans ?_; simp only [↓shape_mk, ↓shape_pending, ↓shape_mb, ↓shape_ports, ↓shape_tiles, ↓shape_chans, ↓shape_clusters, ↓shape_cores, ↓shape_cvu, ↓shape_compares, ↓shape_latches, ↓shape_tsq, ↓shape_netPorts, updAt_length, List.length_map])
    | (with_reducible first | refine (State.modMem_shape ..).trans ?_)

theorem execRefreshWindow_shape (s : State) : Keeps s (execRefreshWindow s) := by
  unfold execRefreshWindow
  repeat' first
    | with_reducible rfl
    | with_reducible refine keeps_next ?_
    | (with_reducible first | refine (State.advanceTo_shape ..).trans ?_ | refine (State.emits_shape ..).trans ?_ | refine (State.refreshAll_shape ..).trans ?_)
    | ((conv => lhs; arg 1; arg 1); split)

theorem execDramTemperatureRead_shape (temps : List Int) (s : State) : Keeps s (execDramTemperatureRead temps s) := by
  unfold execDramTemperatureRead
  repeat' first
    | ((conv => lhs; arg 1; arg 25); exact rfl)
    | with_reducible refine keeps_next ?_
    | (with_reducible first | refine (State.raise_shape ..).trans ?_ | refine (State.takeTmax_shape ..).trans ?_ | refine (State.thermalUpdate_shape ..).trans ?_ | refine (State.modMem_shape ..).trans ?_)
    | ((conv => arg 1; arg 1); split)

theorem execRowguardTableClear_shape (s : State) : Keeps s (execRowguardTableClear s) := by
  unfold execRowguardTableClear
  repeat' first
    | ((conv => lhs; arg 1; arg 25); with_reducible refine (shape_mk ..).trans ?_; simp only [↓shape_mk, ↓shape_pending, ↓shape_mb, ↓shape_ports, ↓shape_tiles, ↓shape_chans, ↓shape_clusters, ↓shape_cores, ↓shape_cvu, ↓shape_compares, ↓shape_latches, ↓shape_tsq, ↓shape_netPorts, updAt_length, List.length_map])
    | with_reducible refine keeps_next ?_
    | (with_reducible first | refine (State.modMem_shape ..).trans ?_)

theorem State.rowHeld_shape (s : State) (ch bank : Nat) : (State.rowHeld s ch bank).shape = s.shape := by
  unfold State.rowHeld
  repeat' first
    | with_reducible rfl
    | with_reducible assumption
    | (with_reducible first | refine (State.raise_shape ..).trans ?_ | refine (State.modChan_shape ..).trans ?_)
    | ((conv => lhs; arg 1; arg 1); split)
    | (extract_lets +onlyGivenNames x; clear_value (e : x = _); first | (subst e))

theorem State.touch_shape (s : State) (ch bank : Nat) : (State.touch s ch bank).shape = s.shape := by
  unfold State.touch
  repeat' first
    | with_reducible rfl
    | (with_reducible first | refine (State.modChan_shape ..).trans ?_)

theorem execBankActivate_shape (ch bank row : Nat) (s : State) : Keeps s (execBankActivate ch bank row s) := by
  unfold execBankActivate
  repeat' first
    | with_reducible rfl
    | with_reducible assumption
    | with_reducible refine keeps_next ?_
    | (with_reducible first | refine (State.takeFree_shape ..).trans ?_ | refine (State.modChan_shape ..).trans ?_ | refine (State.rowHeld_shape ..).trans ?_ | refine (State.touch_shape ..).trans ?_)
    | with_reducible refine fstShape_eq ?_
    | ((conv => lhs; arg 1; arg 1); split)
    | (extract_lets +onlyGivenNames x; clear_value (e : x = _); first | (subst e))

theorem execPageIdleTimeout_shape (ch bank : Nat) (s : State) : Keeps s (execPageIdleTimeout ch bank s) := by
  unfold execPageIdleTimeout
  repeat' first
    | with_reducible rfl
    | with_reducible refine keeps_next ?_
    | (with_reducible first | refine (State.advanceTo_shape ..).trans ?_ | refine (State.modChan_shape ..).trans ?_)
    | ((conv => lhs; arg 1; arg 1); split)
    | (extract_lets +onlyGivenNames x; clear_value (e : x = _); first | (subst e))

theorem State.scrubBegin_shape (s : State) : (State.scrubBegin s).shape = s.shape := by
  unfold State.scrubBegin
  repeat' first
    | with_reducible rfl
    | ((conv => lhs; arg 1; arg 25); with_reducible refine (shape_mk ..).trans ?_; simp only [↓shape_mk, ↓shape_pending, ↓shape_mb, ↓shape_ports, ↓shape_tiles, ↓shape_chans, ↓shape_clusters, ↓shape_cores, ↓shape_cvu, ↓shape_compares, ↓shape_latches, ↓shape_tsq, ↓shape_netPorts, updAt_length, List.length_map])
    | (with_reducible first | refine (State.advanceTo_shape ..).trans ?_ | refine (State.modMem_shape ..).trans ?_)

theorem execScrubTick_shape (s : State) : Keeps s (execScrubTick s) := by
  unfold execScrubTick
  repeat' first
    | with_reducible rfl
    | with_reducible assumption
    | ((conv => lhs; arg 1; arg 25); with_reducible refine (shape_mk ..).trans ?_; simp only [↓shape_mk, ↓shape_pending, ↓shape_mb, ↓shape_ports, ↓shape_tiles, ↓shape_chans, ↓shape_clusters, ↓shape_cores, ↓shape_cvu, ↓shape_compares, ↓shape_latches, ↓shape_tsq, ↓shape_netPorts, updAt_length])
    | with_reducible refine keeps_next ?_
    | (with_reducible first | refine (State.modChan_shape ..).trans ?_ | refine (State.modMem_shape ..).trans ?_ | refine (State.scrubBegin_shape ..).trans ?_)
    | ((conv => arg 1; arg 1); split)
    | (extract_lets +onlyGivenNames x; clear_value (e : x = _); first | (subst e))

theorem State.writeUnit_shape (s : State) (ch bank addr : Nat) (data : List Nat) : (State.writeUnit s ch bank addr data).shape = s.shape := by
  unfold State.writeUnit
  repeat' first
    | ((conv => lhs; arg 1; arg 25); exact rfl)
    | (with_reducible first | refine (State.emit_shape ..).trans ?_ | refine (State.modMem_shape ..).trans ?_ | refine (State.touch_shape ..).trans ?_)

theorem State.countCe_shape (s : State) (ch symbols : Nat) : (State.countCe s ch symbols).shape = s.shape := by
  unfold State.countCe
  repeat' first
    | with_reducible assumption
    | ((conv => lhs; arg 1; arg 25); exact rfl)
    | (with_reducible first | refine (State.raise_shape ..).trans ?_ | refine (State.modChan_shape ..).trans ?_ | refine (State.modMem_shape ..).trans ?_)
    | ((conv => lhs; arg 1; arg 1); split)
    | (extract_lets +onlyGivenNames x; clear_value (e : x = _); first | (subst e))

theorem State.afterCorrected_shape (s : State) (ch bank addr : Nat) (data : List Nat) (p0 : Option Merge) : (State.afterCorrected s ch bank addr data p0).shape = s.shape := by
  unfold State.afterCorrected
  repeat' first
    | with_reducible rfl
    | ((conv => lhs; arg 1; arg 25); exact rfl)
    | (with_reducible first | refine (State.modMem_shape ..).trans ?_ | refine (State.writeUnit_shape ..).trans ?_)
    | split

theorem State.ceLimit_shape (s : State) (ch : Nat) : (State.ceLimit s ch).shape = s.shape := by
  unfold State.ceLimit
  repeat' first
    | with_reducible rfl
    | (with_reducible first | refine (State.beginFull_shape ..).trans ?_)
    | ((conv => lhs; arg 1; arg 1); split)

theorem execCorrectedRead_shape (ch bank addr : Nat) (cw : List Byte) (merge : Option Merge) (s : State) : Keeps s (execCorrectedRead ch bank addr cw merge s) := by
  unfold execCorrectedRead
  repeat' first
    | with_reducible rfl
    | with_reducible refine keeps_next ?_
    | (with_reducible first | refine (State.touch_shape ..).trans ?_ | refine (State.countCe_shape ..).trans ?_ | refine (State.afterCorrected_shape ..).trans ?_ | refine (State.ceLimit_shape ..).trans ?_)
    | ((conv => arg 1; arg 1); split)

theorem execCorrectedWriteback_shape (ch bank : Nat) (s : State) : Keeps s (execCorrectedWriteback ch bank s) := by
  unfold execCorrectedWriteback
  repeat' first
    | with_reducible rfl
    | with_reducible refine keeps_next ?_
    | (with_reducible first | refine (State.writeUnit_shape ..).trans ?_)
    | ((conv => arg 1; arg 1); split)

theorem State.concealPicture_shape (s : State) (d : StreamId) (frame : Nat) : (State.concealPicture s d frame).shape = s.shape := by
  unfold State.concealPicture
  repeat' first
    | ((conv => lhs; arg 1; arg 25); exact rfl)
    | ((conv => lhs; arg 1; arg 1); split)
    | simp only [↓shape_clusters, ↓shape_mb, ↓shape_chans, ↓shape_ports, ↓shape_tiles, ↓shape_cores, ↓shape_cvu, shape_eta]

theorem State.memUe_shape (s : State) (obj ch cls outcome : Nat) : (State.memUe s obj ch cls outcome).shape = s.shape := by
  unfold State.memUe
  repeat' first
    | with_reducible rfl
    | (with_reducible first | refine (State.raise_shape ..).trans ?_)

theorem State.ueLost_shape (s : State) (o : Obj) : (State.ueLost s o).shape = s.shape := by
  unfold State.ueLost
  repeat' first
    | with_reducible rfl
    | with_reducible assumption
    | (with_reducible first | refine (State.safeByFault_shape ..).trans ?_ | refine (State.loseObj_shape ..).trans ?_)
    | with_reducible refine fstShape_eq ?_
    | ((conv => lhs; arg 1; arg 1); split)
    | (extract_lets +onlyGivenNames x; clear_value (e : x = _); first | (subst e))

theorem State.ueReader_shape (s : State) (reader : Option Nat) : (State.ueReader s reader).shape = s.shape := by
  unfold State.ueReader
  repeat' first
    | with_reducible rfl
    | (with_reducible first | refine (State.endJob_shape ..).trans ?_)
    | split

theorem State.encRenew_shape (s : State) (n : Nat) : (State.encRenew s n).shape = s.shape := by
  unfold State.encRenew
  repeat' first
    | with_reducible rfl
    | (with_reducible first | refine (State.modEnc_shape ..).trans ?_ | refine (State.encDropRunning_shape ..).trans ?_ | refine (State.encAllot_shape ..).trans ?_)

theorem State.ueOutcome_shape (s : State) (ch : Nat) (at_ : UePlace) (both : Bool) (reader : Option Nat) : (State.ueOutcome s ch at_ both reader).shape = s.shape := by
  unfold State.ueOutcome
  repeat' first
    | with_reducible rfl
    | (with_reducible first | refine (State.failCmpJob_shape ..).trans ?_ | refine (State.safeByFault_shape ..).trans ?_ | refine (State.placeLost_shape ..).trans ?_ | refine (State.loseScratch_shape ..).trans ?_ | refine (State.concealPicture_shape ..).trans ?_ | refine (State.memUe_shape ..).trans ?_ | refine (State.ueLost_shape ..).trans ?_ | refine (State.ueReader_shape ..).trans ?_ | refine (State.encRenew_shape ..).trans ?_)
    | split

theorem State.countUe_shape (s : State) (ch : Nat) : (State.countUe s ch).shape = s.shape := by
  unfold State.countUe
  repeat' first
    | ((conv => lhs; arg 1; arg 25); exact rfl)
    | (with_reducible first | refine (State.modChan_shape ..).trans ?_ | refine (State.modMem_shape ..).trans ?_)

theorem State.mergeBad_shape (s : State) (ch bank addr : Nat) (cw : List Byte) (p0 : Option Merge) : (State.mergeBad s ch bank addr cw p0).shape = s.shape := by
  unfold State.mergeBad
  repeat' first
    | with_reducible rfl
    | (with_reducible first | refine (State.writeUnit_shape ..).trans ?_)
    | split

theorem State.ueLimit_shape (s : State) (ch : Nat) : (State.ueLimit s ch).shape = s.shape := by
  unfold State.ueLimit
  repeat' first
    | with_reducible rfl
    | (with_reducible first | refine (State.beginFull_shape ..).trans ?_)
    | ((conv => lhs; arg 1; arg 1); split)

theorem execUncorrectableRead_shape (ch bank addr : Nat) (at_ : UePlace) (both : Bool) (reader : Option Nat) (cw : List Byte) (merge : Option Merge) (s : State) : Keeps s (execUncorrectableRead ch bank addr at_ both reader cw merge s) := by
  unfold execUncorrectableRead
  repeat' first
    | with_reducible rfl
    | with_reducible refine keeps_next ?_
    | (with_reducible first | refine (State.touch_shape ..).trans ?_ | refine (State.ueOutcome_shape ..).trans ?_ | refine (State.countUe_shape ..).trans ?_ | refine (State.mergeBad_shape ..).trans ?_ | refine (State.ueLimit_shape ..).trans ?_)
    | ((conv => lhs; arg 1; arg 1); split)

theorem State.endSetpointJob_shape (s : State) (status : Nat) : (State.endSetpointJob s status).shape = s.shape := by
  unfold State.endSetpointJob
  repeat' first
    | with_reducible rfl
    | (with_reducible first | refine (State.endJobs_shape ..).trans ?_)

theorem execSetpointSwitch_shape (ns : Nat) (s : State) : Keeps s (execSetpointSwitch ns s) := by
  unfold execSetpointSwitch
  repeat' first
    | with_reducible rfl
    | ((conv => lhs; arg 1; arg 25); with_reducible refine (shape_mk ..).trans ?_; simp only [↓shape_mk, ↓shape_pending, ↓shape_mb, ↓shape_ports, ↓shape_tiles, ↓shape_chans, ↓shape_clusters, ↓shape_cores, ↓shape_cvu, ↓shape_compares, ↓shape_latches, ↓shape_tsq, ↓shape_netPorts, updAt_length, List.length_map])
    | with_reducible refine keeps_next ?_
    | (with_reducible first | refine (State.setpointEvent_shape ..).trans ?_ | refine (State.modMem_shape ..).trans ?_ | refine (State.endSetpointJob_shape ..).trans ?_)
    | ((conv => arg 1; arg 1); split)

theorem execSetpointTimeout_shape (s : State) : Keeps s (execSetpointTimeout s) := by
  unfold execSetpointTimeout
  repeat' first
    | with_reducible rfl
    | ((conv => lhs; arg 1; arg 25); with_reducible refine (shape_mk ..).trans ?_; simp only [↓shape_mk, ↓shape_pending, ↓shape_mb, ↓shape_ports, ↓shape_tiles, ↓shape_chans, ↓shape_clusters, ↓shape_cores, ↓shape_cvu, ↓shape_compares, ↓shape_latches, ↓shape_tsq, ↓shape_netPorts, updAt_length])
    | with_reducible refine keeps_next ?_
    | (with_reducible first | refine (State.advanceTo_shape ..).trans ?_ | refine (State.setpointEvent_shape ..).trans ?_ | refine (State.modMem_shape ..).trans ?_ | refine (State.endSetpointJob_shape ..).trans ?_)
    | ((conv => arg 1; arg 1); split)

theorem memSetpointBody_shape (c : Cmd) (s : State) : RanShape (memSetpointBody c s) s.shape := by
  unfold memSetpointBody
  repeat' first
    | with_reducible rfl
    | ((conv => lhs; arg 1; arg 25); exact rfl)
    | (with_reducible first | refine (refuse_shape ..).trans ?_ | refine (answer_shape ..).trans ?_ | refine (accept_shape ..).trans ?_ | refine (State.modMem_shape ..).trans ?_)
    | ((conv => lhs; arg 1; arg 1); split)
    | (extract_lets +onlyGivenNames x; clear_value (e : x = _); first | (subst e))

theorem execMemSetpoint_shape (c : Cmd) (s : State) : Keeps s (execMemSetpoint c s) := by
  unfold execMemSetpoint
  repeat' first
    | with_reducible rfl
    | with_reducible refine keeps_next ?_
    | with_reducible refine hostCmd_shape _ _ _ _ _ (fun _ _ => ?_)
    | (with_reducible first | refine (memSetpointBody_shape ..).trans ?_)

theorem memRetrainBody_shape (c : Cmd) (s : State) : RanShape (memRetrainBody c s) s.shape := by
  unfold memRetrainBody
  repeat' first
    | with_reducible rfl
    | (with_reducible first | refine (refuse_shape ..).trans ?_ | refine (accept_shape ..).trans ?_)
    | ((conv => lhs; arg 1; arg 1); split)
    | (extract_lets +onlyGivenNames x; clear_value (e : x = _); first | (subst e))

theorem execMemRetrain_shape (c : Cmd) (s : State) : Keeps s (execMemRetrain c s) := by
  unfold execMemRetrain
  repeat' first
    | with_reducible rfl
    | with_reducible refine keeps_next ?_
    | with_reducible refine hostCmdWith_shape _ _ _ _ _ _ (fun _ _ => ?_) (fun _ _ => ?_)
    | (with_reducible first | refine (State.beginFull_shape ..).trans ?_ | refine (memRetrainBody_shape ..).trans ?_)

theorem memStatusBody_shape (c : Cmd) (s : State) : RanShape (memStatusBody c s) s.shape := by
  unfold memStatusBody
  repeat' first
    | with_reducible rfl
    | ((conv => lhs; arg 1; arg 25); exact rfl)
    | (with_reducible first | refine (State.takeFree_shape ..).trans ?_ | refine (refuse_shape ..).trans ?_ | refine (answer_shape ..).trans ?_ | refine (State.modMem_shape ..).trans ?_)
    | with_reducible refine fstShape_eq ?_
    | ((conv => lhs; arg 1; arg 1); split)

theorem execMemStatus_shape (c : Cmd) (s : State) : Keeps s (execMemStatus c s) := by
  unfold execMemStatus
  repeat' first
    | with_reducible rfl
    | with_reducible refine keeps_next ?_
    | with_reducible refine hostCmd_shape _ _ _ _ _ (fun _ _ => ?_)
    | (with_reducible first | refine (memStatusBody_shape ..).trans ?_)

theorem memChannelBody_shape (c : Cmd) (s : State) : RanShape (memChannelBody c s) s.shape := by
  unfold memChannelBody
  repeat' first
    | with_reducible rfl
    | (with_reducible first | refine (refuse_shape ..).trans ?_ | refine (answer_shape ..).trans ?_ | refine (State.modChan_shape ..).trans ?_)
    | ((conv => lhs; arg 1; arg 1); split)
    | (extract_lets +onlyGivenNames x; clear_value (e : x = _); first | (subst e))

theorem execMemChannel_shape (c : Cmd) (s : State) : Keeps s (execMemChannel c s) := by
  unfold execMemChannel
  repeat' first
    | with_reducible rfl
    | with_reducible refine keeps_next ?_
    | with_reducible refine hostCmd_shape _ _ _ _ _ (fun _ _ => ?_)
    | (with_reducible first | refine (memChannelBody_shape ..).trans ?_)

/-! ### HostEvRows -/

theorem State.modHost_shape (s : State) (f : HostIf → HostIf) : (State.modHost s f).shape = State.shape { s with host := f s.host } := rfl

theorem State.modEq_shape (s : State) (f : EventQueue → EventQueue) : (State.modEq s f).shape = s.shape := rfl

theorem State.stopMb_shape (s : State) (mb cause : Nat) : (State.stopMb s mb cause).shape = s.shape := by
  unfold State.stopMb
  repeat' first
    | with_reducible rfl
    | (with_reducible first | refine (State.raise_shape ..).trans ?_ | refine (State.modMb_shape ..).trans ?_)

theorem execMbCmdTailWrite_shape (mb : Nat) (v : BitVec 16) (s : State) : Keeps s (execMbCmdTailWrite mb v s) := by
  unfold execMbCmdTailWrite
  repeat' first
    | with_reducible rfl
    | with_reducible assumption
    | with_reducible refine keeps_next ?_
    | (with_reducible first | refine (State.modMb_shape ..).trans ?_ | refine (State.stopMb_shape ..).trans ?_)
    | ((conv => lhs; arg 1; arg 1); split)
    | (extract_lets +onlyGivenNames x; clear_value (e : x = _); first | (subst e))

theorem execMbRspHeadWrite_shape (mb : Nat) (v : BitVec 16) (s : State) : Keeps s (execMbRspHeadWrite mb v s) := by
  unfold execMbRspHeadWrite
  repeat' first
    | with_reducible rfl
    | with_reducible refine keeps_next ?_
    | (with_reducible first | refine (State.modMb_shape ..).trans ?_)

theorem execPendingResponseWrite_shape (mb : Nat) (s : State) : Keeps s (execPendingResponseWrite mb s) := by
  unfold execPendingResponseWrite
  repeat' first
    | with_reducible rfl
    | with_reducible refine keeps_next ?_
    | (with_reducible first | refine (State.modMb_shape ..).trans ?_ | refine (State.putRsp_shape ..).trans ?_ | refine (State.freeJobs_shape ..).trans ?_)
    | ((conv => arg 1; arg 1); split)
    | (extract_lets +onlyGivenNames x; clear_value (e : x = _); first | (subst e))

theorem execMbCfgWrite_shape (mb : Nat) (v : BitVec 32) (s : State) : Keeps s (execMbCfgWrite mb v s) := by
  unfold execMbCfgWrite
  repeat' first
    | with_reducible rfl
    | with_reducible assumption
    | with_reducible refine keeps_next ?_
    | (with_reducible first | refine (State.modMb_shape ..).trans ?_ | refine (State.disableMb_shape ..).trans ?_)
    | ((conv => lhs; arg 1; arg 1); split)
    | (extract_lets +onlyGivenNames x; clear_value (e : x = _); first | (subst e))

theorem State.ringFail_shape (s : State) (mb cause : Nat) : (State.ringFail s mb cause).shape = s.shape := by
  unfold State.ringFail
  repeat' first
    | with_reducible rfl
    | (with_reducible first | refine (State.stopMb_shape ..).trans ?_)
    | ((conv => lhs; arg 1; arg 1); split)

theorem execRingFetchError_shape (mb : Nat) (s : State) : Keeps s (execRingFetchError mb s) := by
  unfold execRingFetchError
  repeat' first
    | with_reducible rfl
    | with_reducible refine keeps_next ?_
    | (with_reducible first | refine (State.ringFail_shape ..).trans ?_)

theorem execEqCfgWrite_shape (v : BitVec 32) (s : State) : Keeps s (execEqCfgWrite v s) := by
  unfold execEqCfgWrite
  repeat' first
    | with_reducible rfl
    | with_reducible refine keeps_next ?_
    | (with_reducible first | refine (State.reportDrops_shape ..).trans ?_ | refine (State.modEq_shape ..).trans ?_)
    | ((conv => lhs; arg 1; arg 1); split)

theorem execEqHeadWrite_shape (v : BitVec 16) (s : State) : Keeps s (execEqHeadWrite v s) := by
  unfold execEqHeadWrite
  repeat' first
    | with_reducible rfl
    | with_reducible refine keeps_next ?_
    | (with_reducible first | refine (State.reportDrops_shape ..).trans ?_ | refine (State.modEq_shape ..).trans ?_)
    | ((conv => lhs; arg 1; arg 1); split)
    | (extract_lets +onlyGivenNames x; clear_value (e : x = _); first | (subst e))

theorem execEqHoldoffExpiry_shape (s : State) : Keeps s (execEqHoldoffExpiry s) := by
  unfold execEqHoldoffExpiry
  repeat' first
    | with_reducible rfl
    | with_reducible refine keeps_next ?_
    | (with_reducible first | refine (State.setPend_shape ..).trans ?_ | refine (State.modEq_shape ..).trans ?_)
    | ((conv => lhs; arg 1; arg 1); split)

theorem execEventQueueWrite_shape (s : State) : Keeps s (execEventQueueWrite s) := by
  unfold execEventQueueWrite
  repeat' first
    | with_reducible rfl
    | with_reducible refine keeps_next ?_
    | (with_reducible first | refine (State.writeHeld_shape ..).trans ?_ | refine (State.reportDrops_shape ..).trans ?_)

theorem State.modIrq_shape (s : State) (f : Irq → Irq) : (State.modIrq s f).shape = s.shape := rfl

theorem execIrqStatusWrite_shape (hi : Bool) (v : BitVec 32) (s : State) : Keeps s (execIrqStatusWrite hi v s) := by
  unfold execIrqStatusWrite
  repeat' first
    | with_reducible rfl
    | with_reducible refine keeps_next ?_
    | with_reducible refine (shape_foldl _ (fun _ _ => ?_) _ _).trans ?_
    | (with_reducible first | refine (State.setPend_shape ..).trans ?_ | refine (State.modIrq_shape ..).trans ?_)
    | ((conv => lhs; arg 1; arg 1); split)

theorem execIrqMaskWrite_shape (hi : Bool) (v : BitVec 32) (s : State) : Keeps s (execIrqMaskWrite hi v s) := by
  unfold execIrqMaskWrite
  repeat' first
    | with_reducible rfl
    | with_reducible refine keeps_next ?_
    | with_reducible refine (shape_foldl _ (fun _ _ => ?_) _ _).trans ?_
    | (with_reducible first | refine (State.irqMsg_shape ..).trans ?_ | refine (State.modIrq_shape ..).trans ?_)

theorem execMsixEntryUnmask_shape (vector : Nat) (s : State) : Keeps s (execMsixEntryUnmask vector s) := by
  unfold execMsixEntryUnmask
  repeat' first
    | with_reducible rfl
    | with_reducible assumption
    | with_reducible refine keeps_next ?_
    | (with_reducible first | refine (State.irqMsg_shape ..).trans ?_ | refine (State.modIrq_shape ..).trans ?_)
    | ((conv => lhs; arg 1; arg 1); split)
    | (extract_lets +onlyGivenNames x; clear_value (e : x = _); first | (subst e))

theorem execFunctionLevelReset_shape (s : State) : Keeps s (execFunctionLevelReset s) := by
  unfold execFunctionLevelReset
  repeat' first
    | with_reducible rfl
    | with_reducible assumption
    | ((conv => lhs; arg 1; arg 25); with_reducible refine (shape_mk ..).trans ?_; simp only [↓shape_mk, ↓shape_pending, ↓shape_mb, ↓shape_ports, ↓shape_tiles, ↓shape_chans, ↓shape_clusters, ↓shape_cores, ↓shape_cvu, ↓shape_compares, ↓shape_latches, ↓shape_tsq, ↓shape_netPorts, updAt_length, List.length_map])
    | with_reducible refine keeps_next ?_
    | (with_reducible first | refine (State.g2dForce_shape ..).trans ?_ | refine (State.hostStop_shape ..).trans ?_)
    | (extract_lets +onlyGivenNames x; clear_value (e : x = _); first | (subst e))

theorem State.hostLink_shape (s : State) (up : Bool) : (State.hostLink s up).shape = s.shape := by
  unfold State.hostLink
  repeat' first
    | with_reducible rfl
    | (with_reducible first | refine (State.raise_shape ..).trans ?_)

theorem execPcieLinkDown_shape (s : State) : Keeps s (execPcieLinkDown s) := by
  unfold execPcieLinkDown
  repeat' first
    | with_reducible rfl
    | ((conv => lhs; arg 1; arg 25); with_reducible refine (shape_mk ..).trans ?_; simp only [↓shape_mk, ↓shape_pending, ↓shape_mb, ↓shape_ports, ↓shape_tiles, ↓shape_chans, ↓shape_clusters, ↓shape_cores, ↓shape_cvu, ↓shape_compares, ↓shape_latches, ↓shape_tsq, ↓shape_netPorts, updAt_length])
    | with_reducible refine keeps_next ?_
    | (with_reducible first | refine (State.hostStop_shape ..).trans ?_ | refine (State.modHost_shape ..).trans ?_ | refine (State.hostLink_shape ..).trans ?_)
    | ((conv => lhs; arg 1; arg 1); split)

theorem execPcieLinkUp_shape (speed width : Nat) (s : State) : Keeps s (execPcieLinkUp speed width s) := by
  unfold execPcieLinkUp
  repeat' first
    | with_reducible rfl
    | ((conv => lhs; arg 1; arg 25); exact rfl)
    | with_reducible refine keeps_next ?_
    | (with_reducible first | refine (State.modHost_shape ..).trans ?_ | refine (State.hostLink_shape ..).trans ?_)
    | ((conv => lhs; arg 1; arg 1); split)

theorem execPcieError_shape (correctable : Bool) (aer : Nat) (s : State) : Keeps s (execPcieError correctable aer s) := by
  unfold execPcieError
  repeat' first
    | ((conv => lhs; arg 1; arg 25); exact rfl)
    | with_reducible refine keeps_next ?_
    | (with_reducible first | refine (State.raise_shape ..).trans ?_ | refine (State.modHost_shape ..).trans ?_)

end Sys2Proof.Machine
end

