-- ==== Sys2Proof/Laws/ShapeUnits.lean ====
section
/-! SUPPORT. The direct units, safety, the pair, time, the network, the encoders, compression, the links, COMMIT: each keeps the shape of the state. -/

set_option linter.unusedSimpArgs false
set_option linter.unusedVariables false

namespace Sys2Proof.Machine

open Sys2Proof

/-! ### DirectRows -/

theorem State.modCvu_shape (s : State) (n : Nat) (f : Cvu → Cvu) : (State.modCvu s n f).shape = s.shape := by
  unfold State.modCvu
  repeat' first
    | ((conv => lhs; arg 1; arg 25); with_reducible refine (shape_mk ..).trans ?_; simp only [↓shape_mk, ↓shape_pending, ↓shape_mb, ↓shape_ports, ↓shape_tiles, ↓shape_chans, ↓shape_clusters, ↓shape_cores, ↓shape_cvu, ↓shape_compares, ↓shape_latches, ↓shape_tsq, ↓shape_netPorts, updAt_length])

theorem State.onCvu_shape (s : State) (n : Nat) (f : Cvu → Cvu) : (State.onCvu s n f).shape = s.shape := by
  unfold State.onCvu
  repeat' first
    | with_reducible rfl
    | (with_reducible first | refine (State.serviceRequest_shape ..).trans ?_ | refine (State.modCvu_shape ..).trans ?_)

theorem execCvuReset_shape (n : Nat) (v : BitVec 32) (s : State) : Keeps s (execCvuReset n v s) := by
  unfold execCvuReset
  repeat' first
    | with_reducible rfl
    | with_reducible refine keeps_next ?_
    | (with_reducible first | refine (State.serviceRequest_shape ..).trans ?_ | refine (State.onCvu_shape ..).trans ?_)
    | ((conv => lhs; arg 1; arg 1); split)

theorem execCvuData8_shape (n : Nat) (v : BitVec 8) (s : State) : Keeps s (execCvuData8 n v s) := by
  unfold execCvuData8
  repeat' first
    | with_reducible rfl
    | with_reducible refine keeps_next ?_
    | (with_reducible first | refine (State.onCvu_shape ..).trans ?_)

theorem execCvuData16_shape (n : Nat) (v : BitVec 16) (s : State) : Keeps s (execCvuData16 n v s) := by
  unfold execCvuData16
  repeat' first
    | with_reducible rfl
    | with_reducible refine keeps_next ?_
    | (with_reducible first | refine (State.onCvu_shape ..).trans ?_)

theorem execCvuData32_shape (n : Nat) (v : BitVec 32) (s : State) : Keeps s (execCvuData32 n v s) := by
  unfold execCvuData32
  repeat' first
    | with_reducible rfl
    | with_reducible refine keeps_next ?_
    | (with_reducible first | refine (State.onCvu_shape ..).trans ?_)

theorem execCvuFinal_shape (n : Nat) (_v : BitVec 32) (s : State) : Keeps s (execCvuFinal n _v s) := by
  unfold execCvuFinal
  repeat' first
    | with_reducible rfl
    | with_reducible assumption
    | with_reducible refine keeps_next ?_
    | (with_reducible first | refine (State.setPend_shape ..).trans ?_ | refine (State.onCvu_shape ..).trans ?_)
    | ((conv => lhs; arg 1; arg 1); split)
    | (extract_lets +onlyGivenNames x; clear_value (e : x = _); first | (subst e))

theorem State.modG2d_shape (s : State) (f : G2d → G2d) : (State.modG2d s f).shape = s.shape := rfl

theorem execG2dStart_shape (v : BitVec 32) (s : State) : Keeps s (execG2dStart v s) := by
  unfold execG2dStart
  repeat' first
    | with_reducible rfl
    | with_reducible assumption
    | with_reducible refine keeps_next ?_
    | (with_reducible first | refine (State.g2dFinish_shape ..).trans ?_ | refine (State.powerSync_shape ..).trans ?_ | refine (State.serviceRequest_shape ..).trans ?_ | refine (State.modG2d_shape ..).trans ?_)
    | ((conv => lhs; arg 1; arg 1); split)
    | (extract_lets +onlyGivenNames x; clear_value (e : x = _); first | (subst e))

theorem execG2dAbort_shape (rows : List G2dHostRow) (s : State) : Keeps s (execG2dAbort rows s) := by
  unfold execG2dAbort
  repeat' first
    | with_reducible rfl
    | with_reducible refine keeps_next ?_
    | (with_reducible first | refine (State.g2dEnd_shape ..).trans ?_ | refine (State.powerSync_shape ..).trans ?_)
    | ((conv => lhs; arg 1; arg 1); split)

theorem State.g2dPaced_shape (s : State) (rows : Nat) : (State.g2dPaced s rows).shape = s.shape := by
  unfold State.g2dPaced
  repeat' first
    | with_reducible rfl
    | (with_reducible first | refine (State.advanceTo_shape ..).trans ?_)
    | split

theorem execG2dOperationEnd_shape (rows : List G2dHostRow) (error part : Nat) (next : G2dHostRow) (s : State) : Keeps s (execG2dOperationEnd rows error part next s) := by
  unfold execG2dOperationEnd
  repeat' first
    | with_reducible rfl
    | with_reducible refine keeps_next ?_
    | (with_reducible first | refine (State.g2dEnd_shape ..).trans ?_ | refine (State.powerSync_shape ..).trans ?_ | refine (State.g2dPaced_shape ..).trans ?_)
    | ((conv => lhs; arg 1; arg 1); split)

theorem State.writeReg_shape (s : State) (off v : Nat) : (State.writeReg s off v).shape = s.shape := by
  unfold State.writeReg
  repeat' first
    | with_reducible rfl
    | with_reducible assumption
    | ((conv => lhs; arg 1; arg 25); with_reducible refine (shape_mk ..).trans ?_; simp only [↓shape_mk, ↓shape_pending, ↓shape_mb, ↓shape_ports, ↓shape_tiles, ↓shape_chans, ↓shape_clusters, ↓shape_cores, ↓shape_cvu, ↓shape_compares, ↓shape_latches, ↓shape_tsq, ↓shape_netPorts, updAt_length, List.length_map, List.length_zipIdx, shape_eta])
    | (with_reducible first | refine (State.setPend_shape ..).trans ?_ | refine (State.modMb_shape ..).trans ?_ | refine (State.serviceRequest_shape ..).trans ?_ | refine (State.modEq_shape ..).trans ?_ | refine (State.onCvu_shape ..).trans ?_ | refine (State.modG2d_shape ..).trans ?_)
    | with_reducible refine fstShape_eq ?_
    | ((conv => lhs; arg 1; arg 1); split)
    | (extract_lets +onlyGivenNames x; clear_value (e : x = _); first | (with_reducible refine shape_cut x ?_ (fun _ => ?_); (subst e); rotate_left; clear e) | (subst e))
    | with_reducible refine fstShape_eq ?_
    | with_reducible refine ranShape_eq ?_
    | split
    | with_reducible refine fstShape_mk ?_
    | simp only [↓shape_clusters, ↓shape_mb, ↓shape_chans, ↓shape_ports, ↓shape_tiles, ↓shape_cores, ↓shape_cvu, shape_eta]
    | dsimp only

theorem execRegisterWrite_shape (offset : Nat) (v : BitVec 32) (s : State) : Keeps s (execRegisterWrite offset v s) := by
  unfold execRegisterWrite
  repeat' first
    | with_reducible rfl
    | with_reducible assumption
    | ((conv => lhs; arg 1; arg 25); with_reducible refine (shape_mk ..).trans ?_; simp only [↓shape_mk, ↓shape_pending, ↓shape_mb, ↓shape_ports, ↓shape_tiles, ↓shape_chans, ↓shape_clusters, ↓shape_cores, ↓shape_cvu, ↓shape_compares, ↓shape_latches, ↓shape_tsq, ↓shape_netPorts, updAt_length, List.length_map, List.length_zipIdx, shape_eta])
    | with_reducible refine keeps_next ?_
    | (with_reducible first | refine (State.writeReg_shape ..).trans ?_)
    | with_reducible refine fstShape_eq ?_
    | with_reducible refine fstShape_eq ?_
    | with_reducible refine ranShape_eq ?_
    | split
    | with_reducible refine fstShape_mk ?_
    | simp only [↓shape_clusters, ↓shape_mb, ↓shape_chans, ↓shape_ports, ↓shape_tiles, ↓shape_cores, ↓shape_cvu, shape_eta]
    | dsimp only

/-! ### SafRows -/

theorem State.modSaf_shape (s : State) (f : Saf → Saf) : (State.modSaf s f).shape = s.shape := rfl

theorem safetyStatusBody_shape (u00 : Cmd) (s : State) : RanShape (safetyStatusBody u00 s) s.shape := rfl

theorem execSafetyStatus_shape (c : Cmd) (s : State) : Keeps s (execSafetyStatus c s) := by
  unfold execSafetyStatus
  repeat' first
    | with_reducible rfl
    | with_reducible refine keeps_next ?_
    | with_reducible refine hostCmdWith_shape _ _ _ _ _ _ (fun _ _ => ?_) (fun _ _ => ?_)
    | (with_reducible first | refine (State.serveCore_shape ..).trans ?_ | refine (safetyStatusBody_shape ..).trans ?_)

theorem safetyClearBody_shape (u00 : Cmd) (s : State) : RanShape (safetyClearBody u00 s) s.shape := by
  unfold safetyClearBody
  repeat' first
    | with_reducible rfl
    | (with_reducible first | refine (State.raise_shape ..).trans ?_ | refine (refuse_shape ..).trans ?_ | refine (answer_shape ..).trans ?_ | refine (State.modSaf_shape ..).trans ?_)
    | ((conv => lhs; arg 1; arg 1); split)

theorem execSafetyClear_shape (c : Cmd) (s : State) : Keeps s (execSafetyClear c s) := by
  unfold execSafetyClear
  repeat' first
    | with_reducible rfl
    | with_reducible refine keeps_next ?_
    | with_reducible refine hostCmd_shape _ _ _ _ _ (fun _ _ => ?_)
    | (with_reducible first | refine (safetyClearBody_shape ..).trans ?_)

theorem safetyTestBody_shape (c : Cmd) (s : State) : RanShape (safetyTestBody c s) s.shape := by
  unfold safetyTestBody
  repeat' first
    | with_reducible rfl
    | (with_reducible first | refine (refuse_shape ..).trans ?_ | refine (accept_shape ..).trans ?_ | refine (State.modSaf_shape ..).trans ?_)
    | ((conv => lhs; arg 1; arg 1); split)
    | (extract_lets +onlyGivenNames x; clear_value (e : x = _); first | (subst e))

theorem execSafetyTest_shape (c : Cmd) (s : State) : Keeps s (execSafetyTest c s) := by
  unfold execSafetyTest
  repeat' first
    | with_reducible rfl
    | with_reducible refine keeps_next ?_
    | with_reducible refine hostCmd_shape _ _ _ _ _ (fun _ _ => ?_)
    | (with_reducible first | refine (safetyTestBody_shape ..).trans ?_)

theorem execSafetyTestCompletion_shape (hit : Option SafetyHit) (s : State) : Keeps s (execSafetyTestCompletion hit s) := by
  unfold execSafetyTestCompletion
  repeat' first
    | with_reducible rfl
    | with_reducible refine keeps_next ?_
    | (with_reducible first | refine (State.advanceTo_shape ..).trans ?_ | refine (State.raise_shape ..).trans ?_ | refine (State.endJob_shape ..).trans ?_ | refine (State.modSaf_shape ..).trans ?_)
    | ((conv => arg 1; arg 1); split)

theorem State.probeFault_shape (s : State) (n : Nat) : (State.probeFault s n).shape = s.shape := by
  unfold State.probeFault
  repeat' first
    | with_reducible rfl
    | (with_reducible first | refine (State.raise_shape ..).trans ?_ | refine (State.safetyFault_shape ..).trans ?_)
    | ((conv => lhs; arg 1; arg 1); split)

theorem execRayProbeComplete_shape (probes : List RayProbe) (s : State) : Keeps s (execRayProbeComplete probes s) := by
  unfold execRayProbeComplete
  repeat' first
    | with_reducible rfl
    | with_reducible refine keeps_next ?_
    | with_reducible refine (shape_foldl _ (fun _ _ => ?_) _ _).trans ?_
    | (with_reducible first | refine (State.takeFree_shape ..).trans ?_ | refine (State.modSaf_shape ..).trans ?_ | refine (State.probeFault_shape ..).trans ?_)
    | with_reducible refine fstShape_eq ?_
    | ((conv => lhs; arg 1; arg 1); split)

theorem execLockstepMismatch_shape (s : State) : Keeps s (execLockstepMismatch s) := by
  unfold execLockstepMismatch
  repeat' first
    | with_reducible rfl
    | with_reducible refine keeps_next ?_
    | (with_reducible first | refine (State.emit_shape ..).trans ?_ | refine (State.safetyFault_shape ..).trans ?_ | refine (State.modSaf_shape ..).trans ?_)
    | ((conv => lhs; arg 1; arg 1); split)

theorem execFabricParityError_shape (s : State) : Keeps s (execFabricParityError s) := by
  unfold execFabricParityError
  repeat' first
    | with_reducible rfl
    | with_reducible refine keeps_next ?_
    | (with_reducible first | refine (State.safetyFault_shape ..).trans ?_)
    | ((conv => lhs; arg 1; arg 1); split)

theorem execControlProcessorWatchdog_shape (s : State) : Keeps s (execControlProcessorWatchdog s) := by
  unfold execControlProcessorWatchdog
  repeat' first
    | with_reducible rfl
    | with_reducible refine keeps_next ?_
    | (with_reducible first | refine (State.safetyFault_shape ..).trans ?_)
    | ((conv => lhs; arg 1; arg 1); split)

theorem execHostHbWrite_shape (v : BitVec 32) (s : State) : Keeps s (execHostHbWrite v s) := by
  unfold execHostHbWrite
  repeat' first
    | with_reducible rfl
    | with_reducible refine keeps_next ?_
    | (with_reducible first | refine (State.modSaf_shape ..).trans ?_)
    | ((conv => lhs; arg 1; arg 1); split)

theorem execHostHbTimeout_shape (s : State) : Keeps s (execHostHbTimeout s) := by
  unfold execHostHbTimeout
  repeat' first
    | with_reducible rfl
    | with_reducible refine keeps_next ?_
    | (with_reducible first | refine (State.advanceTo_shape ..).trans ?_ | refine (State.raise_shape ..).trans ?_ | refine (State.modSaf_shape ..).trans ?_)
    | ((conv => lhs; arg 1; arg 1); split)
    | (extract_lets +onlyGivenNames x; clear_value (e : x = _); first | (subst e))

theorem execSmcAliveTick_shape (s : State) : Keeps s (execSmcAliveTick s) := by
  unfold execSmcAliveTick
  repeat' first
    | with_reducible rfl
    | with_reducible refine keeps_next ?_
    | (with_reducible first | refine (State.advanceTo_shape ..).trans ?_ | refine (State.modSaf_shape ..).trans ?_)
    | ((conv => lhs; arg 1; arg 1); split)

/-! ### PairRows -/

theorem State.refreshReady_shape (s : State) : (State.refreshReady s).shape = s.shape := by
  unfold State.refreshReady
  repeat' first
    | with_reducible rfl
    | with_reducible assumption
    | (with_reducible first | refine (State.modPair_shape ..).trans ?_ | refine (State.dropPlanned_shape ..).trans ?_)
    | (extract_lets +onlyGivenNames x; clear_value (e : x = _); first | (subst e))
    | split

theorem State.claimShow_shape (s : State) (fault : Bool) : (State.claimShow s fault).shape = s.shape := by
  unfold State.claimShow
  repeat' first
    | with_reducible rfl
    | with_reducible refine (shape_foldl _ (fun _ _ => ?_) _ _).trans ?_
    | (with_reducible first | refine (State.modTile_shape ..).trans ?_ | refine (State.reconcile_shape ..).trans ?_)
    | ((conv => lhs; arg 1; arg 1); split)

theorem State.claimBy_shape (s : State) (kind : Nat) (t0 : Nat) (cause : Nat) : (State.claimBy s kind t0 cause).shape = s.shape := by
  unfold State.claimBy
  repeat' first
    | with_reducible rfl
    | (with_reducible first | refine (State.roleGo_shape ..).trans ?_ | refine (State.claimAll_shape ..).trans ?_ | refine (State.modPair_shape ..).trans ?_ | refine (State.claimShow_shape ..).trans ?_)

theorem State.switched_shape (s : State) (w : Switch) (epoch : Nat) : (State.switched s w epoch).shape = s.shape := by
  unfold State.switched
  repeat' first
    | with_reducible rfl
    | (with_reducible first | refine (State.raise_shape ..).trans ?_ | refine (State.modPair_shape ..).trans ?_)

theorem State.switchCheck_shape (s : State) : (State.switchCheck s).shape = s.shape := by
  unfold State.switchCheck
  repeat' first
    | with_reducible rfl
    | with_reducible assumption
    | with_reducible refine (shape_foldl _ (fun _ _ => ?_) _ _).trans ?_
    | (with_reducible first | refine (State.powerLow_shape ..).trans ?_ | refine (State.stopGrid_shape ..).trans ?_ | refine (State.roleGo_shape ..).trans ?_ | refine (State.disownAll_shape ..).trans ?_ | refine (State.shutdownStep_shape ..).trans ?_ | refine (State.endPairJobs_shape ..).trans ?_ | refine (State.switched_shape ..).trans ?_)
    | (extract_lets +onlyGivenNames x; clear_value (e : x = _); first | (with_reducible refine shape_cut x ?_ (fun _ => ?_); (subst e); rotate_left; clear e) | (subst e))
    | split

theorem State.lostOwnership_shape (s : State) (t : Nat) : (State.lostOwnership s t).shape = s.shape := by
  unfold State.lostOwnership
  repeat' first
    | with_reducible rfl
    | (with_reducible first | refine (State.roleGo_shape ..).trans ?_ | refine (State.disownAll_shape ..).trans ?_)
    | ((conv => lhs; arg 1; arg 1); split)
    | (extract_lets +onlyGivenNames x; clear_value (e : x = _); first | (subst e))

theorem State.joinRoles_shape (s : State) : (State.joinRoles s).shape = s.shape := by
  unfold State.joinRoles
  repeat' first
    | with_reducible rfl
    | (with_reducible first | refine (State.roleGo_shape ..).trans ?_ | refine (State.claimAll_shape ..).trans ?_ | refine (State.claimShow_shape ..).trans ?_)
    | (extract_lets +onlyGivenNames x; clear_value (e : x = _); first | (subst e))
    | split

theorem State.followGrid_shape (s : State) (err : Int) : (State.followGrid s err).shape = s.shape := by
  unfold State.followGrid
  repeat' first
    | with_reducible rfl
    | with_reducible assumption
    | ((conv => lhs; arg 1; arg 25); exact rfl)
    | (with_reducible first | refine (State.takeFree_shape ..).trans ?_)
    | with_reducible refine fstShape_eq ?_
    | ((conv => lhs; arg 1; arg 1); split)
    | (extract_lets +onlyGivenNames x; clear_value (e : x = _); first | (subst e))

theorem State.checkDigest_shape (s : State) : (State.checkDigest s).shape = s.shape := by
  unfold State.checkDigest
  repeat' first
    | with_reducible rfl
    | with_reducible assumption
    | (with_reducible first | refine (State.raise_shape ..).trans ?_ | refine (State.modPair_shape ..).trans ?_)
    | ((conv => lhs; arg 1; arg 1); split)
    | (extract_lets +onlyGivenNames x; clear_value (e : x = _); first | (subst e))

theorem State.pairSelection_shape (s : State) : (State.pairSelection s).shape = s.shape := by
  unfold State.pairSelection
  repeat' first
    | with_reducible rfl
    | (with_reducible first | refine (State.refreshReady_shape ..).trans ?_ | refine (State.checkDigest_shape ..).trans ?_)
    | ((conv => lhs; arg 1; arg 1); split)

theorem State.fixD_shape (s : State) (m : XState) : (State.fixD s m).shape = s.shape := by
  unfold State.fixD
  repeat' first
    | with_reducible rfl
    | (with_reducible first | refine (State.modPair_shape ..).trans ?_)
    | ((conv => lhs; arg 1; arg 1); split)

theorem execXlinkState_shape (m : XState) (s : State) : Keeps s (execXlinkState m s) := by
  unfold execXlinkState
  repeat' first
    | with_reducible rfl
    | with_reducible assumption
    | with_reducible refine keeps_next ?_
    | (with_reducible first | refine (State.modPair_shape ..).trans ?_ | refine (State.dropPlanned_shape ..).trans ?_ | refine (State.xlinkGo_shape ..).trans ?_ | refine (State.refreshReady_shape ..).trans ?_ | refine (State.joinRoles_shape ..).trans ?_ | refine (State.followGrid_shape ..).trans ?_ | refine (State.fixD_shape ..).trans ?_)
    | ((conv => arg 1; arg 1); split)
    | (extract_lets +onlyGivenNames x; clear_value (e : x = _); first | (subst e))

theorem execXlinkStateSend_shape (s : State) : Keeps s (execXlinkStateSend s) := by
  unfold execXlinkStateSend
  repeat' first
    | with_reducible rfl
    | with_reducible refine keeps_next ?_
    | (with_reducible first | refine (State.advanceTo_shape ..).trans ?_ | refine (State.emit_shape ..).trans ?_ | refine (State.modPair_shape ..).trans ?_ | refine (State.refreshReady_shape ..).trans ?_)
    | ((conv => lhs; arg 1; arg 1); split)

theorem execXlinkStateTimeout_shape (s : State) : Keeps s (execXlinkStateTimeout s) := by
  unfold execXlinkStateTimeout
  repeat' first
    | with_reducible rfl
    | with_reducible refine keeps_next ?_
    | (with_reducible first | refine (State.advanceTo_shape ..).trans ?_ | refine (State.xlinkDown_shape ..).trans ?_)
    | ((conv => lhs; arg 1; arg 1); split)

theorem execLedger_shape (frame sf : Nat) (settled : Bool) (rows : List LedgerRow) (s : State) : Keeps s (execLedger frame sf settled rows s) := by
  unfold execLedger
  repeat' first
    | with_reducible rfl
    | with_reducible refine keeps_next ?_
    | with_reducible refine (shape_foldl _ (fun _ _ => ?_) _ _).trans ?_
    | (with_reducible first | refine (State.modTile_shape ..).trans ?_ | refine (State.modPair_shape ..).trans ?_)
    | ((conv => lhs; arg 1; arg 1); split)

theorem execHandover_shape (kind epoch : Nat) (s : State) : Keeps s (execHandover kind epoch s) := by
  unfold execHandover
  repeat' first
    | with_reducible rfl
    | with_reducible assumption
    | with_reducible refine keeps_next ?_
    | (with_reducible first | refine (State.beginSwitch_shape ..).trans ?_ | refine (State.modPair_shape ..).trans ?_ | refine (State.claimBy_shape ..).trans ?_)
    | ((conv => lhs; arg 1; arg 1); split)
    | (extract_lets +onlyGivenNames x; clear_value (e : x = _); first | (subst e))

theorem execHello_shape (epoch : Nat) (s : State) : Keeps s (execHello epoch s) := by
  unfold execHello
  repeat' first
    | with_reducible rfl
    | with_reducible refine keeps_next ?_
    | (with_reducible first | refine (State.emit_shape ..).trans ?_ | refine (State.modPair_shape ..).trans ?_ | refine (State.xlinkGo_shape ..).trans ?_)
    | ((conv => lhs; arg 1; arg 1); split)

theorem execPairJoinTimeout_shape (s : State) : Keeps s (execPairJoinTimeout s) := by
  unfold execPairJoinTimeout
  repeat' first
    | with_reducible rfl
    | with_reducible assumption
    | with_reducible refine keeps_next ?_
    | (with_reducible first | refine (State.advanceTo_shape ..).trans ?_ | refine (State.modPair_shape ..).trans ?_ | refine (State.claimBy_shape ..).trans ?_)
    | ((conv => lhs; arg 1; arg 1); split)
    | (extract_lets +onlyGivenNames x; clear_value (e : x = _); first | (subst e))

theorem State.witnessWait_shape (s : State) : (State.witnessWait s).shape = s.shape := by
  unfold State.witnessWait
  repeat' first
    | with_reducible rfl
    | (with_reducible first | refine (State.advanceTo_shape ..).trans ?_)
    | ((conv => lhs; arg 1; arg 1); split)
    | (extract_lets +onlyGivenNames x; clear_value (e : x = _); first | (subst e))

theorem execWitnessTimeout_shape (s : State) : Keeps s (execWitnessTimeout s) := by
  unfold execWitnessTimeout
  repeat' first
    | with_reducible refine keeps_next ?_
    | (with_reducible first | refine (State.claimBy_shape ..).trans ?_ | refine (State.witnessWait_shape ..).trans ?_)
    | ((conv => lhs; arg 1; arg 1); split)
    | simp only [↓shape_clusters, ↓shape_mb, ↓shape_chans, ↓shape_ports, ↓shape_tiles, ↓shape_cores, ↓shape_cvu, shape_eta]

theorem execAutoDegradeTimer_shape (s : State) : Keeps s (execAutoDegradeTimer s) := by
  unfold execAutoDegradeTimer
  repeat' first
    | with_reducible rfl
    | with_reducible refine keeps_next ?_
    | (with_reducible first | refine (State.advanceTo_shape ..).trans ?_ | refine (State.beginSwitch_shape ..).trans ?_)
    | ((conv => arg 1; arg 1); split)

theorem execSwitchoverClaim_shape (s : State) : Keeps s (execSwitchoverClaim s) := by
  unfold execSwitchoverClaim
  repeat' first
    | with_reducible rfl
    | with_reducible refine keeps_next ?_
    | (with_reducible first | refine (State.advanceTo_shape ..).trans ?_ | refine (State.claimBy_shape ..).trans ?_)
    | ((conv => arg 1; arg 1); split)

theorem pairStatusBody_shape (u00 : Cmd) (s : State) : RanShape (pairStatusBody u00 s) s.shape := rfl

theorem execPairStatus_shape (c : Cmd) (s : State) : Keeps s (execPairStatus c s) := by
  unfold execPairStatus
  repeat' first
    | with_reducible rfl
    | with_reducible refine keeps_next ?_
    | with_reducible refine hostCmdWith_shape _ _ _ _ _ _ (fun _ _ => ?_) (fun _ _ => ?_)
    | (with_reducible first | refine (State.serveCore_shape ..).trans ?_ | refine (pairStatusBody_shape ..).trans ?_)

theorem pairCtrlBody_shape (c : Cmd) (s : State) : RanShape (pairCtrlBody c s) s.shape := by
  unfold pairCtrlBody
  repeat' first
    | with_reducible rfl
    | with_reducible assumption
    | (with_reducible first | refine (refuse_shape ..).trans ?_ | refine (answer_shape ..).trans ?_ | refine (accept_shape ..).trans ?_ | refine (State.roleGo_shape ..).trans ?_ | refine (State.beginSwitch_shape ..).trans ?_ | refine (State.modPair_shape ..).trans ?_)
    | ((conv => lhs; arg 1; arg 1); split)
    | (extract_lets +onlyGivenNames x; clear_value (e : x = _); first | (subst e))
    | with_reducible refine ranShape_mk ?_

theorem execPairCtrl_shape (c : Cmd) (s : State) : Keeps s (execPairCtrl c s) := by
  unfold execPairCtrl
  repeat' first
    | with_reducible rfl
    | with_reducible refine keeps_next ?_
    | with_reducible refine hostCmd_shape _ _ _ _ _ (fun _ _ => ?_)
    | (with_reducible first | refine (pairCtrlBody_shape ..).trans ?_)

/-! ### TimeRows -/

theorem State.modTb_shape (s : State) (n : Nat) (f : TimeBase → TimeBase) : (State.modTb s n f).shape = s.shape := by
  unfold State.modTb
  repeat' first
    | with_reducible rfl
    | ((conv => lhs; arg 1; arg 25); exact rfl)
    | (with_reducible first | refine (State.modTime_shape ..).trans ?_)
    | ((conv => lhs; arg 1; arg 1); split)

theorem State.limitRates_shape (s : State) : (State.limitRates s).shape = s.shape := rfl

theorem State.timeMatch_shape (s : State) (slot : Nat) (c : Compare) (flags : Nat) : (State.timeMatch s slot c flags).shape = s.shape := by
  unfold State.timeMatch
  repeat' first
    | with_reducible rfl
    | (with_reducible first | refine (State.raise_shape ..).trans ?_)

theorem State.modCompare_shape (s : State) (slot : Nat) (f : Compare → Compare) : (State.modCompare s slot f).shape = s.shape := by
  unfold State.modCompare
  repeat' first
    | ((conv => lhs; arg 1; arg 25); with_reducible refine (shape_mk ..).trans ?_; simp only [↓shape_mk, ↓shape_pending, ↓shape_mb, ↓shape_ports, ↓shape_tiles, ↓shape_chans, ↓shape_clusters, ↓shape_cores, ↓shape_cvu, ↓shape_compares, ↓shape_latches, ↓shape_tsq, ↓shape_netPorts, updAt_length])
    | (with_reducible first | refine (State.modTime_shape ..).trans ?_)

theorem State.fireCompare_shape (s : State) (slot flags : Nat) : (State.fireCompare s slot flags).shape = s.shape := by
  unfold State.fireCompare
  repeat' first
    | with_reducible rfl
    | (with_reducible first | refine (State.setPend_shape ..).trans ?_ | refine (State.timeMatch_shape ..).trans ?_ | refine (State.modCompare_shape ..).trans ?_)

theorem State.stepCompares_shape (s : State) (n : Nat) : (State.stepCompares s n).shape = s.shape := by
  unfold State.stepCompares
  repeat' first
    | with_reducible rfl
    | with_reducible refine (shape_foldl _ (fun _ _ => ?_) _ _).trans ?_
    | (with_reducible first | refine (State.timeMatch_shape ..).trans ?_ | refine (State.modCompare_shape ..).trans ?_ | refine (State.fireCompare_shape ..).trans ?_)
    | ((conv => arg 1; arg 1); split)
    | (extract_lets +onlyGivenNames x; clear_value (e : x = _); first | (subst e))

theorem State.timeStep_shape (s : State) (n : Nat) (d : Int) : (State.timeStep s n d).shape = s.shape := by
  unfold State.timeStep
  repeat' first
    | with_reducible rfl
    | (with_reducible first | refine (State.raise_shape ..).trans ?_ | refine (State.stepCompares_shape ..).trans ?_)

theorem State.stepTb3_shape (s : State) (d : Int) : (State.stepTb3 s d).shape = s.shape := by
  unfold State.stepTb3
  repeat' first
    | ((conv => lhs; arg 1; arg 25); exact rfl)
    | (with_reducible first | refine (State.modTime_shape ..).trans ?_ | refine (State.timeStep_shape ..).trans ?_)

theorem State.stepTb_shape (s : State) (n ns : Nat) : (State.stepTb s n ns).shape = s.shape := by
  unfold State.stepTb
  repeat' first
    | with_reducible rfl
    | with_reducible assumption
    | (with_reducible first | refine (State.modTb_shape ..).trans ?_ | refine (State.timeStep_shape ..).trans ?_ | refine (State.stepTb3_shape ..).trans ?_)
    | ((conv => lhs; arg 1; arg 1); split)
    | (extract_lets +onlyGivenNames x; clear_value (e : x = _); first | (subst e))

theorem State.tb3Params_shape (s : State) : (State.tb3Params s).shape = s.shape := by
  unfold State.tb3Params
  repeat' first
    | with_reducible rfl
    | with_reducible assumption
    | ((conv => lhs; arg 1; arg 25); exact rfl)
    | (with_reducible first | refine (State.modTime_shape ..).trans ?_ | refine (State.stepTb3_shape ..).trans ?_)
    | (extract_lets +onlyGivenNames x; clear_value (e : x = _); first | (subst e))
    | split

theorem timeSetBody_shape (c : Cmd) (s : State) : RanShape (timeSetBody c s) s.shape := by
  unfold timeSetBody
  repeat' first
    | with_reducible rfl
    | with_reducible assumption
    | ((conv => lhs; arg 1; arg 25); exact rfl)
    | (with_reducible first | refine (refuse_shape ..).trans ?_ | refine (answer_shape ..).trans ?_ | refine (State.modTime_shape ..).trans ?_ | refine (State.modTb_shape ..).trans ?_ | refine (State.stepTb3_shape ..).trans ?_ | refine (State.stepTb_shape ..).trans ?_)
    | (extract_lets +onlyGivenNames x; clear_value (e : x = _); first | (subst e))
    | split

theorem execTimeSet_shape (c : Cmd) (s : State) : Keeps s (execTimeSet c s) := by
  unfold execTimeSet
  repeat' first
    | with_reducible rfl
    | with_reducible refine keeps_next ?_
    | with_reducible refine hostCmd_shape _ _ _ _ _ (fun _ _ => ?_)
    | (with_reducible first | refine (timeSetBody_shape ..).trans ?_)

theorem timeCompareBody_shape (c : Cmd) (s : State) : RanShape (timeCompareBody c s) s.shape := by
  unfold timeCompareBody
  repeat' first
    | with_reducible rfl
    | with_reducible assumption
    | (with_reducible first | refine (refuse_shape ..).trans ?_ | refine (answer_shape ..).trans ?_ | refine (State.modCompare_shape ..).trans ?_ | refine (State.fireCompare_shape ..).trans ?_)
    | (extract_lets +onlyGivenNames x; clear_value (e : x = _); first | (subst e))
    | split

theorem execTimeCompare_shape (c : Cmd) (s : State) : Keeps s (execTimeCompare c s) := by
  unfold execTimeCompare
  repeat' first
    | with_reducible rfl
    | with_reducible refine keeps_next ?_
    | with_reducible refine hostCmd_shape _ _ _ _ _ (fun _ _ => ?_)
    | (with_reducible first | refine (timeCompareBody_shape ..).trans ?_)

theorem execTimeStatus_shape (c : Cmd) (s : State) : Keeps s (execTimeStatus c s) := by
  unfold execTimeStatus
  repeat' first
    | with_reducible rfl
    | with_reducible refine keeps_next ?_
    | with_reducible refine hostCmd_shape _ _ _ _ _ (fun _ _ => ?_)
    | (with_reducible first | refine (answer_shape ..).trans ?_)

theorem execCompareFire_shape (slot : Nat) (s : State) : Keeps s (execCompareFire slot s) := by
  unfold execCompareFire
  repeat' first
    | with_reducible rfl
    | with_reducible refine keeps_next ?_
    | (with_reducible first | refine (State.advance_shape ..).trans ?_ | refine (State.fireCompare_shape ..).trans ?_)
    | ((conv => arg 1; arg 1); split)
    | (extract_lets +onlyGivenNames x; clear_value (e : x = _); first | (subst e))

theorem execTimeLatch_shape (v : BitVec 32) (s : State) : Keeps s (execTimeLatch v s) := by
  unfold execTimeLatch
  repeat' first
    | with_reducible rfl
    | ((conv => lhs; arg 1; arg 25); with_reducible refine (shape_mk ..).trans ?_; simp only [↓shape_mk, ↓shape_pending, ↓shape_mb, ↓shape_ports, ↓shape_tiles, ↓shape_chans, ↓shape_clusters, ↓shape_cores, ↓shape_cvu, ↓shape_compares, ↓shape_latches, ↓shape_tsq, ↓shape_netPorts, updAt_length, List.length_map, List.length_zipIdx])
    | with_reducible refine keeps_next ?_
    | (with_reducible first | refine (State.modTime_shape ..).trans ?_)
    | ((conv => lhs; arg 1; arg 1); split)

theorem execTsqPop_shape (p : Nat) (s : State) : Keeps s (execTsqPop p s) := by
  unfold execTsqPop
  repeat' first
    | with_reducible rfl
    | ((conv => lhs; arg 1; arg 25); with_reducible refine (shape_mk ..).trans ?_; simp only [↓shape_mk, ↓shape_pending, ↓shape_mb, ↓shape_ports, ↓shape_tiles, ↓shape_chans, ↓shape_clusters, ↓shape_cores, ↓shape_cvu, ↓shape_compares, ↓shape_latches, ↓shape_tsq, ↓shape_netPorts, updAt_length])
    | with_reducible refine keeps_next ?_
    | (with_reducible first | refine (State.modTime_shape ..).trans ?_)
    | ((conv => lhs; arg 1; arg 1); split)

theorem execPpsOutPulse_shape (s : State) : Keeps s (execPpsOutPulse s) := by
  unfold execPpsOutPulse
  repeat' first
    | with_reducible rfl
    | ((conv => lhs; arg 1; arg 25); with_reducible refine (shape_mk ..).trans ?_; simp only [↓shape_mk, ↓shape_pending, ↓shape_mb, ↓shape_ports, ↓shape_tiles, ↓shape_chans, ↓shape_clusters, ↓shape_cores, ↓shape_cvu, ↓shape_compares, ↓shape_latches, ↓shape_tsq, ↓shape_netPorts, updAt_length])
    | with_reducible refine keeps_next ?_
    | (with_reducible first | refine (State.advance_shape ..).trans ?_ | refine (State.emit_shape ..).trans ?_ | refine (State.modTime_shape ..).trans ?_)
    | ((conv => arg 1; arg 1); split)
    | (extract_lets +onlyGivenNames x; clear_value (e : x = _); first | (subst e))

theorem execPpsInEdge_shape (s : State) : Keeps s (execPpsInEdge s) := by
  unfold execPpsInEdge
  refine keeps_next ?_
  extract_lets soon
  split
  · rfl
  · exact (State.raise_shape ..).trans ((State.modTime_shape ..).trans rfl)

theorem State.ptpReport_shape (s : State) (n : Nat) (old : TimeBase) : (State.ptpReport s n old).shape = s.shape := by
  unfold State.ptpReport
  repeat' first
    | with_reducible rfl
    | (with_reducible first | refine (State.raise_shape ..).trans ?_)
    | ((conv => lhs; arg 1; arg 1); split)
    | (extract_lets +onlyGivenNames x; clear_value (e : x = _); first | (subst e))

theorem State.ptpParams_shape (s : State) (n : Nat) : (State.ptpParams s n).shape = s.shape := by
  unfold State.ptpParams
  repeat' first
    | with_reducible rfl
    | (with_reducible first | refine (State.modTb_shape ..).trans ?_ | refine (State.ptpReport_shape ..).trans ?_)

theorem State.ptpMeasure_shape (s : State) (n m : Nat) : (State.ptpMeasure s n m).shape = s.shape := by
  unfold State.ptpMeasure
  repeat' first
    | with_reducible rfl
    | (with_reducible first | refine (State.takeFree_shape ..).trans ?_ | refine (State.modTb_shape ..).trans ?_ | refine (State.stepTb_shape ..).trans ?_)
    | with_reducible refine fstShape_eq ?_
    | ((conv => lhs; arg 1; arg 1); split)
    | (extract_lets +onlyGivenNames x; clear_value (e : x = _); first | (subst e))

theorem execPtpMessage_shape (base : Nat) (r : PtpRx) (s : State) : Keeps s (execPtpMessage base r s) := by
  unfold execPtpMessage
  repeat' first
    | with_reducible rfl
    | ((conv => lhs; arg 1; arg 25); with_reducible refine (shape_mk ..).trans ?_; simp only [↓shape_mk, ↓shape_pending, ↓shape_mb, ↓shape_ports, ↓shape_tiles, ↓shape_chans, ↓shape_clusters, ↓shape_cores, ↓shape_cvu, ↓shape_compares, ↓shape_latches, ↓shape_tsq, ↓shape_netPorts, updAt_length])
    | with_reducible refine keeps_next ?_
    | (with_reducible first | refine (State.emit_shape ..).trans ?_ | refine (answer_shape ..).trans ?_ | refine (State.modTime_shape ..).trans ?_ | refine (State.modTb_shape ..).trans ?_ | refine (State.ptpReport_shape ..).trans ?_ | refine (State.ptpMeasure_shape ..).trans ?_)
    | ((conv => arg 1; arg 1); split)

theorem State.pushTs_shape (s : State) (p : Nat) (e : TsEntry) : (State.pushTs s p e).shape = s.shape := by
  unfold State.pushTs
  repeat' first
    | with_reducible assumption
    | ((conv => lhs; arg 1; arg 25); with_reducible refine (shape_mk ..).trans ?_; simp only [↓shape_mk, ↓shape_pending, ↓shape_mb, ↓shape_ports, ↓shape_tiles, ↓shape_chans, ↓shape_clusters, ↓shape_cores, ↓shape_cvu, ↓shape_compares, ↓shape_latches, ↓shape_tsq, ↓shape_netPorts, updAt_length])
    | (with_reducible first | refine (State.setPend_shape ..).trans ?_ | refine (State.raise_shape ..).trans ?_ | refine (State.modTime_shape ..).trans ?_)
    | ((conv => lhs; arg 1; arg 1); split)
    | (extract_lets +onlyGivenNames x; clear_value (e : x = _); first | (subst e))

theorem State.ptpWait_shape (s : State) (n type : Nat) : (State.ptpWait s n type).shape = s.shape := by
  unfold State.ptpWait
  repeat' first
    | with_reducible rfl
    | (with_reducible first | refine (State.advanceTo_shape ..).trans ?_ | refine (State.takeFree_shape ..).trans ?_)
    | with_reducible refine fstShape_eq ?_
    | ((conv => arg 1; arg 1); split)

theorem State.ptpStamp_shape (s : State) (n : Nat) : FstShape (State.ptpStamp s n) s.shape := State.takeFree_shape s 17

theorem State.ptpMark_shape (s : State) (base type : Nat) : (State.ptpMark s base type).shape = s.shape := by
  unfold State.ptpMark
  repeat' first
    | with_reducible rfl
    | (with_reducible first | refine (State.modTb_shape ..).trans ?_)

theorem State.ptpOut_shape (s : State) (base type seq : Nat) (l : Latch) : (State.ptpOut s base type seq l).shape = s.shape := by
  unfold State.ptpOut
  repeat' first
    | with_reducible rfl
    | ((conv => lhs; arg 1; arg 25); with_reducible refine (shape_mk ..).trans ?_; simp only [↓shape_mk, ↓shape_pending, ↓shape_mb, ↓shape_ports, ↓shape_tiles, ↓shape_chans, ↓shape_clusters, ↓shape_cores, ↓shape_cvu, ↓shape_compares, ↓shape_latches, ↓shape_tsq, ↓shape_netPorts, updAt_length])
    | (with_reducible first | refine (State.emits_shape ..).trans ?_ | refine (State.modTime_shape ..).trans ?_ | refine (State.pushTs_shape ..).trans ?_)

theorem execPtpSend_shape (base type seq : Nat) (s : State) : Keeps s (execPtpSend base type seq s) := by
  unfold execPtpSend
  repeat' first
    | with_reducible rfl
    | with_reducible refine keeps_next ?_
    | (with_reducible first | refine (State.ptpWait_shape ..).trans ?_ | refine (State.ptpStamp_shape ..).trans ?_ | refine (State.ptpMark_shape ..).trans ?_ | refine (State.ptpOut_shape ..).trans ?_)
    | with_reducible refine fstShape_eq ?_
    | ((conv => lhs; arg 1; arg 1); split)
    | (extract_lets +onlyGivenNames x; clear_value (e : x = _); first | (subst e))

theorem execAnnounceReceiptTimeout_shape (base gm : Nat) (s : State) : Keeps s (execAnnounceReceiptTimeout base gm s) := by
  unfold execAnnounceReceiptTimeout
  repeat' first
    | with_reducible rfl
    | with_reducible refine keeps_next ?_
    | (with_reducible first | refine (State.modTb_shape ..).trans ?_ | refine (State.ptpReport_shape ..).trans ?_)
    | ((conv => lhs; arg 1; arg 1); split)
    | (extract_lets +onlyGivenNames x; clear_value (e : x = _); first | (subst e))

/-! ### NetRows -/

theorem execNetLinkChange_shape (port : Nat) (up : Bool) (s : State) : Keeps s (execNetLinkChange port up s) := by
  unfold execNetLinkChange
  repeat' first
    | with_reducible rfl
    | with_reducible refine keeps_next ?_
    | (with_reducible first | refine (State.netLink_shape ..).trans ?_)
    | ((conv => lhs; arg 1; arg 1); split)

theorem State.netRetrain_shape (s : State) (p : Nat) : (State.netRetrain s p).shape = s.shape := by
  unfold State.netRetrain
  repeat' first
    | with_reducible rfl
    | (with_reducible first | refine (State.powerSync_shape ..).trans ?_ | refine (State.netLink_shape ..).trans ?_)

theorem netStatusBody_shape (c : Cmd) (s : State) : RanShape (netStatusBody c s) s.shape := by
  unfold netStatusBody
  repeat' first
    | with_reducible rfl
    | (with_reducible first | refine (refuse_shape ..).trans ?_ | refine (answer_shape ..).trans ?_ | refine (State.modNet_shape ..).trans ?_)
    | ((conv => lhs; arg 1; arg 1); split)

theorem execNetStatus_shape (c : Cmd) (s : State) : Keeps s (execNetStatus c s) := by
  unfold execNetStatus
  repeat' first
    | with_reducible rfl
    | with_reducible refine keeps_next ?_
    | with_reducible refine hostCmd_shape _ _ _ _ _ (fun _ _ => ?_)
    | (with_reducible first | refine (netStatusBody_shape ..).trans ?_)

theorem execIcmpEcho_shape (port : Nat) (arp : Bool) (s : State) : Keeps s (execIcmpEcho port arp s) := by
  unfold execIcmpEcho
  repeat' first
    | with_reducible rfl
    | with_reducible refine keeps_next ?_
    | (with_reducible first | refine (State.emit_shape ..).trans ?_ | refine (State.modNet_shape ..).trans ?_)
    | ((conv => lhs; arg 1; arg 1); split)

theorem State.bindRx_shape (s : State) (f : Flow) (ps : List Basket) : (State.bindRx s f ps).shape = s.shape := by
  unfold State.bindRx
  repeat' first
    | with_reducible rfl
    | with_reducible assumption
    | ((conv => lhs; arg 1; arg 25); first | exact rfl | assumption)
    | (with_reducible first | refine (State.emit_shape ..).trans ?_ | refine (State.reserve_shape ..).trans ?_ | refine (State.modTime_shape ..).trans ?_ | refine (State.modNet_shape ..).trans ?_)
    | ((conv => lhs; arg 1; arg 1); split)
    | (extract_lets +onlyGivenNames x; clear_value (e : x = _); first | (with_reducible refine shape_cut x ?_ (fun _ => ?_); (subst e); rotate_left; clear e))

theorem netFlowBody_shape (c : Cmd) (s : State) : RanShape (netFlowBody c s) s.shape := by
  unfold netFlowBody
  repeat' first
    | with_reducible rfl
    | with_reducible assumption
    | ((conv => lhs; arg 1; arg 25); with_reducible refine (shape_mk ..).trans ?_; simp only [↓shape_mk, ↓shape_pending, ↓shape_mb, ↓shape_ports, ↓shape_tiles, ↓shape_chans, ↓shape_clusters, ↓shape_cores, ↓shape_cvu, ↓shape_compares, ↓shape_latches, ↓shape_tsq, ↓shape_netPorts, updAt_length, List.length_map, List.length_zipIdx, shape_eta])
    | (with_reducible first | refine (refuse_shape ..).trans ?_ | refine (answer_shape ..).trans ?_ | refine (State.modTime_shape ..).trans ?_ | refine (State.clearFlow_shape ..).trans ?_ | refine (State.bindRx_shape ..).trans ?_)
    | with_reducible refine fstShape_eq ?_
    | ((conv => lhs; arg 1; arg 1); split)
    | ((conv => arg 1; arg 1); split)
    | (extract_lets +onlyGivenNames x; clear_value (e : x = _); first | (with_reducible refine shape_cut x ?_ (fun _ => ?_); (subst e); rotate_left; clear e) | (with_reducible refine shape_cut_ran x ?_ (fun _ => ?_); (subst e); rotate_left; clear e) | (with_reducible refine ran_cut x ?_ (fun _ => ?_); (subst e); rotate_left; clear e) | (with_reducible refine ran_cut_fst x ?_ (fun _ => ?_); (subst e); rotate_left; clear e) | (with_reducible refine ran_cut_ran x ?_ (fun _ => ?_); (subst e); rotate_left; clear e) | (subst e))
    | with_reducible refine fstShape_eq ?_
    | with_reducible refine ranShape_eq ?_
    | split
    | with_reducible refine fstShape_mk ?_
    | with_reducible refine ranShape_mk ?_
    | simp only [↓shape_clusters, ↓shape_mb, ↓shape_chans, ↓shape_ports, ↓shape_tiles, ↓shape_cores, ↓shape_cvu, shape_eta]
    | dsimp only

theorem execNetFlow_shape (c : Cmd) (s : State) : Keeps s (execNetFlow c s) := by
  unfold execNetFlow
  repeat' first
    | with_reducible rfl
    | with_reducible assumption
    | ((conv => lhs; arg 1; arg 25); with_reducible refine (shape_mk ..).trans ?_; simp only [↓shape_mk, ↓shape_pending, ↓shape_mb, ↓shape_ports, ↓shape_tiles, ↓shape_chans, ↓shape_clusters, ↓shape_cores, ↓shape_cvu, ↓shape_compares, ↓shape_latches, ↓shape_tsq, ↓shape_netPorts, updAt_length, List.length_map, List.length_zipIdx, shape_eta])
    | with_reducible refine keeps_next ?_
    | with_reducible refine hostCmd_shape _ _ _ _ _ (fun _ _ => ?_)
    | (with_reducible first | refine (netFlowBody_shape ..).trans ?_)
    | with_reducible refine fstShape_eq ?_
    | (extract_lets +onlyGivenNames x; clear_value (e : x = _); first | (with_reducible refine keeps_cut x ?_ (fun _ => ?_); (subst e); rotate_left; clear e) | (with_reducible refine keeps_cut_fst x ?_ (fun _ => ?_); (subst e); rotate_left; clear e) | (with_reducible refine shape_cut x ?_ (fun _ => ?_); (subst e); rotate_left; clear e) | (with_reducible refine shape_cut_fst x ?_ (fun _ => ?_); (subst e); rotate_left; clear e) | (subst e))
    | with_reducible refine fstShape_eq ?_
    | with_reducible refine ranShape_eq ?_
    | split
    | with_reducible refine fstShape_mk ?_
    | simp only [↓shape_clusters, ↓shape_mb, ↓shape_chans, ↓shape_ports, ↓shape_tiles, ↓shape_cores, ↓shape_cvu, shape_eta]
    | dsimp only

theorem State.netFrame_shape (s : State) : (State.netFrame s).shape = s.shape := by
  unfold State.netFrame
  repeat' first
    | with_reducible rfl
    | ((conv => lhs; arg 1; arg 25); exact rfl)
    | with_reducible refine (shape_foldl _ (fun _ _ => ?_) _ _).trans ?_
    | (with_reducible first | refine (State.modTime_shape ..).trans ?_ | refine (State.netLoss_shape ..).trans ?_)

theorem State.deliverUnit_shape (s : State) (scene len : Nat) : (State.deliverUnit s scene len).shape = s.shape := rfl

theorem State.passUnit_shape (s : State) (f : Flow) (cause : Nat) : FstShape (State.passUnit s f cause) s.shape := by
  unfold State.passUnit
  repeat' first
    | with_reducible rfl
    | (with_reducible first | refine (State.deliverUnit_shape ..).trans ?_)
    | split
    | with_reducible refine fstShape_mk ?_

theorem State.passUnits_shape (s : State) (f : Flow) (cause : Nat) (p0 : Nat) : FstShape (State.passUnits s f cause p0) s.shape := by
  induction p0 generalizing s f cause with
  | zero => rfl
  | succ n ih =>
    unfold State.passUnits
    repeat' first
      | with_reducible rfl
      | with_reducible refine (ih ..).trans ?_
      | (with_reducible first | refine (State.passUnit_shape ..).trans ?_)
      | with_reducible refine fstShape_eq ?_

theorem State.drainUnits_shape (s : State) (f : Flow) (p0 : Nat) : FstShape (State.drainUnits s f p0) s.shape := by
  induction p0 generalizing s f with
  | zero => rfl
  | succ n ih =>
    unfold State.drainUnits
    repeat' first
      | with_reducible rfl
      | with_reducible refine (ih ..).trans ?_
      | (with_reducible first | refine (State.passUnit_shape ..).trans ?_)
      | with_reducible refine fstShape_eq ?_
      | split
      | with_reducible refine fstShape_mk ?_

theorem State.flowDatagram_shape (s : State) (f : Flow) (d : Udp) : (State.flowDatagram s f d).shape = s.shape := by
  unfold State.flowDatagram
  repeat' first
    | with_reducible rfl
    | (with_reducible first | refine (State.modFlow_shape ..).trans ?_ | refine (State.netLoss_shape ..).trans ?_ | refine (State.passUnits_shape ..).trans ?_ | refine (State.drainUnits_shape ..).trans ?_)
    | with_reducible refine fstShape_eq ?_
    | ((conv => arg 1; arg 1); split)
    | (extract_lets +onlyGivenNames x; clear_value (e : x = _); first | (subst e))

theorem execUdpDatagram_shape (port : Nat) (d : Udp) (s : State) : Keeps s (execUdpDatagram port d s) := by
  unfold execUdpDatagram
  repeat' first
    | with_reducible rfl
    | with_reducible assumption
    | with_reducible refine keeps_next ?_
    | (with_reducible first | refine (State.modNet_shape ..).trans ?_ | refine (State.flowDatagram_shape ..).trans ?_)
    | ((conv => arg 1; arg 1); split)
    | (extract_lets +onlyGivenNames x; clear_value (e : x = _); first | (subst e))

theorem execReassemblyTimeout_shape (flow unit_ : Nat) (s : State) : Keeps s (execReassemblyTimeout flow unit_ s) := by
  unfold execReassemblyTimeout
  repeat' first
    | with_reducible rfl
    | with_reducible refine keeps_next ?_
    | (with_reducible first | refine (State.advanceTo_shape ..).trans ?_ | refine (State.modFlow_shape ..).trans ?_ | refine (State.netLoss_shape ..).trans ?_ | refine (State.drainUnits_shape ..).trans ?_)
    | with_reducible refine fstShape_eq ?_
    | ((conv => arg 1; arg 1); split)

/-! ### EncRows -/

theorem State.encDisable_shape (s : State) (n : Nat) : (State.encDisable s n).shape = s.shape := by
  unfold State.encDisable
  repeat' first
    | with_reducible rfl
    | (with_reducible first | refine (State.unreserve_shape ..).trans ?_ | refine (State.modEnc_shape ..).trans ?_ | refine (State.encDropRunning_shape ..).trans ?_)

theorem State.encChanged_shape (s : State) (n : Nat) (size other : Bool) : (State.encChanged s n size other).shape = s.shape := by
  unfold State.encChanged
  repeat' first
    | with_reducible rfl
    | with_reducible assumption
    | (with_reducible first | refine (State.modEnc_shape ..).trans ?_ | refine (State.encAllot_shape ..).trans ?_)
    | ((conv => lhs; arg 1; arg 1); split)
    | (extract_lets +onlyGivenNames x; clear_value (e : x = _); first | (subst e))

theorem State.encBegin_shape (s : State) (n : Nat) (params : List Byte) : (State.encBegin s n params).shape = s.shape := by
  unfold State.encBegin
  repeat' first
    | with_reducible rfl
    | with_reducible assumption
    | (with_reducible first | refine (State.modEnc_shape ..).trans ?_ | refine (State.encRecord_shape ..).trans ?_ | refine (State.encPictureEnd_shape ..).trans ?_)
    | with_reducible refine fstShape_eq ?_
    | ((conv => lhs; arg 1; arg 1); split)
    | (extract_lets +onlyGivenNames x; clear_value (e : x = _); first | (subst e))

theorem execEncPictureDue_shape (n : Nat) (params : List Byte) (s : State) : Keeps s (execEncPictureDue n params s) := by
  unfold execEncPictureDue
  repeat' first
    | with_reducible rfl
    | with_reducible refine keeps_next ?_
    | (with_reducible first | refine (State.modEnc_shape ..).trans ?_ | refine (State.encEvent_shape ..).trans ?_ | refine (State.encBegin_shape ..).trans ?_)
    | ((conv => lhs; arg 1; arg 1); split)
    | (extract_lets +onlyGivenNames x; clear_value (e : x = _); first | (subst e))

theorem execEncSliceComplete_shape (n : Nat) (data : List Byte) (qp fallback : Nat) (bp : Bool) (s : State) : Keeps s (execEncSliceComplete n data qp fallback bp s) := by
  unfold execEncSliceComplete
  repeat' first
    | with_reducible rfl
    | with_reducible refine keeps_next ?_
    | (with_reducible first | refine (State.modEnc_shape ..).trans ?_ | refine (State.encRecord_shape ..).trans ?_ | refine (State.encPictureEnd_shape ..).trans ?_)
    | with_reducible refine fstShape_eq ?_
    | ((conv => arg 1; arg 1); split)
    | (extract_lets +onlyGivenNames x; clear_value (e : x = _); first | (subst e))

theorem State.encFrame_shape (s : State) : (State.encFrame s).shape = s.shape := rfl

theorem encRingBody_shape (c : Cmd) (s : State) : RanShape (encRingBody c s) s.shape := by
  unfold encRingBody
  repeat' first
    | with_reducible rfl
    | (with_reducible first | refine (refuse_shape ..).trans ?_ | refine (answer_shape ..).trans ?_ | refine (State.modEnc_shape ..).trans ?_)
    | ((conv => lhs; arg 1; arg 1); split)
    | (extract_lets +onlyGivenNames x; clear_value (e : x = _); first | (subst e))

theorem execEncRing_shape (c : Cmd) (s : State) : Keeps s (execEncRing c s) := by
  unfold execEncRing
  repeat' first
    | with_reducible rfl
    | with_reducible refine keeps_next ?_
    | with_reducible refine hostCmd_shape _ _ _ _ _ (fun _ _ => ?_)
    | (with_reducible first | refine (encRingBody_shape ..).trans ?_)

theorem encReleaseBody_shape (c : Cmd) (s : State) : RanShape (encReleaseBody c s) s.shape := by
  unfold encReleaseBody
  repeat' first
    | with_reducible rfl
    | (with_reducible first | refine (refuse_shape ..).trans ?_ | refine (answer_shape ..).trans ?_ | refine (State.modEnc_shape ..).trans ?_)
    | ((conv => lhs; arg 1; arg 1); split)
    | (extract_lets +onlyGivenNames x; clear_value (e : x = _); first | (subst e))

theorem execEncRelease_shape (c : Cmd) (s : State) : Keeps s (execEncRelease c s) := by
  unfold execEncRelease
  repeat' first
    | with_reducible rfl
    | with_reducible refine keeps_next ?_
    | with_reducible refine hostCmd_shape _ _ _ _ _ (fun _ _ => ?_)
    | (with_reducible first | refine (encReleaseBody_shape ..).trans ?_)

theorem encIdrBody_shape (c : Cmd) (s : State) : RanShape (encIdrBody c s) s.shape := by
  unfold encIdrBody
  repeat' first
    | with_reducible rfl
    | (with_reducible first | refine (refuse_shape ..).trans ?_ | refine (answer_shape ..).trans ?_ | refine (State.modEnc_shape ..).trans ?_)
    | ((conv => lhs; arg 1; arg 1); split)
    | (extract_lets +onlyGivenNames x; clear_value (e : x = _); first | (subst e))

theorem execEncIdr_shape (c : Cmd) (s : State) : Keeps s (execEncIdr c s) := by
  unfold execEncIdr
  repeat' first
    | with_reducible rfl
    | with_reducible refine keeps_next ?_
    | with_reducible refine hostCmd_shape _ _ _ _ _ (fun _ _ => ?_)
    | (with_reducible first | refine (encIdrBody_shape ..).trans ?_)

theorem execEncStatus_shape (c : Cmd) (s : State) : Keeps s (execEncStatus c s) := by
  unfold execEncStatus
  repeat' first
    | with_reducible rfl
    | with_reducible refine keeps_next ?_
    | with_reducible refine hostCmd_shape _ _ _ _ _ (fun _ _ => ?_)
    | (with_reducible first | refine (answer_shape ..).trans ?_)

theorem execMonHpdRise_shape (sinkMax : Nat) (s : State) : Keeps s (execMonHpdRise sinkMax s) := by
  unfold execMonHpdRise
  repeat' first
    | with_reducible rfl
    | with_reducible refine keeps_next ?_
    | (with_reducible first | refine (State.modMon_shape ..).trans ?_ | refine (State.monIdleNow_shape ..).trans ?_ | refine (State.monTrain_shape ..).trans ?_)

theorem execIrqHpd_shape (lost : Bool) (s : State) : Keeps s (execIrqHpd lost s) := by
  unfold execIrqHpd
  repeat' first
    | with_reducible rfl
    | with_reducible refine keeps_next ?_
    | (with_reducible first | refine (State.monIdleNow_shape ..).trans ?_ | refine (State.monTrain_shape ..).trans ?_)
    | ((conv => lhs; arg 1; arg 1); split)

theorem execMonLinkTrainingEnd_shape (best : Option Nat) (s : State) : Keeps s (execMonLinkTrainingEnd best s) := by
  unfold execMonLinkTrainingEnd
  repeat' first
    | with_reducible rfl
    | with_reducible refine keeps_next ?_
    | (with_reducible first | refine (State.modMon_shape ..).trans ?_ | refine (State.monLink_shape ..).trans ?_)
    | ((conv => arg 1; arg 1); split)
    | (extract_lets +onlyGivenNames x; clear_value (e : x = _); first | (subst e))

theorem execMonStatus_shape (c : Cmd) (s : State) : Keeps s (execMonStatus c s) := by
  unfold execMonStatus
  repeat' first
    | with_reducible rfl
    | with_reducible refine keeps_next ?_
    | with_reducible refine hostCmd_shape _ _ _ _ _ (fun _ _ => ?_)
    | (with_reducible first | refine (answer_shape ..).trans ?_)

theorem monRetrainBody_shape (u00 : Cmd) (s : State) : RanShape (monRetrainBody u00 s) s.shape := by
  unfold monRetrainBody
  repeat' first
    | with_reducible rfl
    | (with_reducible first | refine (refuse_shape ..).trans ?_ | refine (answer_shape ..).trans ?_ | refine (State.monIdleNow_shape ..).trans ?_ | refine (State.monTrain_shape ..).trans ?_ | refine (State.modSaf_shape ..).trans ?_)
    | ((conv => lhs; arg 1; arg 1); split)

theorem execMonRetrain_shape (c : Cmd) (s : State) : Keeps s (execMonRetrain c s) := by
  unfold execMonRetrain
  repeat' first
    | with_reducible rfl
    | with_reducible refine keeps_next ?_
    | with_reducible refine hostCmd_shape _ _ _ _ _ (fun _ _ => ?_)
    | (with_reducible first | refine (monRetrainBody_shape ..).trans ?_)

/-! ### CmpRows -/

theorem State.modComp_shape (s : State) (f : Comp → Comp) : (State.modComp s f).shape = s.shape := rfl

theorem compStatusBody_shape (u00 : Cmd) (s : State) : RanShape (compStatusBody u00 s) s.shape := rfl

theorem execCompStatus_shape (c : Cmd) (s : State) : Keeps s (execCompStatus c s) := by
  unfold execCompStatus
  repeat' first
    | with_reducible rfl
    | with_reducible refine keeps_next ?_
    | with_reducible refine hostCmd_shape _ _ _ _ _ (fun _ _ => ?_)
    | (with_reducible first | refine (compStatusBody_shape ..).trans ?_)

theorem cmpJobBody_shape (c : Cmd) (s : State) : RanShape (cmpJobBody c s) s.shape := by
  unfold cmpJobBody
  repeat' first
    | with_reducible rfl
    | with_reducible assumption
    | (with_reducible first | refine (refuse_shape ..).trans ?_ | refine (State.addObj_shape ..).trans ?_ | refine (State.powerSync_shape ..).trans ?_ | refine (State.modComp_shape ..).trans ?_)
    | ((conv => lhs; arg 1; arg 1); split)
    | (extract_lets +onlyGivenNames x; clear_value (e : x = _); first | (with_reducible refine ran_cut x ?_ (fun _ => ?_); (subst e); rotate_left; clear e) | (subst e))
    | with_reducible refine ranShape_mk ?_

theorem execCmpJob_shape (c : Cmd) (s : State) : Keeps s (execCmpJob c s) := by
  unfold execCmpJob
  repeat' first
    | with_reducible rfl
    | with_reducible refine keeps_next ?_
    | with_reducible refine hostCmd_shape _ _ _ _ _ (fun _ _ => ?_)
    | (with_reducible first | refine (cmpJobBody_shape ..).trans ?_)

theorem State.closeCmpJob_shape (s : State) (j : CmpJob) (status : Nat) (payload : List Word) : (State.closeCmpJob s j status payload).shape = s.shape := by
  unfold State.closeCmpJob
  repeat' first
    | with_reducible rfl
    | (with_reducible first | refine (State.endCmpJob_shape ..).trans ?_ | refine (State.powerSync_shape ..).trans ?_)

theorem State.jobPaced_shape (s : State) (n : Nat) : (State.jobPaced s n).shape = s.shape := by
  unfold State.jobPaced
  repeat' first
    | with_reducible rfl
    | (with_reducible first | refine (State.advanceTo_shape ..).trans ?_)

theorem execCmpJobOutputComplete_shape (src : List Byte) (s : State) : Keeps s (execCmpJobOutputComplete src s) := by
  unfold execCmpJobOutputComplete
  repeat' first
    | with_reducible rfl
    | with_reducible assumption
    | with_reducible refine keeps_next ?_
    | (with_reducible first | refine (State.modComp_shape ..).trans ?_ | refine (State.closeCmpJob_shape ..).trans ?_ | refine (State.jobPaced_shape ..).trans ?_)
    | ((conv => arg 1; arg 1); split)
    | (extract_lets +onlyGivenNames x; clear_value (e : x = _); first | (subst e))

theorem execCmpJobCopyComplete_shape (s : State) : Keeps s (execCmpJobCopyComplete s) := by
  unfold execCmpJobCopyComplete
  repeat' first
    | with_reducible rfl
    | with_reducible refine keeps_next ?_
    | (with_reducible first | refine (State.emit_shape ..).trans ?_ | refine (State.closeCmpJob_shape ..).trans ?_ | refine (State.jobPaced_shape ..).trans ?_)
    | ((conv => arg 1; arg 1); split)

theorem cmpCancelBody_shape (c : Cmd) (s : State) : RanShape (cmpCancelBody c s) s.shape := by
  unfold cmpCancelBody
  repeat' first
    | with_reducible rfl
    | (with_reducible first | refine (refuse_shape ..).trans ?_ | refine (answer_shape ..).trans ?_ | refine (State.closeCmpJob_shape ..).trans ?_)
    | split

theorem execCmpCancel_shape (c : Cmd) (s : State) : Keeps s (execCmpCancel c s) := by
  unfold execCmpCancel
  repeat' first
    | with_reducible rfl
    | with_reducible refine keeps_next ?_
    | with_reducible refine hostCmd_shape _ _ _ _ _ (fun _ _ => ?_)
    | (with_reducible first | refine (cmpCancelBody_shape ..).trans ?_)

theorem cmpStatusBody_shape (c : Cmd) (s : State) : RanShape (cmpStatusBody c s) s.shape := by
  unfold cmpStatusBody
  repeat' first
    | with_reducible rfl
    | (with_reducible first | refine (refuse_shape ..).trans ?_ | refine (answer_shape ..).trans ?_ | refine (State.modComp_shape ..).trans ?_)
    | ((conv => lhs; arg 1; arg 1); split)

theorem execCmpStatus_shape (c : Cmd) (s : State) : Keeps s (execCmpStatus c s) := by
  unfold execCmpStatus
  repeat' first
    | with_reducible rfl
    | with_reducible refine keeps_next ?_
    | with_reducible refine hostCmd_shape _ _ _ _ _ (fun _ _ => ?_)
    | (with_reducible first | refine (cmpStatusBody_shape ..).trans ?_)

/-! ### PanelOps -/

theorem State.askRebuild_shape (s : State) (job : Option Nat) : (State.askRebuild s job).shape = s.shape := by
  unfold State.askRebuild
  repeat' first
    | ((conv => lhs; arg 1; arg 25); exact rfl)
    | split

theorem State.modRegion_shape (s : State) (job : Nat) (f : Region → Region) : (State.modRegion s job f).shape = s.shape := rfl

theorem State.panelParasol_shape (s : State) (kind tiles : Nat) : (State.panelParasol s kind tiles).shape = s.shape := by
  unfold State.panelParasol
  repeat' first
    | with_reducible rfl
    | (with_reducible first | refine (State.raise_shape ..).trans ?_)

theorem State.wakePort_shape (s : State) (t : Nat) : (State.wakePort s t).shape = s.shape := by
  unfold State.wakePort
  repeat' first
    | with_reducible rfl
    | (with_reducible first | refine (State.modPort_shape ..).trans ?_ | refine (State.toTrain_shape ..).trans ?_)
    | ((conv => lhs; arg 1; arg 1); split)
    | (extract_lets +onlyGivenNames x; clear_value (e : x = _); first | (subst e))

theorem State.dropSetRequest_shape (s : State) : (State.dropSetRequest s).shape = s.shape := by
  unfold State.dropSetRequest
  repeat' first
    | with_reducible rfl
    | ((conv => lhs; arg 1; arg 25); exact rfl)
    | (with_reducible first | refine (State.endJobs_shape ..).trans ?_)
    | ((conv => lhs; arg 1; arg 1); split)

theorem State.toFsp0_shape (s : State) : (State.toFsp0 s).shape = s.shape := by
  unfold State.toFsp0
  repeat' first
    | with_reducible rfl
    | ((conv => lhs; arg 1; arg 25); exact rfl)
    | (with_reducible first | refine (State.setpointEvent_shape ..).trans ?_)
    | ((conv => lhs; arg 1; arg 1); split)

theorem State.wakeSetpoint_shape (s : State) : (State.wakeSetpoint s).shape = s.shape := by
  unfold State.wakeSetpoint
  repeat' first
    | with_reducible rfl
    | (with_reducible first | refine (State.dropSetRequest_shape ..).trans ?_ | refine (State.toFsp0_shape ..).trans ?_)

theorem State.wakeNow_shape (s : State) : (State.wakeNow s).shape = s.shape := by
  unfold State.wakeNow
  repeat' first
    | with_reducible rfl
    | ((conv => lhs; arg 1; arg 25); with_reducible refine (shape_mk ..).trans ?_; simp only [↓shape_mk, ↓shape_pending, ↓shape_mb, ↓shape_ports, ↓shape_tiles, ↓shape_chans, ↓shape_clusters, ↓shape_cores, ↓shape_cvu, ↓shape_compares, ↓shape_latches, ↓shape_tsq, ↓shape_netPorts, updAt_length])
    | with_reducible refine (shape_foldl _ (fun _ _ => ?_) _ _).trans ?_
    | (with_reducible first | refine (State.endJobs_shape ..).trans ?_ | refine (State.modPort_shape ..).trans ?_ | refine (State.modTile_shape ..).trans ?_ | refine (State.stopGrid_shape ..).trans ?_ | refine (State.selfRefreshGo_shape ..).trans ?_ | refine (State.enter_shape ..).trans ?_ | refine (State.evaluate_shape ..).trans ?_ | refine (State.endRegion_shape ..).trans ?_ | refine (State.panelParasol_shape ..).trans ?_ | refine (State.wakePort_shape ..).trans ?_ | refine (State.wakeSetpoint_shape ..).trans ?_)
    | ((conv => lhs; arg 1; arg 1); split)

theorem State.wakeIfDue_shape (s : State) : (State.wakeIfDue s).shape = s.shape := by
  unfold State.wakeIfDue
  repeat' first
    | with_reducible rfl
    | (with_reducible first | refine (State.endJobs_shape ..).trans ?_ | refine (State.selfRefreshGo_shape ..).trans ?_ | refine (State.wakeNow_shape ..).trans ?_)
    | ((conv => lhs; arg 1; arg 1); split)

/-! ### LinkRows -/

theorem State.countHcrc_shape (s : State) (t : Nat) : (State.countHcrc s t).shape = s.shape := by
  unfold State.countHcrc
  repeat' first
    | with_reducible rfl
    | (with_reducible first | refine (State.modPort_shape ..).trans ?_)

theorem State.checkCaps_shape (s : State) (t : Nat) : (State.checkCaps s t).shape = s.shape := by
  unfold State.checkCaps
  repeat' first
    | with_reducible rfl
    | (with_reducible first | refine (State.raise_shape ..).trans ?_ | refine (State.modPort_shape ..).trans ?_)
    | split

theorem State.claimTile_shape (s : State) (t ownEpoch : Nat) : (State.claimTile s t ownEpoch).shape = s.shape := by
  unfold State.claimTile
  repeat' first
    | with_reducible rfl
    | ((conv => lhs; arg 1; arg 25); with_reducible refine (shape_mk ..).trans ?_; simp only [↓shape_mk, ↓shape_pending, ↓shape_mb, ↓shape_ports, ↓shape_tiles, ↓shape_chans, ↓shape_clusters, ↓shape_cores, ↓shape_cvu, ↓shape_compares, ↓shape_latches, ↓shape_tsq, ↓shape_netPorts, updAt_length])
    | (with_reducible first | refine (State.modPort_shape ..).trans ?_)
    | ((conv => lhs; arg 1; arg 1); split)

theorem State.takeCaps_shape (s : State) (t : Nat) (c : Caps) : (State.takeCaps s t c).shape = s.shape := by
  unfold State.takeCaps
  repeat' first
    | with_reducible rfl
    | with_reducible assumption
    | (with_reducible first | refine (State.modPort_shape ..).trans ?_ | refine (State.modTile_shape ..).trans ?_ | refine (State.portGo_shape ..).trans ?_ | refine (State.toTrain_shape ..).trans ?_ | refine (State.sendHeartbeat_shape ..).trans ?_ | refine (State.decideShow_shape ..).trans ?_ | refine (State.checkGeomMatch_shape ..).trans ?_ | refine (State.evaluate_shape ..).trans ?_ | refine (State.checkCaps_shape ..).trans ?_ | refine (State.claimTile_shape ..).trans ?_)
    | ((conv => lhs; arg 1; arg 1); split)
    | (extract_lets +onlyGivenNames x; clear_value (e : x = _); first | (subst e))

theorem execCapsRequest_shape (tile : Nat) (s : State) : Keeps s (execCapsRequest tile s) := by
  unfold execCapsRequest
  repeat' first
    | with_reducible rfl
    | with_reducible refine keeps_next ?_
    | (with_reducible first | refine (State.sendCaps_shape ..).trans ?_)
    | ((conv => lhs; arg 1; arg 1); split)
    | (extract_lets +onlyGivenNames x; clear_value (e : x = _); first | (subst e))

theorem State.capsPacket_shape (s : State) (t w0 w1 w2 : Nat) : (State.capsPacket s t w0 w1 w2).shape = s.shape := by
  unfold State.capsPacket
  repeat' first
    | with_reducible rfl
    | (with_reducible first | refine (State.countHcrc_shape ..).trans ?_ | refine (State.takeCaps_shape ..).trans ?_)
    | ((conv => lhs; arg 1; arg 1); split)
    | (extract_lets +onlyGivenNames x; clear_value (e : x = _); first | (subst e))

theorem execSignalDetect_shape (tile : Nat) (s : State) : Keeps s (execSignalDetect tile s) := by
  unfold execSignalDetect
  repeat' first
    | with_reducible rfl
    | with_reducible refine keeps_next ?_
    | (with_reducible first | refine (State.modPort_shape ..).trans ?_ | refine (State.toTrain_shape ..).trans ?_)
    | ((conv => lhs; arg 1; arg 1); split)
    | (extract_lets +onlyGivenNames x; clear_value (e : x = _); first | (subst e))

theorem execDetectRetryWait_shape (tile : Nat) (s : State) : Keeps s (execDetectRetryWait tile s) := by
  unfold execDetectRetryWait
  repeat' first
    | with_reducible rfl
    | with_reducible assumption
    | with_reducible refine keeps_next ?_
    | (with_reducible first | refine (State.advanceTo_shape ..).trans ?_ | refine (State.modPort_shape ..).trans ?_ | refine (State.toTrain_shape ..).trans ?_)
    | ((conv => lhs; arg 1; arg 1); split)
    | (extract_lets +onlyGivenNames x; clear_value (e : x = _); first | (subst e))

theorem State.portExpires_shape (s : State) (t : Nat) : (State.portExpires s t).shape = s.shape := by
  unfold State.portExpires
  repeat' first
    | with_reducible rfl
    | (with_reducible first | refine (State.portReturn_shape ..).trans ?_ | refine (State.wakeIfDue_shape ..).trans ?_)

theorem execTrainComplete_shape (tile : Nat) (laneOrder : Bool) (s : State) : Keeps s (execTrainComplete tile laneOrder s) := by
  unfold execTrainComplete
  repeat' first
    | with_reducible rfl
    | with_reducible refine keeps_next ?_
    | (with_reducible first | refine (State.modPort_shape ..).trans ?_ | refine (State.portGo_shape ..).trans ?_ | refine (State.portReturn_shape ..).trans ?_ | refine (State.portExpires_shape ..).trans ?_)
    | ((conv => lhs; arg 1; arg 1); split)

theorem State.wakeActive_shape (s : State) (t : Nat) : (State.wakeActive s t).shape = s.shape := by
  unfold State.wakeActive
  repeat' first
    | with_reducible rfl
    | (with_reducible first | refine (State.modPort_shape ..).trans ?_ | refine (State.modTile_shape ..).trans ?_ | refine (State.portGo_shape ..).trans ?_ | refine (State.sendHeartbeat_shape ..).trans ?_)

theorem execLockComplete_shape (tile : Nat) (s : State) : Keeps s (execLockComplete tile s) := by
  unfold execLockComplete
  repeat' first
    | with_reducible rfl
    | with_reducible refine keeps_next ?_
    | (with_reducible first | refine (State.portGo_shape ..).trans ?_ | refine (State.sendCaps_shape ..).trans ?_ | refine (State.portExpires_shape ..).trans ?_ | refine (State.wakeActive_shape ..).trans ?_)
    | ((conv => lhs; arg 1; arg 1); split)
    | (extract_lets +onlyGivenNames x; clear_value (e : x = _); first | (subst e))

theorem execPortStateTimeout_shape (tile : Nat) (s : State) : Keeps s (execPortStateTimeout tile s) := by
  unfold execPortStateTimeout
  repeat' first
    | with_reducible rfl
    | with_reducible refine keeps_next ?_
    | (with_reducible first | refine (State.advanceTo_shape ..).trans ?_ | refine (State.portExpires_shape ..).trans ?_)
    | ((conv => arg 1; arg 1); split)

theorem execBitslipSearch_shape (tile lane : Nat) (offsets : List SlipCount) (s : State) : Keeps s (execBitslipSearch tile lane offsets s) := by
  unfold execBitslipSearch
  repeat' first
    | with_reducible rfl
    | with_reducible refine keeps_next ?_
    | (with_reducible first | refine (State.advanceTo_shape ..).trans ?_ | refine (State.raise_shape ..).trans ?_ | refine (State.portReturn_shape ..).trans ?_)
    | ((conv => arg 1; arg 1); split)
    | (extract_lets +onlyGivenNames x; clear_value (e : x = _); first | (subst e))

theorem execStatusTimeout_shape (tile : Nat) (s : State) : Keeps s (execStatusTimeout tile s) := by
  unfold execStatusTimeout
  repeat' first
    | with_reducible rfl
    | with_reducible refine keeps_next ?_
    | (with_reducible first | refine (State.advanceTo_shape ..).trans ?_ | refine (State.toTrain_shape ..).trans ?_ | refine (State.wakeIfDue_shape ..).trans ?_)
    | ((conv => lhs; arg 1; arg 1); split)

theorem execL1WakeActive_shape (tile : Nat) (s : State) : Keeps s (execL1WakeActive tile s) := by
  unfold execL1WakeActive
  repeat' first
    | with_reducible rfl
    | with_reducible refine keeps_next ?_
    | (with_reducible first | refine (State.wakeActive_shape ..).trans ?_)
    | ((conv => lhs; arg 1; arg 1); split)

theorem State.offDone_shape (s : State) (t : Nat) : (State.offDone s t).shape = s.shape := by
  unfold State.offDone
  repeat' first
    | with_reducible rfl
    | (with_reducible first | refine (State.powerUp_shape ..).trans ?_ | refine (State.powerLow_shape ..).trans ?_ | refine (State.powerSync_shape ..).trans ?_ | refine (State.shutdownStep_shape ..).trans ?_)
    | ((conv => lhs; arg 1; arg 1); split)

theorem State.changeClear_shape (s : State) (t : Nat) : (State.changeClear s t).shape = s.shape := by
  unfold State.changeClear
  repeat' first
    | with_reducible rfl
    | ((conv => lhs; arg 1; arg 25); exact rfl)
    | split

theorem State.changeNext_shape (s : State) : (State.changeNext s).shape = s.shape := by
  unfold State.changeNext
  repeat' first
    | with_reducible rfl
    | ((conv => lhs; arg 1; arg 25); exact rfl)
    | with_reducible refine (shape_foldl _ (fun _ _ => ?_) _ _).trans ?_
    | (with_reducible first | refine (State.modTile_shape ..).trans ?_ | refine (State.toTrain_shape ..).trans ?_ | refine (State.sendPower_shape ..).trans ?_)
    | split

theorem State.acked_shape (s : State) (t : Nat) (a : AckWait) (r : Nat) : (State.acked s t a r).shape = s.shape := by
  unfold State.acked
  repeat' first
    | with_reducible rfl
    | (with_reducible first | refine (State.modTile_shape ..).trans ?_ | refine (State.portGo_shape ..).trans ?_ | refine (State.toTrain_shape ..).trans ?_ | refine (State.sendPower_shape ..).trans ?_ | refine (State.panelPower_shape ..).trans ?_ | refine (State.reconcileFailed_shape ..).trans ?_ | refine (State.powerSync_shape ..).trans ?_ | refine (State.handoverStep_shape ..).trans ?_ | refine (State.evaluate_shape ..).trans ?_ | refine (State.wakeIfDue_shape ..).trans ?_ | refine (State.offDone_shape ..).trans ?_ | refine (State.changeClear_shape ..).trans ?_ | refine (State.changeNext_shape ..).trans ?_)
    | split

theorem State.dropAck_shape (s : State) (t : Nat) (a : AckWait) : (State.dropAck s t a).shape = s.shape := by
  unfold State.dropAck
  repeat' first
    | with_reducible rfl
    | (with_reducible first | refine (State.modPort_shape ..).trans ?_)

theorem State.ackPacket_shape (s : State) (t w0 : Nat) : (State.ackPacket s t w0).shape = s.shape := by
  unfold State.ackPacket
  repeat' first
    | with_reducible rfl
    | (with_reducible first | refine (State.countHcrc_shape ..).trans ?_ | refine (State.acked_shape ..).trans ?_ | refine (State.dropAck_shape ..).trans ?_)
    | split

theorem State.ackLost_shape (s : State) (t : Nat) (a : AckWait) : (State.ackLost s t a).shape = s.shape := by
  unfold State.ackLost
  repeat' first
    | with_reducible rfl
    | (with_reducible first | refine (State.advanceTo_shape ..).trans ?_ | refine (State.raise_shape ..).trans ?_ | refine (State.acked_shape ..).trans ?_ | refine (State.dropAck_shape ..).trans ?_)

theorem execAckTimeout_shape (tile : Nat) (s : State) : Keeps s (execAckTimeout tile s) := by
  unfold execAckTimeout
  repeat' first
    | with_reducible rfl
    | with_reducible refine keeps_next ?_
    | (with_reducible first | refine (State.ackLost_shape ..).trans ?_)
    | ((conv => arg 1; arg 1); split)

theorem execDischargeTimeout_shape (tile : Nat) (s : State) : Keeps s (execDischargeTimeout tile s) := by
  unfold execDischargeTimeout
  repeat' first
    | with_reducible rfl
    | with_reducible refine keeps_next ?_
    | (with_reducible first | refine (State.ackLost_shape ..).trans ?_)
    | ((conv => arg 1; arg 1); split)

theorem execReconcileRetry_shape (tile : Nat) (s : State) : Keeps s (execReconcileRetry tile s) := by
  unfold execReconcileRetry
  repeat' first
    | with_reducible rfl
    | with_reducible refine keeps_next ?_
    | (with_reducible first | refine (State.reconcile_shape ..).trans ?_)
    | ((conv => lhs; arg 1; arg 1); split)

theorem execTilePwrEnStagger_shape (s : State) : Keeps s (execTilePwrEnStagger s) := by
  unfold execTilePwrEnStagger
  repeat' first
    | with_reducible rfl
    | with_reducible refine keeps_next ?_
    | (with_reducible first | refine (State.advanceTo_shape ..).trans ?_ | refine (State.powerUp_shape ..).trans ?_ | refine (State.powerSync_shape ..).trans ?_)
    | ((conv => arg 1; arg 1); split)
    | (extract_lets +onlyGivenNames x; clear_value (e : x = _); first | (subst e))

theorem execBootTileTimeout_shape (tile : Nat) (s : State) : Keeps s (execBootTileTimeout tile s) := by
  unfold execBootTileTimeout
  repeat' first
    | with_reducible rfl
    | with_reducible refine keeps_next ?_
    | (with_reducible first | refine (State.advanceTo_shape ..).trans ?_ | refine (State.modTile_shape ..).trans ?_ | refine (State.evaluate_shape ..).trans ?_)
    | ((conv => lhs; arg 1; arg 1); split)

theorem State.tileReact_shape (s : State) (t : Nat) : (State.tileReact s t).shape = s.shape := by
  unfold State.tileReact
  repeat' first
    | ((conv => lhs; arg 1; arg 25); exact rfl)
    | (with_reducible first | refine (State.modTile_shape ..).trans ?_ | refine (State.sendPower_shape ..).trans ?_)

theorem State.fmMismatch_shape (s : State) (t k context got want : Nat) : (State.fmMismatch s t k context got want).shape = s.shape := by
  unfold State.fmMismatch
  repeat' first
    | with_reducible assumption
    | ((conv => lhs; arg 1; arg 25); exact rfl)
    | (with_reducible first | refine (State.raise_shape ..).trans ?_ | refine (State.tileReact_shape ..).trans ?_)
    | ((conv => lhs; arg 1; arg 1); split)
    | (extract_lets +onlyGivenNames x; clear_value (e : x = _); first | (subst e))

theorem State.takeOwner_shape (s : State) (t owner ownEpoch : Nat) (conflict : Bool) : (State.takeOwner s t owner ownEpoch conflict).shape = s.shape := by
  unfold State.takeOwner
  repeat' first
    | with_reducible rfl
    | with_reducible assumption
    | (with_reducible first | refine (State.raise_shape ..).trans ?_ | refine (State.modPort_shape ..).trans ?_)
    | ((conv => lhs; arg 1; arg 1); split)
    | (extract_lets +onlyGivenNames x; clear_value (e : x = _); first | (subst e))

theorem State.takeCounts_shape (s : State) (t frame : Nat) (n : TileCounts) : (State.takeCounts s t frame n).shape = s.shape := by
  unfold State.takeCounts
  repeat' first
    | with_reducible rfl
    | with_reducible assumption
    | (with_reducible first | refine (State.raise_shape ..).trans ?_ | refine (State.modPort_shape ..).trans ?_ | refine (State.modTile_shape ..).trans ?_)
    | (extract_lets +onlyGivenNames x; clear_value (e : x = _); first | (subst e))
    | split

theorem State.checkFm_shape (s : State) (t frame sf fm : Nat) : (State.checkFm s t frame sf fm).shape = s.shape := by
  unfold State.checkFm
  repeat' first
    | with_reducible rfl
    | (with_reducible first | refine (State.fmMismatch_shape ..).trans ?_)
    | (extract_lets +onlyGivenNames x; clear_value (e : x = _); first | (subst e))
    | split

theorem State.takeTileState_shape (s : State) (t old st frame : Nat) : (State.takeTileState s t old st frame).shape = s.shape := by
  unfold State.takeTileState
  repeat' first
    | with_reducible rfl
    | with_reducible assumption
    | (with_reducible first | refine (State.raise_shape ..).trans ?_ | refine (State.modTile_shape ..).trans ?_ | refine (State.reconcile_shape ..).trans ?_)
    | ((conv => lhs; arg 1; arg 1); split)
    | (extract_lets +onlyGivenNames x; clear_value (e : x = _); first | (subst e))

theorem State.standby_shape (s : State) (t : Nat) : (State.standby s t).shape = s.shape := by
  unfold State.standby
  repeat' first
    | with_reducible rfl
    | (with_reducible first | refine (State.sendPower_shape ..).trans ?_)

theorem State.sendRow_shape (s : State) (t tag k code row first : Nat) (blks : List Nat) (rcrc : Nat) : (State.sendRow s t tag k code row first blks rcrc).shape = s.shape := by
  unfold State.sendRow
  repeat' first
    | with_reducible rfl
    | (with_reducible first | refine (State.sendTile_shape ..).trans ?_)

theorem State.sendRegion_shape (s : State) (tag : Nat) (r : Region) : (State.sendRegion s tag r).shape = s.shape := by
  unfold State.sendRegion
  repeat' first
    | with_reducible rfl
    | with_reducible refine (shape_foldl _ (fun _ _ => ?_) _ _).trans ?_
    | (with_reducible first | refine (State.modRegion_shape ..).trans ?_ | refine (State.sendRow_shape ..).trans ?_)
    | ((conv => arg 1; arg 1); split)

theorem State.visitCount_shape (s : State) : (State.visitCount s).shape = s.shape := by
  unfold State.visitCount
  repeat' first
    | with_reducible rfl
    | ((conv => lhs; arg 1; arg 25); exact rfl)
    | ((conv => lhs; arg 1; arg 1); split)
    | (extract_lets +onlyGivenNames x; clear_value (e : x = _); first | (subst e))

theorem State.visitStart_shape (s : State) (t : Nat) (rows : Bool) : (State.visitStart s t rows).shape = s.shape := by
  unfold State.visitStart
  repeat' first
    | with_reducible rfl
    | (with_reducible first | refine (State.modTile_shape ..).trans ?_ | refine (State.sendStart_shape ..).trans ?_ | refine (State.visitCount_shape ..).trans ?_)

theorem State.visitRows_shape (s : State) (t : Nat) : (State.visitRows s t).shape = s.shape := by
  unfold State.visitRows
  repeat' first
    | with_reducible rfl
    | with_reducible refine (shape_foldl _ (fun _ _ => ?_) _ _).trans ?_
    | (with_reducible first | refine (State.standby_shape ..).trans ?_ | refine (State.sendRegion_shape ..).trans ?_ | refine (State.visitStart_shape ..).trans ?_)
    | split

theorem State.visitOver_shape (s : State) (t : Nat) : (State.visitOver s t).shape = s.shape := by
  unfold State.visitOver
  repeat' first
    | with_reducible rfl
    | (with_reducible first | refine (State.standby_shape ..).trans ?_)
    | ((conv => lhs; arg 1; arg 1); split)

theorem State.heartbeatWait_shape (s : State) (t : Nat) : (State.heartbeatWait s t).shape = s.shape := rfl

theorem execHeartbeat_shape (tile : Nat) (s : State) : Keeps s (execHeartbeat tile s) := by
  unfold execHeartbeat
  repeat' first
    | with_reducible rfl
    | with_reducible refine keeps_next ?_
    | (with_reducible first | refine (State.sendHeartbeat_shape ..).trans ?_ | refine (State.visitOver_shape ..).trans ?_ | refine (State.heartbeatWait_shape ..).trans ?_)
    | ((conv => lhs; arg 1; arg 1); split)

theorem State.visitCommit_shape (s : State) (t fm : Nat) : (State.visitCommit s t fm).shape = s.shape := by
  unfold State.visitCommit
  repeat' first
    | with_reducible rfl
    | with_reducible refine (shape_foldl _ (fun _ _ => ?_) _ _).trans ?_
    | (with_reducible first | refine (State.modTile_shape ..).trans ?_ | refine (State.endRegion_shape ..).trans ?_ | refine (State.modRegion_shape ..).trans ?_ | refine (State.panelParasol_shape ..).trans ?_ | refine (State.fmMismatch_shape ..).trans ?_)
    | ((conv => lhs; arg 1; arg 1); split)
    | (extract_lets +onlyGivenNames x; clear_value (e : x = _); first | (subst e))

theorem State.parasolStatus_shape (s : State) (t frame sf fm : Nat) : (State.parasolStatus s t frame sf fm).shape = s.shape := by
  unfold State.parasolStatus
  repeat' first
    | (with_reducible first | refine (State.modTile_shape ..).trans ?_ | refine (State.sendPower_shape ..).trans ?_ | refine (State.fmMismatch_shape ..).trans ?_ | refine (State.standby_shape ..).trans ?_ | refine (State.visitStart_shape ..).trans ?_ | refine (State.visitRows_shape ..).trans ?_ | refine (State.visitCommit_shape ..).trans ?_)
    | ((conv => lhs; arg 1; arg 1); split)
    | simp only [↓shape_clusters, ↓shape_mb, ↓shape_chans, ↓shape_ports, ↓shape_tiles, ↓shape_cores, ↓shape_cvu, shape_eta]

theorem State.takeStatus_shape (s : State) (t w0 w1 w2 : Nat) : (State.takeStatus s t w0 w1 w2).shape = s.shape := by
  unfold State.takeStatus
  repeat' first
    | with_reducible rfl
    | with_reducible assumption
    | ((conv => lhs; arg 1; arg 25); first | exact rfl | assumption)
    | (with_reducible first | refine (State.modPort_shape ..).trans ?_ | refine (State.modTile_shape ..).trans ?_ | refine (State.decideShow_shape ..).trans ?_ | refine (State.switchCheck_shape ..).trans ?_ | refine (State.lostOwnership_shape ..).trans ?_ | refine (State.takeOwner_shape ..).trans ?_ | refine (State.takeCounts_shape ..).trans ?_ | refine (State.checkFm_shape ..).trans ?_ | refine (State.takeTileState_shape ..).trans ?_ | refine (State.standby_shape ..).trans ?_ | refine (State.visitOver_shape ..).trans ?_ | refine (State.parasolStatus_shape ..).trans ?_)
    | (extract_lets +onlyGivenNames x; clear_value (e : x = _); first | (with_reducible refine shape_cut x ?_ (fun _ => ?_); (subst e); rotate_left; clear e) | (subst e))
    | split

theorem State.statusPacket_shape (s : State) (t w0 w1 w2 : Nat) : (State.statusPacket s t w0 w1 w2).shape = s.shape := by
  unfold State.statusPacket
  repeat' first
    | with_reducible rfl
    | (with_reducible first | refine (State.countHcrc_shape ..).trans ?_ | refine (State.takeStatus_shape ..).trans ?_)
    | ((conv => lhs; arg 1; arg 1); split)

theorem State.takePacket_shape (s : State) (t : Nat) (ws : List Nat) : (State.takePacket s t ws).shape = s.shape := by
  unfold State.takePacket
  repeat' first
    | with_reducible rfl
    | (with_reducible first | refine (State.capsPacket_shape ..).trans ?_ | refine (State.ackPacket_shape ..).trans ?_ | refine (State.statusPacket_shape ..).trans ?_)
    | split

theorem State.lockCheck_shape (s : State) (t : Nat) : (State.lockCheck s t).shape = s.shape := by
  unfold State.lockCheck
  repeat' first
    | with_reducible rfl
    | (with_reducible first | refine (State.toTrain_shape ..).trans ?_ | refine (State.wakeIfDue_shape ..).trans ?_)
    | ((conv => lhs; arg 1; arg 1); split)
    | (extract_lets +onlyGivenNames x; clear_value (e : x = _); first | (subst e))

theorem State.receive_shape (s : State) (t : Nat) (rx : List LinkBlock) : (State.receive s t rx).shape = s.shape := by
  unfold State.receive
  repeat' first
    | with_reducible rfl
    | with_reducible refine (shape_foldl _ (fun _ _ => ?_) _ _).trans ?_
    | (with_reducible first | refine (State.modPort_shape ..).trans ?_ | refine (State.takePacket_shape ..).trans ?_ | refine (State.lockCheck_shape ..).trans ?_)
    | ((conv => lhs; arg 1; arg 1); split)
    | (extract_lets +onlyGivenNames x; clear_value (e : x = _); first | (subst e))

theorem execCapsReply_shape (tile : Nat) (rx : List LinkBlock) (s : State) : Keeps s (execCapsReply tile rx s) := by
  unfold execCapsReply
  repeat' first
    | with_reducible rfl
    | with_reducible refine keeps_next ?_
    | (with_reducible first | refine (State.receive_shape ..).trans ?_)

theorem execStatus_shape (tile : Nat) (rx : List LinkBlock) (s : State) : Keeps s (execStatus tile rx s) := by
  unfold execStatus
  repeat' first
    | with_reducible rfl
    | with_reducible refine keeps_next ?_
    | (with_reducible first | refine (State.receive_shape ..).trans ?_)

theorem execAck_shape (tile : Nat) (rx : List LinkBlock) (s : State) : Keeps s (execAck tile rx s) := by
  unfold execAck
  repeat' first
    | with_reducible rfl
    | with_reducible refine keeps_next ?_
    | (with_reducible first | refine (State.receive_shape ..).trans ?_)

theorem execBlockLockLoss_shape (tile : Nat) (rx : List LinkBlock) (s : State) : Keeps s (execBlockLockLoss tile rx s) := by
  unfold execBlockLockLoss
  repeat' first
    | with_reducible rfl
    | with_reducible refine keeps_next ?_
    | (with_reducible first | refine (State.modPair_shape ..).trans ?_ | refine (State.xlinkDown_shape ..).trans ?_ | refine (State.receive_shape ..).trans ?_)
    | ((conv => lhs; arg 1; arg 1); split)

theorem State.linkCtrlTile_shape (s : State) (op t : Nat) : (State.linkCtrlTile s op t).shape = s.shape := by
  unfold State.linkCtrlTile
  repeat' first
    | with_reducible rfl
    | with_reducible assumption
    | ((conv => lhs; arg 1; arg 25); exact rfl)
    | (with_reducible first | refine (State.modTile_shape ..).trans ?_ | refine (State.portGo_shape ..).trans ?_ | refine (State.toDetect_shape ..).trans ?_ | refine (State.toTrain_shape ..).trans ?_ | refine (State.sendPower_shape ..).trans ?_ | refine (State.powerSync_shape ..).trans ?_)
    | ((conv => lhs; arg 1; arg 1); split)
    | (extract_lets +onlyGivenNames x; clear_value (e : x = _); first | (subst e))

theorem linkCtrlBody_shape (c : Cmd) (s : State) : RanShape (linkCtrlBody c s) s.shape := by
  unfold linkCtrlBody
  repeat' first
    | with_reducible rfl
    | with_reducible refine (shape_foldl _ (fun _ _ => ?_) _ _).trans ?_
    | (with_reducible first | refine (refuse_shape ..).trans ?_ | refine (answer_shape ..).trans ?_ | refine (State.linkCtrlTile_shape ..).trans ?_)
    | ((conv => lhs; arg 1; arg 1); split)
    | (extract_lets +onlyGivenNames x; clear_value (e : x = _); first | (subst e))

theorem execLinkCtrl_shape (c : Cmd) (s : State) : Keeps s (execLinkCtrl c s) := by
  unfold execLinkCtrl
  repeat' first
    | with_reducible rfl
    | with_reducible refine keeps_next ?_
    | with_reducible refine hostCmd_shape _ _ _ _ _ (fun _ _ => ?_)
    | (with_reducible first | refine (linkCtrlBody_shape ..).trans ?_)

theorem linkStatusBody_shape (c : Cmd) (s : State) : RanShape (linkStatusBody c s) s.shape := by
  unfold linkStatusBody
  repeat' first
    | with_reducible rfl
    | ((conv => lhs; arg 1; arg 25); with_reducible refine (shape_mk ..).trans ?_; simp only [↓shape_mk, ↓shape_pending, ↓shape_mb, ↓shape_ports, ↓shape_tiles, ↓shape_chans, ↓shape_clusters, ↓shape_cores, ↓shape_cvu, ↓shape_compares, ↓shape_latches, ↓shape_tsq, ↓shape_netPorts, updAt_length, List.length_map])
    | (with_reducible first | refine (refuse_shape ..).trans ?_ | refine (answer_shape ..).trans ?_)
    | ((conv => lhs; arg 1; arg 1); split)

theorem execLinkStatus_shape (c : Cmd) (s : State) : Keeps s (execLinkStatus c s) := by
  unfold execLinkStatus
  repeat' first
    | with_reducible rfl
    | with_reducible refine keeps_next ?_
    | with_reducible refine hostCmd_shape _ _ _ _ _ (fun _ _ => ?_)
    | (with_reducible first | refine (linkStatusBody_shape ..).trans ?_)

theorem eyeScanBody_shape (c : Cmd) (s : State) : RanShape (eyeScanBody c s) s.shape := by
  unfold eyeScanBody
  repeat' first
    | with_reducible rfl
    | ((conv => lhs; arg 1; arg 25); exact rfl)
    | (with_reducible first | refine (refuse_shape ..).trans ?_ | refine (accept_shape ..).trans ?_)
    | ((conv => lhs; arg 1; arg 1); split)
    | (extract_lets +onlyGivenNames x; clear_value (e : x = _); first | (subst e))

theorem execEyeScan_shape (c : Cmd) (s : State) : Keeps s (execEyeScan c s) := by
  unfold execEyeScan
  repeat' first
    | with_reducible rfl
    | with_reducible refine keeps_next ?_
    | with_reducible refine hostCmd_shape _ _ _ _ _ (fun _ _ => ?_)
    | (with_reducible first | refine (eyeScanBody_shape ..).trans ?_)

theorem execEyeScanCompletion_shape (counts : List Nat) (s : State) : Keeps s (execEyeScanCompletion counts s) := by
  unfold execEyeScanCompletion
  repeat' first
    | with_reducible rfl
    | ((conv => lhs; arg 1; arg 25); exact rfl)
    | with_reducible refine keeps_next ?_
    | (with_reducible first | refine (State.advanceTo_shape ..).trans ?_ | refine (State.emit_shape ..).trans ?_ | refine (State.endJob_shape ..).trans ?_)
    | ((conv => arg 1; arg 1); split)

/-! ### CommitOps -/

theorem State.finishCommit_shape (s : State) : (State.finishCommit s).shape = s.shape := by
  unfold State.finishCommit
  repeat' first
    | with_reducible rfl
    | ((conv => lhs; arg 1; arg 25); exact rfl)
    | (with_reducible first | refine (State.endJob_shape ..).trans ?_)
    | split

theorem State.encTake_shape (s : State) (old : State) (n : Nat) : (State.encTake s old n).shape = s.shape := by
  unfold State.encTake
  repeat' first
    | with_reducible rfl
    | (with_reducible first | refine (State.encEnable_shape ..).trans ?_ | refine (State.encDisable_shape ..).trans ?_ | refine (State.encChanged_shape ..).trans ?_)
    | ((conv => lhs; arg 1; arg 1); split)
    | (extract_lets +onlyGivenNames x; clear_value (e : x = _); first | (subst e))

theorem State.monTake_shape (s : State) (old : State) : (State.monTake s old).shape = s.shape := by
  unfold State.monTake
  repeat' first
    | with_reducible rfl
    | with_reducible assumption
    | ((conv => lhs; arg 1; arg 25); exact rfl)
    | (with_reducible first | refine (State.raise_shape ..).trans ?_ | refine (State.monIdleNow_shape ..).trans ?_ | refine (State.monStop_shape ..).trans ?_ | refine (State.monTrain_shape ..).trans ?_ | refine (State.monBegin_shape ..).trans ?_)
    | ((conv => lhs; arg 1; arg 1); split)
    | (extract_lets +onlyGivenNames x; clear_value (e : x = _); first | (subst e))

theorem State.geomTake_shape (s : State) (old : State) : (State.geomTake s old).shape = s.shape := by
  unfold State.geomTake
  repeat' first
    | with_reducible rfl
    | with_reducible refine (shape_foldl _ (fun _ _ => ?_) _ _).trans ?_
    | (with_reducible first | refine (State.raise_shape ..).trans ?_ | refine (State.checkGeomMatch_shape ..).trans ?_ | refine (State.maybeStartSynth_shape ..).trans ?_)
    | ((conv => lhs; arg 1; arg 1); split)

theorem State.codeTake_shape (s old : State) : (State.codeTake s old).shape = s.shape := by
  unfold State.codeTake
  repeat' first
    | with_reducible rfl
    | (with_reducible first | refine (State.raise_shape ..).trans ?_)
    | ((conv => lhs; arg 1; arg 1); split)

theorem State.linkTake_shape (s old : State) : (State.linkTake s old).shape = s.shape := by
  unfold State.linkTake
  repeat' first
    | with_reducible rfl
    | with_reducible refine (shape_foldl _ (fun _ _ => ?_) _ _).trans ?_
    | (with_reducible first | refine (State.checkCaps_shape ..).trans ?_)
    | ((conv => lhs; arg 1; arg 1); split)

theorem State.guardTake_shape (s old : State) (ids : List Nat) : (State.guardTake s old ids).shape = s.shape := rfl

theorem State.timeTake_shape (s old : State) (ids : List Nat) : (State.timeTake s old ids).shape = s.shape := by
  unfold State.timeTake
  repeat' first
    | with_reducible rfl
    | with_reducible refine (shape_foldl _ (fun _ _ => ?_) _ _).trans ?_
    | (with_reducible first | refine (State.limitRates_shape ..).trans ?_ | refine (State.tb3Params_shape ..).trans ?_ | refine (State.ptpParams_shape ..).trans ?_ | refine (State.netRetrain_shape ..).trans ?_)
    | ((conv => lhs; arg 1; arg 1); split)

theorem State.takeEffects_shape (s : State) (old : State) (ids : List Nat) : (State.takeEffects s old ids).shape = s.shape := by
  unfold State.takeEffects
  repeat' first
    | with_reducible rfl
    | (with_reducible first | refine (State.capacityCheck_shape ..).trans ?_ | refine (State.powerSync_shape ..).trans ?_ | refine (State.encTake_shape ..).trans ?_ | refine (State.monTake_shape ..).trans ?_ | refine (State.geomTake_shape ..).trans ?_ | refine (State.codeTake_shape ..).trans ?_ | refine (State.linkTake_shape ..).trans ?_ | refine (State.guardTake_shape ..).trans ?_ | refine (State.timeTake_shape ..).trans ?_)
    | ((conv => lhs; arg 1; arg 1); split)

theorem State.bring_shape (s : State) (vals : List PVal) : (State.bring s vals).shape = s.shape := by
  unfold State.bring
  repeat' first
    | with_reducible rfl
    | with_reducible refine (shape_foldl _ (fun _ _ => ?_) _ _).trans ?_
    | (with_reducible first | refine (State.pset_shape ..).trans ?_ | refine (State.takeEffects_shape ..).trans ?_)
    | ((conv => lhs; arg 1; arg 1); split)

theorem State.applyPanel_shape (s : State) (f : Nat) : (State.applyPanel s f).shape = s.shape := by
  unfold State.applyPanel
  repeat' first
    | with_reducible rfl
    | with_reducible assumption
    | ((conv => lhs; arg 1; arg 25); with_reducible refine (shape_mk ..).trans ?_; simp only [↓shape_mk, ↓shape_pending, ↓shape_mb, ↓shape_ports, ↓shape_tiles, ↓shape_chans, ↓shape_clusters, ↓shape_cores, ↓shape_cvu, ↓shape_compares, ↓shape_latches, ↓shape_tsq, ↓shape_netPorts, updAt_length])
    | (with_reducible first | refine (State.dropCommit_shape ..).trans ?_ | refine (State.askRebuild_shape ..).trans ?_ | refine (State.finishCommit_shape ..).trans ?_ | refine (State.bring_shape ..).trans ?_)
    | (extract_lets +onlyGivenNames x; clear_value (e : x = _); first | (subst e))
    | split

theorem State.applyMonitor_shape (s : State) (f : Nat) : (State.applyMonitor s f).shape = s.shape := by
  unfold State.applyMonitor
  repeat' first
    | with_reducible rfl
    | ((conv => lhs; arg 1; arg 25); exact rfl)
    | (with_reducible first | refine (State.dropCommit_shape ..).trans ?_ | refine (State.finishCommit_shape ..).trans ?_ | refine (State.bring_shape ..).trans ?_)
    | split

theorem State.endRebuild_shape (s : State) : (State.endRebuild s).shape = s.shape := by
  unfold State.endRebuild
  repeat' first
    | with_reducible rfl
    | ((conv => lhs; arg 1; arg 25); exact rfl)
    | (extract_lets +onlyGivenNames x; clear_value (e : x = _); first | (subst e))
    | split

theorem State.gainSwap_shape (s : State) (f : Nat) : (State.gainSwap s f).shape = s.shape := by
  unfold State.gainSwap
  repeat' first
    | with_reducible rfl
    | with_reducible assumption
    | ((conv => lhs; arg 1; arg 25); with_reducible refine (shape_mk ..).trans ?_; simp only [↓shape_mk, ↓shape_pending, ↓shape_mb, ↓shape_ports, ↓shape_tiles, ↓shape_chans, ↓shape_clusters, ↓shape_cores, ↓shape_cvu, ↓shape_compares, ↓shape_latches, ↓shape_tsq, ↓shape_netPorts, updAt_length])
    | (with_reducible first | refine (State.raise_shape ..).trans ?_ | refine (State.askRebuild_shape ..).trans ?_ | refine (State.finishCommit_shape ..).trans ?_ | refine (State.bring_shape ..).trans ?_)
    | (extract_lets +onlyGivenNames x; clear_value (e : x = _); first | (subst e))
    | split

theorem commitBody_shape (c : Cmd) (s : State) : RanShape (commitBody c s) s.shape := by
  unfold commitBody
  repeat' first
    | with_reducible rfl
    | ((conv => lhs; arg 1; arg 25); with_reducible refine (shape_mk ..).trans ?_; simp only [↓shape_mk, ↓shape_pending, ↓shape_mb, ↓shape_ports, ↓shape_tiles, ↓shape_chans, ↓shape_clusters, ↓shape_cores, ↓shape_cvu, ↓shape_compares, ↓shape_latches, ↓shape_tsq, ↓shape_netPorts, updAt_length])
    | (with_reducible first | refine (refuse_shape ..).trans ?_ | refine (accept_shape ..).trans ?_ | refine (State.bring_shape ..).trans ?_)
    | ((conv => lhs; arg 1; arg 1); split)
    | with_reducible refine ranShape_eq ?_
    | with_reducible refine ranShape_mk ?_

theorem commitPost_shape (u00 : Cmd) (s : State) : (commitPost u00 s).shape = s.shape := by
  unfold commitPost
  repeat' first
    | with_reducible rfl
    | (with_reducible first | refine (State.raise_shape ..).trans ?_ | refine (State.finishCommit_shape ..).trans ?_ | refine (State.applyMonitor_shape ..).trans ?_)
    | split

theorem execCommit_shape (c : Cmd) (s : State) : Keeps s (execCommit c s) := by
  unfold execCommit
  repeat' first
    | with_reducible rfl
    | with_reducible refine keeps_next ?_
    | with_reducible refine hostCmdWith_shape _ _ _ _ _ _ (fun _ _ => ?_) (fun _ _ => ?_)
    | (with_reducible first | refine (commitBody_shape ..).trans ?_ | refine (commitPost_shape ..).trans ?_)

theorem panelModeBody_shape (c : Cmd) (s : State) : RanShape (panelModeBody c s) s.shape := by
  unfold panelModeBody
  repeat' first
    | with_reducible rfl
    | ((conv => lhs; arg 1; arg 25); exact rfl)
    | (with_reducible first | refine (refuse_shape ..).trans ?_ | refine (answer_shape ..).trans ?_)
    | ((conv => lhs; arg 1; arg 1); split)
    | with_reducible refine ranShape_eq ?_
    | with_reducible refine ranShape_mk ?_

theorem execPanelMode_shape (c : Cmd) (s : State) : Keeps s (execPanelMode c s) := by
  unfold execPanelMode
  repeat' first
    | with_reducible rfl
    | with_reducible refine keeps_next ?_
    | with_reducible refine hostCmd_shape _ _ _ _ _ (fun _ _ => ?_)
    | (with_reducible first | refine (panelModeBody_shape ..).trans ?_)

end Sys2Proof.Machine
end

