-- ==== Sys2Proof/Laws/ShapeScene.lean ====
section
/-! SUPPORT. The scene stream, decode, selection, synthesis: each keeps the shape of the state. -/

set_option linter.unusedSimpArgs false
set_option linter.unusedVariables false

namespace Sys2Proof.Machine

open Sys2Proof

/-! ### DecodeOps -/

theorem State.modScene_shape (s : State) (slot : Nat) (f : Scene → Scene) : (State.modScene s slot f).shape = s.shape := rfl

theorem State.modStream_shape (s : State) (d : StreamId) (f : DStream → DStream) : (State.modStream s d f).shape = s.shape := rfl

theorem State.yieldPic_shape (s : State) (d : StreamId) (it : AuItem) (p : YPic) (own benign keep : Bool) (ctus : Nat) : (State.yieldPic s d it p own benign keep ctus).shape = s.shape := by
  unfold State.yieldPic
  repeat' first
    | with_reducible rfl
    | with_reducible assumption
    | (with_reducible first | refine (State.decodeConceal_shape ..).trans ?_ | refine (State.modScene_shape ..).trans ?_ | refine (State.modStream_shape ..).trans ?_)
    | ((conv => lhs; arg 1; arg 1); split)
    | (extract_lets +onlyGivenNames x; clear_value (e : x = _); first | (subst e))

theorem State.yieldMissing_shape (s : State) (d : StreamId) (it : AuItem) (x : DStream) : (State.yieldMissing s d it x).shape = s.shape := by
  unfold State.yieldMissing
  repeat' first
    | with_reducible rfl
    | (with_reducible first | refine (State.yieldPic_shape ..).trans ?_)

theorem State.yieldHeld_shape (s : State) (d : StreamId) (it : AuItem) (x : DStream) : (State.yieldHeld s d it x).shape = s.shape := by
  unfold State.yieldHeld
  repeat' first
    | with_reducible rfl
    | (with_reducible first | refine (State.yieldPic_shape ..).trans ?_)
    | split

theorem State.drainStream_shape (s : State) (d : StreamId) (p0 : Nat) : (State.drainStream s d p0).shape = s.shape := by
  induction p0 generalizing s d with
  | zero => rfl
  | succ n ih =>
    unfold State.drainStream
    repeat' first
      | with_reducible rfl
      | with_reducible assumption
      | with_reducible refine (ih ..).trans ?_
      | (with_reducible first | refine (State.modStream_shape ..).trans ?_ | refine (State.yieldMissing_shape ..).trans ?_ | refine (State.yieldHeld_shape ..).trans ?_)
      | (extract_lets +onlyGivenNames x; clear_value (e : x = _); first | (subst e))
      | split

theorem State.drain_shape (s : State) (d : StreamId) : (State.drain s d).shape = s.shape := by
  unfold State.drain
  repeat' first
    | with_reducible rfl
    | (with_reducible first | refine (State.drainStream_shape ..).trans ?_)
    | split

theorem State.drainScene_shape (s : State) (slot : Nat) : (State.drainScene s slot).shape = s.shape := by
  unfold State.drainScene
  repeat' first
    | with_reducible rfl
    | with_reducible refine (shape_foldl _ (fun _ _ => ?_) _ _).trans ?_
    | (with_reducible first | refine (State.drain_shape ..).trans ?_)

theorem State.fileItem_shape (s : State) (d : StreamId) (it : AuItem) : (State.fileItem s d it).shape = s.shape := by
  unfold State.fileItem
  repeat' first
    | with_reducible rfl
    | ((conv => lhs; arg 1; arg 25); exact rfl)
    | (with_reducible first | refine (State.modStream_shape ..).trans ?_)
    | ((conv => lhs; arg 1; arg 1); split)

theorem State.formTeam_shape (s : State) (d : StreamId) (codec : Nat) (q : SeqSets) : (State.formTeam s d codec q).shape = s.shape := by
  unfold State.formTeam
  repeat' first
    | with_reducible rfl
    | (with_reducible first | refine (State.takeFree_shape ..).trans ?_ | refine (State.raise_shape ..).trans ?_ | refine (State.modStream_shape ..).trans ?_)
    | with_reducible refine fstShape_eq ?_
    | ((conv => arg 1; arg 1); split)
    | (extract_lets +onlyGivenNames x; clear_value (e : x = _); first | (subst e))

theorem State.yieldSub_shape (s : State) (d : StreamId) (it : AuItem) (reason ctus : Nat) (own : Bool) : (State.yieldSub s d it reason ctus own).shape = s.shape := by
  unfold State.yieldSub
  repeat' first
    | with_reducible rfl
    | (with_reducible first | refine (State.yieldPic_shape ..).trans ?_)
    | split

theorem State.metRap_shape (s : State) (d : StreamId) : (State.metRap s d).shape = s.shape := rfl

theorem State.runAu_shape (s : State) (d : StreamId) (r : RunAu) : (State.runAu s d r).shape = s.shape := by
  unfold State.runAu
  repeat' first
    | with_reducible rfl
    | (with_reducible first | refine (State.modStream_shape ..).trans ?_)
    | split

theorem State.endAu_shape (s : State) (d : StreamId) (o : AuResult) (fault : Nat) : (State.endAu s d o fault).shape = s.shape := by
  unfold State.endAu
  repeat' first
    | with_reducible rfl
    | (with_reducible first | refine (State.raise_shape ..).trans ?_ | refine (State.startQueued_shape ..).trans ?_ | refine (State.modStream_shape ..).trans ?_ | refine (State.yieldPic_shape ..).trans ?_ | refine (State.drain_shape ..).trans ?_)
    | split

theorem State.startAu_shape (s : State) (d : StreamId) (it : AuItem) (x : DStream) (i : AuInfo) : (State.startAu s d it x i).shape = s.shape := by
  unfold State.startAu
  repeat' first
    | with_reducible rfl
    | with_reducible assumption
    | (with_reducible first | refine (State.raise_shape ..).trans ?_ | refine (State.modStream_shape ..).trans ?_ | refine (State.yieldMissing_shape ..).trans ?_ | refine (State.yieldSub_shape ..).trans ?_ | refine (State.metRap_shape ..).trans ?_ | refine (State.runAu_shape ..).trans ?_ | refine (State.endAu_shape ..).trans ?_)
    | (extract_lets +onlyGivenNames x; clear_value (e : x = _); first | (subst e))
    | split

/-! ### SceneOps -/

theorem State.sceneDrop_shape (s : State) (slot reason type index frame off : Nat) : (State.sceneDrop s slot reason type index frame off).shape = s.shape := by
  unfold State.sceneDrop
  repeat' first
    | with_reducible rfl
    | (with_reducible first | refine (State.raise_shape ..).trans ?_ | refine (State.modScene_shape ..).trans ?_)
    | split

theorem State.dropFrame_shape (s : State) (slot : Nat) (f : SFrame) (reason : Nat) : (State.dropFrame s slot f reason).shape = s.shape := by
  unfold State.dropFrame
  repeat' first
    | with_reducible rfl
    | (with_reducible first | refine (State.modScene_shape ..).trans ?_ | refine (State.sceneDrop_shape ..).trans ?_)

theorem State.closeFrame_shape (s : State) (slot : Nat) (index : Option Nat) : (State.closeFrame s slot index).shape = s.shape := by
  unfold State.closeFrame
  repeat' first
    | with_reducible rfl
    | with_reducible assumption
    | with_reducible refine (shape_foldl _ (fun _ _ => ?_) _ _).trans ?_
    | (with_reducible first | refine (State.raise_shape ..).trans ?_ | refine (State.modScene_shape ..).trans ?_ | refine (State.drainScene_shape ..).trans ?_ | refine (State.fileItem_shape ..).trans ?_ | refine (State.dropFrame_shape ..).trans ?_)
    | (extract_lets +onlyGivenNames x; clear_value (e : x = _); first | (subst e))
    | split

theorem State.discardPkt_shape (s : State) (p : Pkt) (off reason : Nat) (silent : Bool) : (State.discardPkt s p off reason silent).shape = s.shape := by
  unfold State.discardPkt
  repeat' first
    | with_reducible rfl
    | with_reducible assumption
    | (with_reducible first | refine (State.modScene_shape ..).trans ?_ | refine (State.sceneDrop_shape ..).trans ?_)
    | ((conv => lhs; arg 1; arg 1); split)
    | (extract_lets +onlyGivenNames x; clear_value (e : x = _); first | (subst e))

theorem State.heardPkt_shape (s : State) (p : Pkt) : (State.heardPkt s p).shape = s.shape := rfl

theorem State.framedPkt_shape (s : State) (form : PktForm) (body : Scene → Pkt → State → State × PktEnd) (p : Pkt)
    (hb : ∀ x p s, FstShape (body x p s) s.shape) : FstShape (State.framedPkt s form body p) s.shape := by
  unfold State.framedPkt
  repeat' first
    | with_reducible rfl
    | with_reducible assumption
    | (with_reducible first | refine (State.modScene_shape ..).trans ?_ | refine (State.closeFrame_shape ..).trans ?_ | refine (State.heardPkt_shape ..).trans ?_ | refine (hb ..).trans ?_)
    | (extract_lets +onlyGivenNames x; clear_value (e : x = _); first | (subst e))
    | split
    | with_reducible refine fstShape_mk ?_

theorem State.endPkt_shape (s : State) (p : Pkt) (off : Nat) (e : PktEnd) : (State.endPkt s p off e).shape = s.shape := by
  unfold State.endPkt
  repeat' first
    | with_reducible rfl
    | (with_reducible first | refine (State.discardPkt_shape ..).trans ?_)
    | split

theorem State.readPkt_shape (s : State) (form : PktForm) (body : Scene → Pkt → State → State × PktEnd) (p : Pkt) (c : Carrier)
    (hb : ∀ x p s, FstShape (body x p s) s.shape) : FstShape (State.readPkt s form body p c) s.shape := by
  unfold State.readPkt
  extract_lets x
  have h : x.shape = s.shape := State.modScene_shape ..
  clear_value x
  split
  · exact fstShape_mk ((State.modScene_shape ..).trans ((State.discardPkt_shape ..).trans h))
  · exact fstShape_mk ((State.modScene_shape ..).trans ((State.endPkt_shape ..).trans
      (fstShape_eq ((State.framedPkt_shape _ _ _ _ hb).trans h))))

theorem State.ingestPkt_shape (s : State) (form : PktForm) (body : Scene → Pkt → State → State × PktEnd) (p : Pkt)
    (hb : ∀ x p s, FstShape (body x p s) s.shape) : (State.ingestPkt s form body p).shape = s.shape := by
  unfold State.ingestPkt
  extract_lets resumed g x
  have h : x.shape = s.shape := rfl
  clear_value x g resumed
  split
  · exact h
  · split
    · exact (State.modScene_shape ..).trans h
    · split
      · exact h
      · extract_lets r
        have hr : FstShape r x.shape := State.readPkt_shape _ _ _ _ _ hb
        clear_value r
        split
        · exact (State.modScene_shape ..).trans ((State.closeFrame_shape ..).trans h)
        · exact (fstShape_eq hr).trans h

theorem inFrame_shape (body : Scene → SFrame → Pkt → State → State × PktEnd) (x : Scene) (p : Pkt) (s : State)
    (hb : ∀ x f p s, FstShape (body x f p s) s.shape) : FstShape (inFrame body x p s) s.shape := by
  unfold inFrame
  repeat' first
    | with_reducible rfl
    | (with_reducible first | refine (hb ..).trans ?_)
    | split
    | with_reducible refine fstShape_mk ?_

/-! ### SceneRows -/

theorem seqBody_shape (x : Scene) (p : Pkt) (s : State) : FstShape (seqBody x p s) s.shape := by
  unfold seqBody
  repeat' first
    | with_reducible rfl
    | with_reducible refine (shape_foldl _ (fun _ _ => ?_) _ _).trans ?_
    | (with_reducible first | refine (State.raise_shape ..).trans ?_ | refine (State.modScene_shape ..).trans ?_ | refine (State.drainScene_shape ..).trans ?_ | refine (State.fileItem_shape ..).trans ?_)
    | ((conv => lhs; arg 1; arg 1); split)
    | with_reducible refine fstShape_mk ?_

theorem execSeqParams_shape (p : Pkt) (s : State) : Keeps s (execSeqParams p s) := by
  unfold execSeqParams
  repeat' first
    | with_reducible rfl
    | with_reducible refine keeps_next ?_
    | with_reducible refine State.ingestPkt_shape _ _ _ _ (fun _ _ _ => ?_)
    | (with_reducible first | refine (seqBody_shape ..).trans ?_)

theorem beginFrame_shape (x : Scene) (q : SeqParams) (d : Nat) (p : Pkt) (s : State) : FstShape (beginFrame x q d p s) s.shape := by
  unfold beginFrame
  repeat' first
    | with_reducible rfl
    | (with_reducible first | refine (State.raise_shape ..).trans ?_ | refine (State.modScene_shape ..).trans ?_ | refine (State.sceneDrop_shape ..).trans ?_)
    | ((conv => lhs; arg 1; arg 1); split)
    | with_reducible refine fstShape_mk ?_

theorem beginBody_shape (x : Scene) (p : Pkt) (s : State) : FstShape (beginBody x p s) s.shape := by
  unfold beginBody
  repeat' first
    | with_reducible rfl
    | (with_reducible first | refine (beginFrame_shape ..).trans ?_)
    | (extract_lets +onlyGivenNames x; clear_value (e : x = _); first | (subst e))
    | split
    | with_reducible refine fstShape_mk ?_

theorem execFrameBegin_shape (p : Pkt) (s : State) : Keeps s (execFrameBegin p s) := by
  unfold execFrameBegin
  repeat' first
    | with_reducible rfl
    | with_reducible refine keeps_next ?_
    | with_reducible refine State.ingestPkt_shape _ _ _ _ (fun _ _ _ => ?_)
    | (with_reducible first | refine (beginBody_shape ..).trans ?_)

theorem camBody_shape (u00 : Scene) (f : SFrame) (p : Pkt) (s : State) : FstShape (camBody u00 f p s) s.shape := by
  unfold camBody
  repeat' first
    | with_reducible rfl
    | (with_reducible first | refine (State.modScene_shape ..).trans ?_)
    | ((conv => lhs; arg 1; arg 1); split)
    | with_reducible refine fstShape_mk ?_

theorem execAnchorParams_shape (p : Pkt) (s : State) : Keeps s (execAnchorParams p s) := by
  unfold execAnchorParams
  repeat' first
    | with_reducible rfl
    | with_reducible refine keeps_next ?_
    | with_reducible refine State.ingestPkt_shape _ _ _ _ (fun _ _ _ => ?_)
    | with_reducible refine inFrame_shape _ _ _ _ (fun _ _ _ _ => ?_)
    | (with_reducible first | refine (camBody_shape ..).trans ?_)

theorem tableBody_shape (x : Scene) (f : SFrame) (p : Pkt) (s : State) : FstShape (tableBody x f p s) s.shape := by
  unfold tableBody
  repeat' first
    | with_reducible rfl
    | (with_reducible first | refine (State.modScene_shape ..).trans ?_)
    | ((conv => lhs; arg 1; arg 1); split)
    | with_reducible refine fstShape_mk ?_

theorem execLayerTable_shape (p : Pkt) (s : State) : Keeps s (execLayerTable p s) := by
  unfold execLayerTable
  repeat' first
    | with_reducible rfl
    | with_reducible refine keeps_next ?_
    | with_reducible refine State.ingestPkt_shape _ _ _ _ (fun _ _ _ => ?_)
    | with_reducible refine inFrame_shape _ _ _ _ (fun _ _ _ _ => ?_)
    | (with_reducible first | refine (tableBody_shape ..).trans ?_)

theorem auBody_shape (kind : Nat) (x : Scene) (f : SFrame) (p : Pkt) (s : State) : FstShape (auBody kind x f p s) s.shape := by
  unfold auBody
  repeat' first
    | with_reducible rfl
    | (with_reducible first | refine (State.modScene_shape ..).trans ?_ | refine (State.fileItem_shape ..).trans ?_)
    | split
    | with_reducible refine fstShape_mk ?_

theorem execTextureAu_shape (p : Pkt) (s : State) : Keeps s (execTextureAu p s) := by
  unfold execTextureAu
  repeat' first
    | with_reducible rfl
    | with_reducible refine keeps_next ?_
    | with_reducible refine State.ingestPkt_shape _ _ _ _ (fun _ _ _ => ?_)
    | with_reducible refine inFrame_shape _ _ _ _ (fun _ _ _ _ => ?_)
    | (with_reducible first | refine (auBody_shape ..).trans ?_)

theorem execDepthAu_shape (p : Pkt) (s : State) : Keeps s (execDepthAu p s) := by
  unfold execDepthAu
  repeat' first
    | with_reducible rfl
    | with_reducible refine keeps_next ?_
    | with_reducible refine State.ingestPkt_shape _ _ _ _ (fun _ _ _ => ?_)
    | with_reducible refine inFrame_shape _ _ _ _ (fun _ _ _ _ => ?_)
    | (with_reducible first | refine (auBody_shape ..).trans ?_)

theorem ovlBody_shape (u00 : Scene) (u10 : SFrame) (p : Pkt) (s : State) : FstShape (ovlBody u00 u10 p s) s.shape := rfl

theorem execOverlay_shape (p : Pkt) (s : State) : Keeps s (execOverlay p s) := by
  unfold execOverlay
  repeat' first
    | with_reducible rfl
    | with_reducible refine keeps_next ?_
    | with_reducible refine State.ingestPkt_shape _ _ _ _ (fun _ _ _ => ?_)
    | with_reducible refine inFrame_shape _ _ _ _ (fun _ _ _ _ => ?_)
    | (with_reducible first | refine (ovlBody_shape ..).trans ?_)

theorem endBody_shape (u00 : Scene) (u10 : SFrame) (p : Pkt) (s : State) : FstShape (endBody u00 u10 p s) s.shape := by
  unfold endBody
  repeat' first
    | with_reducible rfl
    | (with_reducible first | refine (State.closeFrame_shape ..).trans ?_)
    | with_reducible refine fstShape_mk ?_

theorem execFrameEnd_shape (p : Pkt) (s : State) : Keeps s (execFrameEnd p s) := by
  unfold execFrameEnd
  repeat' first
    | with_reducible rfl
    | with_reducible refine keeps_next ?_
    | with_reducible refine State.ingestPkt_shape _ _ _ _ (fun _ _ _ => ?_)
    | with_reducible refine inFrame_shape _ _ _ _ (fun _ _ _ _ => ?_)
    | (with_reducible first | refine (endBody_shape ..).trans ?_)

theorem aliveBody_shape (x : Scene) (p : Pkt) (s : State) : FstShape (aliveBody x p s) s.shape := by
  unfold aliveBody
  repeat' first
    | with_reducible rfl
    | split
    | with_reducible refine fstShape_mk ?_

theorem execKeepalive_shape (p : Pkt) (s : State) : Keeps s (execKeepalive p s) := by
  unfold execKeepalive
  repeat' first
    | with_reducible rfl
    | with_reducible refine keeps_next ?_
    | with_reducible refine State.ingestPkt_shape _ _ _ _ (fun _ _ _ => ?_)
    | (with_reducible first | refine (aliveBody_shape ..).trans ?_)

theorem cueBody_shape (x : Scene) (f : SFrame) (p : Pkt) (s : State) : FstShape (cueBody x f p s) s.shape := by
  unfold cueBody
  repeat' first
    | with_reducible rfl
    | (with_reducible first | refine (State.modScene_shape ..).trans ?_)
    | ((conv => lhs; arg 1; arg 1); split)
    | with_reducible refine fstShape_mk ?_

theorem execCue_shape (p : Pkt) (s : State) : Keeps s (execCue p s) := by
  unfold execCue
  repeat' first
    | with_reducible rfl
    | with_reducible refine keeps_next ?_
    | with_reducible refine State.ingestPkt_shape _ _ _ _ (fun _ _ _ => ?_)
    | with_reducible refine inFrame_shape _ _ _ _ (fun _ _ _ _ => ?_)
    | (with_reducible first | refine (cueBody_shape ..).trans ?_)

theorem sceneOpenBody_shape (c : Cmd) (s : State) : RanShape (sceneOpenBody c s) s.shape := by
  unfold sceneOpenBody
  repeat' first
    | with_reducible rfl
    | with_reducible assumption
    | ((conv => lhs; arg 1; arg 25); first | exact rfl | assumption)
    | (with_reducible first | refine (refuse_shape ..).trans ?_ | refine (State.addObj_shape ..).trans ?_)
    | ((conv => lhs; arg 1; arg 1); split)
    | (extract_lets +onlyGivenNames x; clear_value (e : x = _); first | (with_reducible refine ran_cut x ?_ (fun _ => ?_); (subst e); rotate_left; clear e) | (subst e))
    | with_reducible refine ranShape_eq ?_
    | with_reducible refine ranShape_mk ?_

theorem execSceneOpen_shape (c : Cmd) (s : State) : Keeps s (execSceneOpen c s) := by
  unfold execSceneOpen
  repeat' first
    | with_reducible rfl
    | with_reducible refine keeps_next ?_
    | with_reducible refine hostCmd_shape _ _ _ _ _ (fun _ _ => ?_)
    | (with_reducible first | refine (sceneOpenBody_shape ..).trans ?_)

theorem sceneSubmitBody_shape (c : Cmd) (s : State) : RanShape (sceneSubmitBody c s) s.shape := by
  unfold sceneSubmitBody
  repeat' first
    | with_reducible rfl
    | (with_reducible first | refine (refuse_shape ..).trans ?_ | refine (accept_shape ..).trans ?_ | refine (State.modScene_shape ..).trans ?_)
    | (extract_lets +onlyGivenNames x; clear_value (e : x = _); first | (subst e))
    | split

theorem execSceneSubmit_shape (c : Cmd) (s : State) : Keeps s (execSceneSubmit c s) := by
  unfold execSceneSubmit
  repeat' first
    | with_reducible rfl
    | with_reducible refine keeps_next ?_
    | with_reducible refine hostCmd_shape _ _ _ _ _ (fun _ _ => ?_)
    | (with_reducible first | refine (sceneSubmitBody_shape ..).trans ?_)

theorem State.drainClose_shape (s : State) (slot : Nat) : (State.drainClose s slot).shape = s.shape := by
  unfold State.drainClose
  repeat' first
    | with_reducible rfl
    | (with_reducible first | refine (State.closeFrame_shape ..).trans ?_)
    | split

theorem execSceneSubmitCompletion_shape (slot : Nat) (s : State) : Keeps s (execSceneSubmitCompletion slot s) := by
  unfold execSceneSubmitCompletion
  repeat' first
    | with_reducible rfl
    | with_reducible refine keeps_next ?_
    | (with_reducible first | refine (State.endJob_shape ..).trans ?_ | refine (State.modScene_shape ..).trans ?_ | refine (State.drainClose_shape ..).trans ?_)
    | ((conv => arg 1; arg 1); split)

theorem sceneCloseBody_shape (c : Cmd) (s : State) : RanShape (sceneCloseBody c s) s.shape := by
  unfold sceneCloseBody
  repeat' first
    | with_reducible rfl
    | (with_reducible first | refine (refuse_shape ..).trans ?_ | refine (accept_shape ..).trans ?_)
    | split

theorem State.dropFrames_shape (s : State) (slot : Nat) (p0 : List SFrame) : (State.dropFrames s slot p0).shape = s.shape := by
  induction p0 generalizing s slot with
  | nil => rfl
  | cons x xs ih =>
    unfold State.dropFrames
    repeat' first
      | with_reducible rfl
      | with_reducible refine (ih ..).trans ?_
      | (with_reducible first | refine (State.dropFrame_shape ..).trans ?_)

theorem sceneClosePost_shape (c : Cmd) (s : State) : (sceneClosePost c s).shape = s.shape := by
  unfold sceneClosePost
  repeat' first
    | with_reducible rfl
    | ((conv => lhs; arg 1; arg 25); with_reducible refine (shape_mk ..).trans ?_; simp only [↓shape_mk, ↓shape_pending, ↓shape_mb, ↓shape_ports, ↓shape_tiles, ↓shape_chans, ↓shape_clusters, ↓shape_cores, ↓shape_cvu, ↓shape_compares, ↓shape_latches, ↓shape_tsq, ↓shape_netPorts, updAt_length])
    | (with_reducible first | refine (State.endJob_shape ..).trans ?_ | refine (State.endJobs_shape ..).trans ?_ | refine (State.startQueued_shape ..).trans ?_ | refine (State.modScene_shape ..).trans ?_ | refine (State.drainClose_shape ..).trans ?_ | refine (State.dropFrames_shape ..).trans ?_)
    | split

theorem execSceneClose_shape (c : Cmd) (s : State) : Keeps s (execSceneClose c s) := by
  unfold execSceneClose
  repeat' first
    | with_reducible rfl
    | with_reducible refine keeps_next ?_
    | with_reducible refine hostCmdWith_shape _ _ _ _ _ _ (fun _ _ => ?_) (fun _ _ => ?_)
    | (with_reducible first | refine (sceneCloseBody_shape ..).trans ?_ | refine (sceneClosePost_shape ..).trans ?_)

theorem execSceneCloseDrainComplete_shape (slot : Nat) (s : State) : Keeps s (execSceneCloseDrainComplete slot s) := by
  unfold execSceneCloseDrainComplete
  repeat' first
    | with_reducible rfl
    | with_reducible refine keeps_next ?_
    | (with_reducible first | refine (State.endJob_shape ..).trans ?_ | refine (State.modScene_shape ..).trans ?_)
    | ((conv => arg 1; arg 1); split)

theorem sceneStatusBody_shape (c : Cmd) (s : State) : RanShape (sceneStatusBody c s) s.shape := by
  unfold sceneStatusBody
  repeat' first
    | with_reducible rfl
    | (with_reducible first | refine (refuse_shape ..).trans ?_ | refine (answer_shape ..).trans ?_ | refine (State.modScene_shape ..).trans ?_)
    | split

theorem execSceneStatus_shape (c : Cmd) (s : State) : Keeps s (execSceneStatus c s) := by
  unfold execSceneStatus
  repeat' first
    | with_reducible rfl
    | with_reducible refine keeps_next ?_
    | with_reducible refine hostCmd_shape _ _ _ _ _ (fun _ _ => ?_)
    | (with_reducible first | refine (sceneStatusBody_shape ..).trans ?_)

theorem execSceneSilenceTimeout_shape (slot : Nat) (s : State) : Keeps s (execSceneSilenceTimeout slot s) := by
  unfold execSceneSilenceTimeout
  repeat' first
    | with_reducible rfl
    | with_reducible refine keeps_next ?_
    | (with_reducible first | refine (State.advanceTo_shape ..).trans ?_ | refine (State.raise_shape ..).trans ?_ | refine (State.modScene_shape ..).trans ?_)
    | ((conv => arg 1; arg 1); split)

/-! ### DmaRows -/

theorem State.dmaFail_shape (s : State) (id status : Nat) : (State.dmaFail s id status).shape = s.shape := by
  unfold State.dmaFail
  repeat' first
    | with_reducible rfl
    | ((conv => lhs; arg 1; arg 25); exact rfl)
    | (with_reducible first | refine (State.endJob_shape ..).trans ?_ | refine (State.removeObj_shape ..).trans ?_ | refine (State.failCmpJob_shape ..).trans ?_ | refine (State.powerSync_shape ..).trans ?_ | refine (State.endRegion_shape ..).trans ?_ | refine (State.drainClose_shape ..).trans ?_)
    | split

theorem State.countCto_shape (s : State) : (State.countCto s).shape = s.shape := rfl

theorem execDmaReadTimeout_shape (t : DmaTarget) (s : State) : Keeps s (execDmaReadTimeout t s) := by
  unfold execDmaReadTimeout
  repeat' first
    | with_reducible rfl
    | with_reducible refine keeps_next ?_
    | (with_reducible first | refine (State.ringFail_shape ..).trans ?_ | refine (State.dmaFail_shape ..).trans ?_ | refine (State.countCto_shape ..).trans ?_)
    | ((conv => arg 1; arg 1); split)

theorem execDmaReadPoisoned_shape (t : DmaTarget) (s : State) : Keeps s (execDmaReadPoisoned t s) := by
  unfold execDmaReadPoisoned
  repeat' first
    | with_reducible rfl
    | with_reducible refine keeps_next ?_
    | (with_reducible first | refine (State.ringFail_shape ..).trans ?_ | refine (State.dmaFail_shape ..).trans ?_)
    | ((conv => arg 1; arg 1); split)

/-! ### DecodeRows -/

theorem execAuDecodeStart_shape (st : StreamId) (info : AuInfo) (s : State) : Keeps s (execAuDecodeStart st info s) := by
  unfold execAuDecodeStart
  repeat' first
    | with_reducible refine keeps_next ?_
    | (with_reducible first | refine (State.modStream_shape ..).trans ?_ | refine (State.drain_shape ..).trans ?_ | refine (State.formTeam_shape ..).trans ?_ | refine (State.startAu_shape ..).trans ?_)
    | ((conv => arg 1; arg 1); split)
    | simp only [↓shape_clusters, ↓shape_mb, ↓shape_chans, ↓shape_ports, ↓shape_tiles, ↓shape_cores, ↓shape_cvu, shape_eta]

theorem State.overrun_shape (s : State) (st : StreamId) (r : RunAu) (res : AuResult) : (State.overrun s st r res).shape = s.shape := by
  unfold State.overrun
  repeat' first
    | with_reducible rfl
    | (with_reducible first | refine (State.raise_shape ..).trans ?_ | refine (State.endAu_shape ..).trans ?_)

theorem execAuDecodeComplete_shape (st : StreamId) (res : AuResult) (s : State) : Keeps s (execAuDecodeComplete st res s) := by
  unfold execAuDecodeComplete
  repeat' first
    | with_reducible rfl
    | with_reducible refine keeps_next ?_
    | (with_reducible first | refine (State.endAu_shape ..).trans ?_ | refine (State.overrun_shape ..).trans ?_)
    | ((conv => arg 1; arg 1); split)

theorem State.loseCore_shape (s : State) (core : Nat) : (State.loseCore s core).shape = s.shape := by
  unfold State.loseCore
  repeat' first
    | ((conv => lhs; arg 1; arg 25); with_reducible refine (shape_mk ..).trans ?_; simp only [↓shape_mk, ↓shape_pending, ↓shape_mb, ↓shape_ports, ↓shape_tiles, ↓shape_chans, ↓shape_clusters, ↓shape_cores, ↓shape_cvu, ↓shape_compares, ↓shape_latches, ↓shape_tsq, ↓shape_netPorts, updAt_length])
    | (with_reducible first | refine (State.raise_shape ..).trans ?_ | refine (State.powerSync_shape ..).trans ?_)

theorem execCtuTimeout_shape (core : Nat) (st : StreamId) (res : AuResult) (s : State) : Keeps s (execCtuTimeout core st res s) := by
  unfold execCtuTimeout
  repeat' first
    | with_reducible rfl
    | with_reducible assumption
    | ((conv => lhs; arg 1; arg 25); with_reducible refine (shape_mk ..).trans ?_; simp only [↓shape_mk, ↓shape_pending, ↓shape_mb, ↓shape_ports, ↓shape_tiles, ↓shape_chans, ↓shape_clusters, ↓shape_cores, ↓shape_cvu, ↓shape_compares, ↓shape_latches, ↓shape_tsq, ↓shape_netPorts, updAt_length])
    | with_reducible refine keeps_next ?_
    | (with_reducible first | refine (State.raise_shape ..).trans ?_ | refine (State.endAu_shape ..).trans ?_ | refine (State.loseCore_shape ..).trans ?_)
    | ((conv => arg 1; arg 1); split)
    | (extract_lets +onlyGivenNames x; clear_value (e : x = _); first | (subst e))

theorem execAuBudgetExpiry_shape (st : StreamId) (stop : Nat) (res : AuResult) (s : State) : Keeps s (execAuBudgetExpiry st stop res s) := by
  unfold execAuBudgetExpiry
  repeat' first
    | with_reducible rfl
    | with_reducible refine keeps_next ?_
    | (with_reducible first | refine (State.advanceTo_shape ..).trans ?_ | refine (State.overrun_shape ..).trans ?_)
    | ((conv => arg 1; arg 1); split)

theorem decodeStatusBody_shape (c : Cmd) (s : State) : RanShape (decodeStatusBody c s) s.shape := by
  unfold decodeStatusBody
  repeat' first
    | with_reducible rfl
    | ((conv => lhs; arg 1; arg 25); exact rfl)
    | (with_reducible first | refine (refuse_shape ..).trans ?_ | refine (answer_shape ..).trans ?_)
    | (extract_lets +onlyGivenNames x; clear_value (e : x = _); first | (subst e))
    | split

theorem execDecodeStatus_shape (c : Cmd) (s : State) : Keeps s (execDecodeStatus c s) := by
  unfold execDecodeStatus
  repeat' first
    | with_reducible rfl
    | with_reducible refine keeps_next ?_
    | with_reducible refine hostCmd_shape _ _ _ _ _ (fun _ _ => ?_)
    | (with_reducible first | refine (decodeStatusBody_shape ..).trans ?_)

theorem execDecodeCores_shape (c : Cmd) (s : State) : Keeps s (execDecodeCores c s) := by
  unfold execDecodeCores
  repeat' first
    | with_reducible rfl
    | with_reducible refine keeps_next ?_
    | with_reducible refine hostCmd_shape _ _ _ _ _ (fun _ _ => ?_)
    | (with_reducible first | refine (answer_shape ..).trans ?_)

/-! ### SynthOps -/

theorem State.sourceCheck_shape (s : State) (get : Nat → Nat) (blanket : Bool) : (State.sourceCheck s get blanket).shape = s.shape := by
  unfold State.sourceCheck
  repeat' first
    | with_reducible assumption
    | ((conv => lhs; arg 1; arg 25); exact rfl)
    | (extract_lets +onlyGivenNames x; clear_value (e : x = _); first | (subst e))
    | split

theorem State.sourceRaise_shape (s : State) : (State.sourceRaise s).shape = s.shape := by
  unfold State.sourceRaise
  repeat' first
    | with_reducible rfl
    | ((conv => lhs; arg 1; arg 25); exact rfl)
    | (with_reducible first | refine (State.raise_shape ..).trans ?_)
    | split

theorem State.ladder_shape (s : State) (get : Nat → Nat) (f : Nat) (g : Geom) (lists : List (List (List RTile))) (tp : Frac) : FstShape (State.ladder s get f g lists tp) s.shape := by
  unfold State.ladder
  repeat' first
    | ((conv => lhs; arg 1; arg 25); exact rfl)
    | (with_reducible first | refine (State.raise_shape ..).trans ?_)
    | ((conv => lhs; arg 1; arg 1); split)
    | with_reducible refine fstShape_mk ?_

theorem State.fillAssemblers_shape (s : State) : (State.fillAssemblers s).shape = s.shape := rfl

/-! ### SelectOps -/

theorem State.sceneLate_shape (s : State) (slot num late kind : Nat) : (State.sceneLate s slot num late kind).shape = s.shape := by
  unfold State.sceneLate
  repeat' first
    | with_reducible rfl
    | (with_reducible first | refine (State.raise_shape ..).trans ?_)

theorem State.present_shape (s : State) (slot : Nat) (x : SFrame) (late : Nat) : (State.present s slot x late).shape = s.shape := by
  unfold State.present
  repeat' first
    | with_reducible rfl
    | (with_reducible first | refine (State.modScene_shape ..).trans ?_ | refine (State.sceneLate_shape ..).trans ?_)
    | ((conv => lhs; arg 1; arg 1); split)

theorem State.notReady_shape (s : State) (get : Nat → Nat) (slot : Nat) (x : SFrame) (due last : Int) : (State.notReady s get slot x due last).shape = s.shape := by
  unfold State.notReady
  repeat' first
    | with_reducible rfl
    | with_reducible assumption
    | (with_reducible first | refine (State.raise_shape ..).trans ?_ | refine (State.modScene_shape ..).trans ?_ | refine (State.sceneLate_shape ..).trans ?_)
    | (extract_lets +onlyGivenNames x; clear_value (e : x = _); first | (subst e))
    | split

theorem State.selectScene_shape (s : State) (t : Tim) (f : Nat) (paired : Bool) (get : Nat → Nat) (last : Int) (slot : Nat) : (State.selectScene s t f paired get last slot).shape = s.shape := by
  unfold State.selectScene
  repeat' first
    | with_reducible rfl
    | with_reducible assumption
    | with_reducible refine (shape_foldl _ (fun _ _ => ?_) _ _).trans ?_
    | (with_reducible first | refine (State.modScene_shape ..).trans ?_ | refine (State.dropFrame_shape ..).trans ?_ | refine (State.present_shape ..).trans ?_ | refine (State.notReady_shape ..).trans ?_)
    | (extract_lets +onlyGivenNames x; clear_value (e : x = _); first | (subst e))
    | split

theorem State.selectScenes_shape (s : State) (t : Tim) (f : Nat) (paired : Bool) (get : Nat → Nat) : (State.selectScenes s t f paired get).shape = s.shape := by
  unfold State.selectScenes
  repeat' first
    | with_reducible rfl
    | with_reducible assumption
    | ((conv => lhs; arg 1; arg 25); with_reducible refine (shape_mk ..).trans ?_; simp only [↓shape_mk, ↓shape_pending, ↓shape_mb, ↓shape_ports, ↓shape_tiles, ↓shape_chans, ↓shape_clusters, ↓shape_cores, ↓shape_cvu, ↓shape_compares, ↓shape_latches, ↓shape_tsq, ↓shape_netPorts, updAt_length])
    | with_reducible refine (shape_foldl _ (fun _ _ => ?_) _ _).trans ?_
    | (with_reducible first | refine (State.drainScene_shape ..).trans ?_ | refine (State.selectScene_shape ..).trans ?_)
    | (extract_lets +onlyGivenNames x; clear_value (e : x = _); first | (subst e))

theorem State.takeLists_shape (s : State) (states : List Nat) (lists : List (List (List RTile))) : (State.takeLists s states lists).shape = s.shape := by
  unfold State.takeLists
  repeat' first
    | ((conv => lhs; arg 1; arg 25); with_reducible refine (shape_mk ..).trans ?_; simp only [↓shape_mk, ↓shape_pending, ↓shape_mb, ↓shape_ports, ↓shape_tiles, ↓shape_chans, ↓shape_clusters, ↓shape_cores, ↓shape_cvu, ↓shape_compares, ↓shape_latches, ↓shape_tsq, ↓shape_netPorts, updAt_length, List.length_map, List.length_zipIdx])
    | (extract_lets +onlyGivenNames x; clear_value (e : x = _); first | (subst e))

theorem State.selectFrame_shape (s : State) (t : Tim) (f : Nat) (change : Bool) : (State.selectFrame s t f change).shape = s.shape := by
  unfold State.selectFrame
  repeat' first
    | with_reducible rfl
    | with_reducible assumption
    | ((conv => lhs; arg 1; arg 25); with_reducible refine (shape_mk ..).trans ?_; simp only [↓shape_mk, ↓shape_pending, ↓shape_mb, ↓shape_ports, ↓shape_tiles, ↓shape_chans, ↓shape_clusters, ↓shape_cores, ↓shape_cvu, ↓shape_compares, ↓shape_latches, ↓shape_tsq, ↓shape_netPorts, updAt_length])
    | (with_reducible first | refine (State.sourceCheck_shape ..).trans ?_ | refine (State.ladder_shape ..).trans ?_ | refine (State.fillAssemblers_shape ..).trans ?_ | refine (State.selectScenes_shape ..).trans ?_ | refine (State.takeLists_shape ..).trans ?_)
    | with_reducible refine fstShape_eq ?_
    | ((conv => arg 1; arg 1); split)
    | (extract_lets +onlyGivenNames x; clear_value (e : x = _); first | (subst e))

/-! ### SynthRows -/

theorem geomInfoBody_shape (c : Cmd) (s : State) : RanShape (geomInfoBody c s) s.shape := by
  unfold geomInfoBody
  repeat' first
    | with_reducible rfl
    | (with_reducible first | refine (refuse_shape ..).trans ?_ | refine (answer_shape ..).trans ?_)
    | split

theorem execGeomInfo_shape (c : Cmd) (s : State) : Keeps s (execGeomInfo c s) := by
  unfold execGeomInfo
  repeat' first
    | with_reducible rfl
    | with_reducible refine keeps_next ?_
    | with_reducible refine hostCmd_shape _ _ _ _ _ (fun _ _ => ?_)
    | (with_reducible first | refine (geomInfoBody_shape ..).trans ?_)

theorem geomRayBody_shape (c : Cmd) (s : State) : RanShape (geomRayBody c s) s.shape := by
  unfold geomRayBody
  repeat' first
    | with_reducible rfl
    | (with_reducible first | refine (refuse_shape ..).trans ?_ | refine (answer_shape ..).trans ?_)
    | (extract_lets +onlyGivenNames x; clear_value (e : x = _); first | (subst e))
    | split

theorem execGeomRay_shape (c : Cmd) (s : State) : Keeps s (execGeomRay c s) := by
  unfold execGeomRay
  repeat' first
    | with_reducible rfl
    | with_reducible refine keeps_next ?_
    | with_reducible refine hostCmd_shape _ _ _ _ _ (fun _ _ => ?_)
    | (with_reducible first | refine (geomRayBody_shape ..).trans ?_)

theorem synthStatusBody_shape (c : Cmd) (s : State) : RanShape (synthStatusBody c s) s.shape := by
  unfold synthStatusBody
  repeat' first
    | with_reducible rfl
    | ((conv => lhs; arg 1; arg 25); exact rfl)
    | (with_reducible first | refine (refuse_shape ..).trans ?_ | refine (answer_shape ..).trans ?_)
    | ((conv => lhs; arg 1; arg 1); split)

theorem execSynthStatus_shape (c : Cmd) (s : State) : Keeps s (execSynthStatus c s) := by
  unfold execSynthStatus
  repeat' first
    | with_reducible rfl
    | with_reducible refine keeps_next ?_
    | with_reducible refine hostCmd_shape _ _ _ _ _ (fun _ _ => ?_)
    | (with_reducible first | refine (synthStatusBody_shape ..).trans ?_)

theorem synthProbeBody_shape (c : Cmd) (s : State) : RanShape (synthProbeBody c s) s.shape := by
  unfold synthProbeBody
  repeat' first
    | with_reducible rfl
    | (with_reducible first | refine (refuse_shape ..).trans ?_ | refine (answer_shape ..).trans ?_)
    | split

theorem execSynthProbe_shape (c : Cmd) (s : State) : Keeps s (execSynthProbe c s) := by
  unfold execSynthProbe
  repeat' first
    | with_reducible rfl
    | with_reducible refine keeps_next ?_
    | with_reducible refine hostCmd_shape _ _ _ _ _ (fun _ _ => ?_)
    | (with_reducible first | refine (synthProbeBody_shape ..).trans ?_)

theorem execRayTileDispatch_shape (cluster : Nat) (s : State) : Keeps s (execRayTileDispatch cluster s) := by
  unfold execRayTileDispatch
  repeat' first
    | with_reducible rfl
    | ((conv => lhs; arg 1; arg 25); with_reducible refine (shape_mk ..).trans ?_; simp only [↓shape_mk, ↓shape_pending, ↓shape_mb, ↓shape_ports, ↓shape_tiles, ↓shape_chans, ↓shape_clusters, ↓shape_cores, ↓shape_cvu, ↓shape_compares, ↓shape_latches, ↓shape_tsq, ↓shape_netPorts, updAt_length])
    | with_reducible refine keeps_next ?_
    | (with_reducible first | refine (State.modCluster_shape ..).trans ?_)
    | ((conv => arg 1; arg 1); split)

theorem State.putWait_shape (s : State) (t : RTile) (wait : Nat) : (State.putWait s t wait).shape = s.shape := rfl

theorem State.deliver_shape (s : State) (t : RTile) : (State.deliver s t).shape = s.shape := by
  unfold State.deliver
  repeat' first
    | with_reducible rfl
    | ((conv => lhs; arg 1; arg 25); exact rfl)
    | (extract_lets +onlyGivenNames x; clear_value (e : x = _); first | (subst e))
    | split

theorem execRayTileRetire_shape (cluster wait : Nat) (s : State) : Keeps s (execRayTileRetire cluster wait s) := by
  unfold execRayTileRetire
  repeat' first
    | with_reducible rfl
    | with_reducible refine keeps_next ?_
    | (with_reducible first | refine (State.modCluster_shape ..).trans ?_ | refine (State.putWait_shape ..).trans ?_ | refine (State.deliver_shape ..).trans ?_)
    | ((conv => arg 1; arg 1); split)

theorem execRayTileTimeout_shape (cluster : Nat) (s : State) : Keeps s (execRayTileTimeout cluster s) := by
  unfold execRayTileTimeout
  repeat' first
    | with_reducible rfl
    | with_reducible assumption
    | ((conv => lhs; arg 1; arg 25); with_reducible refine (shape_mk ..).trans ?_; simp only [↓shape_mk, ↓shape_pending, ↓shape_mb, ↓shape_ports, ↓shape_tiles, ↓shape_chans, ↓shape_clusters, ↓shape_cores, ↓shape_cvu, ↓shape_compares, ↓shape_latches, ↓shape_tsq, ↓shape_netPorts, updAt_length])
    | with_reducible refine keeps_next ?_
    | (with_reducible first | refine (State.advanceTo_shape ..).trans ?_ | refine (State.raise_shape ..).trans ?_ | refine (State.modCluster_shape ..).trans ?_ | refine (State.reassign_shape ..).trans ?_ | refine (State.powerSync_shape ..).trans ?_ | refine (State.failCluster_shape ..).trans ?_)
    | ((conv => arg 1; arg 1); split)
    | (extract_lets +onlyGivenNames x; clear_value (e : x = _); first | (subst e))

theorem State.escalate_shape (s : State) (x : FrameFix) (sf q : Nat) : (State.escalate s x sf q).shape = s.shape := by
  unfold State.escalate
  repeat' first
    | ((conv => lhs; arg 1; arg 25); with_reducible refine (shape_mk ..).trans ?_; simp only [↓shape_mk, ↓shape_pending, ↓shape_mb, ↓shape_ports, ↓shape_tiles, ↓shape_chans, ↓shape_clusters, ↓shape_cores, ↓shape_cvu, ↓shape_compares, ↓shape_latches, ↓shape_tsq, ↓shape_netPorts, updAt_length, List.length_map])
    | (with_reducible first | refine (State.raise_shape ..).trans ?_)

theorem execForecastQuarterCheck_shape (s : State) : Keeps s (execForecastQuarterCheck s) := by
  unfold execForecastQuarterCheck
  repeat' first
    | with_reducible rfl
    | with_reducible assumption
    | ((conv => lhs; arg 1; arg 25); exact rfl)
    | with_reducible refine keeps_next ?_
    | (with_reducible first | refine (State.advanceTo_shape ..).trans ?_ | refine (State.escalate_shape ..).trans ?_)
    | ((conv => arg 1; arg 1); split)
    | (extract_lets +onlyGivenNames x; clear_value (e : x = _); first | (subst e))

end Sys2Proof.Machine
end

