-- ==== Sys2Proof/Laws/ShapePanel.lean ====
section
/-! SUPPORT. Composition, timing, the panel: each keeps the shape of the state. -/

set_option linter.unusedSimpArgs false
set_option linter.unusedVariables false

namespace Sys2Proof.Machine

open Sys2Proof

/-! ### BandRows -/

theorem State.modScan_shape (s : State) (t : Nat) (f : TileScan → TileScan) : (State.modScan s t f).shape = s.shape := rfl

theorem State.takeTaps_shape (s : State) (x : FrameFix) (lt : LayTile) (b : Band) (ws : List RayWord) : (State.takeTaps s x lt b ws).shape = s.shape := by
  unfold State.takeTaps
  repeat' first
    | with_reducible rfl
    | ((conv => lhs; arg 1; arg 25); exact rfl)
    | with_reducible refine (shape_foldl _ (fun _ _ => ?_) _ _).trans ?_
    | ((conv => arg 1; arg 1); split)
    | (extract_lets +onlyGivenNames x; clear_value (e : x = _); first | (subst e))

theorem State.modFix_shape (s : State) (frame : Nat) (f : FrameFix → FrameFix) : (State.modFix s frame f).shape = s.shape := rfl

theorem State.fixAbl_shape (s : State) (frame : Nat) : (State.fixAbl s frame).shape = s.shape := by
  unfold State.fixAbl
  repeat' first
    | with_reducible rfl
    | with_reducible assumption
    | ((conv => lhs; arg 1; arg 25); exact rfl)
    | (with_reducible first | refine (State.raise_shape ..).trans ?_ | refine (State.modFix_shape ..).trans ?_)
    | (extract_lets +onlyGivenNames x; clear_value (e : x = _); first | (subst e))
    | split

theorem State.addLum_shape (s : State) (b : Band) (bands w h sum : Nat) (peak : Frac) : (State.addLum s b bands w h sum peak).shape = s.shape := rfl

theorem State.excursionAt_shape (s : State) (x : FrameFix) (abl t k : Nat) : (State.excursionAt s x abl t k).shape = s.shape := by
  unfold State.excursionAt
  repeat' first
    | with_reducible rfl
    | with_reducible assumption
    | ((conv => lhs; arg 1; arg 25); exact rfl)
    | (with_reducible first | refine (State.raise_shape ..).trans ?_ | refine (State.modTile_shape ..).trans ?_ | refine (State.safeByFault_shape ..).trans ?_)
    | (extract_lets +onlyGivenNames x; clear_value (e : x = _); first | (subst e))
    | split

theorem State.excursion_shape (s : State) (x : FrameFix) (b : Band) (bands abl : Nat) : (State.excursion s x b bands abl).shape = s.shape := by
  unfold State.excursion
  repeat' first
    | with_reducible rfl
    | (with_reducible first | refine (State.excursionAt_shape ..).trans ?_)
    | ((conv => lhs; arg 1; arg 1); split)

theorem State.putCells_shape (s : State) (b : Band) (w : Nat) (peak : Frac) (ys : List (List Frac)) : (State.putCells s b w peak ys).shape = s.shape := rfl

theorem State.countBlocks_shape (s : State) (x : FrameFix) (lt : LayTile) (px : List Px) (rows : List RowEnt) : (State.countBlocks s x lt px rows).shape = s.shape := rfl

theorem State.compressBand_shape (s : State) (x : FrameFix) (lt : LayTile) (b : Band) : (State.compressBand s x lt b).shape = s.shape := by
  unfold State.compressBand
  repeat' first
    | with_reducible rfl
    | ((conv => lhs; arg 1; arg 25); with_reducible refine (shape_mk ..).trans ?_; simp only [↓shape_mk, ↓shape_pending, ↓shape_mb, ↓shape_ports, ↓shape_tiles, ↓shape_chans, ↓shape_clusters, ↓shape_cores, ↓shape_cvu, ↓shape_compares, ↓shape_latches, ↓shape_tsq, ↓shape_netPorts, updAt_length])
    | (with_reducible first | refine (State.fillAssemblers_shape ..).trans ?_ | refine (State.modScan_shape ..).trans ?_ | refine (State.takeTaps_shape ..).trans ?_ | refine (State.fixAbl_shape ..).trans ?_ | refine (State.addLum_shape ..).trans ?_ | refine (State.excursion_shape ..).trans ?_ | refine (State.putCells_shape ..).trans ?_ | refine (State.countBlocks_shape ..).trans ?_)
    | ((conv => lhs; arg 1; arg 1); split)

theorem execBandCompress_shape (tile : Nat) (s : State) : Keeps s (execBandCompress tile s) := by
  unfold execBandCompress
  repeat' first
    | with_reducible rfl
    | with_reducible refine keeps_next ?_
    | (with_reducible first | refine (State.compressBand_shape ..).trans ?_)
    | ((conv => arg 1; arg 1); split)
    | (extract_lets +onlyGivenNames x; clear_value (e : x = _); first | (subst e))

/-! ### ScanOps -/

theorem State.cutTile_shape (s : State) (t : Nat) : (State.cutTile s t).shape = s.shape := by
  unfold State.cutTile
  repeat' first
    | with_reducible rfl
    | with_reducible assumption
    | ((conv => lhs; arg 1; arg 25); exact rfl)
    | (with_reducible first | refine (State.raise_shape ..).trans ?_ | refine (State.modScan_shape ..).trans ?_)
    | ((conv => lhs; arg 1; arg 1); split)
    | (extract_lets +onlyGivenNames x; clear_value (e : x = _); first | (subst e))

theorem State.cutoff_shape (s : State) : (State.cutoff s).shape = s.shape := by
  unfold State.cutoff
  repeat' first
    | ((conv => lhs; arg 1; arg 25); with_reducible refine (shape_mk ..).trans ?_; simp only [↓shape_mk, ↓shape_pending, ↓shape_mb, ↓shape_ports, ↓shape_tiles, ↓shape_chans, ↓shape_clusters, ↓shape_cores, ↓shape_cvu, ↓shape_compares, ↓shape_latches, ↓shape_tsq, ↓shape_netPorts, updAt_length])
    | with_reducible refine (shape_foldl _ (fun _ _ => ?_) _ _).trans ?_
    | (with_reducible first | refine (State.cutTile_shape ..).trans ?_)
    | ((conv => lhs; arg 1; arg 1); split)
    | simp only [↓shape_clusters, ↓shape_mb, ↓shape_chans, ↓shape_ports, ↓shape_tiles, ↓shape_cores, ↓shape_cvu, shape_eta]

theorem State.freezeTile_shape (s : State) (x : FrameFix) (t : Nat) : (State.freezeTile s x t).shape = s.shape := by
  unfold State.freezeTile
  repeat' first
    | with_reducible rfl
    | with_reducible assumption
    | ((conv => lhs; arg 1; arg 25); exact rfl)
    | (with_reducible first | refine (State.raise_shape ..).trans ?_ | refine (State.safeByFault_shape ..).trans ?_ | refine (State.modScan_shape ..).trans ?_)
    | (extract_lets +onlyGivenNames x; clear_value (e : x = _); first | (subst e))
    | split

theorem State.freezeCheck_shape (s : State) : (State.freezeCheck s).shape = s.shape := by
  unfold State.freezeCheck
  repeat' first
    | with_reducible rfl
    | with_reducible refine (shape_foldl _ (fun _ _ => ?_) _ _).trans ?_
    | (with_reducible first | refine (State.freezeTile_shape ..).trans ?_)
    | split

theorem State.takeModes_shape (s : State) : (State.takeModes s).shape = s.shape := by
  unfold State.takeModes
  repeat' first
    | with_reducible rfl
    | ((conv => lhs; arg 1; arg 25); exact rfl)
    | (extract_lets +onlyGivenNames x; clear_value (e : x = _); first | (subst e))
    | split

theorem State.firstContent_shape (s : State) (t : Nat) : (State.firstContent s t).shape = s.shape := by
  unfold State.firstContent
  repeat' first
    | with_reducible rfl
    | (with_reducible first | refine (State.modTile_shape ..).trans ?_ | refine (State.panelPower_shape ..).trans ?_)
    | ((conv => lhs; arg 1; arg 1); split)

theorem State.startTile_shape (s : State) (e : SubEnd) (whole : List Nat) (t : Nat) : (State.startTile s e whole t).shape = s.shape := by
  unfold State.startTile
  repeat' first
    | (with_reducible first | refine (State.modTile_shape ..).trans ?_ | refine (State.sendHold_shape ..).trans ?_ | refine (State.neutral_shape ..).trans ?_ | refine (State.sendStart_shape ..).trans ?_ | refine (State.firstContent_shape ..).trans ?_)
    | ((conv => lhs; arg 1; arg 1); split)
    | simp only [↓shape_clusters, ↓shape_mb, ↓shape_chans, ↓shape_ports, ↓shape_tiles, ↓shape_cores, ↓shape_cvu, shape_eta]

theorem State.sendLedger_shape (s : State) (e : SubEnd) : (State.sendLedger s e).shape = s.shape := by
  unfold State.sendLedger
  repeat' first
    | with_reducible rfl
    | (with_reducible first | refine (State.emit_shape ..).trans ?_)
    | ((conv => lhs; arg 1; arg 1); split)

theorem State.sendStarts_shape (s : State) (e : SubEnd) (whole : List Nat) : (State.sendStarts s e whole).shape = s.shape := by
  unfold State.sendStarts
  repeat' first
    | with_reducible rfl
    | with_reducible refine (shape_foldl _ (fun _ _ => ?_) _ _).trans ?_
    | (with_reducible first | refine (State.settleTilePower_shape ..).trans ?_ | refine (State.startTile_shape ..).trans ?_ | refine (State.sendLedger_shape ..).trans ?_)

theorem State.sendDark_shape (s : State) (e : SubEnd) : (State.sendDark s e).shape = s.shape := by
  unfold State.sendDark
  repeat' first
    | with_reducible rfl
    | with_reducible refine (shape_foldl _ (fun _ _ => ?_) _ _).trans ?_
    | (with_reducible first | refine (State.modTile_shape ..).trans ?_ | refine (State.sendStart_shape ..).trans ?_ | refine (State.sendLedger_shape ..).trans ?_)

theorem State.sendLast_shape (s : State) (l : LastSub) : (State.sendLast s l).shape = s.shape := by
  unfold State.sendLast
  repeat' first
    | with_reducible rfl
    | ((conv => lhs; arg 1; arg 25); with_reducible refine (shape_mk ..).trans ?_; simp only [↓shape_mk, ↓shape_pending, ↓shape_mb, ↓shape_ports, ↓shape_tiles, ↓shape_chans, ↓shape_clusters, ↓shape_cores, ↓shape_cvu, ↓shape_compares, ↓shape_latches, ↓shape_tsq, ↓shape_netPorts, updAt_length])
    | with_reducible refine (shape_foldl _ (fun _ _ => ?_) _ _).trans ?_
    | (with_reducible first | refine (State.sendHold_shape ..).trans ?_ | refine (State.sendDark_shape ..).trans ?_)
    | split

theorem State.endTaps_shape (s : State) : (State.endTaps s).shape = s.shape := by
  unfold State.endTaps
  repeat' first
    | with_reducible rfl
    | ((conv => lhs; arg 1; arg 25); exact rfl)
    | ((conv => arg 1; arg 1); split)
    | (extract_lets +onlyGivenNames x; clear_value (e : x = _); first | (subst e))

theorem State.beginTaps_shape (s : State) (old : Option FrameFix) (new : FrameFix) : (State.beginTaps s old new).shape = s.shape := rfl

theorem State.fireCue_shape (s : State) (slot : Nat) (c : Cue) (late dropped : Bool) : (State.fireCue s slot c late dropped).shape = s.shape := by
  unfold State.fireCue
  repeat' first
    | with_reducible rfl
    | (with_reducible first | refine (State.raise_shape ..).trans ?_)

theorem State.sceneCues_shape (s : State) (slot : Nat) : (State.sceneCues s slot).shape = s.shape := by
  unfold State.sceneCues
  repeat' first
    | with_reducible rfl
    | with_reducible refine (shape_foldl _ (fun _ _ => ?_) _ _).trans ?_
    | (with_reducible first | refine (State.modScene_shape ..).trans ?_ | refine (State.fireCue_shape ..).trans ?_)
    | split

theorem State.frameMark_shape (s : State) : (State.frameMark s).shape = s.shape := by
  unfold State.frameMark
  repeat' first
    | with_reducible rfl
    | (with_reducible first | refine (State.raise_shape ..).trans ?_)
    | ((conv => lhs; arg 1; arg 1); split)
    | (extract_lets +onlyGivenNames x; clear_value (e : x = _); first | (subst e))

theorem State.timLock_shape (s : State) (what : Nat) : (State.timLock s what).shape = s.shape := by
  unfold State.timLock
  repeat' first
    | with_reducible rfl
    | (with_reducible first | refine (State.raise_shape ..).trans ?_)

theorem State.servo_shape (s : State) : (State.servo s).shape = s.shape := by
  unfold State.servo
  repeat' first
    | with_reducible assumption
    | ((conv => lhs; arg 1; arg 25); first | exact rfl | assumption)
    | (with_reducible first | refine (State.takeFree_shape ..).trans ?_ | refine (State.timLock_shape ..).trans ?_)
    | with_reducible refine fstShape_eq ?_
    | (extract_lets +onlyGivenNames x; clear_value (e : x = _); first | (with_reducible refine shape_cut x ?_ (fun _ => ?_); (subst e); rotate_left; clear e) | (subst e))
    | with_reducible refine fstShape_eq ?_
    | with_reducible refine ranShape_eq ?_
    | split
    | with_reducible refine fstShape_mk ?_
    | simp only [↓shape_clusters, ↓shape_mb, ↓shape_chans, ↓shape_ports, ↓shape_tiles, ↓shape_cores, ↓shape_cvu, shape_eta]
    | dsimp only

theorem State.encPicture_shape (s : State) (n w : Nat) (codes : List Nat) : (State.encPicture s n w codes).shape = s.shape := by
  unfold State.encPicture
  repeat' first
    | with_reducible rfl
    | (with_reducible first | refine (State.emit_shape ..).trans ?_)
    | ((conv => lhs; arg 1; arg 1); split)
    | (extract_lets +onlyGivenNames x; clear_value (e : x = _); first | (subst e))

theorem State.returnPicture_shape (s : State) : (State.returnPicture s).shape = s.shape := by
  unfold State.returnPicture
  repeat' first
    | with_reducible rfl
    | with_reducible assumption
    | ((conv => lhs; arg 1; arg 25); exact rfl)
    | with_reducible refine (shape_foldl _ (fun _ _ => ?_) _ _).trans ?_
    | (with_reducible first | refine (State.emit_shape ..).trans ?_ | refine (State.encPicture_shape ..).trans ?_)
    | ((conv => lhs; arg 1; arg 1); split)
    | (extract_lets +onlyGivenNames x; clear_value (e : x = _); first | (subst e))

theorem State.frameCounts_shape (s : State) : (State.frameCounts s).shape = s.shape := rfl

theorem State.frameValues_shape (s : State) : (State.frameValues s).shape = s.shape := by
  unfold State.frameValues
  repeat' first
    | with_reducible rfl
    | with_reducible assumption
    | (with_reducible first | refine (State.applyPanel_shape ..).trans ?_ | refine (State.gainSwap_shape ..).trans ?_)
    | (extract_lets +onlyGivenNames x; clear_value (e : x = _); first | (subst e))
    | split

theorem State.takeNext_shape (s : State) : (State.takeNext s).shape = s.shape := by
  unfold State.takeNext
  repeat' first
    | with_reducible rfl
    | with_reducible assumption
    | ((conv => lhs; arg 1; arg 25); with_reducible refine (shape_mk ..).trans ?_; simp only [↓shape_mk, ↓shape_pending, ↓shape_mb, ↓shape_ports, ↓shape_tiles, ↓shape_chans, ↓shape_clusters, ↓shape_cores, ↓shape_cvu, ↓shape_compares, ↓shape_latches, ↓shape_tsq, ↓shape_netPorts, updAt_length])
    | (with_reducible first | refine (State.fixAbl_shape ..).trans ?_ | refine (State.beginTaps_shape ..).trans ?_)
    | (extract_lets +onlyGivenNames x; clear_value (e : x = _); first | (subst e))
    | split

theorem State.lateSelect_shape (s : State) : (State.lateSelect s).shape = s.shape := by
  unfold State.lateSelect
  repeat' first
    | with_reducible rfl
    | (with_reducible first | refine (State.selectFrame_shape ..).trans ?_)
    | ((conv => lhs; arg 1; arg 1); split)

theorem State.changeFrame_shape (s : State) (m : ModeChange) : (State.changeFrame s m).shape = s.shape := by
  unfold State.changeFrame
  repeat' first
    | with_reducible rfl
    | with_reducible assumption
    | ((conv => lhs; arg 1; arg 25); with_reducible refine (shape_mk ..).trans ?_; simp only [↓shape_mk, ↓shape_pending, ↓shape_mb, ↓shape_ports, ↓shape_tiles, ↓shape_chans, ↓shape_clusters, ↓shape_cores, ↓shape_cvu, ↓shape_compares, ↓shape_latches, ↓shape_tsq, ↓shape_netPorts, updAt_length, List.length_map])
    | with_reducible refine (shape_foldl _ (fun _ _ => ?_) _ _).trans ?_
    | (with_reducible first | refine (State.sendHold_shape ..).trans ?_)
    | ((conv => lhs; arg 1; arg 1); split)
    | (extract_lets +onlyGivenNames x; clear_value (e : x = _); first | (subst e))

theorem State.frameBegin_shape (s : State) : (State.frameBegin s).shape = s.shape := by
  unfold State.frameBegin
  repeat' first
    | with_reducible assumption
    | ((conv => lhs; arg 1; arg 25); with_reducible refine (shape_mk ..).trans ?_; simp only [↓shape_mk, ↓shape_pending, ↓shape_mb, ↓shape_ports, ↓shape_tiles, ↓shape_chans, ↓shape_clusters, ↓shape_cores, ↓shape_cvu, ↓shape_compares, ↓shape_latches, ↓shape_tsq, ↓shape_netPorts, updAt_length])
    | with_reducible refine (shape_foldl _ (fun _ _ => ?_) _ _).trans ?_
    | (with_reducible first | refine (State.netFrame_shape ..).trans ?_ | refine (State.encFrame_shape ..).trans ?_ | refine (State.sourceRaise_shape ..).trans ?_ | refine (State.endTaps_shape ..).trans ?_ | refine (State.sceneCues_shape ..).trans ?_ | refine (State.frameMark_shape ..).trans ?_ | refine (State.servo_shape ..).trans ?_ | refine (State.returnPicture_shape ..).trans ?_ | refine (State.frameCounts_shape ..).trans ?_ | refine (State.frameValues_shape ..).trans ?_ | refine (State.takeNext_shape ..).trans ?_ | refine (State.lateSelect_shape ..).trans ?_ | refine (State.changeFrame_shape ..).trans ?_)
    | with_reducible refine fstShape_eq ?_
    | with_reducible refine fstShape_eq ?_
    | with_reducible refine ranShape_eq ?_
    | split
    | with_reducible refine fstShape_mk ?_
    | simp only [↓shape_clusters, ↓shape_mb, ↓shape_chans, ↓shape_ports, ↓shape_tiles, ↓shape_cores, ↓shape_cvu, shape_eta]
    | dsimp only

theorem State.purge_shape (s : State) : (State.purge s).shape = s.shape := by
  unfold State.purge
  repeat' first
    | ((conv => lhs; arg 1; arg 25); with_reducible refine (shape_mk ..).trans ?_; simp only [↓shape_mk, ↓shape_pending, ↓shape_mb, ↓shape_ports, ↓shape_tiles, ↓shape_chans, ↓shape_clusters, ↓shape_cores, ↓shape_cvu, ↓shape_compares, ↓shape_latches, ↓shape_tsq, ↓shape_netPorts, updAt_length, List.length_map])

theorem State.firstRows_shape (s : State) : (State.firstRows s).shape = s.shape := by
  unfold State.firstRows
  repeat' first
    | with_reducible rfl
    | ((conv => lhs; arg 1; arg 25); with_reducible refine (shape_mk ..).trans ?_; simp only [↓shape_mk, ↓shape_pending, ↓shape_mb, ↓shape_ports, ↓shape_tiles, ↓shape_chans, ↓shape_clusters, ↓shape_cores, ↓shape_cvu, ↓shape_compares, ↓shape_latches, ↓shape_tsq, ↓shape_netPorts, updAt_length])
    | with_reducible refine (shape_foldl _ (fun _ _ => ?_) _ _).trans ?_
    | (with_reducible first | refine (State.raise_shape ..).trans ?_ | refine (State.sendHold_shape ..).trans ?_ | refine (State.modScan_shape ..).trans ?_)
    | ((conv => lhs; arg 1; arg 1); split)
    | (extract_lets +onlyGivenNames x; clear_value (e : x = _); first | (subst e))

theorem State.emitOn_shape (s : State) : (State.emitOn s).shape = s.shape := by
  unfold State.emitOn
  repeat' first
    | with_reducible rfl
    | with_reducible refine (shape_foldl _ (fun _ _ => ?_) _ _).trans ?_
    | (with_reducible first | refine (State.modTile_shape ..).trans ?_ | refine (State.sendPower_shape ..).trans ?_)
    | ((conv => lhs; arg 1; arg 1); split)
    | (extract_lets +onlyGivenNames x; clear_value (e : x = _); first | (subst e))

theorem State.subframeBegin_shape (s : State) : (State.subframeBegin s).shape = s.shape := by
  unfold State.subframeBegin
  repeat' first
    | with_reducible rfl
    | with_reducible assumption
    | ((conv => lhs; arg 1; arg 25); with_reducible refine (shape_mk ..).trans ?_; simp only [↓shape_mk, ↓shape_pending, ↓shape_mb, ↓shape_ports, ↓shape_tiles, ↓shape_chans, ↓shape_clusters, ↓shape_cores, ↓shape_cvu, ↓shape_compares, ↓shape_latches, ↓shape_tsq, ↓shape_netPorts, updAt_length, List.length_map])
    | with_reducible refine (shape_foldl _ (fun _ _ => ?_) _ _).trans ?_
    | (with_reducible first | refine (State.modTile_shape ..).trans ?_ | refine (State.fillAssemblers_shape ..).trans ?_ | refine (State.purge_shape ..).trans ?_ | refine (State.firstRows_shape ..).trans ?_ | refine (State.emitOn_shape ..).trans ?_)
    | ((conv => lhs; arg 1; arg 1); split)
    | (extract_lets +onlyGivenNames x; clear_value (e : x = _); first | (subst e))

theorem State.keptCheck_shape (s : State) : (State.keptCheck s).shape = s.shape := by
  unfold State.keptCheck
  repeat' first
    | with_reducible rfl
    | with_reducible refine (shape_foldl _ (fun _ _ => ?_) _ _).trans ?_
    | (with_reducible first | refine (State.excursionAt_shape ..).trans ?_)
    | split

theorem State.wakeStart_shape (s : State) : (State.wakeStart s).shape = s.shape := by
  unfold State.wakeStart
  repeat' first
    | with_reducible rfl
    | ((conv => lhs; arg 1; arg 25); exact rfl)
    | with_reducible refine (shape_foldl _ (fun _ _ => ?_) _ _).trans ?_
    | (with_reducible first | refine (State.sendHold_shape ..).trans ?_ | refine (State.sendStart_shape ..).trans ?_)

theorem State.endEnter_shape (s : State) : (State.endEnter s).shape = s.shape := by
  unfold State.endEnter
  repeat' first
    | with_reducible rfl
    | (with_reducible first | refine (State.endJobs_shape ..).trans ?_)

theorem State.parasolGo_shape (s : State) (whole : List Nat) : (State.parasolGo s whole).shape = s.shape := by
  unfold State.parasolGo
  repeat' first
    | with_reducible rfl
    | ((conv => lhs; arg 1; arg 25); with_reducible refine (shape_mk ..).trans ?_; simp only [↓shape_mk, ↓shape_pending, ↓shape_mb, ↓shape_ports, ↓shape_tiles, ↓shape_chans, ↓shape_clusters, ↓shape_cores, ↓shape_cvu, ↓shape_compares, ↓shape_latches, ↓shape_tsq, ↓shape_netPorts, updAt_length])
    | with_reducible refine (shape_foldl _ (fun _ _ => ?_) _ _).trans ?_
    | (with_reducible first | refine (State.modTile_shape ..).trans ?_ | refine (State.stopGrid_shape ..).trans ?_ | refine (State.enter_shape ..).trans ?_ | refine (State.panelParasol_shape ..).trans ?_ | refine (State.endEnter_shape ..).trans ?_)

theorem State.parasolSag_shape (s : State) (e : SubEnd) : (State.parasolSag s e).shape = s.shape := by
  unfold State.parasolSag
  repeat' first
    | with_reducible rfl
    | ((conv => lhs; arg 1; arg 25); with_reducible refine (shape_mk ..).trans ?_; simp only [↓shape_mk, ↓shape_pending, ↓shape_mb, ↓shape_ports, ↓shape_tiles, ↓shape_chans, ↓shape_clusters, ↓shape_cores, ↓shape_cvu, ↓shape_compares, ↓shape_latches, ↓shape_tsq, ↓shape_netPorts, updAt_length])
    | with_reducible refine (shape_foldl _ (fun _ _ => ?_) _ _).trans ?_
    | (with_reducible first | refine (State.sendStart_shape ..).trans ?_ | refine (State.stopGrid_shape ..).trans ?_ | refine (State.panelParasol_shape ..).trans ?_ | refine (State.endEnter_shape ..).trans ?_)

/-! ### ScanRows -/

theorem State.markSelected_shape (s : State) : (State.markSelected s).shape = s.shape := rfl

theorem State.onlyFirst_shape (s : State) : (State.onlyFirst s).shape = s.shape := by
  unfold State.onlyFirst
  repeat' first
    | ((conv => lhs; arg 1; arg 25); with_reducible refine (shape_mk ..).trans ?_; simp only [↓shape_mk, ↓shape_pending, ↓shape_mb, ↓shape_ports, ↓shape_tiles, ↓shape_chans, ↓shape_clusters, ↓shape_cores, ↓shape_cvu, ↓shape_compares, ↓shape_latches, ↓shape_tsq, ↓shape_netPorts, updAt_length, List.length_map])
    | (extract_lets +onlyGivenNames x; clear_value (e : x = _); first | (subst e))

theorem State.selectHere_shape (s : State) : (State.selectHere s).shape = s.shape := by
  unfold State.selectHere
  repeat' first
    | with_reducible rfl
    | with_reducible assumption
    | (with_reducible first | refine (State.selectFrame_shape ..).trans ?_ | refine (State.onlyFirst_shape ..).trans ?_)
    | ((conv => lhs; arg 1; arg 1); split)
    | (extract_lets +onlyGivenNames x; clear_value (e : x = _); first | (subst e))

theorem State.selectNew_shape (s : State) (m : ModeChange) (tn : Nat) : (State.selectNew s m tn).shape = s.shape := by
  unfold State.selectNew
  repeat' first
    | ((conv => lhs; arg 1; arg 25); exact rfl)
    | (with_reducible first | refine (State.selectFrame_shape ..).trans ?_)

theorem State.atSelection_shape (s : State) : (State.atSelection s).shape = s.shape := by
  unfold State.atSelection
  repeat' first
    | with_reducible rfl
    | ((conv => lhs; arg 1; arg 25); exact rfl)
    | (with_reducible first | refine (State.dropCommit_shape ..).trans ?_ | refine (State.stopChange_shape ..).trans ?_ | refine (State.timLock_shape ..).trans ?_ | refine (State.markSelected_shape ..).trans ?_ | refine (State.selectHere_shape ..).trans ?_ | refine (State.selectNew_shape ..).trans ?_)
    | split

theorem execSelectionPoint_shape (s : State) : Keeps s (execSelectionPoint s) := by
  unfold execSelectionPoint
  repeat' first
    | with_reducible rfl
    | with_reducible refine keeps_next ?_
    | (with_reducible first | refine (State.advanceTo_shape ..).trans ?_ | refine (State.pairSelection_shape ..).trans ?_ | refine (State.atSelection_shape ..).trans ?_)
    | ((conv => lhs; arg 1; arg 1); split)
    | (extract_lets +onlyGivenNames x; clear_value (e : x = _); first | (subst e))

theorem State.switchBoundary_shape (s : State) : (State.switchBoundary s).shape = s.shape := by
  unfold State.switchBoundary
  repeat' first
    | with_reducible rfl
    | ((conv => lhs; arg 1; arg 25); exact rfl)
    | split

theorem State.boundaryStarts_shape (s : State) (e : SubEnd) (whole : List Nat) : (State.boundaryStarts s e whole).shape = s.shape := by
  unfold State.boundaryStarts
  repeat' first
    | with_reducible rfl
    | with_reducible assumption
    | ((conv => lhs; arg 1; arg 25); with_reducible refine (shape_mk ..).trans ?_; simp only [↓shape_mk, ↓shape_pending, ↓shape_mb, ↓shape_ports, ↓shape_tiles, ↓shape_chans, ↓shape_clusters, ↓shape_cores, ↓shape_cvu, ↓shape_compares, ↓shape_latches, ↓shape_tsq, ↓shape_netPorts, updAt_length])
    | (with_reducible first | refine (State.sendStarts_shape ..).trans ?_ | refine (State.sendDark_shape ..).trans ?_ | refine (State.sendLast_shape ..).trans ?_ | refine (State.wakeStart_shape ..).trans ?_)
    | (extract_lets +onlyGivenNames x; clear_value (e : x = _); first | (subst e))
    | split

theorem State.boundary_shape (s : State) : (State.boundary s).shape = s.shape := by
  unfold State.boundary
  repeat' first
    | with_reducible rfl
    | with_reducible assumption
    | (with_reducible first | refine (State.advanceTo_shape ..).trans ?_ | refine (State.epochBoundary_shape ..).trans ?_ | refine (State.settleAll_shape ..).trans ?_ | refine (State.cutoff_shape ..).trans ?_ | refine (State.freezeCheck_shape ..).trans ?_ | refine (State.takeModes_shape ..).trans ?_ | refine (State.frameBegin_shape ..).trans ?_ | refine (State.subframeBegin_shape ..).trans ?_ | refine (State.keptCheck_shape ..).trans ?_ | refine (State.parasolGo_shape ..).trans ?_ | refine (State.parasolSag_shape ..).trans ?_ | refine (State.switchBoundary_shape ..).trans ?_ | refine (State.boundaryStarts_shape ..).trans ?_)
    | ((conv => lhs; arg 1; arg 1); split)
    | (extract_lets +onlyGivenNames x; clear_value (e : x = _); first | (subst e))

theorem execSubframeBoundary_shape (s : State) : Keeps s (execSubframeBoundary s) := by
  unfold execSubframeBoundary
  repeat' first
    | with_reducible rfl
    | with_reducible refine keeps_next ?_
    | (with_reducible first | refine (State.boundary_shape ..).trans ?_)
    | ((conv => lhs; arg 1; arg 1); split)
    | (extract_lets +onlyGivenNames x; clear_value (e : x = _); first | (subst e))

theorem State.sendShareRow_shape (s : State) (t : Nat) (r : RowEnt) : (State.sendShareRow s t r).shape = s.shape := by
  unfold State.sendShareRow
  repeat' first
    | with_reducible rfl
    | (with_reducible first | refine (State.modTile_shape ..).trans ?_ | refine (State.sendRow_shape ..).trans ?_ | refine (State.modScan_shape ..).trans ?_)

theorem execBlockRow_shape (tile : Nat) (s : State) : Keeps s (execBlockRow tile s) := by
  unfold execBlockRow
  repeat' first
    | with_reducible rfl
    | with_reducible refine keeps_next ?_
    | (with_reducible first | refine (State.sendShareRow_shape ..).trans ?_)
    | ((conv => arg 1; arg 1); split)

theorem execRowCutoff_shape (s : State) : Keeps s (execRowCutoff s) := by
  unfold execRowCutoff
  repeat' first
    | with_reducible rfl
    | with_reducible refine keeps_next ?_
    | (with_reducible first | refine (State.advanceTo_shape ..).trans ?_ | refine (State.cutoff_shape ..).trans ?_)
    | ((conv => lhs; arg 1; arg 1); split)

theorem execKeepAlive_shape (s : State) : Keeps s (execKeepAlive s) := by
  unfold execKeepAlive
  repeat' first
    | with_reducible rfl
    | ((conv => lhs; arg 1; arg 25); exact rfl)
    | with_reducible refine keeps_next ?_
    | with_reducible refine (shape_foldl _ (fun _ _ => ?_) _ _).trans ?_
    | (with_reducible first | refine (State.advanceTo_shape ..).trans ?_ | refine (State.sendKeep_shape ..).trans ?_ | refine (State.emitOn_shape ..).trans ?_)
    | ((conv => lhs; arg 1; arg 1); split)
    | (extract_lets +onlyGivenNames x; clear_value (e : x = _); first | (subst e))

theorem execLatencyToleranceReport_shape (s : State) : Keeps s (execLatencyToleranceReport s) := by
  unfold execLatencyToleranceReport
  repeat' first
    | with_reducible rfl
    | ((conv => lhs; arg 1; arg 25); exact rfl)
    | with_reducible refine keeps_next ?_
    | (with_reducible first | refine (State.advanceTo_shape ..).trans ?_ | refine (State.emitOn_shape ..).trans ?_)
    | ((conv => lhs; arg 1; arg 1); split)

theorem execModeChangeNeutralPair_shape (s : State) : Keeps s (execModeChangeNeutralPair s) := by
  unfold execModeChangeNeutralPair
  repeat' first
    | with_reducible rfl
    | ((conv => lhs; arg 1; arg 25); exact rfl)
    | with_reducible refine keeps_next ?_
    | with_reducible refine (shape_foldl _ (fun _ _ => ?_) _ _).trans ?_
    | (with_reducible first | refine (State.advanceTo_shape ..).trans ?_ | refine (State.neutral_shape ..).trans ?_ | refine (State.changeNext_shape ..).trans ?_)
    | ((conv => arg 1; arg 1); split)

theorem State.newTiming_shape (s : State) (m : ModeChange) : (State.newTiming s m).shape = s.shape := by
  unfold State.newTiming
  repeat' first
    | with_reducible rfl
    | with_reducible assumption
    | ((conv => lhs; arg 1; arg 25); exact rfl)
    | with_reducible refine (shape_foldl _ (fun _ _ => ?_) _ _).trans ?_
    | (with_reducible first | refine (State.raise_shape ..).trans ?_ | refine (State.modTile_shape ..).trans ?_ | refine (State.sendPower_shape ..).trans ?_ | refine (State.restartTiles_shape ..).trans ?_ | refine (State.applyPanel_shape ..).trans ?_)
    | (extract_lets +onlyGivenNames x; clear_value (e : x = _); first | (subst e))
    | split

theorem execModeChangeTn_shape (s : State) : Keeps s (execModeChangeTn s) := by
  unfold execModeChangeTn
  repeat' first
    | with_reducible rfl
    | with_reducible refine keeps_next ?_
    | (with_reducible first | refine (State.advanceTo_shape ..).trans ?_ | refine (State.selectNew_shape ..).trans ?_ | refine (State.newTiming_shape ..).trans ?_)
    | ((conv => arg 1; arg 1); split)

theorem timStatusBody_shape (c : Cmd) (s : State) : RanShape (timStatusBody c s) s.shape := by
  unfold timStatusBody
  repeat' first
    | with_reducible rfl
    | ((conv => lhs; arg 1; arg 25); exact rfl)
    | (with_reducible first | refine (refuse_shape ..).trans ?_ | refine (answer_shape ..).trans ?_)
    | ((conv => lhs; arg 1; arg 1); split)

theorem execTimStatus_shape (c : Cmd) (s : State) : Keeps s (execTimStatus c s) := by
  unfold execTimStatus
  repeat' first
    | with_reducible rfl
    | with_reducible refine keeps_next ?_
    | with_reducible refine hostCmd_shape _ _ _ _ _ (fun _ _ => ?_)
    | (with_reducible first | refine (timStatusBody_shape ..).trans ?_)

theorem State.monReact_shape (s : State) : (State.monReact s).shape = s.shape := by
  unfold State.monReact
  repeat' first
    | with_reducible rfl
    | ((conv => lhs; arg 1; arg 25); exact rfl)
    | (with_reducible first | refine (State.takeFree_shape ..).trans ?_ | refine (State.monIdleNow_shape ..).trans ?_)
    | with_reducible refine fstShape_eq ?_

theorem State.readBack_shape (s : State) (back : Nat) : (State.readBack s back).shape = s.shape := by
  unfold State.readBack
  repeat' first
    | with_reducible rfl
    | with_reducible assumption
    | (with_reducible first | refine (State.raise_shape ..).trans ?_ | refine (State.modMon_shape ..).trans ?_ | refine (State.monReact_shape ..).trans ?_)
    | (extract_lets +onlyGivenNames x; clear_value (e : x = _); first | (subst e))
    | split

theorem State.monPicture_shape (s : State) : (State.monPicture s).shape = s.shape := rfl

theorem execMonitorFrameStart_shape (back : Nat) (s : State) : Keeps s (execMonitorFrameStart back s) := by
  unfold execMonitorFrameStart
  repeat' first
    | ((conv => lhs; arg 1; arg 25); with_reducible refine (shape_mk ..).trans ?_; simp only [↓shape_mk, ↓shape_pending, ↓shape_mb, ↓shape_ports, ↓shape_tiles, ↓shape_chans, ↓shape_clusters, ↓shape_cores, ↓shape_cvu, ↓shape_compares, ↓shape_latches, ↓shape_tsq, ↓shape_netPorts, updAt_length])
    | with_reducible refine keeps_next ?_
    | (with_reducible first | refine (State.applyMonitor_shape ..).trans ?_ | refine (State.readBack_shape ..).trans ?_ | refine (State.monPicture_shape ..).trans ?_)
    | ((conv => lhs; arg 1; arg 1); split)
    | simp only [↓shape_clusters, ↓shape_mb, ↓shape_chans, ↓shape_ports, ↓shape_tiles, ↓shape_cores, ↓shape_cvu, shape_eta]

/-! ### PanelRows -/

theorem panelStatusBody_shape (c : Cmd) (s : State) : RanShape (panelStatusBody c s) s.shape := by
  unfold panelStatusBody
  repeat' first
    | with_reducible rfl
    | ((conv => lhs; arg 1; arg 25); exact rfl)
    | (with_reducible first | refine (refuse_shape ..).trans ?_ | refine (answer_shape ..).trans ?_)
    | ((conv => lhs; arg 1; arg 1); split)

theorem execPanelStatus_shape (c : Cmd) (s : State) : Keeps s (execPanelStatus c s) := by
  unfold execPanelStatus
  repeat' first
    | with_reducible rfl
    | with_reducible refine keeps_next ?_
    | with_reducible refine hostCmd_shape _ _ _ _ _ (fun _ _ => ?_)
    | (with_reducible first | refine (panelStatusBody_shape ..).trans ?_)

theorem parasolBody_shape (c : Cmd) (s : State) : RanShape (parasolBody c s) s.shape := by
  unfold parasolBody
  repeat' first
    | with_reducible rfl
    | ((conv => lhs; arg 1; arg 25); exact rfl)
    | (with_reducible first | refine (refuse_shape ..).trans ?_ | refine (accept_shape ..).trans ?_)
    | ((conv => lhs; arg 1; arg 1); split)
    | (extract_lets +onlyGivenNames x; clear_value (e : x = _); first | (subst e))

theorem execParasol_shape (c : Cmd) (s : State) : Keeps s (execParasol c s) := by
  unfold execParasol
  repeat' first
    | with_reducible rfl
    | with_reducible refine keeps_next ?_
    | with_reducible refine hostCmdWith_shape _ _ _ _ _ _ (fun _ _ => ?_) (fun _ _ => ?_)
    | (with_reducible first | refine (State.wakeIfDue_shape ..).trans ?_ | refine (parasolBody_shape ..).trans ?_)

theorem State.tileOn_shape (s : State) (t : Nat) : (State.tileOn s t).shape = s.shape := by
  unfold State.tileOn
  repeat' first
    | ((conv => lhs; arg 1; arg 25); exact rfl)
    | (with_reducible first | refine (State.modTile_shape ..).trans ?_ | refine (State.toDetect_shape ..).trans ?_ | refine (State.powerUp_shape ..).trans ?_ | refine (State.reconcile_shape ..).trans ?_)
    | ((conv => lhs; arg 1; arg 1); split)
    | simp only [↓shape_clusters, ↓shape_mb, ↓shape_chans, ↓shape_ports, ↓shape_tiles, ↓shape_cores, ↓shape_cvu, shape_eta]

theorem State.tileOff_shape (s : State) (t : Nat) : (State.tileOff s t).shape = s.shape := by
  unfold State.tileOff
  repeat' first
    | with_reducible rfl
    | with_reducible assumption
    | (with_reducible first | refine (State.modTile_shape ..).trans ?_ | refine (State.orderlyOff_shape ..).trans ?_)
    | ((conv => lhs; arg 1; arg 1); split)
    | (extract_lets +onlyGivenNames x; clear_value (e : x = _); first | (subst e))

theorem tilePowerBody_shape (c : Cmd) (s : State) : RanShape (tilePowerBody c s) s.shape := by
  unfold tilePowerBody
  repeat' first
    | with_reducible rfl
    | (with_reducible first | refine (refuse_shape ..).trans ?_ | refine (accept_shape ..).trans ?_)
    | ((conv => lhs; arg 1; arg 1); split)
    | (extract_lets +onlyGivenNames x; clear_value (e : x = _); first | (subst e))

theorem tilePowerPost_shape (c : Cmd) (s : State) : (tilePowerPost c s).shape = s.shape := by
  unfold tilePowerPost
  repeat' first
    | with_reducible rfl
    | with_reducible refine (shape_foldl _ (fun _ _ => ?_) _ _).trans ?_
    | (with_reducible first | refine (State.settleTilePower_shape ..).trans ?_ | refine (State.powerSync_shape ..).trans ?_ | refine (State.tileOn_shape ..).trans ?_ | refine (State.tileOff_shape ..).trans ?_)
    | ((conv => lhs; arg 1; arg 1); split)

theorem execTilePower_shape (c : Cmd) (s : State) : Keeps s (execTilePower c s) := by
  unfold execTilePower
  repeat' first
    | with_reducible rfl
    | with_reducible refine keeps_next ?_
    | with_reducible refine hostCmdWith_shape _ _ _ _ _ _ (fun _ _ => ?_) (fun _ _ => ?_)
    | (with_reducible first | refine (tilePowerBody_shape ..).trans ?_ | refine (tilePowerPost_shape ..).trans ?_)

theorem State.supersede_shape (s : State) (region : Nat) : (State.supersede s region).shape = s.shape := by
  unfold State.supersede
  repeat' first
    | with_reducible rfl
    | with_reducible refine (shape_foldl _ (fun _ _ => ?_) _ _).trans ?_
    | (with_reducible first | refine (State.endRegion_shape ..).trans ?_ | refine (State.modRegion_shape ..).trans ?_)
    | ((conv => lhs; arg 1; arg 1); split)

theorem State.takeRegion_shape (s : State) (r : Region) (ps : List Basket) : (State.takeRegion s r ps).shape = s.shape := by
  unfold State.takeRegion
  repeat' first
    | with_reducible rfl
    | with_reducible assumption
    | ((conv => lhs; arg 1; arg 25); first | exact rfl | assumption)
    | (with_reducible first | refine (State.reserve_shape ..).trans ?_ | refine (State.supersede_shape ..).trans ?_)
    | (extract_lets +onlyGivenNames x; clear_value (e : x = _); first | (with_reducible refine shape_cut x ?_ (fun _ => ?_); (subst e); rotate_left; clear e))

theorem regionUpdateBody_shape (c : Cmd) (s : State) : RanShape (regionUpdateBody c s) s.shape := by
  unfold regionUpdateBody
  repeat' first
    | with_reducible rfl
    | (with_reducible first | refine (refuse_shape ..).trans ?_ | refine (accept_shape ..).trans ?_ | refine (State.takeRegion_shape ..).trans ?_)
    | ((conv => lhs; arg 1; arg 1); split)
    | (extract_lets +onlyGivenNames x; clear_value (e : x = _); first | (subst e))

theorem execRegionUpdate_shape (c : Cmd) (s : State) : Keeps s (execRegionUpdate c s) := by
  unfold execRegionUpdate
  repeat' first
    | with_reducible rfl
    | with_reducible refine keeps_next ?_
    | with_reducible refine hostCmd_shape _ _ _ _ _ (fun _ _ => ?_)
    | (with_reducible first | refine (regionUpdateBody_shape ..).trans ?_)

theorem execRegionStagingComplete_shape (region : Nat) (src : List Byte) (s : State) : Keeps s (execRegionStagingComplete region src s) := by
  unfold execRegionStagingComplete
  repeat' first
    | with_reducible rfl
    | with_reducible refine keeps_next ?_
    | (with_reducible first | refine (State.endRegion_shape ..).trans ?_ | refine (State.modRegion_shape ..).trans ?_)
    | ((conv => arg 1; arg 1); split)
    | (extract_lets +onlyGivenNames x; clear_value (e : x = _); first | (subst e))

theorem State.visitReset_shape (s : State) : (State.visitReset s).shape = s.shape := by
  unfold State.visitReset
  repeat' first
    | with_reducible rfl
    | with_reducible assumption
    | ((conv => lhs; arg 1; arg 25); with_reducible refine (shape_mk ..).trans ?_; simp only [↓shape_mk, ↓shape_pending, ↓shape_mb, ↓shape_ports, ↓shape_tiles, ↓shape_chans, ↓shape_clusters, ↓shape_cores, ↓shape_cvu, ↓shape_compares, ↓shape_latches, ↓shape_tsq, ↓shape_netPorts, updAt_length])
    | with_reducible refine (shape_foldl _ (fun _ _ => ?_) _ _).trans ?_
    | (with_reducible first | refine (State.endRegion_shape ..).trans ?_)
    | (extract_lets +onlyGivenNames x; clear_value (e : x = _); first | (subst e))

theorem State.visitDrop_shape (s : State) : (State.visitDrop s).shape = s.shape := by
  unfold State.visitDrop
  repeat' first
    | with_reducible rfl
    | with_reducible refine (shape_foldl _ (fun _ _ => ?_) _ _).trans ?_
    | (with_reducible first | refine (State.endRegion_shape ..).trans ?_)

theorem State.visitTile_shape (s : State) (t : Nat) : (State.visitTile s t).shape = s.shape := by
  unfold State.visitTile
  repeat' first
    | with_reducible rfl
    | (with_reducible first | refine (State.modTile_shape ..).trans ?_ | refine (State.sendHeartbeat_shape ..).trans ?_ | refine (State.wakePort_shape ..).trans ?_)
    | ((conv => lhs; arg 1; arg 1); split)

theorem State.visit_shape (s : State) : (State.visit s).shape = s.shape := by
  unfold State.visit
  repeat' first
    | with_reducible rfl
    | ((conv => lhs; arg 1; arg 25); with_reducible refine (shape_mk ..).trans ?_; simp only [↓shape_mk, ↓shape_pending, ↓shape_mb, ↓shape_ports, ↓shape_tiles, ↓shape_chans, ↓shape_clusters, ↓shape_cores, ↓shape_cvu, ↓shape_compares, ↓shape_latches, ↓shape_tsq, ↓shape_netPorts, updAt_length])
    | with_reducible refine (shape_foldl _ (fun _ _ => ?_) _ _).trans ?_
    | (with_reducible first | refine (State.selfRefreshGo_shape ..).trans ?_ | refine (State.wakeIfDue_shape ..).trans ?_ | refine (State.visitCount_shape ..).trans ?_ | refine (State.frameValues_shape ..).trans ?_ | refine (State.visitReset_shape ..).trans ?_ | refine (State.visitDrop_shape ..).trans ?_ | refine (State.visitTile_shape ..).trans ?_)
    | ((conv => lhs; arg 1; arg 1); split)

theorem execParasolVisit_shape (s : State) : Keeps s (execParasolVisit s) := by
  unfold execParasolVisit
  repeat' first
    | with_reducible rfl
    | with_reducible refine keeps_next ?_
    | with_reducible refine (shape_foldl _ (fun _ _ => ?_) _ _).trans ?_
    | (with_reducible first | refine (State.advanceTo_shape ..).trans ?_ | refine (State.visitOver_shape ..).trans ?_ | refine (State.visit_shape ..).trans ?_)
    | ((conv => lhs; arg 1; arg 1); split)

theorem State.addCounts_shape (s : State) (obj : Nat) (ds : List (Nat × Nat)) : (State.addCounts s obj ds).shape = s.shape := by
  unfold State.addCounts
  repeat' first
    | with_reducible rfl
    | ((conv => lhs; arg 1; arg 25); exact rfl)
    | (with_reducible first | refine (State.modObj_shape ..).trans ?_)
    | ((conv => lhs; arg 1; arg 1); split)

theorem State.sampleRow_shape (s : State) (g : Geom) : (State.sampleRow s g).shape = s.shape := by
  unfold State.sampleRow
  repeat' first
    | with_reducible rfl
    | (with_reducible first | refine (State.addCounts_shape ..).trans ?_)
    | (extract_lets +onlyGivenNames x; clear_value (e : x = _); first | (subst e))
    | split

theorem State.nextSample_shape (s : State) (g : Geom) : (State.nextSample s g).shape = s.shape := by
  unfold State.nextSample
  repeat' first
    | ((conv => lhs; arg 1; arg 25); exact rfl)
    | ((conv => lhs; arg 1; arg 1); split)

theorem State.periodBegins_shape (s : State) : (State.periodBegins s).shape = s.shape := by
  unfold State.periodBegins
  repeat' first
    | with_reducible rfl
    | ((conv => lhs; arg 1; arg 25); exact rfl)
    | ((conv => lhs; arg 1; arg 1); split)

theorem execStressSample_shape (s : State) : Keeps s (execStressSample s) := by
  unfold execStressSample
  repeat' first
    | with_reducible rfl
    | with_reducible refine keeps_next ?_
    | (with_reducible first | refine (State.sampleRow_shape ..).trans ?_ | refine (State.nextSample_shape ..).trans ?_ | refine (State.periodBegins_shape ..).trans ?_)
    | ((conv => arg 1; arg 1); split)

theorem execGainMapRebuild_shape (s : State) : Keeps s (execGainMapRebuild s) := by
  unfold execGainMapRebuild
  repeat' first
    | with_reducible rfl
    | ((conv => lhs; arg 1; arg 25); with_reducible refine (shape_mk ..).trans ?_; simp only [↓shape_mk, ↓shape_pending, ↓shape_mb, ↓shape_ports, ↓shape_tiles, ↓shape_chans, ↓shape_clusters, ↓shape_cores, ↓shape_cvu, ↓shape_compares, ↓shape_latches, ↓shape_tsq, ↓shape_netPorts, updAt_length])
    | with_reducible refine keeps_next ?_
    | (with_reducible first | refine (State.advanceTo_shape ..).trans ?_ | refine (State.askRebuild_shape ..).trans ?_)
    | ((conv => lhs; arg 1; arg 1); split)

theorem execGainMapRebuildComplete_shape (s : State) : Keeps s (execGainMapRebuildComplete s) := by
  unfold execGainMapRebuildComplete
  repeat' first
    | with_reducible rfl
    | with_reducible refine keeps_next ?_
    | (with_reducible first | refine (State.endRebuild_shape ..).trans ?_)

end Sys2Proof.Machine
end

