-- ==== Sys2Proof/Laws/State.lean ====
section
/-! SUPPORT. What each named update of the state leaves and what it writes: one lemma for each update and each field, so
that no later proof unfolds a record update; and the tables of units, entry by entry. -/

namespace Sys2Proof.Machine

/-! ### Tables of units -/

/-- An entry after an update of one entry. -/
theorem updAt_getD {α : Type} (d : α) (f : α → α) : ∀ (l : List α) (n m : Nat),
    (updAt l n f).getD m d = if n = m ∧ m < l.length then f (l.getD m d) else l.getD m d
  | [], n, m => by simp [updAt]
  | a :: l, 0, 0 => by simp [updAt]
  | a :: l, 0, m + 1 => by simp [updAt]
  | a :: l, n + 1, 0 => by simp [updAt]
  | a :: l, n + 1, m + 1 => by simpa [updAt] using updAt_getD d f l n m

/-- A unit after an update of one unit. -/
theorem State.mailbox_modMb (s : State) (n m : Nat) (f : Mailbox → Mailbox) :
    (s.modMb n f).mailbox m = if n = m ∧ m < s.host.mb.length then f (s.mailbox m) else s.mailbox m := updAt_getD ..

/-- The unit that an update names. -/
theorem State.mailbox_modMb_same (s : State) (n : Nat) (f : Mailbox → Mailbox) (h : n < s.host.mb.length) :
    (s.modMb n f).mailbox n = f (s.mailbox n) := (State.mailbox_modMb ..).trans (if_pos ⟨rfl, h⟩)

/-- A unit that an update does not name. -/
theorem State.mailbox_modMb_ne (s : State) (n m : Nat) (f : Mailbox → Mailbox) (h : n ≠ m) :
    (s.modMb n f).mailbox m = s.mailbox m := (State.mailbox_modMb ..).trans (if_neg (fun e => h e.1))

/-- A unit after an update of one unit. -/
theorem State.chan_modChan (s : State) (n m : Nat) (f : MemChan → MemChan) :
    (s.modChan n f).chan m = if n = m ∧ m < s.mem.chans.length then f (s.chan m) else s.chan m := updAt_getD ..

/-- The unit that an update names. -/
theorem State.chan_modChan_same (s : State) (n : Nat) (f : MemChan → MemChan) (h : n < s.mem.chans.length) :
    (s.modChan n f).chan n = f (s.chan n) := (State.chan_modChan ..).trans (if_pos ⟨rfl, h⟩)

/-- A unit that an update does not name. -/
theorem State.chan_modChan_ne (s : State) (n m : Nat) (f : MemChan → MemChan) (h : n ≠ m) :
    (s.modChan n f).chan m = s.chan m := (State.chan_modChan ..).trans (if_neg (fun e => h e.1))

/-- A unit after an update of one unit. -/
theorem State.tile_modTile (s : State) (n m : Nat) (f : TileDrive → TileDrive) :
    (s.modTile n f).tile m = if n = m ∧ m < s.panel.tiles.length then f (s.tile m) else s.tile m := updAt_getD ..

/-- The unit that an update names. -/
theorem State.tile_modTile_same (s : State) (n : Nat) (f : TileDrive → TileDrive) (h : n < s.panel.tiles.length) :
    (s.modTile n f).tile n = f (s.tile n) := (State.tile_modTile ..).trans (if_pos ⟨rfl, h⟩)

/-- A unit that an update does not name. -/
theorem State.tile_modTile_ne (s : State) (n m : Nat) (f : TileDrive → TileDrive) (h : n ≠ m) :
    (s.modTile n f).tile m = s.tile m := (State.tile_modTile ..).trans (if_neg (fun e => h e.1))

/-- A unit after an update of one unit. -/
theorem State.port_modPort (s : State) (n m : Nat) (f : Port → Port) :
    (s.modPort n f).port m = if n = m ∧ m < s.link.ports.length then f (s.port m) else s.port m := updAt_getD ..

/-- The unit that an update names. -/
theorem State.port_modPort_same (s : State) (n : Nat) (f : Port → Port) (h : n < s.link.ports.length) :
    (s.modPort n f).port n = f (s.port n) := (State.port_modPort ..).trans (if_pos ⟨rfl, h⟩)

/-- A unit that an update does not name. -/
theorem State.port_modPort_ne (s : State) (n m : Nat) (f : Port → Port) (h : n ≠ m) :
    (s.modPort n f).port m = s.port m := (State.port_modPort ..).trans (if_neg (fun e => h e.1))

/-! ### State.emit -/

@[simp] theorem State.emit_dev (s : State) (o : Out) : (s.emit o).dev = s.dev := rfl
@[simp] theorem State.emit_ev (s : State) (o : Out) : (s.emit o).ev = s.ev := rfl
@[simp] theorem State.emit_host (s : State) (o : Out) : (s.emit o).host = s.host := rfl
@[simp] theorem State.emit_par (s : State) (o : Out) : (s.emit o).par = s.par := rfl
@[simp] theorem State.emit_objs (s : State) (o : Out) : (s.emit o).objs = s.objs := rfl
@[simp] theorem State.emit_fw (s : State) (o : Out) : (s.emit o).fw = s.fw := rfl
@[simp] theorem State.emit_tim (s : State) (o : Out) : (s.emit o).tim = s.tim := rfl
@[simp] theorem State.emit_time (s : State) (o : Out) : (s.emit o).time = s.time := rfl
@[simp] theorem State.emit_mem (s : State) (o : Out) : (s.emit o).mem = s.mem := rfl
@[simp] theorem State.emit_pwr (s : State) (o : Out) : (s.emit o).pwr = s.pwr := rfl
@[simp] theorem State.emit_saf (s : State) (o : Out) : (s.emit o).saf = s.saf := rfl
@[simp] theorem State.emit_pair (s : State) (o : Out) : (s.emit o).pair = s.pair := rfl
@[simp] theorem State.emit_start (s : State) (o : Out) : (s.emit o).start = s.start := rfl
@[simp] theorem State.emit_direct (s : State) (o : Out) : (s.emit o).direct = s.direct := rfl
@[simp] theorem State.emit_enc (s : State) (o : Out) : (s.emit o).enc = s.enc := rfl
@[simp] theorem State.emit_ingest (s : State) (o : Out) : (s.emit o).ingest = s.ingest := rfl
@[simp] theorem State.emit_dec (s : State) (o : Out) : (s.emit o).dec = s.dec := rfl
@[simp] theorem State.emit_synth (s : State) (o : Out) : (s.emit o).synth = s.synth := rfl
@[simp] theorem State.emit_place (s : State) (o : Out) : (s.emit o).place = s.place := rfl
@[simp] theorem State.emit_link (s : State) (o : Out) : (s.emit o).link = s.link := rfl
@[simp] theorem State.emit_panel (s : State) (o : Out) : (s.emit o).panel = s.panel := rfl
@[simp] theorem State.emit_comp (s : State) (o : Out) : (s.emit o).comp = s.comp := rfl
@[simp] theorem State.emit_free (s : State) (o : Out) : (s.emit o).free = s.free := rfl
@[simp] theorem State.emit_out (s : State) (o : Out) : (s.emit o).out = o :: s.out := rfl
@[simp] theorem State.emit_pending (s : State) (o : Out) : (s.emit o).pending = s.pending := rfl

/-! ### State.pset -/

@[simp] theorem State.pset_dev (s : State) (id v : Nat) : (s.pset id v).dev = s.dev := rfl
@[simp] theorem State.pset_ev (s : State) (id v : Nat) : (s.pset id v).ev = s.ev := rfl
@[simp] theorem State.pset_host (s : State) (id v : Nat) : (s.pset id v).host = s.host := rfl
@[simp] theorem State.pset_par (s : State) (id v : Nat) : (s.pset id v).par = { s.par with vals := pput s.par.vals id v } := rfl
@[simp] theorem State.pset_objs (s : State) (id v : Nat) : (s.pset id v).objs = s.objs := rfl
@[simp] theorem State.pset_fw (s : State) (id v : Nat) : (s.pset id v).fw = s.fw := rfl
@[simp] theorem State.pset_tim (s : State) (id v : Nat) : (s.pset id v).tim = s.tim := rfl
@[simp] theorem State.pset_time (s : State) (id v : Nat) : (s.pset id v).time = s.time := rfl
@[simp] theorem State.pset_mem (s : State) (id v : Nat) : (s.pset id v).mem = s.mem := rfl
@[simp] theorem State.pset_pwr (s : State) (id v : Nat) : (s.pset id v).pwr = s.pwr := rfl
@[simp] theorem State.pset_saf (s : State) (id v : Nat) : (s.pset id v).saf = s.saf := rfl
@[simp] theorem State.pset_pair (s : State) (id v : Nat) : (s.pset id v).pair = s.pair := rfl
@[simp] theorem State.pset_start (s : State) (id v : Nat) : (s.pset id v).start = s.start := rfl
@[simp] theorem State.pset_direct (s : State) (id v : Nat) : (s.pset id v).direct = s.direct := rfl
@[simp] theorem State.pset_enc (s : State) (id v : Nat) : (s.pset id v).enc = s.enc := rfl
@[simp] theorem State.pset_ingest (s : State) (id v : Nat) : (s.pset id v).ingest = s.ingest := rfl
@[simp] theorem State.pset_dec (s : State) (id v : Nat) : (s.pset id v).dec = s.dec := rfl
@[simp] theorem State.pset_synth (s : State) (id v : Nat) : (s.pset id v).synth = s.synth := rfl
@[simp] theorem State.pset_place (s : State) (id v : Nat) : (s.pset id v).place = s.place := rfl
@[simp] theorem State.pset_link (s : State) (id v : Nat) : (s.pset id v).link = s.link := rfl
@[simp] theorem State.pset_panel (s : State) (id v : Nat) : (s.pset id v).panel = s.panel := rfl
@[simp] theorem State.pset_comp (s : State) (id v : Nat) : (s.pset id v).comp = s.comp := rfl
@[simp] theorem State.pset_free (s : State) (id v : Nat) : (s.pset id v).free = s.free := rfl
@[simp] theorem State.pset_out (s : State) (id v : Nat) : (s.pset id v).out = s.out := rfl
@[simp] theorem State.pset_pending (s : State) (id v : Nat) : (s.pset id v).pending = s.pending := rfl

/-! ### State.modObj -/

@[simp] theorem State.modObj_dev (s : State) (id : Nat) (f : Obj → Obj) : (s.modObj id f).dev = s.dev := rfl
@[simp] theorem State.modObj_ev (s : State) (id : Nat) (f : Obj → Obj) : (s.modObj id f).ev = s.ev := rfl
@[simp] theorem State.modObj_host (s : State) (id : Nat) (f : Obj → Obj) : (s.modObj id f).host = s.host := rfl
@[simp] theorem State.modObj_par (s : State) (id : Nat) (f : Obj → Obj) : (s.modObj id f).par = s.par := rfl
@[simp] theorem State.modObj_fw (s : State) (id : Nat) (f : Obj → Obj) : (s.modObj id f).fw = s.fw := rfl
@[simp] theorem State.modObj_tim (s : State) (id : Nat) (f : Obj → Obj) : (s.modObj id f).tim = s.tim := rfl
@[simp] theorem State.modObj_time (s : State) (id : Nat) (f : Obj → Obj) : (s.modObj id f).time = s.time := rfl
@[simp] theorem State.modObj_mem (s : State) (id : Nat) (f : Obj → Obj) : (s.modObj id f).mem = s.mem := rfl
@[simp] theorem State.modObj_pwr (s : State) (id : Nat) (f : Obj → Obj) : (s.modObj id f).pwr = s.pwr := rfl
@[simp] theorem State.modObj_saf (s : State) (id : Nat) (f : Obj → Obj) : (s.modObj id f).saf = s.saf := rfl
@[simp] theorem State.modObj_pair (s : State) (id : Nat) (f : Obj → Obj) : (s.modObj id f).pair = s.pair := rfl
@[simp] theorem State.modObj_start (s : State) (id : Nat) (f : Obj → Obj) : (s.modObj id f).start = s.start := rfl
@[simp] theorem State.modObj_direct (s : State) (id : Nat) (f : Obj → Obj) : (s.modObj id f).direct = s.direct := rfl
@[simp] theorem State.modObj_enc (s : State) (id : Nat) (f : Obj → Obj) : (s.modObj id f).enc = s.enc := rfl
@[simp] theorem State.modObj_ingest (s : State) (id : Nat) (f : Obj → Obj) : (s.modObj id f).ingest = s.ingest := rfl
@[simp] theorem State.modObj_dec (s : State) (id : Nat) (f : Obj → Obj) : (s.modObj id f).dec = s.dec := rfl
@[simp] theorem State.modObj_synth (s : State) (id : Nat) (f : Obj → Obj) : (s.modObj id f).synth = s.synth := rfl
@[simp] theorem State.modObj_place (s : State) (id : Nat) (f : Obj → Obj) : (s.modObj id f).place = s.place := rfl
@[simp] theorem State.modObj_link (s : State) (id : Nat) (f : Obj → Obj) : (s.modObj id f).link = s.link := rfl
@[simp] theorem State.modObj_panel (s : State) (id : Nat) (f : Obj → Obj) : (s.modObj id f).panel = s.panel := rfl
@[simp] theorem State.modObj_comp (s : State) (id : Nat) (f : Obj → Obj) : (s.modObj id f).comp = s.comp := rfl
@[simp] theorem State.modObj_free (s : State) (id : Nat) (f : Obj → Obj) : (s.modObj id f).free = s.free := rfl
@[simp] theorem State.modObj_out (s : State) (id : Nat) (f : Obj → Obj) : (s.modObj id f).out = s.out := rfl
@[simp] theorem State.modObj_pending (s : State) (id : Nat) (f : Obj → Obj) : (s.modObj id f).pending = s.pending := rfl

/-! ### State.modMb -/

@[simp] theorem State.modMb_dev (s : State) (n : Nat) (f : Mailbox → Mailbox) : (s.modMb n f).dev = s.dev := rfl
@[simp] theorem State.modMb_ev (s : State) (n : Nat) (f : Mailbox → Mailbox) : (s.modMb n f).ev = s.ev := rfl
@[simp] theorem State.modMb_host (s : State) (n : Nat) (f : Mailbox → Mailbox) : (s.modMb n f).host = { s.host with mb := updAt s.host.mb n f } := rfl
@[simp] theorem State.modMb_par (s : State) (n : Nat) (f : Mailbox → Mailbox) : (s.modMb n f).par = s.par := rfl
@[simp] theorem State.modMb_objs (s : State) (n : Nat) (f : Mailbox → Mailbox) : (s.modMb n f).objs = s.objs := rfl
@[simp] theorem State.modMb_fw (s : State) (n : Nat) (f : Mailbox → Mailbox) : (s.modMb n f).fw = s.fw := rfl
@[simp] theorem State.modMb_tim (s : State) (n : Nat) (f : Mailbox → Mailbox) : (s.modMb n f).tim = s.tim := rfl
@[simp] theorem State.modMb_time (s : State) (n : Nat) (f : Mailbox → Mailbox) : (s.modMb n f).time = s.time := rfl
@[simp] theorem State.modMb_mem (s : State) (n : Nat) (f : Mailbox → Mailbox) : (s.modMb n f).mem = s.mem := rfl
@[simp] theorem State.modMb_pwr (s : State) (n : Nat) (f : Mailbox → Mailbox) : (s.modMb n f).pwr = s.pwr := rfl
@[simp] theorem State.modMb_saf (s : State) (n : Nat) (f : Mailbox → Mailbox) : (s.modMb n f).saf = s.saf := rfl
@[simp] theorem State.modMb_pair (s : State) (n : Nat) (f : Mailbox → Mailbox) : (s.modMb n f).pair = s.pair := rfl
@[simp] theorem State.modMb_start (s : State) (n : Nat) (f : Mailbox → Mailbox) : (s.modMb n f).start = s.start := rfl
@[simp] theorem State.modMb_direct (s : State) (n : Nat) (f : Mailbox → Mailbox) : (s.modMb n f).direct = s.direct := rfl
@[simp] theorem State.modMb_enc (s : State) (n : Nat) (f : Mailbox → Mailbox) : (s.modMb n f).enc = s.enc := rfl
@[simp] theorem State.modMb_ingest (s : State) (n : Nat) (f : Mailbox → Mailbox) : (s.modMb n f).ingest = s.ingest := rfl
@[simp] theorem State.modMb_dec (s : State) (n : Nat) (f : Mailbox → Mailbox) : (s.modMb n f).dec = s.dec := rfl
@[simp] theorem State.modMb_synth (s : State) (n : Nat) (f : Mailbox → Mailbox) : (s.modMb n f).synth = s.synth := rfl
@[simp] theorem State.modMb_place (s : State) (n : Nat) (f : Mailbox → Mailbox) : (s.modMb n f).place = s.place := rfl
@[simp] theorem State.modMb_link (s : State) (n : Nat) (f : Mailbox → Mailbox) : (s.modMb n f).link = s.link := rfl
@[simp] theorem State.modMb_panel (s : State) (n : Nat) (f : Mailbox → Mailbox) : (s.modMb n f).panel = s.panel := rfl
@[simp] theorem State.modMb_comp (s : State) (n : Nat) (f : Mailbox → Mailbox) : (s.modMb n f).comp = s.comp := rfl
@[simp] theorem State.modMb_free (s : State) (n : Nat) (f : Mailbox → Mailbox) : (s.modMb n f).free = s.free := rfl
@[simp] theorem State.modMb_out (s : State) (n : Nat) (f : Mailbox → Mailbox) : (s.modMb n f).out = s.out := rfl
@[simp] theorem State.modMb_pending (s : State) (n : Nat) (f : Mailbox → Mailbox) : (s.modMb n f).pending = s.pending := rfl

/-! ### State.modHost -/

@[simp] theorem State.modHost_dev (s : State) (f : HostIf → HostIf) : (s.modHost f).dev = s.dev := rfl
@[simp] theorem State.modHost_ev (s : State) (f : HostIf → HostIf) : (s.modHost f).ev = s.ev := rfl
@[simp] theorem State.modHost_host (s : State) (f : HostIf → HostIf) : (s.modHost f).host = f s.host := rfl
@[simp] theorem State.modHost_par (s : State) (f : HostIf → HostIf) : (s.modHost f).par = s.par := rfl
@[simp] theorem State.modHost_objs (s : State) (f : HostIf → HostIf) : (s.modHost f).objs = s.objs := rfl
@[simp] theorem State.modHost_fw (s : State) (f : HostIf → HostIf) : (s.modHost f).fw = s.fw := rfl
@[simp] theorem State.modHost_tim (s : State) (f : HostIf → HostIf) : (s.modHost f).tim = s.tim := rfl
@[simp] theorem State.modHost_time (s : State) (f : HostIf → HostIf) : (s.modHost f).time = s.time := rfl
@[simp] theorem State.modHost_mem (s : State) (f : HostIf → HostIf) : (s.modHost f).mem = s.mem := rfl
@[simp] theorem State.modHost_pwr (s : State) (f : HostIf → HostIf) : (s.modHost f).pwr = s.pwr := rfl
@[simp] theorem State.modHost_saf (s : State) (f : HostIf → HostIf) : (s.modHost f).saf = s.saf := rfl
@[simp] theorem State.modHost_pair (s : State) (f : HostIf → HostIf) : (s.modHost f).pair = s.pair := rfl
@[simp] theorem State.modHost_start (s : State) (f : HostIf → HostIf) : (s.modHost f).start = s.start := rfl
@[simp] theorem State.modHost_direct (s : State) (f : HostIf → HostIf) : (s.modHost f).direct = s.direct := rfl
@[simp] theorem State.modHost_enc (s : State) (f : HostIf → HostIf) : (s.modHost f).enc = s.enc := rfl
@[simp] theorem State.modHost_ingest (s : State) (f : HostIf → HostIf) : (s.modHost f).ingest = s.ingest := rfl
@[simp] theorem State.modHost_dec (s : State) (f : HostIf → HostIf) : (s.modHost f).dec = s.dec := rfl
@[simp] theorem State.modHost_synth (s : State) (f : HostIf → HostIf) : (s.modHost f).synth = s.synth := rfl
@[simp] theorem State.modHost_place (s : State) (f : HostIf → HostIf) : (s.modHost f).place = s.place := rfl
@[simp] theorem State.modHost_link (s : State) (f : HostIf → HostIf) : (s.modHost f).link = s.link := rfl
@[simp] theorem State.modHost_panel (s : State) (f : HostIf → HostIf) : (s.modHost f).panel = s.panel := rfl
@[simp] theorem State.modHost_comp (s : State) (f : HostIf → HostIf) : (s.modHost f).comp = s.comp := rfl
@[simp] theorem State.modHost_free (s : State) (f : HostIf → HostIf) : (s.modHost f).free = s.free := rfl
@[simp] theorem State.modHost_out (s : State) (f : HostIf → HostIf) : (s.modHost f).out = s.out := rfl
@[simp] theorem State.modHost_pending (s : State) (f : HostIf → HostIf) : (s.modHost f).pending = s.pending := rfl

/-! ### State.modEq -/

@[simp] theorem State.modEq_dev (s : State) (f : EventQueue → EventQueue) : (s.modEq f).dev = s.dev := rfl
@[simp] theorem State.modEq_ev (s : State) (f : EventQueue → EventQueue) : (s.modEq f).ev = s.ev := rfl
@[simp] theorem State.modEq_host (s : State) (f : EventQueue → EventQueue) : (s.modEq f).host = { s.host with eq := f s.host.eq } := rfl
@[simp] theorem State.modEq_par (s : State) (f : EventQueue → EventQueue) : (s.modEq f).par = s.par := rfl
@[simp] theorem State.modEq_objs (s : State) (f : EventQueue → EventQueue) : (s.modEq f).objs = s.objs := rfl
@[simp] theorem State.modEq_fw (s : State) (f : EventQueue → EventQueue) : (s.modEq f).fw = s.fw := rfl
@[simp] theorem State.modEq_tim (s : State) (f : EventQueue → EventQueue) : (s.modEq f).tim = s.tim := rfl
@[simp] theorem State.modEq_time (s : State) (f : EventQueue → EventQueue) : (s.modEq f).time = s.time := rfl
@[simp] theorem State.modEq_mem (s : State) (f : EventQueue → EventQueue) : (s.modEq f).mem = s.mem := rfl
@[simp] theorem State.modEq_pwr (s : State) (f : EventQueue → EventQueue) : (s.modEq f).pwr = s.pwr := rfl
@[simp] theorem State.modEq_saf (s : State) (f : EventQueue → EventQueue) : (s.modEq f).saf = s.saf := rfl
@[simp] theorem State.modEq_pair (s : State) (f : EventQueue → EventQueue) : (s.modEq f).pair = s.pair := rfl
@[simp] theorem State.modEq_start (s : State) (f : EventQueue → EventQueue) : (s.modEq f).start = s.start := rfl
@[simp] theorem State.modEq_direct (s : State) (f : EventQueue → EventQueue) : (s.modEq f).direct = s.direct := rfl
@[simp] theorem State.modEq_enc (s : State) (f : EventQueue → EventQueue) : (s.modEq f).enc = s.enc := rfl
@[simp] theorem State.modEq_ingest (s : State) (f : EventQueue → EventQueue) : (s.modEq f).ingest = s.ingest := rfl
@[simp] theorem State.modEq_dec (s : State) (f : EventQueue → EventQueue) : (s.modEq f).dec = s.dec := rfl
@[simp] theorem State.modEq_synth (s : State) (f : EventQueue → EventQueue) : (s.modEq f).synth = s.synth := rfl
@[simp] theorem State.modEq_place (s : State) (f : EventQueue → EventQueue) : (s.modEq f).place = s.place := rfl
@[simp] theorem State.modEq_link (s : State) (f : EventQueue → EventQueue) : (s.modEq f).link = s.link := rfl
@[simp] theorem State.modEq_panel (s : State) (f : EventQueue → EventQueue) : (s.modEq f).panel = s.panel := rfl
@[simp] theorem State.modEq_comp (s : State) (f : EventQueue → EventQueue) : (s.modEq f).comp = s.comp := rfl
@[simp] theorem State.modEq_free (s : State) (f : EventQueue → EventQueue) : (s.modEq f).free = s.free := rfl
@[simp] theorem State.modEq_out (s : State) (f : EventQueue → EventQueue) : (s.modEq f).out = s.out := rfl
@[simp] theorem State.modEq_pending (s : State) (f : EventQueue → EventQueue) : (s.modEq f).pending = s.pending := rfl

/-! ### State.modIrq -/

@[simp] theorem State.modIrq_dev (s : State) (f : Irq → Irq) : (s.modIrq f).dev = s.dev := rfl
@[simp] theorem State.modIrq_ev (s : State) (f : Irq → Irq) : (s.modIrq f).ev = s.ev := rfl
@[simp] theorem State.modIrq_host (s : State) (f : Irq → Irq) : (s.modIrq f).host = { s.host with irq := f s.host.irq } := rfl
@[simp] theorem State.modIrq_par (s : State) (f : Irq → Irq) : (s.modIrq f).par = s.par := rfl
@[simp] theorem State.modIrq_objs (s : State) (f : Irq → Irq) : (s.modIrq f).objs = s.objs := rfl
@[simp] theorem State.modIrq_fw (s : State) (f : Irq → Irq) : (s.modIrq f).fw = s.fw := rfl
@[simp] theorem State.modIrq_tim (s : State) (f : Irq → Irq) : (s.modIrq f).tim = s.tim := rfl
@[simp] theorem State.modIrq_time (s : State) (f : Irq → Irq) : (s.modIrq f).time = s.time := rfl
@[simp] theorem State.modIrq_mem (s : State) (f : Irq → Irq) : (s.modIrq f).mem = s.mem := rfl
@[simp] theorem State.modIrq_pwr (s : State) (f : Irq → Irq) : (s.modIrq f).pwr = s.pwr := rfl
@[simp] theorem State.modIrq_saf (s : State) (f : Irq → Irq) : (s.modIrq f).saf = s.saf := rfl
@[simp] theorem State.modIrq_pair (s : State) (f : Irq → Irq) : (s.modIrq f).pair = s.pair := rfl
@[simp] theorem State.modIrq_start (s : State) (f : Irq → Irq) : (s.modIrq f).start = s.start := rfl
@[simp] theorem State.modIrq_direct (s : State) (f : Irq → Irq) : (s.modIrq f).direct = s.direct := rfl
@[simp] theorem State.modIrq_enc (s : State) (f : Irq → Irq) : (s.modIrq f).enc = s.enc := rfl
@[simp] theorem State.modIrq_ingest (s : State) (f : Irq → Irq) : (s.modIrq f).ingest = s.ingest := rfl
@[simp] theorem State.modIrq_dec (s : State) (f : Irq → Irq) : (s.modIrq f).dec = s.dec := rfl
@[simp] theorem State.modIrq_synth (s : State) (f : Irq → Irq) : (s.modIrq f).synth = s.synth := rfl
@[simp] theorem State.modIrq_place (s : State) (f : Irq → Irq) : (s.modIrq f).place = s.place := rfl
@[simp] theorem State.modIrq_link (s : State) (f : Irq → Irq) : (s.modIrq f).link = s.link := rfl
@[simp] theorem State.modIrq_panel (s : State) (f : Irq → Irq) : (s.modIrq f).panel = s.panel := rfl
@[simp] theorem State.modIrq_comp (s : State) (f : Irq → Irq) : (s.modIrq f).comp = s.comp := rfl
@[simp] theorem State.modIrq_free (s : State) (f : Irq → Irq) : (s.modIrq f).free = s.free := rfl
@[simp] theorem State.modIrq_out (s : State) (f : Irq → Irq) : (s.modIrq f).out = s.out := rfl
@[simp] theorem State.modIrq_pending (s : State) (f : Irq → Irq) : (s.modIrq f).pending = s.pending := rfl

/-! ### State.modMem -/

@[simp] theorem State.modMem_dev (s : State) (f : Mem → Mem) : (s.modMem f).dev = s.dev := rfl
@[simp] theorem State.modMem_ev (s : State) (f : Mem → Mem) : (s.modMem f).ev = s.ev := rfl
@[simp] theorem State.modMem_host (s : State) (f : Mem → Mem) : (s.modMem f).host = s.host := rfl
@[simp] theorem State.modMem_par (s : State) (f : Mem → Mem) : (s.modMem f).par = s.par := rfl
@[simp] theorem State.modMem_objs (s : State) (f : Mem → Mem) : (s.modMem f).objs = s.objs := rfl
@[simp] theorem State.modMem_fw (s : State) (f : Mem → Mem) : (s.modMem f).fw = s.fw := rfl
@[simp] theorem State.modMem_tim (s : State) (f : Mem → Mem) : (s.modMem f).tim = s.tim := rfl
@[simp] theorem State.modMem_time (s : State) (f : Mem → Mem) : (s.modMem f).time = s.time := rfl
@[simp] theorem State.modMem_mem (s : State) (f : Mem → Mem) : (s.modMem f).mem = f s.mem := rfl
@[simp] theorem State.modMem_pwr (s : State) (f : Mem → Mem) : (s.modMem f).pwr = s.pwr := rfl
@[simp] theorem State.modMem_saf (s : State) (f : Mem → Mem) : (s.modMem f).saf = s.saf := rfl
@[simp] theorem State.modMem_pair (s : State) (f : Mem → Mem) : (s.modMem f).pair = s.pair := rfl
@[simp] theorem State.modMem_start (s : State) (f : Mem → Mem) : (s.modMem f).start = s.start := rfl
@[simp] theorem State.modMem_direct (s : State) (f : Mem → Mem) : (s.modMem f).direct = s.direct := rfl
@[simp] theorem State.modMem_enc (s : State) (f : Mem → Mem) : (s.modMem f).enc = s.enc := rfl
@[simp] theorem State.modMem_ingest (s : State) (f : Mem → Mem) : (s.modMem f).ingest = s.ingest := rfl
@[simp] theorem State.modMem_dec (s : State) (f : Mem → Mem) : (s.modMem f).dec = s.dec := rfl
@[simp] theorem State.modMem_synth (s : State) (f : Mem → Mem) : (s.modMem f).synth = s.synth := rfl
@[simp] theorem State.modMem_place (s : State) (f : Mem → Mem) : (s.modMem f).place = s.place := rfl
@[simp] theorem State.modMem_link (s : State) (f : Mem → Mem) : (s.modMem f).link = s.link := rfl
@[simp] theorem State.modMem_panel (s : State) (f : Mem → Mem) : (s.modMem f).panel = s.panel := rfl
@[simp] theorem State.modMem_comp (s : State) (f : Mem → Mem) : (s.modMem f).comp = s.comp := rfl
@[simp] theorem State.modMem_free (s : State) (f : Mem → Mem) : (s.modMem f).free = s.free := rfl
@[simp] theorem State.modMem_out (s : State) (f : Mem → Mem) : (s.modMem f).out = s.out := rfl
@[simp] theorem State.modMem_pending (s : State) (f : Mem → Mem) : (s.modMem f).pending = s.pending := rfl

/-! ### State.modChan -/

@[simp] theorem State.modChan_dev (s : State) (n : Nat) (f : MemChan → MemChan) : (s.modChan n f).dev = s.dev := rfl
@[simp] theorem State.modChan_ev (s : State) (n : Nat) (f : MemChan → MemChan) : (s.modChan n f).ev = s.ev := rfl
@[simp] theorem State.modChan_host (s : State) (n : Nat) (f : MemChan → MemChan) : (s.modChan n f).host = s.host := rfl
@[simp] theorem State.modChan_par (s : State) (n : Nat) (f : MemChan → MemChan) : (s.modChan n f).par = s.par := rfl
@[simp] theorem State.modChan_objs (s : State) (n : Nat) (f : MemChan → MemChan) : (s.modChan n f).objs = s.objs := rfl
@[simp] theorem State.modChan_fw (s : State) (n : Nat) (f : MemChan → MemChan) : (s.modChan n f).fw = s.fw := rfl
@[simp] theorem State.modChan_tim (s : State) (n : Nat) (f : MemChan → MemChan) : (s.modChan n f).tim = s.tim := rfl
@[simp] theorem State.modChan_time (s : State) (n : Nat) (f : MemChan → MemChan) : (s.modChan n f).time = s.time := rfl
@[simp] theorem State.modChan_mem (s : State) (n : Nat) (f : MemChan → MemChan) : (s.modChan n f).mem = { s.mem with chans := updAt s.mem.chans n f } := rfl
@[simp] theorem State.modChan_pwr (s : State) (n : Nat) (f : MemChan → MemChan) : (s.modChan n f).pwr = s.pwr := rfl
@[simp] theorem State.modChan_saf (s : State) (n : Nat) (f : MemChan → MemChan) : (s.modChan n f).saf = s.saf := rfl
@[simp] theorem State.modChan_pair (s : State) (n : Nat) (f : MemChan → MemChan) : (s.modChan n f).pair = s.pair := rfl
@[simp] theorem State.modChan_start (s : State) (n : Nat) (f : MemChan → MemChan) : (s.modChan n f).start = s.start := rfl
@[simp] theorem State.modChan_direct (s : State) (n : Nat) (f : MemChan → MemChan) : (s.modChan n f).direct = s.direct := rfl
@[simp] theorem State.modChan_enc (s : State) (n : Nat) (f : MemChan → MemChan) : (s.modChan n f).enc = s.enc := rfl
@[simp] theorem State.modChan_ingest (s : State) (n : Nat) (f : MemChan → MemChan) : (s.modChan n f).ingest = s.ingest := rfl
@[simp] theorem State.modChan_dec (s : State) (n : Nat) (f : MemChan → MemChan) : (s.modChan n f).dec = s.dec := rfl
@[simp] theorem State.modChan_synth (s : State) (n : Nat) (f : MemChan → MemChan) : (s.modChan n f).synth = s.synth := rfl
@[simp] theorem State.modChan_place (s : State) (n : Nat) (f : MemChan → MemChan) : (s.modChan n f).place = s.place := rfl
@[simp] theorem State.modChan_link (s : State) (n : Nat) (f : MemChan → MemChan) : (s.modChan n f).link = s.link := rfl
@[simp] theorem State.modChan_panel (s : State) (n : Nat) (f : MemChan → MemChan) : (s.modChan n f).panel = s.panel := rfl
@[simp] theorem State.modChan_comp (s : State) (n : Nat) (f : MemChan → MemChan) : (s.modChan n f).comp = s.comp := rfl
@[simp] theorem State.modChan_free (s : State) (n : Nat) (f : MemChan → MemChan) : (s.modChan n f).free = s.free := rfl
@[simp] theorem State.modChan_out (s : State) (n : Nat) (f : MemChan → MemChan) : (s.modChan n f).out = s.out := rfl
@[simp] theorem State.modChan_pending (s : State) (n : Nat) (f : MemChan → MemChan) : (s.modChan n f).pending = s.pending := rfl

/-! ### State.modPwr -/

@[simp] theorem State.modPwr_dev (s : State) (f : Pwr → Pwr) : (s.modPwr f).dev = s.dev := rfl
@[simp] theorem State.modPwr_ev (s : State) (f : Pwr → Pwr) : (s.modPwr f).ev = s.ev := rfl
@[simp] theorem State.modPwr_host (s : State) (f : Pwr → Pwr) : (s.modPwr f).host = s.host := rfl
@[simp] theorem State.modPwr_par (s : State) (f : Pwr → Pwr) : (s.modPwr f).par = s.par := rfl
@[simp] theorem State.modPwr_objs (s : State) (f : Pwr → Pwr) : (s.modPwr f).objs = s.objs := rfl
@[simp] theorem State.modPwr_fw (s : State) (f : Pwr → Pwr) : (s.modPwr f).fw = s.fw := rfl
@[simp] theorem State.modPwr_tim (s : State) (f : Pwr → Pwr) : (s.modPwr f).tim = s.tim := rfl
@[simp] theorem State.modPwr_time (s : State) (f : Pwr → Pwr) : (s.modPwr f).time = s.time := rfl
@[simp] theorem State.modPwr_mem (s : State) (f : Pwr → Pwr) : (s.modPwr f).mem = s.mem := rfl
@[simp] theorem State.modPwr_pwr (s : State) (f : Pwr → Pwr) : (s.modPwr f).pwr = f s.pwr := rfl
@[simp] theorem State.modPwr_saf (s : State) (f : Pwr → Pwr) : (s.modPwr f).saf = s.saf := rfl
@[simp] theorem State.modPwr_pair (s : State) (f : Pwr → Pwr) : (s.modPwr f).pair = s.pair := rfl
@[simp] theorem State.modPwr_start (s : State) (f : Pwr → Pwr) : (s.modPwr f).start = s.start := rfl
@[simp] theorem State.modPwr_direct (s : State) (f : Pwr → Pwr) : (s.modPwr f).direct = s.direct := rfl
@[simp] theorem State.modPwr_enc (s : State) (f : Pwr → Pwr) : (s.modPwr f).enc = s.enc := rfl
@[simp] theorem State.modPwr_ingest (s : State) (f : Pwr → Pwr) : (s.modPwr f).ingest = s.ingest := rfl
@[simp] theorem State.modPwr_dec (s : State) (f : Pwr → Pwr) : (s.modPwr f).dec = s.dec := rfl
@[simp] theorem State.modPwr_synth (s : State) (f : Pwr → Pwr) : (s.modPwr f).synth = s.synth := rfl
@[simp] theorem State.modPwr_place (s : State) (f : Pwr → Pwr) : (s.modPwr f).place = s.place := rfl
@[simp] theorem State.modPwr_link (s : State) (f : Pwr → Pwr) : (s.modPwr f).link = s.link := rfl
@[simp] theorem State.modPwr_panel (s : State) (f : Pwr → Pwr) : (s.modPwr f).panel = s.panel := rfl
@[simp] theorem State.modPwr_comp (s : State) (f : Pwr → Pwr) : (s.modPwr f).comp = s.comp := rfl
@[simp] theorem State.modPwr_free (s : State) (f : Pwr → Pwr) : (s.modPwr f).free = s.free := rfl
@[simp] theorem State.modPwr_out (s : State) (f : Pwr → Pwr) : (s.modPwr f).out = s.out := rfl
@[simp] theorem State.modPwr_pending (s : State) (f : Pwr → Pwr) : (s.modPwr f).pending = s.pending := rfl

/-! ### State.modDomain -/

@[simp] theorem State.modDomain_dev (s : State) (d : Nat) (f : Domain → Domain) : (s.modDomain d f).dev = s.dev := rfl
@[simp] theorem State.modDomain_ev (s : State) (d : Nat) (f : Domain → Domain) : (s.modDomain d f).ev = s.ev := rfl
@[simp] theorem State.modDomain_host (s : State) (d : Nat) (f : Domain → Domain) : (s.modDomain d f).host = s.host := rfl
@[simp] theorem State.modDomain_par (s : State) (d : Nat) (f : Domain → Domain) : (s.modDomain d f).par = s.par := rfl
@[simp] theorem State.modDomain_objs (s : State) (d : Nat) (f : Domain → Domain) : (s.modDomain d f).objs = s.objs := rfl
@[simp] theorem State.modDomain_fw (s : State) (d : Nat) (f : Domain → Domain) : (s.modDomain d f).fw = s.fw := rfl
@[simp] theorem State.modDomain_tim (s : State) (d : Nat) (f : Domain → Domain) : (s.modDomain d f).tim = s.tim := rfl
@[simp] theorem State.modDomain_time (s : State) (d : Nat) (f : Domain → Domain) : (s.modDomain d f).time = s.time := rfl
@[simp] theorem State.modDomain_mem (s : State) (d : Nat) (f : Domain → Domain) : (s.modDomain d f).mem = s.mem := rfl
@[simp] theorem State.modDomain_pwr (s : State) (d : Nat) (f : Domain → Domain) : (s.modDomain d f).pwr = { s.pwr with domains := updAt s.pwr.domains (d - 1) f } := rfl
@[simp] theorem State.modDomain_saf (s : State) (d : Nat) (f : Domain → Domain) : (s.modDomain d f).saf = s.saf := rfl
@[simp] theorem State.modDomain_pair (s : State) (d : Nat) (f : Domain → Domain) : (s.modDomain d f).pair = s.pair := rfl
@[simp] theorem State.modDomain_start (s : State) (d : Nat) (f : Domain → Domain) : (s.modDomain d f).start = s.start := rfl
@[simp] theorem State.modDomain_direct (s : State) (d : Nat) (f : Domain → Domain) : (s.modDomain d f).direct = s.direct := rfl
@[simp] theorem State.modDomain_enc (s : State) (d : Nat) (f : Domain → Domain) : (s.modDomain d f).enc = s.enc := rfl
@[simp] theorem State.modDomain_ingest (s : State) (d : Nat) (f : Domain → Domain) : (s.modDomain d f).ingest = s.ingest := rfl
@[simp] theorem State.modDomain_dec (s : State) (d : Nat) (f : Domain → Domain) : (s.modDomain d f).dec = s.dec := rfl
@[simp] theorem State.modDomain_synth (s : State) (d : Nat) (f : Domain → Domain) : (s.modDomain d f).synth = s.synth := rfl
@[simp] theorem State.modDomain_place (s : State) (d : Nat) (f : Domain → Domain) : (s.modDomain d f).place = s.place := rfl
@[simp] theorem State.modDomain_link (s : State) (d : Nat) (f : Domain → Domain) : (s.modDomain d f).link = s.link := rfl
@[simp] theorem State.modDomain_panel (s : State) (d : Nat) (f : Domain → Domain) : (s.modDomain d f).panel = s.panel := rfl
@[simp] theorem State.modDomain_comp (s : State) (d : Nat) (f : Domain → Domain) : (s.modDomain d f).comp = s.comp := rfl
@[simp] theorem State.modDomain_free (s : State) (d : Nat) (f : Domain → Domain) : (s.modDomain d f).free = s.free := rfl
@[simp] theorem State.modDomain_out (s : State) (d : Nat) (f : Domain → Domain) : (s.modDomain d f).out = s.out := rfl
@[simp] theorem State.modDomain_pending (s : State) (d : Nat) (f : Domain → Domain) : (s.modDomain d f).pending = s.pending := rfl

/-! ### State.modSaf -/

@[simp] theorem State.modSaf_dev (s : State) (f : Saf → Saf) : (s.modSaf f).dev = s.dev := rfl
@[simp] theorem State.modSaf_ev (s : State) (f : Saf → Saf) : (s.modSaf f).ev = s.ev := rfl
@[simp] theorem State.modSaf_host (s : State) (f : Saf → Saf) : (s.modSaf f).host = s.host := rfl
@[simp] theorem State.modSaf_par (s : State) (f : Saf → Saf) : (s.modSaf f).par = s.par := rfl
@[simp] theorem State.modSaf_objs (s : State) (f : Saf → Saf) : (s.modSaf f).objs = s.objs := rfl
@[simp] theorem State.modSaf_fw (s : State) (f : Saf → Saf) : (s.modSaf f).fw = s.fw := rfl
@[simp] theorem State.modSaf_tim (s : State) (f : Saf → Saf) : (s.modSaf f).tim = s.tim := rfl
@[simp] theorem State.modSaf_time (s : State) (f : Saf → Saf) : (s.modSaf f).time = s.time := rfl
@[simp] theorem State.modSaf_mem (s : State) (f : Saf → Saf) : (s.modSaf f).mem = s.mem := rfl
@[simp] theorem State.modSaf_pwr (s : State) (f : Saf → Saf) : (s.modSaf f).pwr = s.pwr := rfl
@[simp] theorem State.modSaf_saf (s : State) (f : Saf → Saf) : (s.modSaf f).saf = f s.saf := rfl
@[simp] theorem State.modSaf_pair (s : State) (f : Saf → Saf) : (s.modSaf f).pair = s.pair := rfl
@[simp] theorem State.modSaf_start (s : State) (f : Saf → Saf) : (s.modSaf f).start = s.start := rfl
@[simp] theorem State.modSaf_direct (s : State) (f : Saf → Saf) : (s.modSaf f).direct = s.direct := rfl
@[simp] theorem State.modSaf_enc (s : State) (f : Saf → Saf) : (s.modSaf f).enc = s.enc := rfl
@[simp] theorem State.modSaf_ingest (s : State) (f : Saf → Saf) : (s.modSaf f).ingest = s.ingest := rfl
@[simp] theorem State.modSaf_dec (s : State) (f : Saf → Saf) : (s.modSaf f).dec = s.dec := rfl
@[simp] theorem State.modSaf_synth (s : State) (f : Saf → Saf) : (s.modSaf f).synth = s.synth := rfl
@[simp] theorem State.modSaf_place (s : State) (f : Saf → Saf) : (s.modSaf f).place = s.place := rfl
@[simp] theorem State.modSaf_link (s : State) (f : Saf → Saf) : (s.modSaf f).link = s.link := rfl
@[simp] theorem State.modSaf_panel (s : State) (f : Saf → Saf) : (s.modSaf f).panel = s.panel := rfl
@[simp] theorem State.modSaf_comp (s : State) (f : Saf → Saf) : (s.modSaf f).comp = s.comp := rfl
@[simp] theorem State.modSaf_free (s : State) (f : Saf → Saf) : (s.modSaf f).free = s.free := rfl
@[simp] theorem State.modSaf_out (s : State) (f : Saf → Saf) : (s.modSaf f).out = s.out := rfl
@[simp] theorem State.modSaf_pending (s : State) (f : Saf → Saf) : (s.modSaf f).pending = s.pending := rfl

/-! ### State.modPair -/

@[simp] theorem State.modPair_dev (s : State) (f : PairSt → PairSt) : (s.modPair f).dev = s.dev := rfl
@[simp] theorem State.modPair_ev (s : State) (f : PairSt → PairSt) : (s.modPair f).ev = s.ev := rfl
@[simp] theorem State.modPair_host (s : State) (f : PairSt → PairSt) : (s.modPair f).host = s.host := rfl
@[simp] theorem State.modPair_par (s : State) (f : PairSt → PairSt) : (s.modPair f).par = s.par := rfl
@[simp] theorem State.modPair_objs (s : State) (f : PairSt → PairSt) : (s.modPair f).objs = s.objs := rfl
@[simp] theorem State.modPair_fw (s : State) (f : PairSt → PairSt) : (s.modPair f).fw = s.fw := rfl
@[simp] theorem State.modPair_tim (s : State) (f : PairSt → PairSt) : (s.modPair f).tim = s.tim := rfl
@[simp] theorem State.modPair_time (s : State) (f : PairSt → PairSt) : (s.modPair f).time = s.time := rfl
@[simp] theorem State.modPair_mem (s : State) (f : PairSt → PairSt) : (s.modPair f).mem = s.mem := rfl
@[simp] theorem State.modPair_pwr (s : State) (f : PairSt → PairSt) : (s.modPair f).pwr = s.pwr := rfl
@[simp] theorem State.modPair_saf (s : State) (f : PairSt → PairSt) : (s.modPair f).saf = s.saf := rfl
@[simp] theorem State.modPair_pair (s : State) (f : PairSt → PairSt) : (s.modPair f).pair = f s.pair := rfl
@[simp] theorem State.modPair_start (s : State) (f : PairSt → PairSt) : (s.modPair f).start = s.start := rfl
@[simp] theorem State.modPair_direct (s : State) (f : PairSt → PairSt) : (s.modPair f).direct = s.direct := rfl
@[simp] theorem State.modPair_enc (s : State) (f : PairSt → PairSt) : (s.modPair f).enc = s.enc := rfl
@[simp] theorem State.modPair_ingest (s : State) (f : PairSt → PairSt) : (s.modPair f).ingest = s.ingest := rfl
@[simp] theorem State.modPair_dec (s : State) (f : PairSt → PairSt) : (s.modPair f).dec = s.dec := rfl
@[simp] theorem State.modPair_synth (s : State) (f : PairSt → PairSt) : (s.modPair f).synth = s.synth := rfl
@[simp] theorem State.modPair_place (s : State) (f : PairSt → PairSt) : (s.modPair f).place = s.place := rfl
@[simp] theorem State.modPair_link (s : State) (f : PairSt → PairSt) : (s.modPair f).link = s.link := rfl
@[simp] theorem State.modPair_panel (s : State) (f : PairSt → PairSt) : (s.modPair f).panel = s.panel := rfl
@[simp] theorem State.modPair_comp (s : State) (f : PairSt → PairSt) : (s.modPair f).comp = s.comp := rfl
@[simp] theorem State.modPair_free (s : State) (f : PairSt → PairSt) : (s.modPair f).free = s.free := rfl
@[simp] theorem State.modPair_out (s : State) (f : PairSt → PairSt) : (s.modPair f).out = s.out := rfl
@[simp] theorem State.modPair_pending (s : State) (f : PairSt → PairSt) : (s.modPair f).pending = s.pending := rfl

/-! ### State.modScene -/

@[simp] theorem State.modScene_dev (s : State) (n : Nat) (f : Scene → Scene) : (s.modScene n f).dev = s.dev := rfl
@[simp] theorem State.modScene_ev (s : State) (n : Nat) (f : Scene → Scene) : (s.modScene n f).ev = s.ev := rfl
@[simp] theorem State.modScene_host (s : State) (n : Nat) (f : Scene → Scene) : (s.modScene n f).host = s.host := rfl
@[simp] theorem State.modScene_par (s : State) (n : Nat) (f : Scene → Scene) : (s.modScene n f).par = s.par := rfl
@[simp] theorem State.modScene_objs (s : State) (n : Nat) (f : Scene → Scene) : (s.modScene n f).objs = s.objs := rfl
@[simp] theorem State.modScene_fw (s : State) (n : Nat) (f : Scene → Scene) : (s.modScene n f).fw = s.fw := rfl
@[simp] theorem State.modScene_tim (s : State) (n : Nat) (f : Scene → Scene) : (s.modScene n f).tim = s.tim := rfl
@[simp] theorem State.modScene_time (s : State) (n : Nat) (f : Scene → Scene) : (s.modScene n f).time = s.time := rfl
@[simp] theorem State.modScene_mem (s : State) (n : Nat) (f : Scene → Scene) : (s.modScene n f).mem = s.mem := rfl
@[simp] theorem State.modScene_pwr (s : State) (n : Nat) (f : Scene → Scene) : (s.modScene n f).pwr = s.pwr := rfl
@[simp] theorem State.modScene_saf (s : State) (n : Nat) (f : Scene → Scene) : (s.modScene n f).saf = s.saf := rfl
@[simp] theorem State.modScene_pair (s : State) (n : Nat) (f : Scene → Scene) : (s.modScene n f).pair = s.pair := rfl
@[simp] theorem State.modScene_start (s : State) (n : Nat) (f : Scene → Scene) : (s.modScene n f).start = s.start := rfl
@[simp] theorem State.modScene_direct (s : State) (n : Nat) (f : Scene → Scene) : (s.modScene n f).direct = s.direct := rfl
@[simp] theorem State.modScene_enc (s : State) (n : Nat) (f : Scene → Scene) : (s.modScene n f).enc = s.enc := rfl
@[simp] theorem State.modScene_dec (s : State) (n : Nat) (f : Scene → Scene) : (s.modScene n f).dec = s.dec := rfl
@[simp] theorem State.modScene_synth (s : State) (n : Nat) (f : Scene → Scene) : (s.modScene n f).synth = s.synth := rfl
@[simp] theorem State.modScene_place (s : State) (n : Nat) (f : Scene → Scene) : (s.modScene n f).place = s.place := rfl
@[simp] theorem State.modScene_link (s : State) (n : Nat) (f : Scene → Scene) : (s.modScene n f).link = s.link := rfl
@[simp] theorem State.modScene_panel (s : State) (n : Nat) (f : Scene → Scene) : (s.modScene n f).panel = s.panel := rfl
@[simp] theorem State.modScene_comp (s : State) (n : Nat) (f : Scene → Scene) : (s.modScene n f).comp = s.comp := rfl
@[simp] theorem State.modScene_free (s : State) (n : Nat) (f : Scene → Scene) : (s.modScene n f).free = s.free := rfl
@[simp] theorem State.modScene_out (s : State) (n : Nat) (f : Scene → Scene) : (s.modScene n f).out = s.out := rfl
@[simp] theorem State.modScene_pending (s : State) (n : Nat) (f : Scene → Scene) : (s.modScene n f).pending = s.pending := rfl

/-! ### State.modStream -/

@[simp] theorem State.modStream_dev (s : State) (d : StreamId) (f : DStream → DStream) : (s.modStream d f).dev = s.dev := rfl
@[simp] theorem State.modStream_ev (s : State) (d : StreamId) (f : DStream → DStream) : (s.modStream d f).ev = s.ev := rfl
@[simp] theorem State.modStream_host (s : State) (d : StreamId) (f : DStream → DStream) : (s.modStream d f).host = s.host := rfl
@[simp] theorem State.modStream_par (s : State) (d : StreamId) (f : DStream → DStream) : (s.modStream d f).par = s.par := rfl
@[simp] theorem State.modStream_objs (s : State) (d : StreamId) (f : DStream → DStream) : (s.modStream d f).objs = s.objs := rfl
@[simp] theorem State.modStream_fw (s : State) (d : StreamId) (f : DStream → DStream) : (s.modStream d f).fw = s.fw := rfl
@[simp] theorem State.modStream_tim (s : State) (d : StreamId) (f : DStream → DStream) : (s.modStream d f).tim = s.tim := rfl
@[simp] theorem State.modStream_time (s : State) (d : StreamId) (f : DStream → DStream) : (s.modStream d f).time = s.time := rfl
@[simp] theorem State.modStream_mem (s : State) (d : StreamId) (f : DStream → DStream) : (s.modStream d f).mem = s.mem := rfl
@[simp] theorem State.modStream_pwr (s : State) (d : StreamId) (f : DStream → DStream) : (s.modStream d f).pwr = s.pwr := rfl
@[simp] theorem State.modStream_saf (s : State) (d : StreamId) (f : DStream → DStream) : (s.modStream d f).saf = s.saf := rfl
@[simp] theorem State.modStream_pair (s : State) (d : StreamId) (f : DStream → DStream) : (s.modStream d f).pair = s.pair := rfl
@[simp] theorem State.modStream_start (s : State) (d : StreamId) (f : DStream → DStream) : (s.modStream d f).start = s.start := rfl
@[simp] theorem State.modStream_direct (s : State) (d : StreamId) (f : DStream → DStream) : (s.modStream d f).direct = s.direct := rfl
@[simp] theorem State.modStream_enc (s : State) (d : StreamId) (f : DStream → DStream) : (s.modStream d f).enc = s.enc := rfl
@[simp] theorem State.modStream_ingest (s : State) (d : StreamId) (f : DStream → DStream) : (s.modStream d f).ingest = s.ingest := rfl
@[simp] theorem State.modStream_synth (s : State) (d : StreamId) (f : DStream → DStream) : (s.modStream d f).synth = s.synth := rfl
@[simp] theorem State.modStream_place (s : State) (d : StreamId) (f : DStream → DStream) : (s.modStream d f).place = s.place := rfl
@[simp] theorem State.modStream_link (s : State) (d : StreamId) (f : DStream → DStream) : (s.modStream d f).link = s.link := rfl
@[simp] theorem State.modStream_panel (s : State) (d : StreamId) (f : DStream → DStream) : (s.modStream d f).panel = s.panel := rfl
@[simp] theorem State.modStream_comp (s : State) (d : StreamId) (f : DStream → DStream) : (s.modStream d f).comp = s.comp := rfl
@[simp] theorem State.modStream_free (s : State) (d : StreamId) (f : DStream → DStream) : (s.modStream d f).free = s.free := rfl
@[simp] theorem State.modStream_out (s : State) (d : StreamId) (f : DStream → DStream) : (s.modStream d f).out = s.out := rfl
@[simp] theorem State.modStream_pending (s : State) (d : StreamId) (f : DStream → DStream) : (s.modStream d f).pending = s.pending := rfl

/-! ### State.modCluster -/

@[simp] theorem State.modCluster_dev (s : State) (n : Nat) (f : Cluster → Cluster) : (s.modCluster n f).dev = s.dev := rfl
@[simp] theorem State.modCluster_ev (s : State) (n : Nat) (f : Cluster → Cluster) : (s.modCluster n f).ev = s.ev := rfl
@[simp] theorem State.modCluster_host (s : State) (n : Nat) (f : Cluster → Cluster) : (s.modCluster n f).host = s.host := rfl
@[simp] theorem State.modCluster_par (s : State) (n : Nat) (f : Cluster → Cluster) : (s.modCluster n f).par = s.par := rfl
@[simp] theorem State.modCluster_objs (s : State) (n : Nat) (f : Cluster → Cluster) : (s.modCluster n f).objs = s.objs := rfl
@[simp] theorem State.modCluster_fw (s : State) (n : Nat) (f : Cluster → Cluster) : (s.modCluster n f).fw = s.fw := rfl
@[simp] theorem State.modCluster_tim (s : State) (n : Nat) (f : Cluster → Cluster) : (s.modCluster n f).tim = s.tim := rfl
@[simp] theorem State.modCluster_time (s : State) (n : Nat) (f : Cluster → Cluster) : (s.modCluster n f).time = s.time := rfl
@[simp] theorem State.modCluster_mem (s : State) (n : Nat) (f : Cluster → Cluster) : (s.modCluster n f).mem = s.mem := rfl
@[simp] theorem State.modCluster_pwr (s : State) (n : Nat) (f : Cluster → Cluster) : (s.modCluster n f).pwr = s.pwr := rfl
@[simp] theorem State.modCluster_saf (s : State) (n : Nat) (f : Cluster → Cluster) : (s.modCluster n f).saf = s.saf := rfl
@[simp] theorem State.modCluster_pair (s : State) (n : Nat) (f : Cluster → Cluster) : (s.modCluster n f).pair = s.pair := rfl
@[simp] theorem State.modCluster_start (s : State) (n : Nat) (f : Cluster → Cluster) : (s.modCluster n f).start = s.start := rfl
@[simp] theorem State.modCluster_direct (s : State) (n : Nat) (f : Cluster → Cluster) : (s.modCluster n f).direct = s.direct := rfl
@[simp] theorem State.modCluster_enc (s : State) (n : Nat) (f : Cluster → Cluster) : (s.modCluster n f).enc = s.enc := rfl
@[simp] theorem State.modCluster_ingest (s : State) (n : Nat) (f : Cluster → Cluster) : (s.modCluster n f).ingest = s.ingest := rfl
@[simp] theorem State.modCluster_dec (s : State) (n : Nat) (f : Cluster → Cluster) : (s.modCluster n f).dec = s.dec := rfl
@[simp] theorem State.modCluster_synth (s : State) (n : Nat) (f : Cluster → Cluster) : (s.modCluster n f).synth = { s.synth with clusters := updAt s.synth.clusters n f } := rfl
@[simp] theorem State.modCluster_place (s : State) (n : Nat) (f : Cluster → Cluster) : (s.modCluster n f).place = s.place := rfl
@[simp] theorem State.modCluster_link (s : State) (n : Nat) (f : Cluster → Cluster) : (s.modCluster n f).link = s.link := rfl
@[simp] theorem State.modCluster_panel (s : State) (n : Nat) (f : Cluster → Cluster) : (s.modCluster n f).panel = s.panel := rfl
@[simp] theorem State.modCluster_comp (s : State) (n : Nat) (f : Cluster → Cluster) : (s.modCluster n f).comp = s.comp := rfl
@[simp] theorem State.modCluster_free (s : State) (n : Nat) (f : Cluster → Cluster) : (s.modCluster n f).free = s.free := rfl
@[simp] theorem State.modCluster_out (s : State) (n : Nat) (f : Cluster → Cluster) : (s.modCluster n f).out = s.out := rfl
@[simp] theorem State.modCluster_pending (s : State) (n : Nat) (f : Cluster → Cluster) : (s.modCluster n f).pending = s.pending := rfl

/-! ### State.modFix -/

@[simp] theorem State.modFix_dev (s : State) (n : Nat) (f : FrameFix → FrameFix) : (s.modFix n f).dev = s.dev := rfl
@[simp] theorem State.modFix_ev (s : State) (n : Nat) (f : FrameFix → FrameFix) : (s.modFix n f).ev = s.ev := rfl
@[simp] theorem State.modFix_host (s : State) (n : Nat) (f : FrameFix → FrameFix) : (s.modFix n f).host = s.host := rfl
@[simp] theorem State.modFix_par (s : State) (n : Nat) (f : FrameFix → FrameFix) : (s.modFix n f).par = s.par := rfl
@[simp] theorem State.modFix_objs (s : State) (n : Nat) (f : FrameFix → FrameFix) : (s.modFix n f).objs = s.objs := rfl
@[simp] theorem State.modFix_fw (s : State) (n : Nat) (f : FrameFix → FrameFix) : (s.modFix n f).fw = s.fw := rfl
@[simp] theorem State.modFix_tim (s : State) (n : Nat) (f : FrameFix → FrameFix) : (s.modFix n f).tim = s.tim := rfl
@[simp] theorem State.modFix_time (s : State) (n : Nat) (f : FrameFix → FrameFix) : (s.modFix n f).time = s.time := rfl
@[simp] theorem State.modFix_mem (s : State) (n : Nat) (f : FrameFix → FrameFix) : (s.modFix n f).mem = s.mem := rfl
@[simp] theorem State.modFix_pwr (s : State) (n : Nat) (f : FrameFix → FrameFix) : (s.modFix n f).pwr = s.pwr := rfl
@[simp] theorem State.modFix_saf (s : State) (n : Nat) (f : FrameFix → FrameFix) : (s.modFix n f).saf = s.saf := rfl
@[simp] theorem State.modFix_pair (s : State) (n : Nat) (f : FrameFix → FrameFix) : (s.modFix n f).pair = s.pair := rfl
@[simp] theorem State.modFix_start (s : State) (n : Nat) (f : FrameFix → FrameFix) : (s.modFix n f).start = s.start := rfl
@[simp] theorem State.modFix_direct (s : State) (n : Nat) (f : FrameFix → FrameFix) : (s.modFix n f).direct = s.direct := rfl
@[simp] theorem State.modFix_enc (s : State) (n : Nat) (f : FrameFix → FrameFix) : (s.modFix n f).enc = s.enc := rfl
@[simp] theorem State.modFix_ingest (s : State) (n : Nat) (f : FrameFix → FrameFix) : (s.modFix n f).ingest = s.ingest := rfl
@[simp] theorem State.modFix_dec (s : State) (n : Nat) (f : FrameFix → FrameFix) : (s.modFix n f).dec = s.dec := rfl
@[simp] theorem State.modFix_place (s : State) (n : Nat) (f : FrameFix → FrameFix) : (s.modFix n f).place = s.place := rfl
@[simp] theorem State.modFix_link (s : State) (n : Nat) (f : FrameFix → FrameFix) : (s.modFix n f).link = s.link := rfl
@[simp] theorem State.modFix_panel (s : State) (n : Nat) (f : FrameFix → FrameFix) : (s.modFix n f).panel = s.panel := rfl
@[simp] theorem State.modFix_comp (s : State) (n : Nat) (f : FrameFix → FrameFix) : (s.modFix n f).comp = s.comp := rfl
@[simp] theorem State.modFix_free (s : State) (n : Nat) (f : FrameFix → FrameFix) : (s.modFix n f).free = s.free := rfl
@[simp] theorem State.modFix_out (s : State) (n : Nat) (f : FrameFix → FrameFix) : (s.modFix n f).out = s.out := rfl
@[simp] theorem State.modFix_pending (s : State) (n : Nat) (f : FrameFix → FrameFix) : (s.modFix n f).pending = s.pending := rfl

/-! ### State.modComp -/

@[simp] theorem State.modComp_dev (s : State) (f : Comp → Comp) : (s.modComp f).dev = s.dev := rfl
@[simp] theorem State.modComp_ev (s : State) (f : Comp → Comp) : (s.modComp f).ev = s.ev := rfl
@[simp] theorem State.modComp_host (s : State) (f : Comp → Comp) : (s.modComp f).host = s.host := rfl
@[simp] theorem State.modComp_par (s : State) (f : Comp → Comp) : (s.modComp f).par = s.par := rfl
@[simp] theorem State.modComp_objs (s : State) (f : Comp → Comp) : (s.modComp f).objs = s.objs := rfl
@[simp] theorem State.modComp_fw (s : State) (f : Comp → Comp) : (s.modComp f).fw = s.fw := rfl
@[simp] theorem State.modComp_tim (s : State) (f : Comp → Comp) : (s.modComp f).tim = s.tim := rfl
@[simp] theorem State.modComp_time (s : State) (f : Comp → Comp) : (s.modComp f).time = s.time := rfl
@[simp] theorem State.modComp_mem (s : State) (f : Comp → Comp) : (s.modComp f).mem = s.mem := rfl
@[simp] theorem State.modComp_pwr (s : State) (f : Comp → Comp) : (s.modComp f).pwr = s.pwr := rfl
@[simp] theorem State.modComp_saf (s : State) (f : Comp → Comp) : (s.modComp f).saf = s.saf := rfl
@[simp] theorem State.modComp_pair (s : State) (f : Comp → Comp) : (s.modComp f).pair = s.pair := rfl
@[simp] theorem State.modComp_start (s : State) (f : Comp → Comp) : (s.modComp f).start = s.start := rfl
@[simp] theorem State.modComp_direct (s : State) (f : Comp → Comp) : (s.modComp f).direct = s.direct := rfl
@[simp] theorem State.modComp_enc (s : State) (f : Comp → Comp) : (s.modComp f).enc = s.enc := rfl
@[simp] theorem State.modComp_ingest (s : State) (f : Comp → Comp) : (s.modComp f).ingest = s.ingest := rfl
@[simp] theorem State.modComp_dec (s : State) (f : Comp → Comp) : (s.modComp f).dec = s.dec := rfl
@[simp] theorem State.modComp_synth (s : State) (f : Comp → Comp) : (s.modComp f).synth = s.synth := rfl
@[simp] theorem State.modComp_place (s : State) (f : Comp → Comp) : (s.modComp f).place = s.place := rfl
@[simp] theorem State.modComp_link (s : State) (f : Comp → Comp) : (s.modComp f).link = s.link := rfl
@[simp] theorem State.modComp_panel (s : State) (f : Comp → Comp) : (s.modComp f).panel = s.panel := rfl
@[simp] theorem State.modComp_comp (s : State) (f : Comp → Comp) : (s.modComp f).comp = f s.comp := rfl
@[simp] theorem State.modComp_free (s : State) (f : Comp → Comp) : (s.modComp f).free = s.free := rfl
@[simp] theorem State.modComp_out (s : State) (f : Comp → Comp) : (s.modComp f).out = s.out := rfl
@[simp] theorem State.modComp_pending (s : State) (f : Comp → Comp) : (s.modComp f).pending = s.pending := rfl

/-! ### State.modScan -/

@[simp] theorem State.modScan_dev (s : State) (n : Nat) (f : TileScan → TileScan) : (s.modScan n f).dev = s.dev := rfl
@[simp] theorem State.modScan_ev (s : State) (n : Nat) (f : TileScan → TileScan) : (s.modScan n f).ev = s.ev := rfl
@[simp] theorem State.modScan_host (s : State) (n : Nat) (f : TileScan → TileScan) : (s.modScan n f).host = s.host := rfl
@[simp] theorem State.modScan_par (s : State) (n : Nat) (f : TileScan → TileScan) : (s.modScan n f).par = s.par := rfl
@[simp] theorem State.modScan_objs (s : State) (n : Nat) (f : TileScan → TileScan) : (s.modScan n f).objs = s.objs := rfl
@[simp] theorem State.modScan_fw (s : State) (n : Nat) (f : TileScan → TileScan) : (s.modScan n f).fw = s.fw := rfl
@[simp] theorem State.modScan_time (s : State) (n : Nat) (f : TileScan → TileScan) : (s.modScan n f).time = s.time := rfl
@[simp] theorem State.modScan_mem (s : State) (n : Nat) (f : TileScan → TileScan) : (s.modScan n f).mem = s.mem := rfl
@[simp] theorem State.modScan_pwr (s : State) (n : Nat) (f : TileScan → TileScan) : (s.modScan n f).pwr = s.pwr := rfl
@[simp] theorem State.modScan_saf (s : State) (n : Nat) (f : TileScan → TileScan) : (s.modScan n f).saf = s.saf := rfl
@[simp] theorem State.modScan_pair (s : State) (n : Nat) (f : TileScan → TileScan) : (s.modScan n f).pair = s.pair := rfl
@[simp] theorem State.modScan_start (s : State) (n : Nat) (f : TileScan → TileScan) : (s.modScan n f).start = s.start := rfl
@[simp] theorem State.modScan_direct (s : State) (n : Nat) (f : TileScan → TileScan) : (s.modScan n f).direct = s.direct := rfl
@[simp] theorem State.modScan_enc (s : State) (n : Nat) (f : TileScan → TileScan) : (s.modScan n f).enc = s.enc := rfl
@[simp] theorem State.modScan_ingest (s : State) (n : Nat) (f : TileScan → TileScan) : (s.modScan n f).ingest = s.ingest := rfl
@[simp] theorem State.modScan_dec (s : State) (n : Nat) (f : TileScan → TileScan) : (s.modScan n f).dec = s.dec := rfl
@[simp] theorem State.modScan_synth (s : State) (n : Nat) (f : TileScan → TileScan) : (s.modScan n f).synth = s.synth := rfl
@[simp] theorem State.modScan_place (s : State) (n : Nat) (f : TileScan → TileScan) : (s.modScan n f).place = s.place := rfl
@[simp] theorem State.modScan_link (s : State) (n : Nat) (f : TileScan → TileScan) : (s.modScan n f).link = s.link := rfl
@[simp] theorem State.modScan_panel (s : State) (n : Nat) (f : TileScan → TileScan) : (s.modScan n f).panel = s.panel := rfl
@[simp] theorem State.modScan_comp (s : State) (n : Nat) (f : TileScan → TileScan) : (s.modScan n f).comp = s.comp := rfl
@[simp] theorem State.modScan_free (s : State) (n : Nat) (f : TileScan → TileScan) : (s.modScan n f).free = s.free := rfl
@[simp] theorem State.modScan_out (s : State) (n : Nat) (f : TileScan → TileScan) : (s.modScan n f).out = s.out := rfl
@[simp] theorem State.modScan_pending (s : State) (n : Nat) (f : TileScan → TileScan) : (s.modScan n f).pending = s.pending := rfl

/-! ### State.modPort -/

@[simp] theorem State.modPort_dev (s : State) (n : Nat) (f : Port → Port) : (s.modPort n f).dev = s.dev := rfl
@[simp] theorem State.modPort_ev (s : State) (n : Nat) (f : Port → Port) : (s.modPort n f).ev = s.ev := rfl
@[simp] theorem State.modPort_host (s : State) (n : Nat) (f : Port → Port) : (s.modPort n f).host = s.host := rfl
@[simp] theorem State.modPort_par (s : State) (n : Nat) (f : Port → Port) : (s.modPort n f).par = s.par := rfl
@[simp] theorem State.modPort_objs (s : State) (n : Nat) (f : Port → Port) : (s.modPort n f).objs = s.objs := rfl
@[simp] theorem State.modPort_fw (s : State) (n : Nat) (f : Port → Port) : (s.modPort n f).fw = s.fw := rfl
@[simp] theorem State.modPort_tim (s : State) (n : Nat) (f : Port → Port) : (s.modPort n f).tim = s.tim := rfl
@[simp] theorem State.modPort_time (s : State) (n : Nat) (f : Port → Port) : (s.modPort n f).time = s.time := rfl
@[simp] theorem State.modPort_mem (s : State) (n : Nat) (f : Port → Port) : (s.modPort n f).mem = s.mem := rfl
@[simp] theorem State.modPort_pwr (s : State) (n : Nat) (f : Port → Port) : (s.modPort n f).pwr = s.pwr := rfl
@[simp] theorem State.modPort_saf (s : State) (n : Nat) (f : Port → Port) : (s.modPort n f).saf = s.saf := rfl
@[simp] theorem State.modPort_pair (s : State) (n : Nat) (f : Port → Port) : (s.modPort n f).pair = s.pair := rfl
@[simp] theorem State.modPort_start (s : State) (n : Nat) (f : Port → Port) : (s.modPort n f).start = s.start := rfl
@[simp] theorem State.modPort_direct (s : State) (n : Nat) (f : Port → Port) : (s.modPort n f).direct = s.direct := rfl
@[simp] theorem State.modPort_enc (s : State) (n : Nat) (f : Port → Port) : (s.modPort n f).enc = s.enc := rfl
@[simp] theorem State.modPort_ingest (s : State) (n : Nat) (f : Port → Port) : (s.modPort n f).ingest = s.ingest := rfl
@[simp] theorem State.modPort_dec (s : State) (n : Nat) (f : Port → Port) : (s.modPort n f).dec = s.dec := rfl
@[simp] theorem State.modPort_synth (s : State) (n : Nat) (f : Port → Port) : (s.modPort n f).synth = s.synth := rfl
@[simp] theorem State.modPort_place (s : State) (n : Nat) (f : Port → Port) : (s.modPort n f).place = s.place := rfl
@[simp] theorem State.modPort_link (s : State) (n : Nat) (f : Port → Port) : (s.modPort n f).link = { s.link with ports := updAt s.link.ports n f } := rfl
@[simp] theorem State.modPort_panel (s : State) (n : Nat) (f : Port → Port) : (s.modPort n f).panel = s.panel := rfl
@[simp] theorem State.modPort_comp (s : State) (n : Nat) (f : Port → Port) : (s.modPort n f).comp = s.comp := rfl
@[simp] theorem State.modPort_free (s : State) (n : Nat) (f : Port → Port) : (s.modPort n f).free = s.free := rfl
@[simp] theorem State.modPort_out (s : State) (n : Nat) (f : Port → Port) : (s.modPort n f).out = s.out := rfl
@[simp] theorem State.modPort_pending (s : State) (n : Nat) (f : Port → Port) : (s.modPort n f).pending = s.pending := rfl

/-! ### State.modTile -/

@[simp] theorem State.modTile_dev (s : State) (n : Nat) (f : TileDrive → TileDrive) : (s.modTile n f).dev = s.dev := rfl
@[simp] theorem State.modTile_ev (s : State) (n : Nat) (f : TileDrive → TileDrive) : (s.modTile n f).ev = s.ev := rfl
@[simp] theorem State.modTile_host (s : State) (n : Nat) (f : TileDrive → TileDrive) : (s.modTile n f).host = s.host := rfl
@[simp] theorem State.modTile_par (s : State) (n : Nat) (f : TileDrive → TileDrive) : (s.modTile n f).par = s.par := rfl
@[simp] theorem State.modTile_objs (s : State) (n : Nat) (f : TileDrive → TileDrive) : (s.modTile n f).objs = s.objs := rfl
@[simp] theorem State.modTile_fw (s : State) (n : Nat) (f : TileDrive → TileDrive) : (s.modTile n f).fw = s.fw := rfl
@[simp] theorem State.modTile_tim (s : State) (n : Nat) (f : TileDrive → TileDrive) : (s.modTile n f).tim = s.tim := rfl
@[simp] theorem State.modTile_time (s : State) (n : Nat) (f : TileDrive → TileDrive) : (s.modTile n f).time = s.time := rfl
@[simp] theorem State.modTile_mem (s : State) (n : Nat) (f : TileDrive → TileDrive) : (s.modTile n f).mem = s.mem := rfl
@[simp] theorem State.modTile_pwr (s : State) (n : Nat) (f : TileDrive → TileDrive) : (s.modTile n f).pwr = s.pwr := rfl
@[simp] theorem State.modTile_saf (s : State) (n : Nat) (f : TileDrive → TileDrive) : (s.modTile n f).saf = s.saf := rfl
@[simp] theorem State.modTile_pair (s : State) (n : Nat) (f : TileDrive → TileDrive) : (s.modTile n f).pair = s.pair := rfl
@[simp] theorem State.modTile_start (s : State) (n : Nat) (f : TileDrive → TileDrive) : (s.modTile n f).start = s.start := rfl
@[simp] theorem State.modTile_direct (s : State) (n : Nat) (f : TileDrive → TileDrive) : (s.modTile n f).direct = s.direct := rfl
@[simp] theorem State.modTile_enc (s : State) (n : Nat) (f : TileDrive → TileDrive) : (s.modTile n f).enc = s.enc := rfl
@[simp] theorem State.modTile_ingest (s : State) (n : Nat) (f : TileDrive → TileDrive) : (s.modTile n f).ingest = s.ingest := rfl
@[simp] theorem State.modTile_dec (s : State) (n : Nat) (f : TileDrive → TileDrive) : (s.modTile n f).dec = s.dec := rfl
@[simp] theorem State.modTile_synth (s : State) (n : Nat) (f : TileDrive → TileDrive) : (s.modTile n f).synth = s.synth := rfl
@[simp] theorem State.modTile_place (s : State) (n : Nat) (f : TileDrive → TileDrive) : (s.modTile n f).place = s.place := rfl
@[simp] theorem State.modTile_link (s : State) (n : Nat) (f : TileDrive → TileDrive) : (s.modTile n f).link = s.link := rfl
@[simp] theorem State.modTile_panel (s : State) (n : Nat) (f : TileDrive → TileDrive) : (s.modTile n f).panel = { s.panel with tiles := updAt s.panel.tiles n f } := rfl
@[simp] theorem State.modTile_comp (s : State) (n : Nat) (f : TileDrive → TileDrive) : (s.modTile n f).comp = s.comp := rfl
@[simp] theorem State.modTile_free (s : State) (n : Nat) (f : TileDrive → TileDrive) : (s.modTile n f).free = s.free := rfl
@[simp] theorem State.modTile_out (s : State) (n : Nat) (f : TileDrive → TileDrive) : (s.modTile n f).out = s.out := rfl
@[simp] theorem State.modTile_pending (s : State) (n : Nat) (f : TileDrive → TileDrive) : (s.modTile n f).pending = s.pending := rfl

/-! ### State.modRegion -/

@[simp] theorem State.modRegion_dev (s : State) (n : Nat) (f : Region → Region) : (s.modRegion n f).dev = s.dev := rfl
@[simp] theorem State.modRegion_ev (s : State) (n : Nat) (f : Region → Region) : (s.modRegion n f).ev = s.ev := rfl
@[simp] theorem State.modRegion_host (s : State) (n : Nat) (f : Region → Region) : (s.modRegion n f).host = s.host := rfl
@[simp] theorem State.modRegion_par (s : State) (n : Nat) (f : Region → Region) : (s.modRegion n f).par = s.par := rfl
@[simp] theorem State.modRegion_objs (s : State) (n : Nat) (f : Region → Region) : (s.modRegion n f).objs = s.objs := rfl
@[simp] theorem State.modRegion_fw (s : State) (n : Nat) (f : Region → Region) : (s.modRegion n f).fw = s.fw := rfl
@[simp] theorem State.modRegion_tim (s : State) (n : Nat) (f : Region → Region) : (s.modRegion n f).tim = s.tim := rfl
@[simp] theorem State.modRegion_time (s : State) (n : Nat) (f : Region → Region) : (s.modRegion n f).time = s.time := rfl
@[simp] theorem State.modRegion_mem (s : State) (n : Nat) (f : Region → Region) : (s.modRegion n f).mem = s.mem := rfl
@[simp] theorem State.modRegion_pwr (s : State) (n : Nat) (f : Region → Region) : (s.modRegion n f).pwr = s.pwr := rfl
@[simp] theorem State.modRegion_saf (s : State) (n : Nat) (f : Region → Region) : (s.modRegion n f).saf = s.saf := rfl
@[simp] theorem State.modRegion_pair (s : State) (n : Nat) (f : Region → Region) : (s.modRegion n f).pair = s.pair := rfl
@[simp] theorem State.modRegion_start (s : State) (n : Nat) (f : Region → Region) : (s.modRegion n f).start = s.start := rfl
@[simp] theorem State.modRegion_direct (s : State) (n : Nat) (f : Region → Region) : (s.modRegion n f).direct = s.direct := rfl
@[simp] theorem State.modRegion_enc (s : State) (n : Nat) (f : Region → Region) : (s.modRegion n f).enc = s.enc := rfl
@[simp] theorem State.modRegion_ingest (s : State) (n : Nat) (f : Region → Region) : (s.modRegion n f).ingest = s.ingest := rfl
@[simp] theorem State.modRegion_dec (s : State) (n : Nat) (f : Region → Region) : (s.modRegion n f).dec = s.dec := rfl
@[simp] theorem State.modRegion_synth (s : State) (n : Nat) (f : Region → Region) : (s.modRegion n f).synth = s.synth := rfl
@[simp] theorem State.modRegion_place (s : State) (n : Nat) (f : Region → Region) : (s.modRegion n f).place = s.place := rfl
@[simp] theorem State.modRegion_link (s : State) (n : Nat) (f : Region → Region) : (s.modRegion n f).link = s.link := rfl
@[simp] theorem State.modRegion_comp (s : State) (n : Nat) (f : Region → Region) : (s.modRegion n f).comp = s.comp := rfl
@[simp] theorem State.modRegion_free (s : State) (n : Nat) (f : Region → Region) : (s.modRegion n f).free = s.free := rfl
@[simp] theorem State.modRegion_out (s : State) (n : Nat) (f : Region → Region) : (s.modRegion n f).out = s.out := rfl
@[simp] theorem State.modRegion_pending (s : State) (n : Nat) (f : Region → Region) : (s.modRegion n f).pending = s.pending := rfl

/-! ### State.modTime -/

@[simp] theorem State.modTime_dev (s : State) (f : TimeSt → TimeSt) : (s.modTime f).dev = s.dev := rfl
@[simp] theorem State.modTime_ev (s : State) (f : TimeSt → TimeSt) : (s.modTime f).ev = s.ev := rfl
@[simp] theorem State.modTime_host (s : State) (f : TimeSt → TimeSt) : (s.modTime f).host = s.host := rfl
@[simp] theorem State.modTime_par (s : State) (f : TimeSt → TimeSt) : (s.modTime f).par = s.par := rfl
@[simp] theorem State.modTime_objs (s : State) (f : TimeSt → TimeSt) : (s.modTime f).objs = s.objs := rfl
@[simp] theorem State.modTime_fw (s : State) (f : TimeSt → TimeSt) : (s.modTime f).fw = s.fw := rfl
@[simp] theorem State.modTime_tim (s : State) (f : TimeSt → TimeSt) : (s.modTime f).tim = s.tim := rfl
@[simp] theorem State.modTime_time (s : State) (f : TimeSt → TimeSt) : (s.modTime f).time = f s.time := rfl
@[simp] theorem State.modTime_mem (s : State) (f : TimeSt → TimeSt) : (s.modTime f).mem = s.mem := rfl
@[simp] theorem State.modTime_pwr (s : State) (f : TimeSt → TimeSt) : (s.modTime f).pwr = s.pwr := rfl
@[simp] theorem State.modTime_saf (s : State) (f : TimeSt → TimeSt) : (s.modTime f).saf = s.saf := rfl
@[simp] theorem State.modTime_pair (s : State) (f : TimeSt → TimeSt) : (s.modTime f).pair = s.pair := rfl
@[simp] theorem State.modTime_start (s : State) (f : TimeSt → TimeSt) : (s.modTime f).start = s.start := rfl
@[simp] theorem State.modTime_direct (s : State) (f : TimeSt → TimeSt) : (s.modTime f).direct = s.direct := rfl
@[simp] theorem State.modTime_enc (s : State) (f : TimeSt → TimeSt) : (s.modTime f).enc = s.enc := rfl
@[simp] theorem State.modTime_ingest (s : State) (f : TimeSt → TimeSt) : (s.modTime f).ingest = s.ingest := rfl
@[simp] theorem State.modTime_dec (s : State) (f : TimeSt → TimeSt) : (s.modTime f).dec = s.dec := rfl
@[simp] theorem State.modTime_synth (s : State) (f : TimeSt → TimeSt) : (s.modTime f).synth = s.synth := rfl
@[simp] theorem State.modTime_place (s : State) (f : TimeSt → TimeSt) : (s.modTime f).place = s.place := rfl
@[simp] theorem State.modTime_link (s : State) (f : TimeSt → TimeSt) : (s.modTime f).link = s.link := rfl
@[simp] theorem State.modTime_panel (s : State) (f : TimeSt → TimeSt) : (s.modTime f).panel = s.panel := rfl
@[simp] theorem State.modTime_comp (s : State) (f : TimeSt → TimeSt) : (s.modTime f).comp = s.comp := rfl
@[simp] theorem State.modTime_free (s : State) (f : TimeSt → TimeSt) : (s.modTime f).free = s.free := rfl
@[simp] theorem State.modTime_out (s : State) (f : TimeSt → TimeSt) : (s.modTime f).out = s.out := rfl
@[simp] theorem State.modTime_pending (s : State) (f : TimeSt → TimeSt) : (s.modTime f).pending = s.pending := rfl

/-! ### State.modNet -/

@[simp] theorem State.modNet_dev (s : State) (n : Nat) (f : NetPort → NetPort) : (s.modNet n f).dev = s.dev := rfl
@[simp] theorem State.modNet_ev (s : State) (n : Nat) (f : NetPort → NetPort) : (s.modNet n f).ev = s.ev := rfl
@[simp] theorem State.modNet_host (s : State) (n : Nat) (f : NetPort → NetPort) : (s.modNet n f).host = s.host := rfl
@[simp] theorem State.modNet_par (s : State) (n : Nat) (f : NetPort → NetPort) : (s.modNet n f).par = s.par := rfl
@[simp] theorem State.modNet_objs (s : State) (n : Nat) (f : NetPort → NetPort) : (s.modNet n f).objs = s.objs := rfl
@[simp] theorem State.modNet_fw (s : State) (n : Nat) (f : NetPort → NetPort) : (s.modNet n f).fw = s.fw := rfl
@[simp] theorem State.modNet_tim (s : State) (n : Nat) (f : NetPort → NetPort) : (s.modNet n f).tim = s.tim := rfl
@[simp] theorem State.modNet_time (s : State) (n : Nat) (f : NetPort → NetPort) : (s.modNet n f).time = { s.time with ports := updAt s.time.ports n f } := rfl
@[simp] theorem State.modNet_mem (s : State) (n : Nat) (f : NetPort → NetPort) : (s.modNet n f).mem = s.mem := rfl
@[simp] theorem State.modNet_pwr (s : State) (n : Nat) (f : NetPort → NetPort) : (s.modNet n f).pwr = s.pwr := rfl
@[simp] theorem State.modNet_saf (s : State) (n : Nat) (f : NetPort → NetPort) : (s.modNet n f).saf = s.saf := rfl
@[simp] theorem State.modNet_pair (s : State) (n : Nat) (f : NetPort → NetPort) : (s.modNet n f).pair = s.pair := rfl
@[simp] theorem State.modNet_start (s : State) (n : Nat) (f : NetPort → NetPort) : (s.modNet n f).start = s.start := rfl
@[simp] theorem State.modNet_direct (s : State) (n : Nat) (f : NetPort → NetPort) : (s.modNet n f).direct = s.direct := rfl
@[simp] theorem State.modNet_enc (s : State) (n : Nat) (f : NetPort → NetPort) : (s.modNet n f).enc = s.enc := rfl
@[simp] theorem State.modNet_ingest (s : State) (n : Nat) (f : NetPort → NetPort) : (s.modNet n f).ingest = s.ingest := rfl
@[simp] theorem State.modNet_dec (s : State) (n : Nat) (f : NetPort → NetPort) : (s.modNet n f).dec = s.dec := rfl
@[simp] theorem State.modNet_synth (s : State) (n : Nat) (f : NetPort → NetPort) : (s.modNet n f).synth = s.synth := rfl
@[simp] theorem State.modNet_place (s : State) (n : Nat) (f : NetPort → NetPort) : (s.modNet n f).place = s.place := rfl
@[simp] theorem State.modNet_link (s : State) (n : Nat) (f : NetPort → NetPort) : (s.modNet n f).link = s.link := rfl
@[simp] theorem State.modNet_panel (s : State) (n : Nat) (f : NetPort → NetPort) : (s.modNet n f).panel = s.panel := rfl
@[simp] theorem State.modNet_comp (s : State) (n : Nat) (f : NetPort → NetPort) : (s.modNet n f).comp = s.comp := rfl
@[simp] theorem State.modNet_free (s : State) (n : Nat) (f : NetPort → NetPort) : (s.modNet n f).free = s.free := rfl
@[simp] theorem State.modNet_out (s : State) (n : Nat) (f : NetPort → NetPort) : (s.modNet n f).out = s.out := rfl
@[simp] theorem State.modNet_pending (s : State) (n : Nat) (f : NetPort → NetPort) : (s.modNet n f).pending = s.pending := rfl

/-! ### State.modFlow -/

@[simp] theorem State.modFlow_dev (s : State) (n : Nat) (f : Flow → Flow) : (s.modFlow n f).dev = s.dev := rfl
@[simp] theorem State.modFlow_ev (s : State) (n : Nat) (f : Flow → Flow) : (s.modFlow n f).ev = s.ev := rfl
@[simp] theorem State.modFlow_host (s : State) (n : Nat) (f : Flow → Flow) : (s.modFlow n f).host = s.host := rfl
@[simp] theorem State.modFlow_par (s : State) (n : Nat) (f : Flow → Flow) : (s.modFlow n f).par = s.par := rfl
@[simp] theorem State.modFlow_objs (s : State) (n : Nat) (f : Flow → Flow) : (s.modFlow n f).objs = s.objs := rfl
@[simp] theorem State.modFlow_fw (s : State) (n : Nat) (f : Flow → Flow) : (s.modFlow n f).fw = s.fw := rfl
@[simp] theorem State.modFlow_tim (s : State) (n : Nat) (f : Flow → Flow) : (s.modFlow n f).tim = s.tim := rfl
@[simp] theorem State.modFlow_mem (s : State) (n : Nat) (f : Flow → Flow) : (s.modFlow n f).mem = s.mem := rfl
@[simp] theorem State.modFlow_pwr (s : State) (n : Nat) (f : Flow → Flow) : (s.modFlow n f).pwr = s.pwr := rfl
@[simp] theorem State.modFlow_saf (s : State) (n : Nat) (f : Flow → Flow) : (s.modFlow n f).saf = s.saf := rfl
@[simp] theorem State.modFlow_pair (s : State) (n : Nat) (f : Flow → Flow) : (s.modFlow n f).pair = s.pair := rfl
@[simp] theorem State.modFlow_start (s : State) (n : Nat) (f : Flow → Flow) : (s.modFlow n f).start = s.start := rfl
@[simp] theorem State.modFlow_direct (s : State) (n : Nat) (f : Flow → Flow) : (s.modFlow n f).direct = s.direct := rfl
@[simp] theorem State.modFlow_enc (s : State) (n : Nat) (f : Flow → Flow) : (s.modFlow n f).enc = s.enc := rfl
@[simp] theorem State.modFlow_ingest (s : State) (n : Nat) (f : Flow → Flow) : (s.modFlow n f).ingest = s.ingest := rfl
@[simp] theorem State.modFlow_dec (s : State) (n : Nat) (f : Flow → Flow) : (s.modFlow n f).dec = s.dec := rfl
@[simp] theorem State.modFlow_synth (s : State) (n : Nat) (f : Flow → Flow) : (s.modFlow n f).synth = s.synth := rfl
@[simp] theorem State.modFlow_place (s : State) (n : Nat) (f : Flow → Flow) : (s.modFlow n f).place = s.place := rfl
@[simp] theorem State.modFlow_link (s : State) (n : Nat) (f : Flow → Flow) : (s.modFlow n f).link = s.link := rfl
@[simp] theorem State.modFlow_panel (s : State) (n : Nat) (f : Flow → Flow) : (s.modFlow n f).panel = s.panel := rfl
@[simp] theorem State.modFlow_comp (s : State) (n : Nat) (f : Flow → Flow) : (s.modFlow n f).comp = s.comp := rfl
@[simp] theorem State.modFlow_free (s : State) (n : Nat) (f : Flow → Flow) : (s.modFlow n f).free = s.free := rfl
@[simp] theorem State.modFlow_out (s : State) (n : Nat) (f : Flow → Flow) : (s.modFlow n f).out = s.out := rfl
@[simp] theorem State.modFlow_pending (s : State) (n : Nat) (f : Flow → Flow) : (s.modFlow n f).pending = s.pending := rfl

/-! ### State.modCompare -/

@[simp] theorem State.modCompare_dev (s : State) (n : Nat) (f : Compare → Compare) : (s.modCompare n f).dev = s.dev := rfl
@[simp] theorem State.modCompare_ev (s : State) (n : Nat) (f : Compare → Compare) : (s.modCompare n f).ev = s.ev := rfl
@[simp] theorem State.modCompare_host (s : State) (n : Nat) (f : Compare → Compare) : (s.modCompare n f).host = s.host := rfl
@[simp] theorem State.modCompare_par (s : State) (n : Nat) (f : Compare → Compare) : (s.modCompare n f).par = s.par := rfl
@[simp] theorem State.modCompare_objs (s : State) (n : Nat) (f : Compare → Compare) : (s.modCompare n f).objs = s.objs := rfl
@[simp] theorem State.modCompare_fw (s : State) (n : Nat) (f : Compare → Compare) : (s.modCompare n f).fw = s.fw := rfl
@[simp] theorem State.modCompare_tim (s : State) (n : Nat) (f : Compare → Compare) : (s.modCompare n f).tim = s.tim := rfl
@[simp] theorem State.modCompare_time (s : State) (n : Nat) (f : Compare → Compare) : (s.modCompare n f).time = { s.time with compares := updAt s.time.compares n f } := rfl
@[simp] theorem State.modCompare_mem (s : State) (n : Nat) (f : Compare → Compare) : (s.modCompare n f).mem = s.mem := rfl
@[simp] theorem State.modCompare_pwr (s : State) (n : Nat) (f : Compare → Compare) : (s.modCompare n f).pwr = s.pwr := rfl
@[simp] theorem State.modCompare_saf (s : State) (n : Nat) (f : Compare → Compare) : (s.modCompare n f).saf = s.saf := rfl
@[simp] theorem State.modCompare_pair (s : State) (n : Nat) (f : Compare → Compare) : (s.modCompare n f).pair = s.pair := rfl
@[simp] theorem State.modCompare_start (s : State) (n : Nat) (f : Compare → Compare) : (s.modCompare n f).start = s.start := rfl
@[simp] theorem State.modCompare_direct (s : State) (n : Nat) (f : Compare → Compare) : (s.modCompare n f).direct = s.direct := rfl
@[simp] theorem State.modCompare_enc (s : State) (n : Nat) (f : Compare → Compare) : (s.modCompare n f).enc = s.enc := rfl
@[simp] theorem State.modCompare_ingest (s : State) (n : Nat) (f : Compare → Compare) : (s.modCompare n f).ingest = s.ingest := rfl
@[simp] theorem State.modCompare_dec (s : State) (n : Nat) (f : Compare → Compare) : (s.modCompare n f).dec = s.dec := rfl
@[simp] theorem State.modCompare_synth (s : State) (n : Nat) (f : Compare → Compare) : (s.modCompare n f).synth = s.synth := rfl
@[simp] theorem State.modCompare_place (s : State) (n : Nat) (f : Compare → Compare) : (s.modCompare n f).place = s.place := rfl
@[simp] theorem State.modCompare_link (s : State) (n : Nat) (f : Compare → Compare) : (s.modCompare n f).link = s.link := rfl
@[simp] theorem State.modCompare_panel (s : State) (n : Nat) (f : Compare → Compare) : (s.modCompare n f).panel = s.panel := rfl
@[simp] theorem State.modCompare_comp (s : State) (n : Nat) (f : Compare → Compare) : (s.modCompare n f).comp = s.comp := rfl
@[simp] theorem State.modCompare_free (s : State) (n : Nat) (f : Compare → Compare) : (s.modCompare n f).free = s.free := rfl
@[simp] theorem State.modCompare_out (s : State) (n : Nat) (f : Compare → Compare) : (s.modCompare n f).out = s.out := rfl
@[simp] theorem State.modCompare_pending (s : State) (n : Nat) (f : Compare → Compare) : (s.modCompare n f).pending = s.pending := rfl

/-! ### State.modEnc -/

@[simp] theorem State.modEnc_dev (s : State) (n : Nat) (f : EncStream → EncStream) : (s.modEnc n f).dev = s.dev := rfl
@[simp] theorem State.modEnc_ev (s : State) (n : Nat) (f : EncStream → EncStream) : (s.modEnc n f).ev = s.ev := rfl
@[simp] theorem State.modEnc_host (s : State) (n : Nat) (f : EncStream → EncStream) : (s.modEnc n f).host = s.host := rfl
@[simp] theorem State.modEnc_par (s : State) (n : Nat) (f : EncStream → EncStream) : (s.modEnc n f).par = s.par := rfl
@[simp] theorem State.modEnc_objs (s : State) (n : Nat) (f : EncStream → EncStream) : (s.modEnc n f).objs = s.objs := rfl
@[simp] theorem State.modEnc_fw (s : State) (n : Nat) (f : EncStream → EncStream) : (s.modEnc n f).fw = s.fw := rfl
@[simp] theorem State.modEnc_tim (s : State) (n : Nat) (f : EncStream → EncStream) : (s.modEnc n f).tim = s.tim := rfl
@[simp] theorem State.modEnc_time (s : State) (n : Nat) (f : EncStream → EncStream) : (s.modEnc n f).time = s.time := rfl
@[simp] theorem State.modEnc_mem (s : State) (n : Nat) (f : EncStream → EncStream) : (s.modEnc n f).mem = s.mem := rfl
@[simp] theorem State.modEnc_pwr (s : State) (n : Nat) (f : EncStream → EncStream) : (s.modEnc n f).pwr = s.pwr := rfl
@[simp] theorem State.modEnc_saf (s : State) (n : Nat) (f : EncStream → EncStream) : (s.modEnc n f).saf = s.saf := rfl
@[simp] theorem State.modEnc_pair (s : State) (n : Nat) (f : EncStream → EncStream) : (s.modEnc n f).pair = s.pair := rfl
@[simp] theorem State.modEnc_start (s : State) (n : Nat) (f : EncStream → EncStream) : (s.modEnc n f).start = s.start := rfl
@[simp] theorem State.modEnc_direct (s : State) (n : Nat) (f : EncStream → EncStream) : (s.modEnc n f).direct = s.direct := rfl
@[simp] theorem State.modEnc_enc (s : State) (n : Nat) (f : EncStream → EncStream) : (s.modEnc n f).enc = { s.enc with streams := updAt s.enc.streams n f } := rfl
@[simp] theorem State.modEnc_ingest (s : State) (n : Nat) (f : EncStream → EncStream) : (s.modEnc n f).ingest = s.ingest := rfl
@[simp] theorem State.modEnc_dec (s : State) (n : Nat) (f : EncStream → EncStream) : (s.modEnc n f).dec = s.dec := rfl
@[simp] theorem State.modEnc_synth (s : State) (n : Nat) (f : EncStream → EncStream) : (s.modEnc n f).synth = s.synth := rfl
@[simp] theorem State.modEnc_place (s : State) (n : Nat) (f : EncStream → EncStream) : (s.modEnc n f).place = s.place := rfl
@[simp] theorem State.modEnc_link (s : State) (n : Nat) (f : EncStream → EncStream) : (s.modEnc n f).link = s.link := rfl
@[simp] theorem State.modEnc_panel (s : State) (n : Nat) (f : EncStream → EncStream) : (s.modEnc n f).panel = s.panel := rfl
@[simp] theorem State.modEnc_comp (s : State) (n : Nat) (f : EncStream → EncStream) : (s.modEnc n f).comp = s.comp := rfl
@[simp] theorem State.modEnc_free (s : State) (n : Nat) (f : EncStream → EncStream) : (s.modEnc n f).free = s.free := rfl
@[simp] theorem State.modEnc_out (s : State) (n : Nat) (f : EncStream → EncStream) : (s.modEnc n f).out = s.out := rfl
@[simp] theorem State.modEnc_pending (s : State) (n : Nat) (f : EncStream → EncStream) : (s.modEnc n f).pending = s.pending := rfl

/-! ### State.modMon -/

@[simp] theorem State.modMon_dev (s : State) (f : Mon → Mon) : (s.modMon f).dev = s.dev := rfl
@[simp] theorem State.modMon_ev (s : State) (f : Mon → Mon) : (s.modMon f).ev = s.ev := rfl
@[simp] theorem State.modMon_host (s : State) (f : Mon → Mon) : (s.modMon f).host = s.host := rfl
@[simp] theorem State.modMon_par (s : State) (f : Mon → Mon) : (s.modMon f).par = s.par := rfl
@[simp] theorem State.modMon_objs (s : State) (f : Mon → Mon) : (s.modMon f).objs = s.objs := rfl
@[simp] theorem State.modMon_fw (s : State) (f : Mon → Mon) : (s.modMon f).fw = s.fw := rfl
@[simp] theorem State.modMon_tim (s : State) (f : Mon → Mon) : (s.modMon f).tim = s.tim := rfl
@[simp] theorem State.modMon_time (s : State) (f : Mon → Mon) : (s.modMon f).time = s.time := rfl
@[simp] theorem State.modMon_mem (s : State) (f : Mon → Mon) : (s.modMon f).mem = s.mem := rfl
@[simp] theorem State.modMon_pwr (s : State) (f : Mon → Mon) : (s.modMon f).pwr = s.pwr := rfl
@[simp] theorem State.modMon_saf (s : State) (f : Mon → Mon) : (s.modMon f).saf = s.saf := rfl
@[simp] theorem State.modMon_pair (s : State) (f : Mon → Mon) : (s.modMon f).pair = s.pair := rfl
@[simp] theorem State.modMon_start (s : State) (f : Mon → Mon) : (s.modMon f).start = s.start := rfl
@[simp] theorem State.modMon_direct (s : State) (f : Mon → Mon) : (s.modMon f).direct = s.direct := rfl
@[simp] theorem State.modMon_enc (s : State) (f : Mon → Mon) : (s.modMon f).enc = { s.enc with mon := f s.enc.mon } := rfl
@[simp] theorem State.modMon_ingest (s : State) (f : Mon → Mon) : (s.modMon f).ingest = s.ingest := rfl
@[simp] theorem State.modMon_dec (s : State) (f : Mon → Mon) : (s.modMon f).dec = s.dec := rfl
@[simp] theorem State.modMon_synth (s : State) (f : Mon → Mon) : (s.modMon f).synth = s.synth := rfl
@[simp] theorem State.modMon_place (s : State) (f : Mon → Mon) : (s.modMon f).place = s.place := rfl
@[simp] theorem State.modMon_link (s : State) (f : Mon → Mon) : (s.modMon f).link = s.link := rfl
@[simp] theorem State.modMon_panel (s : State) (f : Mon → Mon) : (s.modMon f).panel = s.panel := rfl
@[simp] theorem State.modMon_comp (s : State) (f : Mon → Mon) : (s.modMon f).comp = s.comp := rfl
@[simp] theorem State.modMon_free (s : State) (f : Mon → Mon) : (s.modMon f).free = s.free := rfl
@[simp] theorem State.modMon_out (s : State) (f : Mon → Mon) : (s.modMon f).out = s.out := rfl
@[simp] theorem State.modMon_pending (s : State) (f : Mon → Mon) : (s.modMon f).pending = s.pending := rfl

/-! ### State.modCvu -/

@[simp] theorem State.modCvu_dev (s : State) (n : Nat) (f : Cvu → Cvu) : (s.modCvu n f).dev = s.dev := rfl
@[simp] theorem State.modCvu_ev (s : State) (n : Nat) (f : Cvu → Cvu) : (s.modCvu n f).ev = s.ev := rfl
@[simp] theorem State.modCvu_host (s : State) (n : Nat) (f : Cvu → Cvu) : (s.modCvu n f).host = s.host := rfl
@[simp] theorem State.modCvu_par (s : State) (n : Nat) (f : Cvu → Cvu) : (s.modCvu n f).par = s.par := rfl
@[simp] theorem State.modCvu_objs (s : State) (n : Nat) (f : Cvu → Cvu) : (s.modCvu n f).objs = s.objs := rfl
@[simp] theorem State.modCvu_fw (s : State) (n : Nat) (f : Cvu → Cvu) : (s.modCvu n f).fw = s.fw := rfl
@[simp] theorem State.modCvu_tim (s : State) (n : Nat) (f : Cvu → Cvu) : (s.modCvu n f).tim = s.tim := rfl
@[simp] theorem State.modCvu_time (s : State) (n : Nat) (f : Cvu → Cvu) : (s.modCvu n f).time = s.time := rfl
@[simp] theorem State.modCvu_mem (s : State) (n : Nat) (f : Cvu → Cvu) : (s.modCvu n f).mem = s.mem := rfl
@[simp] theorem State.modCvu_pwr (s : State) (n : Nat) (f : Cvu → Cvu) : (s.modCvu n f).pwr = s.pwr := rfl
@[simp] theorem State.modCvu_saf (s : State) (n : Nat) (f : Cvu → Cvu) : (s.modCvu n f).saf = s.saf := rfl
@[simp] theorem State.modCvu_pair (s : State) (n : Nat) (f : Cvu → Cvu) : (s.modCvu n f).pair = s.pair := rfl
@[simp] theorem State.modCvu_start (s : State) (n : Nat) (f : Cvu → Cvu) : (s.modCvu n f).start = s.start := rfl
@[simp] theorem State.modCvu_direct (s : State) (n : Nat) (f : Cvu → Cvu) : (s.modCvu n f).direct = { s.direct with cvu := updAt s.direct.cvu n f } := rfl
@[simp] theorem State.modCvu_enc (s : State) (n : Nat) (f : Cvu → Cvu) : (s.modCvu n f).enc = s.enc := rfl
@[simp] theorem State.modCvu_ingest (s : State) (n : Nat) (f : Cvu → Cvu) : (s.modCvu n f).ingest = s.ingest := rfl
@[simp] theorem State.modCvu_dec (s : State) (n : Nat) (f : Cvu → Cvu) : (s.modCvu n f).dec = s.dec := rfl
@[simp] theorem State.modCvu_synth (s : State) (n : Nat) (f : Cvu → Cvu) : (s.modCvu n f).synth = s.synth := rfl
@[simp] theorem State.modCvu_place (s : State) (n : Nat) (f : Cvu → Cvu) : (s.modCvu n f).place = s.place := rfl
@[simp] theorem State.modCvu_link (s : State) (n : Nat) (f : Cvu → Cvu) : (s.modCvu n f).link = s.link := rfl
@[simp] theorem State.modCvu_panel (s : State) (n : Nat) (f : Cvu → Cvu) : (s.modCvu n f).panel = s.panel := rfl
@[simp] theorem State.modCvu_comp (s : State) (n : Nat) (f : Cvu → Cvu) : (s.modCvu n f).comp = s.comp := rfl
@[simp] theorem State.modCvu_free (s : State) (n : Nat) (f : Cvu → Cvu) : (s.modCvu n f).free = s.free := rfl
@[simp] theorem State.modCvu_out (s : State) (n : Nat) (f : Cvu → Cvu) : (s.modCvu n f).out = s.out := rfl
@[simp] theorem State.modCvu_pending (s : State) (n : Nat) (f : Cvu → Cvu) : (s.modCvu n f).pending = s.pending := rfl

/-! ### State.modG2d -/

@[simp] theorem State.modG2d_dev (s : State) (f : G2d → G2d) : (s.modG2d f).dev = s.dev := rfl
@[simp] theorem State.modG2d_ev (s : State) (f : G2d → G2d) : (s.modG2d f).ev = s.ev := rfl
@[simp] theorem State.modG2d_host (s : State) (f : G2d → G2d) : (s.modG2d f).host = s.host := rfl
@[simp] theorem State.modG2d_par (s : State) (f : G2d → G2d) : (s.modG2d f).par = s.par := rfl
@[simp] theorem State.modG2d_objs (s : State) (f : G2d → G2d) : (s.modG2d f).objs = s.objs := rfl
@[simp] theorem State.modG2d_fw (s : State) (f : G2d → G2d) : (s.modG2d f).fw = s.fw := rfl
@[simp] theorem State.modG2d_tim (s : State) (f : G2d → G2d) : (s.modG2d f).tim = s.tim := rfl
@[simp] theorem State.modG2d_time (s : State) (f : G2d → G2d) : (s.modG2d f).time = s.time := rfl
@[simp] theorem State.modG2d_mem (s : State) (f : G2d → G2d) : (s.modG2d f).mem = s.mem := rfl
@[simp] theorem State.modG2d_pwr (s : State) (f : G2d → G2d) : (s.modG2d f).pwr = s.pwr := rfl
@[simp] theorem State.modG2d_saf (s : State) (f : G2d → G2d) : (s.modG2d f).saf = s.saf := rfl
@[simp] theorem State.modG2d_pair (s : State) (f : G2d → G2d) : (s.modG2d f).pair = s.pair := rfl
@[simp] theorem State.modG2d_start (s : State) (f : G2d → G2d) : (s.modG2d f).start = s.start := rfl
@[simp] theorem State.modG2d_direct (s : State) (f : G2d → G2d) : (s.modG2d f).direct = { s.direct with g2d := f s.direct.g2d } := rfl
@[simp] theorem State.modG2d_enc (s : State) (f : G2d → G2d) : (s.modG2d f).enc = s.enc := rfl
@[simp] theorem State.modG2d_ingest (s : State) (f : G2d → G2d) : (s.modG2d f).ingest = s.ingest := rfl
@[simp] theorem State.modG2d_dec (s : State) (f : G2d → G2d) : (s.modG2d f).dec = s.dec := rfl
@[simp] theorem State.modG2d_synth (s : State) (f : G2d → G2d) : (s.modG2d f).synth = s.synth := rfl
@[simp] theorem State.modG2d_place (s : State) (f : G2d → G2d) : (s.modG2d f).place = s.place := rfl
@[simp] theorem State.modG2d_link (s : State) (f : G2d → G2d) : (s.modG2d f).link = s.link := rfl
@[simp] theorem State.modG2d_panel (s : State) (f : G2d → G2d) : (s.modG2d f).panel = s.panel := rfl
@[simp] theorem State.modG2d_comp (s : State) (f : G2d → G2d) : (s.modG2d f).comp = s.comp := rfl
@[simp] theorem State.modG2d_free (s : State) (f : G2d → G2d) : (s.modG2d f).free = s.free := rfl
@[simp] theorem State.modG2d_out (s : State) (f : G2d → G2d) : (s.modG2d f).out = s.out := rfl
@[simp] theorem State.modG2d_pending (s : State) (f : G2d → G2d) : (s.modG2d f).pending = s.pending := rfl

end Sys2Proof.Machine
end

