-- ==== Sys2Proof/Tests/Slice0.lean ====
section
/-! SUPPORT. The model's own tests: ill-formed operands are refused, worked examples of the spec come out, and every
statement that has hypotheses has states and operands that meet them. -/

namespace Sys2Proof.Tests

set_option Elab.async false

open Sys2Proof
open Sys2Proof.Machine
open Sys2Proof.Safety

/-! ### Small states and operands -/

/-- A mailbox that is served and whose ring holds one command. -/
def served (m : Mailbox) : Mailbox := { m with en := true, active := true, cmdLog2 := 4, rspLog2 := 4, cmdTail := 1 }

/-- The device in SERVICE after reset, with mailboxes 0 and 1 served. -/
def ready : State :=
  { State.reset with
    dev := { State.reset.dev with state := .service, fwReady := true }
    host := { State.reset.host with mb := updAt (updAt State.reset.host.mb 0 served) 1 served } }

/-- The same in another device state. -/
def readyIn (d : DevState) : State := { ready with dev := { ready.dev with state := d } }

/-- A command on a mailbox, without and with a payload, that asks for its response. -/
def cmdOn (mb op obj : Nat) (ws : List Nat) : Cmd :=
  { mb := mb, opcode := BitVec.ofNat 16 op, tag := 7, count := BitVec.ofNat 8 ws.length, flags := 1
    object := BitVec.ofNat 64 obj, payload := ws.map (BitVec.ofNat 128) }

def cmd (op obj : Nat) (ws : List Nat) : Cmd := cmdOn 1 op obj ws

/-- A command of the safety class, with its trailer (R432). -/
def safeCmd (op : Nat) (ws : List Nat) : Cmd :=
  let c : Cmd := { mb := 0, opcode := BitVec.ofNat 16 op, tag := 7, count := BitVec.ofNat 8 (ws.length + 1), flags := 5
                   payload := ws.map (BitVec.ofNat 128) }
  { c with payload := c.payload ++ [BitVec.ofNat 128 (crc32c (c.slotBytes (16 * (ws.length + 1))))] }

/-- A command is at hand, as a check that evaluates. -/
def handy (i : Instr) (s : State) : Bool :=
  match hostRow i with
  | none => false
  | some (c, row) => s.fetchable c.mb && !s.limited i && (s.mailbox c.mb).ring.isEmpty && s.turnOf c.mb &&
      (commonChecks row c (taken c s)).isNone

theorem atHand_of_handy {i : Instr} {s : State} (h : handy i s = true) : AtHand i s := by
  unfold handy at h
  unfold AtHand Fetched firstFailed
  cases e : hostRow i with
  | none => simp only [e] at h; cases h
  | some x =>
    simp only [e, Bool.and_eq_true, List.isEmpty_iff, Bool.not_eq_true', Option.isNone_iff_eq_none] at h
    exact ⟨⟨h.1.1.1.1, h.1.1.1.2, .inr ⟨h.1.1.2, h.1.2⟩⟩, h.2⟩

/-- A tile, port, channel and so on of the state, changed. -/
def withPar (s : State) (f : Params → Params) : State := { s with par := f s.par }
def withTim (s : State) (f : Tim → Tim) : State := { s with tim := f s.tim }

/-! Operands used below. -/

def dec0 : StreamId := { slot := 0, anchor := 0, layer := 0, kind := 0 }
def noPic : Pic := { w := 2, h := 2, chroma := 1, bits := 8, y := [1, 2, 3, 4], cb := [5], cr := [6] }
def oneRun : SliceRun := { ctus := [0], decoded := 1, error := false, refs := [] }
def auOk : AuResult := { pic := noPic, hash := none, slices := [oneRun], bounds := 0 }
def mainSets : SeqSets :=
  { profile := .hevcMain, profileIdc := 1, level := 41, levelIdc := 123, chroma := 1, bits := 8, reorder := 0, dpbMinus1 := 0
    resampling := 0, fieldSeq := 0, codedW := 8, codedH := 8, left := 0, right := 0, top := 0, bottom := 0, ctu := 16
    tiles := [1], slices := [1], wavefront := false }
def auInfo : AuInfo := { nals := [{ layer := 0, sets := some (0, mainSets) }, { layer := 0, slice := true }], sets := 0, kind := 1, poc := 0, keep := [] }
def marginsOk : TrainMargins := { ok := true, rd := 9, wr := 8, vref := 7 }
def marginsBad : TrainMargins := { ok := false, rd := 0, wr := 0, vref := 0 }

/-! ### Well-formed operands -/

/-- A packet of a type on a slot, with its FRAME and INDEX and its payload (Table 3.1). -/
def pktOf (type slot frame index : Nat) (payload : List Byte) : Pkt :=
  { slot := slot
    header := packW [at' 127 120 type, at' 119 112 1, at' 111 96 index, at' 95 64 payload.length, at' 63 32 frame, at' 31 0 (crc32c payload)]
    payload := payload }

def pkt (type slot : Nat) : Pkt := pktOf type slot 0 0 []

/-- Every host command row refuses a slot with another opcode, a ninth mailbox, or more words than a slot has. -/
theorem test_ill_formed_commands :
    ([cmd 0xFFFF 0 []] : List Cmd).all (fun c => ([
      .nop c, .fence c, .devInfo c, .paramSet c, .paramGet c, .paramDiscard c, .commit c, .objectCreate c,
      .objectDestroy c, .objectRead c, .restart c, .fwStage c, .fwActivate c, .fwConfirm c, .fwStatus c,
      .hostStatus c, .sceneOpen c, .sceneSubmit c, .sceneClose c, .sceneStatus c, .decodeStatus c, .decodeCores c,
      .geomInfo c, .geomRay c, .synthStatus c, .synthProbe c, .placeStatus c, .placeObject c, .placeHint c,
      .compStatus c, .cmpJob c, .cmpCancel c, .cmpStatus c, .linkCtrl c, .linkStatus c, .eyeScan c, .panelMode c,
      .timStatus c, .panelStatus c, .parasol c, .tilePower c, .regionUpdate c, .memStatus c, .memChannel c,
      .memSetpoint c, .memRetrain c, .encRing c, .encRelease c, .encIdr c, .encStatus c, .monStatus c,
      .monRetrain c, .netStatus c, .netFlow c, .timeStatus c, .timeSet c, .timeCompare c, .pwrStatus c,
      .paceReport c, .thermStatus c, .railStatus c, .safetyStatus c, .safetyClear c, .safetyTest c, .pairStatus c,
      .pairCtrl c, .shutdown c, .selftestRecord c, .calStatus c] : List Instr).all (fun i => !WellFormed i)) = true ∧
      WellFormed (.nop (cmdOn 8 0x0101 0 [])) = false ∧
      WellFormed (.nop { cmd 0x0101 0 [] with payload := List.replicate 64 0 }) = false := by decide +kernel

/-- Every packet row refuses another row's TYPE and a fifth slot, and a payload longer than the longest. -/
theorem test_ill_formed_packets :
    ([.seqParams (pkt 1 0), .frameBegin (pkt 2 0), .anchorParams (pkt 3 0), .textureAu (pkt 4 0), .depthAu (pkt 5 0), .layerTable (pkt 6 0),
      .overlay (pkt 7 0), .frameEnd (pkt 8 0), .keepalive (pkt 10 0), .cue (pkt 9 0), .seqParams (pkt 8 4), .cue (pkt 10 4)] :
        List Instr).all (fun i => !WellFormed i) = true ∧
      WellFormed (.frameBegin { pkt 1 0 with payload := List.replicate 33554433 0 }) = false := by
  refine ⟨by decide +kernel, ?_⟩
  simp only [WellFormed, Pkt.ok, List.length_replicate]
  decide

/-- Every other check of WellFormed refuses an operand outside its range. -/
theorem test_ill_formed_events :
    ([.fenceCompletion 8, .mbCmdTailWrite 8 0, .mbRspHeadWrite 8 0, .pendingResponseWrite 8, .mbCfgWrite 8 0, .ringFetchError 8,
      .msixEntryUnmask 64, .pcieLinkUp 0 4, .pcieLinkUp 7 4, .pcieLinkUp 5 0, .pcieLinkUp 5 17, .pcieError true 32, .registerWrite 2 0,
      .sceneSubmitCompletion 4, .sceneCloseDrainComplete 4, .sceneSilenceTimeout 4,
      .auDecodeStart { dec0 with slot := 4 } auInfo, .auDecodeComplete { dec0 with kind := 2 } auOk,
      .ctuTimeout 24 dec0 auOk, .auBudgetExpiry dec0 2 auOk,
      .rayTileDispatch 48, .rayTileRetire 48 0, .rayTileTimeout 48, .bandCompress 16, .basketCopyComplete 0 0 4 0, .basketCopyComplete 0 0 0 32,
      .channelFailedMark 32, .blockRow 16] : List Instr).all (fun i => !WellFormed i) = true ∧
    ([.capsRequest 16, .capsReply 0 [{ lane := 0, pos := 1, sync := 12, wire := 2 ^ 128 }], .capsReply 16 [],
      .status 0 [{ lane := 4, pos := 1, sync := 12, wire := 0 }], .status 16 [], .ack 0 [{ lane := 0, pos := 1024, sync := 12, wire := 0 }],
      .ack 16 [], .ackTimeout 16,
      .heartbeat 16, .signalDetect 16, .trainComplete 16 true, .lockComplete 16, .portStateTimeout 16, .bitslipSearch 0 4 [],
      .bitslipSearch 16 0 [], .bitslipSearch 0 0 (List.replicate 133 { valid := 0, tail := false }),
      .blockLockLoss 17 [], .blockLockLoss 0 [{ lane := 0, pos := 1, sync := 16, wire := 0 }], .statusTimeout 16, .reconcileRetry 16,
      .dischargeTimeout 16, .bootTileTimeout 16, .regionStagingComplete 16 [],
      .detectRetryWait 16, .l1WakeActive 16] : List Instr).all (fun i => !WellFormed i) = true := by
  decide +kernel

/-- The same for memory, encoder, direct window, time and network. -/
theorem test_ill_formed_units :
    ([.setpointSwitch 10001, .fullRetrainingEnd 32 marginsOk marginsOk, .trackingPassTimer 32, .trainingStep 32 0 none, .trainingStep 0 20001 none,
      .bankActivate 32 0 0, .bankActivate 0 16 0,
      .bankActivate 0 0 65536, .pageIdleTimeout 32 0, .pageIdleTimeout 0 16, .correctedRead 0 0 0 [] none, .correctedRead 0 16 0 (List.replicate 72 0) none,
      .correctedRead 0 0 0 (List.replicate 72 0) (some { off := 60, bytes := [1, 2, 3, 4, 5] }), .correctedWriteback 32 0, .correctedWriteback 0 16,
      .uncorrectableRead 32 0 0 .table false none (List.replicate 72 0) none, .uncorrectableRead 0 0 0 .table false (some 256) (List.replicate 72 0) none,
      .channelTrainingComplete 32 marginsOk marginsOk, .encPictureDue 2 [], .encSliceComplete 2 [] 0 0 false, .encSliceComplete 0 [] 256 0 false,
      .monitorFrameStart (2 ^ 32), .monHpdRise 256, .cvuReset 8 0, .cvuData8 8 0, .cvuData16 8 0, .cvuData32 8 0, .cvuFinal 8 0,
      .g2dOperationEnd [] 16 0 {}, .g2dOperationEnd [] 0 65536 {}] : List Instr).all (fun i => !WellFormed i) = true ∧
    ([.compareFire 8, .tsqPop 4, .ptpMessage 0 { portState := 9, gm := 0, master := none, answer := none }, .ptpSend 3 0 0, .ptpSend 1 2 0,
      .ptpSend 1 0 65536, .announceReceiptTimeout 0 0, .announceReceiptTimeout 1 (2 ^ 64),
      .netLinkChange 4 true, .udpDatagram 4 { dst := 0, src := 0, dport := 0, room := true, header := 0, len := 0 },
      .udpDatagram 0 { dst := 0, src := 0, dport := 0, room := true, header := 2 ^ 128, len := 0 }, .reassemblyTimeout 16 0, .icmpEcho 4 false,
      .tempCompensationTick (2 ^ 32), .domainUpComplete 0 0, .domainUpComplete 51 0, .domainUpComplete 1 9, .domainDownComplete 51,
      .domainTransitionTimeout 0, .rayProbeComplete [{ cluster := 48, got := 0, own := 0, near := false }], .ledger (2 ^ 32) 0 true [],
      .ledger 0 4 true [], .handover 256 0, .handover 0 (2 ^ 32),
      .hello (2 ^ 32), .porstNRelease false 4, .selftestDomainComplete 51 0 0] : List Instr).all (fun i => !WellFormed i) = true := by
  decide +kernel

/-- Operands at the edge of their ranges are taken. -/
theorem test_well_formed :
    ([.nop (cmdOn 7 0x0101 0 []), .fenceCompletion 7, .msixEntryUnmask 63, .pcieLinkUp 5 16, .pcieError true 31,
      .registerWrite 4 0, .sceneSilenceTimeout 3, .rayTileDispatch 47, .bandCompress 15, .basketCopyComplete 0 0 3 31,
      .channelFailedMark 31, .ack 15 [{ lane := 3, pos := 1023, sync := 15, wire := 2 ^ 128 - 1 }], .bitslipSearch 15 3 []] : List Instr).all WellFormed = true := by decide +kernel

/-! ### Worked examples of the spec -/

/-- R70: the CRC-32C of the nine ASCII bytes "123456789", and of nothing. -/
theorem test_crc32c : crc32c ((List.range 9).map (fun i => BitVec.ofNat 8 (0x31 + i))) = 0xE3069283 ∧ crc32c [] = 0 := by decide +kernel

/-- The GEOMETRY object of Table 5.15. -/
def geomBytes : List Byte :=
  ([0x4F45475101020000_0000005000000000, 0x0F00087002014421_0096000000000000, 0x0028000000000000_1000100001800000,
    0x0000000004000000_0000000000000000, 0x01100000FE000000_0010000000000000] : List Nat).flatMap (leBytes 16)

/-- Table 5.15: the object is valid, with two tiles of 3,840 by 2,160, a 4 by 4 lens grid and two states; R12: its first
bytes. -/
theorem test_geometry_small : objectOk 3 80 geomBytes = true ∧ (parseGeom geomBytes).tileW = 3840 ∧ (parseGeom geomBytes).tileH = 2160 ∧
    (parseGeom geomBytes).nu = 4 ∧ (parseGeom geomBytes).states = 2 ∧ (parseGeom geomBytes).tiles.length = 2 ∧
    fpsMax (parseGeom geomBytes) = 60 ∧ geomBytes.take 12 = [0, 0, 0, 0, 0x50, 0, 0, 0, 0, 0, 2, 1] := by decide +kernel

/-- Table 5.15 with a tile wider than the grid allows is refused. -/
theorem test_geometry_bad : objectOk 3 80 (geomBytes.set 16 1) = false := by decide +kernel

/-- The largest panel: tile T05 at (1, 1) of a 4 by 4 grid of 9,216 by 4,608 pixels, 6 by 6 lenses, 2 by 2 states, PITCH
250 µm, PITCH_TX and PITCH_TY 0.0390625. -/
def largest : Geom :=
  { parseGeom geomBytes with
    tileW := 9216, tileH := 4608, cols := 4, rows := 4, nu := 6, nw := 6, sx := 2, sy := 2, pitch := 250 * 65536, gapX := 0, gapY := 0
    ptx := 2560, pty := 2560 }

/-- Table 5.14. -/
theorem test_geom_ray :
    rayWords largest { tile := 5, col := 1, row := 1, rot := 0, ofsX := 0, ofsY := 0, dtx := 0, dty := 0 } 1000 500 3 =
      [0xFDF21CAC_FEF926E9_FDD00000_00500000, 0x450905_00_27E8_13F4_000F_001F_00000000#128] := by decide +kernel

/-- §8.7: the dither of 40,000 to 10 bits. -/
theorem test_dither : dither 2 10 40000 10216 5108 7202 = 625 ∧ dither 0 10 40000 10216 5108 7202 = 625 := by decide +kernel

/-- Table 12.4: the ageing gain, the cell's gain, its code, the gain in use, the linear light and its binary16. -/
theorem test_correction : rneDiv (0x8000 * 2 ^ 14) 30395 = 17663 ∧ rneDiv (0x3C00 * 17663) (2 ^ 14) = 16559 ∧ gainE 16559 0x4800 = some 176 ∧
    gt 176 = 14722 ∧ rneDiv (0x4800 * 14722) (2 ^ 14) = 16562 ∧ f16code (corrY 16562 0x8000 0x3817) = 0x3822 := by decide +kernel

/-- Tables 9.3 and 9.4: the blocks, and what the second decodes to. -/
def palettePx : List Px :=
  let a : Px := { r := 64, g := 48, b := 32 }
  let c : Px := { r := 532, g := 514, b := 496 }
  let d : Px := { r := 1000, g := 980, b := 960 }
  [a, a, a, c, d, d, d, d, a, a, c, d, d, d, d, d]

def rampPx : List Px := (List.range 16).map (fun i => { r := 300, g := ((500 + 3 * (i % 8) : Nat) : Int), b := 200 })

theorem test_block_palette : encodeBlock 0 palettePx = 0x4400C020852027C3E8F53C0FA3D4F0006A81AA80 ∧
    decodeBlock 0 (encodeBlock 0 palettePx) = palettePx := by decide +kernel

theorem test_block_delta_yc : encodeBlock 0 rampPx = 0xD770C83F000401190C74A801190C74A8000C1824 ∧
    (decodeBlock 0 (encodeBlock 0 rampPx)).head? = some { r := 299, g := 501, b := 199 } := by decide +kernel

/-- §15.1: the nine ASCII bytes on a check-value unit with its reset configuration, and on a 16-bit one. -/
def ascii9 : List Nat := (List.range 9).map (· + 0x31)

theorem test_cvu_crc32c : (ascii9.foldl Cvu.feed (Cvu.doReset { alive := 5 })).final.result = 0xE3069283 ∧
    (ascii9.foldl Cvu.feed (Cvu.doReset { alive := 5 })).final.alive = 6 ∧
    (ascii9.foldl Cvu.feed (Cvu.doReset { alive := 5 })).final.count = 9 := by decide +kernel

theorem test_cvu_crc16 :
    (ascii9.foldl Cvu.feed (Cvu.doReset { reg := { poly := 0x1021, init := 0xFFFF, xorout := 0, cfg := 0x10 } })).final.result =
      0x29B1 := by decide +kernel

/-! ### Witnesses: the queue, the checks of R54, reports

Each theorem shows states and operands that meet the hypotheses of a statement, clause by clause. -/

theorem witness_StepRunsFront : ∃ (s : State) (c : Instr) (rest : List Instr), s.pending = c :: rest :=
  ⟨{ State.reset with pending := [.aonCounterTick, .scrubTick] }, _, _, rfl⟩

/-- A scene of two anchors in slot 0, with the object that stands for it, and an object of each class that a command
names. -/
def sceneObj : Nat := 1 * 2 ^ 56 + 5
def geomObj : Nat := 3 * 2 ^ 56 + 1
def surfObj : Nat := 2 * 2 ^ 56 + 2
def scene0 : Scene :=
  { slot := 0, obj := sceneObj, source := 0, maxAnchors := 2, maxLayers := 1, maxOvl := 1, maxW := 64, maxH := 64, ovlW := 16, ovlH := 16 }
def withScene (s : State) (x : Scene) : State := { s with ingest := { s.ingest with scenes := [x] } }
def withObjs (s : State) (l : List Obj) : State := { s with objs := { s.objs with objs := l } }
def stocked : State :=
  withScene (withObjs ready [
    { id := sceneObj, cls := 1, size := 0, data := [], creating := false },
    { id := geomObj, cls := 3, size := 80, data := geomBytes, creating := false },
    { id := surfObj, cls := 2, size := 64, data := List.replicate 64 0, creating := false }]) scene0

/-- A command waits in the ring of mailbox 1. -/
def ringed : State := ready.modMb 1 (fun m => { m with ring := [.nop (cmd 0x0101 0 [])] })

/-- A packet waits for room in scene 0, whose carrier is a network one. -/
theorem witness_IdleStep :
    (ringed.pending = [] ∧ ringed.nextRing = some 1 ∧ (ringed.mailbox 1).ring = [.nop (cmd 0x0101 0 [])]) ∧
    (let s := withScene ready { scene0 with waiting := [pkt 9 0] };
      s.pending = [] ∧ s.nextRing = none ∧ s.nextResume = some (0, pkt 9 0)) ∧
    (State.reset.pending = [] ∧ State.reset.nextRing = none ∧ State.reset.nextResume = none) := by decide +kernel

theorem witness_QueueUntouched : ∃ (i : Instr) (s t : State), exec i s = .next t := ⟨.aonCounterTick, State.reset, _, rfl⟩

theorem witness_StepKeepsSizes : Sized State.reset ∧ ∃ t, step State.reset = .next t := ⟨by constructor <;> rfl, _, rfl⟩

theorem witness_FirstFailedCheck :
    let i : Instr := .nop (cmd 0x0102 0 [])
    (hostRow i).isSome = true ∧ Fetched i ready ∧ firstFailed i ready = some stBadOpcode :=
  ⟨rfl, ⟨by decide +kernel, rfl, .inr (by decide +kernel)⟩, by decide +kernel⟩

theorem witness_WaitsInRing :
    let i : Instr := .nop (cmd 0x0101 0 [])
    (hostRow i).isSome = true ∧ ¬ Fetched i State.reset := by
  refine ⟨rfl, fun h => ?_⟩
  exact absurd h.1 (by decide +kernel)

theorem witness_ResponseWritten :
    let c := cmd 0x0101 0 []
    c.mb < ready.host.mb.length ∧ c.mb < 8 ∧ bit c.flags.toNat 0 = true ∧ bit c.flags.toNat 1 = false ∧
      (ready.mailbox c.mb).writes = true ∧ (ready.mailbox c.mb).rspFull = false ∧ (ready.mailbox c.mb).held = [] := by decide +kernel

/-- Commands that report and take no argument are at hand. -/
theorem witness_Reports_plain :
    AtHand (.nop (cmd 0x0101 0 [])) ready ∧ AtHand (.devInfo (cmd 0x0103 0 [])) ready ∧ AtHand (.fwStatus (cmd 0x010F 0 [])) ready ∧
    AtHand (.decodeCores (cmd 0x0402 0 [])) ready ∧ AtHand (.encStatus (cmd 0x0E04 0 [])) ready ∧ AtHand (.timeStatus (cmd 0x1203 0 [])) ready ∧
    AtHand (.paceReport (cmd 0x1302 0 [])) ready ∧ AtHand (.railStatus (cmd 0x1304 0 [])) ready ∧ AtHand (.calStatus (cmd 0x1603 0 [])) ready ∧
    AtHand (.monStatus (cmd 0x0F01 0 [])) ready ∧ AtHand (.compStatus (cmd 0x0801 0 [])) ready ∧
    AtHand (.safetyStatus (cmdOn 0 0x1401 0 [])) ready ∧ AtHand (.pairStatus (cmd 0x1501 0 [])) ready ∧
    NoTestMet (cmd 0x1302 0 []) ready ∧ NoTestMet (cmd 0x1301 0 [1]) ready ∧ NoTestMet (cmd 0x1602 0 [1]) ready := by
  repeat' apply And.intro
  all_goals first | decide +kernel | rfl | exact atHand_of_handy (by decide +kernel)

/-- Reports of counters, with the clear bit 0 and 1. -/
theorem witness_Reports_counters : ∀ b ∈ [0, 1],
    (cmd 0x0201 0 [b]).f 1 0 0 = b ∧ (cmd 0x0201 0 [b]).okBits 1 1 = true ∧
    handy (.hostStatus (cmd 0x0201 0 [b])) ready = true ∧
    (handy (.sceneStatus (cmd 0x0304 sceneObj [b])) stocked = true ∧ (stocked.sceneOf sceneObj).isSome = true) ∧
    handy (.synthStatus (cmd 0x0601 0 [b])) ready = true ∧ handy (.placeStatus (cmd 0x0701 0 [b])) ready = true ∧
    handy (.cmpStatus (cmd 0x0903 0 [b])) ready = true ∧ handy (.timStatus (cmd 0x0B02 0 [b])) ready = true ∧
    handy (.linkStatus (cmd 0x0A02 0 [b])) ready = true ∧ handy (.panelStatus (cmd 0x0C01 0 [b])) ready = true ∧
    handy (.memStatus (cmd 0x0D01 0 [b])) ready = true ∧ handy (.pwrStatus (cmd 0x1301 0 [b])) ready = true ∧
    handy (.thermStatus (cmd 0x1303 0 [b])) ready = true := by decide +kernel
/-! ### Witnesses: reports that name something, parameters, objects, firmware -/

/-- A frame in synthesis with the small panel's geometry. -/
def fix0 : FrameFix :=
  { ready.fixFrame ready.pget 1 ready.tim false with blanket := false, geom := some (parseGeom geomBytes), states := [0, 1] }

def synthesising (x : FrameFix) : State := { stocked with synth := { stocked.synth with cur := some x } }

theorem witness_NamedReports_first :
    (AtHand (.paramGet (cmd 0x0105 0 [0x0B000001 * 2 ^ 96])) stocked ∧ 0 < (cmd 0x0105 0 [0x0B000001 * 2 ^ 96]).nWords ∧
      ∀ n, n < 1 → bits ((cmd 0x0105 0 [0x0B000001 * 2 ^ 96]).w (n + 1)) 95 88 ≤ 1 ∧ bits ((cmd 0x0105 0 [0x0B000001 * 2 ^ 96]).w (n + 1)) 87 0 = 0 ∧
        (paramDef (bits ((cmd 0x0105 0 [0x0B000001 * 2 ^ 96]).w (n + 1)) 127 96)).isSome = true) ∧
    (AtHand (.geomInfo (cmd 0x0501 geomObj [])) stocked ∧ (stocked.obj? geomObj).isSome = true) ∧
    (AtHand (.geomRay (cmd 0x0502 geomObj [0x01 * 2 ^ 120 + 1 * 2 ^ 112 + 3839 * 2 ^ 96 + 2159 * 2 ^ 80])) stocked ∧
      (geomRayArgs (parseGeom geomBytes) (cmd 0x0502 geomObj [0x01 * 2 ^ 120 + 1 * 2 ^ 112 + 3839 * 2 ^ 96 + 2159 * 2 ^ 80])).isSome = true) ∧
    (AtHand (.placeObject (cmd 0x0702 surfObj [])) stocked ∧ (stocked.obj? surfObj).map (·.cls) = some 2) := by
  repeat' apply And.intro
  all_goals first | decide +kernel | rfl | exact atHand_of_handy (by decide +kernel)

theorem witness_NamedReports_probe :
    let c := cmd 0x0602 0 [0x01 * 2 ^ 120 + 1 * 2 ^ 112 + 3839 * 2 ^ 96 + 2159 * 2 ^ 80]
    let s := synthesising fix0
    AtHand (.synthProbe c) s ∧ s.dev.state.full = true ∧ s.synth.cur = some fix0 ∧ fix0.blanket = false ∧
      fix0.geom = some (parseGeom geomBytes) ∧ (geomRayArgs (parseGeom geomBytes) c).map (fun x => (x.1.tile, x.2)) = some (1, 3839, 2159, 1) ∧
      fix0.states.contains 1 = true := by
  repeat' apply And.intro
  all_goals first | decide +kernel | rfl | exact atHand_of_handy (by decide +kernel)

/-- A record of a self-test in sector A. -/
def record0 : Record := { seq := 1, result := 1, occasion := 2, quickDays := 0, fw := 0, aon := 0, doms := [] }
def recorded : State := { ready with start := { ready.start with recA := some record0 } }

theorem witness_NamedReports_record :
    AtHand (.selftestRecord (cmd 0x1602 0 [1])) recorded ∧ (cmd 0x1602 0 [1]).okBits 1 1 = true ∧ recorded.start.newest = some (record0, false) := by
  repeat' apply And.intro
  all_goals first | decide +kernel | rfl | exact atHand_of_handy (by decide +kernel)

/-- The last channel, port and anchor, read and cleared. -/
theorem witness_NamedReports_clear : ∀ b ∈ [0, 1],
    (handy (.memChannel (cmd 0x0D02 0 [31 + 256 * b])) ready = true ∧ (cmd 0x0D02 0 [31 + 256 * b]).okBits 1 (mask 8 8 + mask 4 0) = true ∧
      (cmd 0x0D02 0 [31 + 256 * b]).f 1 8 8 = b) ∧
    (handy (.netStatus (cmd 0x1201 0 [3 + 256 * b])) ready = true ∧ (cmd 0x1201 0 [3 + 256 * b]).okBits 1 0x103 = true ∧
      (cmd 0x1201 0 [3 + 256 * b]).f 1 8 8 = b) ∧
    (handy (.decodeStatus (cmd 0x0401 sceneObj [256 + b])) stocked = true ∧ stocked.sceneOf sceneObj = some scene0 ∧
      (cmd 0x0401 sceneObj [256 + b]).okBits 1 (mask 12 8 + 1) = true ∧ (cmd 0x0401 sceneObj [256 + b]).f 1 12 8 < scene0.maxAnchors ∧
      (cmd 0x0401 sceneObj [256 + b]).f 1 0 0 = b) := by decide +kernel

/-- `scene.catchup`, an ordinary value, and an ID that does not exist. -/
def setOk : Cmd := cmd 0x0104 0 [0x06000001 * 2 ^ 96 + 4]
def setBad : Cmd := cmd 0x0104 0 [0x06000001 * 2 ^ 96 + 4, 0x06FFFFFF * 2 ^ 96]
def modeOk : Cmd := cmd 0x0B01 0 [1 * 2 ^ 120 + State.reset.pget 0x0B000001]

/-- A value that names the GEOMETRY object, as it is made, destroyed, LOST. -/
def setGeom : Cmd := cmd 0x0104 0 [0x05000001 * 2 ^ 96 + geomObj]
def withGeom (o : Obj → Obj) : State := withObjs ready [o { id := geomObj, cls := 3, size := 80, data := geomBytes, creating := false }]
def gone : State := { ready with objs := { ready.objs with next := 9 } }

theorem witness_ParamStaging :
    (AtHand (.paramSet setOk) ready ∧ 0 < setOk.nWords ∧
      ∀ n, n < setOk.nWords → ready.entryOk (setOk.w (n + 1)) = true ∧ ready.namesCreating (setOk.w (n + 1)) = false ∧
        ready.namesDestroyed (setOk.w (n + 1)) = false ∧ ready.namesLost (setOk.w (n + 1)) = false) ∧
    (AtHand (.paramSet setBad) ready ∧ 2 ≤ setBad.nWords ∧ ready.entryOk (setBad.w 2) = false ∧ ready.entryOk (setBad.w 1) = true ∧
      ∀ m, m < setBad.nWords → ready.namesCreating (setBad.w (m + 1)) = false ∧ ready.namesDestroyed (setBad.w (m + 1)) = false ∧
        ready.namesLost (setBad.w (m + 1)) = false) ∧
    (AtHand (.paramDiscard (cmd 0x0106 0 [0x7FFFFE])) ready ∧ (cmd 0x0106 0 [0x7FFFFE]).okBits 1 0x7FFFFE = true) := by
  repeat' apply And.intro
  all_goals first | decide +kernel | rfl | exact atHand_of_handy (by decide +kernel)

theorem witness_ParamStaging_object :
    (AtHand (.paramSet setGeom) (withGeom (fun o => { o with creating := true })) ∧ 0 < setGeom.nWords ∧
      (withGeom (fun o => { o with creating := true })).namesCreating (setGeom.w 1) = true) ∧
    (AtHand (.paramSet setGeom) gone ∧ gone.namesDestroyed (setGeom.w 1) = true ∧ gone.namesCreating (setGeom.w 1) = false) ∧
    (AtHand (.paramSet setGeom) (withGeom (fun o => { o with lost := true })) ∧
      (withGeom (fun o => { o with lost := true })).namesLost (setGeom.w 1) = true ∧
      (withGeom (fun o => { o with lost := true })).namesCreating (setGeom.w 1) = false ∧
      (withGeom (fun o => { o with lost := true })).namesDestroyed (setGeom.w 1) = false) := by
  repeat' apply And.intro
  all_goals first | decide +kernel | exact atHand_of_handy (by decide +kernel)

theorem witness_ParamStaging_mode :
    AtHand (.panelMode modeOk) ready ∧ modeOk.okBits 1 (mask 127 104 + mask 63 0) = true ∧ modeOk.f 1 127 120 ≤ 3 ∧
      (bit (modeOk.f 1 127 120) 0 = false → modeOk.f 1 119 112 = 0) ∧ (bit (modeOk.f 1 127 120) 1 = false → modeOk.f 1 111 104 = 0) ∧
      ((modeVals modeOk).all (fun p => match paramDef p.id with
        | some d => ready.valueOk d p.v
        | none => true) = true) ∧
      ∀ id ∈ ready.checkTiming (fun id => (pfind (modeVals modeOk) id).getD ((pfind ready.par.staged id).getD (ready.pget id)))
        (fun id => id == 0x0B000001 || id == 0x0A000001 || id == 0x09000001) true, id = 0x0B000003 := by
  repeat' apply And.intro
  all_goals first | decide +kernel | rfl | exact atHand_of_handy (by decide +kernel)

theorem witness_ParamLists :
    (setBad.f 1 127 96 ≠ setBad.f 2 127 96) ∧ ∀ m, 1 ≤ m → m ≤ 2 → setBad.f m 127 96 ≠ 7 := by
  refine ⟨by decide +kernel, fun m h1 h2 => ?_⟩
  have : m = 1 ∨ m = 2 := by omega
  rcases this with rfl | rfl <;> decide +kernel

/-- A value of synthesis staged, and a COMMIT of its subsystem. -/
def staging : State := withPar ready (fun p => { p with staged := [{ id := 0x06000001, v := 4 }] })
def commitNow : Cmd := cmd 0x0107 0 [2 ^ 6]
def commitAt : Cmd := cmd 0x0107 0 [2 ^ 64 + (2 ^ 32 - 1) * 2 ^ 32 + 2 ^ 6]
def pendingCommit : PendingCommit :=
  { job := 3, tag := 1, panel := [], monitor := [], target := none, panelAt := 2, monitorAt := 2, mode := false }

/-- The monitor runs as well. -/
def stagingMon : State := withTim (staging.pset 0x0B000013 1) (fun t => { t with monState := 1 })

theorem witness_Commits :
    (AtHand (.commit commitNow) stagingMon ∧ stagingMon.par.commit = none ∧ commitNow.okBits 1 (mask 64 32 + 0x7FFFFE) = true ∧
      stagingMon.dev.state ≠ .parasol ∧ stagingMon.commitTakes (commitNow.f 1 31 0) = [{ id := 0x06000001, v := 4 }] ∧
      (paramDef 0x06000001).map (·.cls) = some .panelFrame ∧
      stagingMon.offendingId (takenValue commitNow stagingMon) (takenChange commitNow stagingMon) = none ∧ commitNow.f 1 64 64 = 0 ∧
      stagingMon.missedFrame = none ∧ stagingMon.monRuns = true) ∧
    (let s := withPar staging (fun p => { p with commit := some pendingCommit });
      AtHand (.commit commitNow) s ∧ s.par.commit.isSome = true) ∧
    (let s := withTim staging (fun t => { t with on := true });
      AtHand (.commit commitAt) s ∧ s.par.commit = none ∧ commitAt.okBits 1 (mask 64 32 + 0x7FFFFE) = true ∧ s.dev.state ≠ .parasol ∧
      s.offendingId (takenValue commitAt s) (takenChange commitAt s) = none ∧ commitAt.f 1 64 64 = 1 ∧ s.tim.on = true ∧
      after 32 s.openFrame (s.targetFrame (commitAt.f 1 63 32)) = true) ∧
    (let s := withPar (withGeom (fun o => { o with lost := true })) (fun p => { p with staged := [{ id := 0x05000001, v := geomObj }] });
      AtHand (.commit (cmd 0x0107 0 [2 ^ 5])) s ∧ s.par.commit = none ∧ (cmd 0x0107 0 [2 ^ 5]).okBits 1 (mask 64 32 + 0x7FFFFE) = true ∧
      s.dev.state ≠ .parasol ∧
      (s.offendingId (takenValue (cmd 0x0107 0 [2 ^ 5]) s) (takenChange (cmd 0x0107 0 [2 ^ 5]) s)) = some 0x05000001) ∧
    (let s := withPar (readyIn .parasol) (fun p => { p with staged := [{ id := 0x09000001, v := 1 }] });
      AtHand (.commit (cmd 0x0107 0 [2 ^ 9])) s ∧ s.par.commit = none ∧ (cmd 0x0107 0 [2 ^ 9]).okBits 1 (mask 64 32 + 0x7FFFFE) = true ∧
      s.dev.state = .parasol ∧ takenValue (cmd 0x0107 0 [2 ^ 9]) s 0x09000001 ≠ s.pget 0x09000001) := by
  repeat' apply And.intro
  all_goals first | decide +kernel | rfl | exact atHand_of_handy (by decide +kernel)


theorem witness_ClearCounters : (cmd 0x0201 0 [1]).f 1 0 0 = 1 ∧ (cmd 0x0201 0 [1]).okBits 1 1 = true ∧
    AtHand (.hostStatus (cmd 0x0201 0 [1])) ready ∧ AtHand (.synthStatus (cmd 0x0601 0 [1])) ready ∧ AtHand (.placeStatus (cmd 0x0701 0 [1])) ready ∧
    AtHand (.cmpStatus (cmd 0x0903 0 [1])) ready ∧ AtHand (.timStatus (cmd 0x0B02 0 [1])) ready ∧ AtHand (.panelStatus (cmd 0x0C01 0 [1])) ready ∧
    AtHand (.memStatus (cmd 0x0D01 0 [1])) ready ∧ AtHand (.pwrStatus (cmd 0x1301 0 [1])) ready ∧ AtHand (.thermStatus (cmd 0x1303 0 [1])) ready ∧
    AtHand (.linkStatus (cmd 0x0A02 0 [1])) ready := by
  repeat' apply And.intro
  all_goals first | decide +kernel | rfl | exact atHand_of_handy (by decide +kernel)
/-! ### Witnesses: objects, firmware, RESTART, fences and jobs -/

def createCmd : Cmd := cmd 0x0108 0 [2 * 2 ^ 120, 64 * 2 ^ 32 + 64]
def readCmd : Cmd := cmd 0x010A surfObj [0x1000, 16 * 2 ^ 32 + 48]
def job (id mb : Nat) (key : JobKey) : Job :=
  { id := id, mb := mb, opcode := 0, tag := 0, object := 0, respond := true, event := false, key := key }
def withJobs (s : State) (l : List Job) : State := { s with host := { s.host with jobs := l } }

/-- All channels train, so that there is space. -/
def withMem (s : State) : State := { s with mem := { s.mem with chans := s.mem.chans.map (fun c => { c with state := 1 }) } }

theorem witness_ObjectLife :
    (AtHand (.objectCreate createCmd) (withMem ready) ∧ createCmd.okBits 1 (mask 127 120 + mask 63 0) = true ∧
      createCmd.okBits 2 (mask 63 0) = true ∧ createCmd.f 1 127 120 = 2 ∧ createCmd.f 1 3 0 = 0 ∧ createCmd.f 2 63 32 = 64 ∧
      createCmd.f 2 31 0 ≤ 64 ∧ (withMem ready).place.mirrorShort = false ∧
      (withMem ready).fits (plan 0 (ceilDiv 64 basketBytes) 0 0 0 0) = true) ∧
    (let s := withJobs (withObjs ready [{ id := surfObj, cls := 2, size := 64, data := [], creating := true }])
        [job 3 1 (.objectCreate surfObj 64)];
      (s.obj? surfObj).map (·.creating) = some true ∧
      (s.findJob (fun j => match j.key with | .objectCreate x _ => x == surfObj | _ => false)).map (·.id) = some 3) ∧
    (AtHand (.objectDestroy (cmd 0x0109 surfObj [])) stocked ∧
      (stocked.obj? surfObj).map (fun o => (stocked.inUse o, stocked.named o.id)) = some (false, false)) ∧
    (AtHand (.objectRead readCmd) stocked ∧ (stocked.obj? surfObj).map (·.size) = some 64 ∧ readCmd.okBits 1 (mask 63 0) = true ∧
      readCmd.okBits 2 (mask 63 0) = true ∧ readCmd.f 1 3 0 = 0 ∧ readCmd.f 2 63 32 = 16 ∧ readCmd.f 2 31 0 = 48) ∧
    (let k : JobKey := .objectRead surfObj 0x1000 16 48 (slice (List.replicate 64 0) 16 48);
      let s := withJobs stocked [job 3 1 k];
      (s.job? 3).map (·.key) = some k ∧ (s.obj? surfObj).map (·.data) = some (List.replicate 64 0)) := by
  repeat' apply And.intro
  all_goals first | decide +kernel | rfl | exact atHand_of_handy (by decide +kernel)

def stageCmd : Cmd := cmd 0x010C 0 [0x1000, 32 * 2 ^ 20]
def withFw (s : State) (f : Firmware) : State := { s with fw := f }

theorem witness_FirmwareSlots :
    (AtHand (.fwStage stageCmd) ready ∧ stageCmd.okBits 1 (mask 63 0) = true ∧ stageCmd.okBits 2 (mask 31 0) = true ∧ stageCmd.f 1 3 0 = 0 ∧
      stageCmd.f 2 31 0 ≤ 32 * 2 ^ 20 ∧ ready.fw.staging = none ∧ (ready.domain 47).failed = false) ∧
    (withFw ready { staging := some 1 }).fw.staging = some 1 ∧
    (let s := withFw ready { slot1 := { version := 5, state := 1 } };
      AtHand (.fwActivate (cmdOn 0 0x010D 0 [1])) s ∧ (cmdOn 0 0x010D 0 [1]).okBits 1 1 = true ∧ s.fw.staging = none ∧
      (s.fw.slot ((cmdOn 0 0x010D 0 [1]).f 1 0 0)).state ≠ 0) ∧
    (AtHand (.fwConfirm (cmdOn 0 0x010E 0 [])) ready ∧ ready.dev.trial = false) ∧
    (let s : State := { ready with dev := { ready.dev with trial := true } };
      AtHand (.fwConfirm (cmdOn 0 0x010E 0 [])) s ∧ s.dev.trial = true) := by
  repeat' apply And.intro
  all_goals first | decide +kernel | rfl | exact atHand_of_handy (by decide +kernel)

def restartCmd : Cmd := cmdOn 0 0x010B 0 [1]

theorem witness_RestartEntersBoot :
    AtHand (.restart restartCmd) ready ∧ restartCmd.okBits 1 3 = true ∧ restartCmd.f 1 1 0 ≤ 1 ∧
      (ready.start.thermalLock = true → ready.pwr.tmax < 85) := by
  repeat' apply And.intro
  all_goals first | decide +kernel | rfl | exact atHand_of_handy (by decide +kernel)

theorem witness_FenceOrder :
    AtHand (.fence (cmd 0x0102 0 [])) ready ∧
    (let s := withJobs ready [job 3 1 .fence]; (s.findJob (fun j => j.mb == 1)).map (·.key) = some .fence) ∧
    (let s := withJobs ready [job 2 1 .eyeScan, job 3 1 .fence]; (s.findJob (fun j => j.mb == 1)).map (·.key) = some .eyeScan) := by
  repeat' apply And.intro
  all_goals first | decide +kernel | rfl | exact atHand_of_handy (by decide +kernel)

/-! ### Witnesses: rings, events, interrupts, the link to the host -/

theorem witness_Rings :
    ((ready.mailbox 1).en = true ∧ wsub 16 (16 : BitVec 16).toNat (ready.mailbox 1).cmdHead.toNat ≤ 2 ^ (ready.mailbox 1).cmdLog2.toNat) ∧
    ((ready.mailbox 1).active = true ∧ 2 ^ (ready.mailbox 1).cmdLog2.toNat < wsub 16 (17 : BitVec 16).toNat (ready.mailbox 1).cmdHead.toNat) ∧
    (ready.mailbox 7).en = false ∧
    (let s := ready.modMb 1 (fun m => { m with held := [{ opcode := 0, tag := 0, final := true, status := 0, object := 0, payload := [], first := true }] });
      (s.mailbox 1).held.length = 1 ∧ (s.mailbox 1).writes = true ∧ (s.mailbox 1).rspFull = false) ∧
    (let v : BitVec 32 := 0xA401; (ready.mailbox 7).en = false ∧ bit v.toNat 0 = true ∧ bits v.toNat 11 8 = 4 ∧ bits v.toNat 15 12 = 10 ∧
      ready.host.mb.length = 8) ∧
    (let v : BitVec 32 := 0xB401; (ready.mailbox 7).en = false ∧ bit v.toNat 0 = true ∧ 10 < bits v.toNat 15 12) ∧
    (let v : BitVec 32 := 0x5401; (ready.mailbox 1).en = true ∧ bit v.toNat 0 = true) ∧
    (let v : BitVec 32 := 0xA400; (ready.mailbox 1).en = true ∧ bit v.toNat 0 = false) := by decide +kernel

theorem witness_HostFailures :
    (0 < ready.host.mb.length ∧ (ready.mailbox 0).active = true) ∧ ready.host.pcie.up = true ∧
    (ready.modHost (fun h => { h with pcie := { h.pcie with up := false } })).host.pcie.up = false := by decide +kernel

/-- The event queue enabled, with two unread records. -/
def queued : State := ready.modEq (fun q => { q with en := true, tail := 2 })

theorem witness_EventQueueWrites :
    (bit (1 : BitVec 32).toNat 0 = true ∧ ready.host.eq.en = false) ∧ bit (0 : BitVec 32).toNat 0 = false ∧
    (0 < wsub 16 (2 : BitVec 16).toNat queued.host.eq.head.toNat ∧ wsub 16 (2 : BitVec 16).toNat queued.host.eq.head.toNat ≤ queued.host.eq.unread) ∧
    queued.host.eq.unread < wsub 16 (3 : BitVec 16).toNat queued.host.eq.head.toNat ∧ 0 < queued.host.eq.unread := by decide +kernel

/-- Vector 63 and vector 2 pend and are masked. -/
def pended : State := ready.modIrq (fun q => { q with status := 0x8000000000000004, mask := 0x8000000000000004, msixMask := 0 })

theorem witness_Interrupts :
    (bit (if true then (0x80000000 : BitVec 32).toNat * 2 ^ 32 else 0) 63 = true ∧ pended.causeHolds 63 = false ∧ bit pended.host.irq.status.toNat 63 = true) ∧
    (let s := queued.modIrq (fun q => { q with status := 2 });
      bit (2 : BitVec 32).toNat 1 = true ∧ s.causeHolds 1 = true ∧ bit s.host.irq.status.toNat 1 = true) ∧
    (bit pended.host.irq.mask.toNat 2 = true ∧ bit pended.host.irq.status.toNat 2 = true ∧ bit pended.host.irq.msixMask.toNat 2 = false ∧
      pended.host.pcie.up = true) ∧
    (let s := pended.modIrq (fun q => { q with mask := 0, msixMask := 4 });
      bit s.host.irq.msixMask.toNat 2 = true ∧ bit s.host.irq.status.toNat 2 = true ∧ bit s.host.irq.mask.toNat 2 = false) := by decide +kernel

theorem witness_RaiseFrame : (ready.pset 0x02000001 2).discards 2 1 = true ∧ ready.discards 2 4 = false := by decide +kernel
/-! ### Witnesses: memory, power, temperature -/

def spOk : Cmd := cmd 0x0D03 0 [0]
def spOther : Cmd := cmd 0x0D03 0 [1]
def retrainCmd : Cmd := cmd 0x0D04 0 [31]

/-- The device in BLANKET with every channel trained at both set points. -/
def trained : State :=
  { readyIn .blanket with mem := { ready.mem with chans := ready.mem.chans.map (fun c => { c with state := 1, m0 := marginsOf marginsOk, m1 := marginsOf marginsOk }) } }

def passing (kind steps : Nat) : State :=
  (trained.modChan 31 (fun c => { c with pass := some { kind := kind, other := false, steps := steps, cause := 1 } })).advance 0

/-- A wide tolerance has been reported. -/
def tolerant (s : State) : State := withTim s (fun t => { t with ltrNow := 60000 })

theorem witness_MemSetpoints_commands :
    (AtHand (.memSetpoint spOk) trained ∧ spOk.okBits 1 1 = true ∧ trained.mem.request = none ∧ spOk.f 1 0 0 = trained.mem.setpoint) ∧
    (AtHand (.memSetpoint spOther) trained ∧ spOther.okBits 1 1 = true ∧ spOther.f 1 0 0 ≠ trained.mem.setpoint ∧ spOther.f 1 0 0 = 1 ∧
      trained.dev.state = .blanket ∧ trained.noSetting 1 = false) ∧
    (AtHand (.memRetrain retrainCmd) trained ∧ retrainCmd.okBits 1 (mask 4 0) = true ∧ (trained.chan (retrainCmd.f 1 4 0)).state = 1 ∧
      trained.dev.state ≠ .parasol ∧ (trained.chan (retrainCmd.f 1 4 0)).fullRuns = false ∧ trained.mem.request = none) := by
  repeat' apply And.intro
  all_goals first | decide +kernel | rfl | exact atHand_of_handy (by decide +kernel)

theorem witness_MemSetpoints_passes :
    ((trained.chan 31).state = 1 ∧ (trained.chan 31).pass = none ∧ trained.mem.request = none ∧ trained.mem.selfRefresh = false ∧ trained.dev.state ≠ .off ∧ 31 < trained.mem.chans.length) ∧
    (((tolerant (passing 0 7)).chan 31).pass.map (fun p => (p.kind, p.steps)) = some (0, 7) ∧ (tolerant (passing 0 7)).mem.selfRefresh = false ∧ (tolerant (passing 0 7)).stallFits 3000 = true ∧
      (tolerant (passing 0 7)).stallFits 20000 = false) ∧
    (((tolerant (passing 1 2047)).chan 31).pass.map (fun p => (p.kind, p.steps)) = some (1, 2047)) ∧
    ((if trained.mem.setpoint = 0 then marginsBad.ok else marginsOk.ok) = false ∧ (if trained.mem.setpoint = 0 then marginsOk.ok else marginsBad.ok) = true) ∧
    (let s := (tolerant trained).modMem (fun m => { m with request := some { target := 1, requester := 1, t0 := 0 } });
      s.mem.request.map (·.target) = some 1 ∧ (∀ c ∈ s.mem.chans, c.pass = none) ∧ s.stallFits 3000 = true ∧ s.now < 0 + 50000000 ∧ s.noSetting 1 = false) ∧
    (let s := (tolerant trained).modMem (fun m => { m with
        request := some { target := 1, requester := 1, t0 := 0 }, chans := m.chans.map (fun c => { c with m1 := marginsOf marginsBad }) });
      s.stallFits 3000 = true ∧ (∀ c ∈ s.mem.chans, c.pass = none) ∧ s.now < 0 + 50000000 ∧ s.noSetting 1 = true) := by
  decide +kernel

/-- A bank with a full queue, and one whose row 9 has been counted 3 times. -/
def fullBank : State := trained.modChan 31 (fun c => { c with banks := updAt c.banks 15 (fun b => { b with queue := List.replicate 8 5 }) })
def countedBank : Bank := { table := [{ row := 9, count := 3 }] }

theorem witness_MemTraffic_banks :
    (15 < (trained.chan 31).banks.length ∧ ((trained.chan 31).banks.getD 15 {}).queue.length < 8 ∧
      (trained.pset 0x0D000001 0).pget 0x0D000001 ≠ 1 ∧ (trained.pset 0x0D000001 2).pget 0x0D000001 = 2 ∧ (trained.pset 0x0D000001 1).pget 0x0D000001 = 1) ∧
    8 ≤ ((fullBank.chan 31).banks.getD 15 {}).queue.length ∧
    (trained.mem.guardClear = false ∧ trained.mem.selfRefresh = false ∧ trained.dev.state ≠ .off ∧ (trained.chan 31).state = 1 ∧ (ready.chan 31).state ≠ 1) ∧
    ((trained.modChan 31 (fun c => { c with result := some (marginsOf marginsOk, marginsOf marginsBad) })).chan 31).result.isSome = true := by decide +kernel

/-- A codeword whose byte 0 is wrong, and one with too many wrong bytes. -/
def oneWrong : List Byte := ((rsEncode (List.replicate 64 7)).map (BitVec.ofNat 8)).set 0 9
def manyWrong : List Byte := (List.range 72).map (fun i => BitVec.ofNat 8 (i * i + 3))

/-- A scrub round in which all but the codewords of channel 31 are read, `k` of its own. -/
def scrubbing (k : Nat) : State := trained.modMem (fun m => { m with
  scrubOn := true, chans := m.chans.zipIdx.map (fun (c, i) => { c with scrubbed := if i = 31 then k else channelCodewords }) })

theorem witness_MemTraffic_scrub :
    ((scrubbing 7).mem.selfRefresh = false ∧ (scrubbing 7).mem.scrubOn = true ∧ (scrubbing 7).scrubLeft = [31] ∧
      ((scrubbing 7).chan 31).scrubbed + 1 < channelCodewords) ∧
    ((scrubbing (channelCodewords - 1)).scrubLeft = [31] ∧ ((scrubbing (channelCodewords - 1)).chan 31).scrubbed + 1 = channelCodewords) ∧
    (trained.mem.selfRefresh = false ∧ trained.mem.scrubOn = false ∧ trained.workList ≠ []) := by decide +kernel

theorem witness_MemTraffic_errors :
    (rsDecode (cwNats oneWrong)).map List.length = some 1 ∧ rsDecode (cwNats manyWrong) = none ∧
    (let s := trained.modMem (fun m => { m with writebacks := [{ ch := 31, bank := 15, addr := 0, data := [] }] });
      (s.mem.writebacks.find? (fun w => w.ch == 31 && w.bank == 15)).isSome = true) ∧
    (let b : Basket := { index := 4, cls := 0, item := 0, a := 0, l := 0, part := 0, chans := [31, 0] };
      let s := withObjs trained [{ id := surfObj, cls := 2, size := 64, data := [], creating := false, baskets := [b] }];
      (s.obj? surfObj).isSome = true ∧ s.basket? surfObj 4 = some b ∧ b.cls = 0 ∧ b.lastCopy 31 = false) ∧
    (trained.dev.state ≠ .off ∧ (readyIn .off).dev.state = .off) := by decide +kernel

theorem witness_RowCounted :
    countedBank.table.find? (fun x => x.row == 9) = some { row := 9, count := 3 } ∧ 4 ≤ 3 + 1 ∧ 3 + 1 < 5 ∧
      ∀ x ∈ countedBank.table, x.row = 9 → x.count = 3 := by decide +kernel

/-- Domain 46, which holds the sites, is on. -/
def sampling : State := ready.modDomain 46 (fun d => { d with st := 2 })

theorem witness_SagStages : (sampling.dev.state ≠ .off ∧ (sampling.domain 46).st = 2) ∧ ready.pwr.warnLow = false ∧
    (ready.modPwr (fun p => { p with warnLow := true })).pwr.warnLow = true := by decide +kernel

def stageIs (n input : Nat) (above : Option Nat) : State :=
  (ready.modPwr (fun p => { p with stage := n, input := input, above := above })).advance 200019
def warned (n input : Nat) : State := (stageIs n input none).modPwr (fun p => { p with warnLow := true })

/-- Stage 1 with its dwell begun 199,999 ns and 200,000 ns ago, stage 6, and SUPPLY_WARN_N low. -/
theorem witness_SagDwell :
    (ready.pwr.warnLow = false ∧ (stageIs 1 699 none).pwr.stage < sagLevel (stageIs 1 699 none).pwr.input) ∧
    (sagLevel (stageIs 1 724 none).pwr.input ≤ 1 ∧ (stageIs 1 724 none).pwr.input < sagThreshold 1 + 10) ∧
    (sagThreshold 1 + 10 ≤ (stageIs 1 725 (some 20)).pwr.input ∧ (stageIs 1 725 (some 20)).now < 20 + 200000) ∧
    (sagThreshold 1 + 10 ≤ (stageIs 1 725 (some 19)).pwr.input ∧ 19 + 200000 ≤ (stageIs 1 725 (some 19)).now) ∧
    (sagLevel (stageIs 6 0 none).pwr.input ≤ 6 ∧ (stageIs 6 0 none).pwr.stage = 6) ∧
    ((warned 3 750).pwr.warnLow = true ∧ (warned 3 750).pwr.stage < 4 ∧ sagLevel (warned 3 750).pwr.input < 4) ∧
    ((warned 4 750).pwr.stage = 4 ∧ sagLevel (warned 4 750).pwr.input ≤ 4) := by decide +kernel

def pmbOk : PmbRead := { fail := 0, linear16 := true, vout := 750, iout := 100, status := 0 }
def railOk : PmbRail := { fail := 0, mv := 1100, cur := 5, temp := 40, status := 0 }
def frozen : State := ready.modPwr (fun p => { p with frozen := true })

/-- A failed exchange is one that failed three times; a good one after two failures counts as good. -/
theorem witness_PowerRegulation_loop :
    (ready.avsRuns = true ∧ ready.pwr.frozen = false ∧ pmbDead pmbOk.fail pmbOk.times = false ∧ pmbOk.linear16 = true) ∧
    (pmbDead ({ pmbOk with fail := 1, times := 2 } : PmbRead).fail 2 = false ∧ pmbDead ({ pmbOk with fail := 1 } : PmbRead).fail 3 = true ∧
      ({ pmbOk with linear16 := false } : PmbRead).linear16 = false) ∧
    (frozen.avsRuns = true ∧ frozen.pwr.frozen = true ∧ ready.dev.state ≠ .off) := by decide +kernel

theorem witness_PowerRegulation_heat :
    ((ready.pset 0x13000007 0x7F00000000000000).teleAddr 7 ≠ 0 ∧ 7 < ready.pwr.rails.length ∧ pmbDead railOk.fail railOk.times = false) ∧
    ((readyIn .off).dev.state = .off ∧ (List.replicate 32 (25 : Int)).length = 32 ∧ 31 < 32) ∧
    (let s : State := { readyIn .shutdown with start := { ready.start with shutReason := 5 } }; s.dev.state = .shutdown ∧ s.start.shutReason = 5) := by
  decide +kernel

def domainIs (d st : Nat) (w : Bool) : State := ready.modDomain d (fun x => { x with st := st, wantUp := w })

/-- The same 11 ms later. -/
def lateIs (d st : Nat) : State := (domainIs d st false).advance 11000000

/-- Domain 50 waits for its power-up, 20 µs after another's. -/
def upWaits : State :=
  let s := (readyIn .service).modPwr (fun p => { p with lastUp := some 0, domains := p.domains.map (fun x => { x with st := 2, wantUp := false }) })
  s.modDomain 50 (fun x => { x with st := 0, wantUp := true })

theorem witness_PowerDomains_start : (upWaits.powerSync.upRequests).pwr.lastUp = some 0 ∧
    ((List.range 50).map (· + 1)).find? (fun n => (upWaits.powerSync.upRequests.domain n).wantUp &&
      (upWaits.powerSync.upRequests.domain n).st == 0 && !upWaits.powerSync.upRequests.testBlocks n) = some 50 := by decide +kernel

/-- Domains 50, 46, 48, 45 and 31 end UP in time and late, 1 and 5 DOWN; both time-outs. -/
theorem witness_PowerDomains_ends :
    ([50, 31].all (fun d => decide (((domainIs d 1 false).domain d).st = 1) && !(domainIs d 1 false).domainLate d && !(upSteps d).contains 0 &&
      decide (d ≤ ready.pwr.domains.length))) = true ∧
    (((domainIs 46 1 false).domain 46).st = 1 ∧ (domainIs 46 1 false).domainLate 46 = false ∧ (upSteps 46).contains 3 = true) ∧
    ([(48, 8), (45, 4)].all (fun x => decide (((domainIs x.1 1 false).domain x.1).st = 1) && !(domainIs x.1 1 false).domainLate x.1 &&
      (upSteps x.1).contains x.2)) = true ∧
    (((lateIs 50 1).domain 50).st = 1 ∧ (lateIs 50 1).domainLate 50 = true ∧ upMax 50 = some 100000) ∧
    (((lateIs 5 3).domain 5).st = 3 ∧ (lateIs 5 3).domainLate 5 = true ∧ downMax 5 = some 1000000) ∧
    (((domainIs 1 3 false).domain 1).st = 3 ∧ (domainIs 1 3 false).domainLate 1 = false) := by decide +kernel

theorem witness_SevereKept : (3 ≤ 3 ∧ 3 ≤ 4) ∧ ((3 : Nat) ≤ 4 ∧ 4 ≤ 4) := by decide
/-! ### Witnesses: start, self-test, safety, the pair -/

def booting : State := { readyIn .boot with dev := { ready.dev with state := .boot, fwReady := false } }
def slotBad : SlotRead := { cause := 1, version := 0 }
def slotOk : SlotRead := { cause := 0, version := 0x030207 }
def testing (header : Bool) : State :=
  { ready with start := { ready.start with selftest := some { occasion := 2, sectorB := true, header := header, running := [5], t0 := 0 } } }

theorem witness_PowerOnReset : ({ ready with start := { ready.start with porLow := true } } : State).start.porLow = true ∧ ready.start.porLow = false := ⟨rfl, rfl⟩

theorem witness_StartUpRuns_boot :
    (booting.dev.state = .boot ∧ booting.dev.fwReady = false ∧
      booting.bootOrder.find? (fun n => (if n = 0 then slotBad else slotOk).cause == 0) = some 1 ∧
      booting.bootOrder.find? (fun n => (if n = 0 then slotBad else slotBad).cause == 0) = none) ∧
    (ready.mem.chans.length = 32 ∧ (ready.chan 31).state = 0 ∧ ready.dev.state ≠ .off) ∧
    ({ ready with start := { ready.start with synth := 1 } } : State).start.synth = 1 := by decide +kernel

theorem witness_StartUpRuns_test :
    ((testing false).start.selftest.map (·.header) = some false ∧ (testing true).start.selftest.map (·.header) = some true) ∧
    (let s := (testing true).modDomain 48 (fun d => { d with st := 2 }); (s.domain 48).st = 2 ∧ s.start.selftest.map (·.header) = some true ∧
      5700 ≤ 5700 ∧ 6300 ≤ 6300 ∧ 780 ≤ 780 ∧ 820 ≤ 820 ∧ s.pwr.warnLow = false) ∧
    ((testing true).domain 48).st ≠ 2 ∧ (testing true).start.selftest.map (fun x => x.running.contains 6) = some false ∧ (testing true).start.selftest.map (fun x => x.running.contains 5) = some true ∧
    (AtHand (.shutdown (cmd 0x1601 0 [1])) ready ∧ (cmd 0x1601 0 [1]).okBits 1 1 = true ∧ ready.start.selftest = none) := by
  repeat' apply And.intro
  all_goals first | decide +kernel | rfl | exact atHand_of_handy (by decide +kernel)

def clearCmd : Cmd := safeCmd 0x1402 []
def testCmd (m : Nat) : Cmd := safeCmd 0x1403 [m]
def underTest : State :=
  { withJobs ready [job 3 0 .safetyTest] with saf := { ready.saf with test := some { job := 3, mech := 9, t0 := 0 } } }

theorem witness_SafetyMonitor_commands :
    (AtHand (.safetyClear clearCmd) ready ∧ ready.dev.state ≠ .safe ∧ ready.safetyHolds = false) ∧
    (AtHand (.safetyTest (testCmd 17)) ready ∧ ready.dev.state = .service ∧ ready.instrument = false ∧ (testCmd 17).okBits 1 0xFF = true ∧
      (testCmd 17).f 1 7 0 ∈ [5, 7, 8, 9, 12, 17] ∧ ready.saf.test = none) ∧
    (underTest.saf.test.isSome = true ∧ (underTest.job? 3).isSome = true) := by
  repeat' apply And.intro
  all_goals first | decide +kernel | rfl | exact atHand_of_handy (by decide +kernel)

/-- A probe of the last cluster whose words agree, and one whose hit flags differ. -/
def goodProbe : RayProbe := { cluster := 47, got := 0, own := 0, near := false }
def badProbe : RayProbe := { goodProbe with got := 2 }

theorem witness_SafetyMonitor_mechanisms :
    (ready.dev.state ≠ .off ∧ ready.saf.safeStateLow = false ∧ (ready.modSaf (fun x => { x with safeStateLow := true })).saf.safeStateLow = true) ∧
    (ready.dev.state.run = true ∧ ready.instrument = false ∧ (∀ k < 48, ∀ p ∈ ready.probesOf [goodProbe] k, ready.probeOk p = true) ∧
      ready.probesOf [goodProbe] 47 = [goodProbe] ∧ (ready.pset 0x14000001 1).instrument = true ∧
      badProbe ∈ (ready.pset 0x14000001 1).probesOf [badProbe] 47 ∧ (ready.pset 0x14000001 1).probeOk badProbe = false) ∧
    (ready.saf.hostHb ≠ 1 ∧ (ready.pset 0x14000002 10).pget 0x14000002 ≠ 0 ∧ ready.saf.hbLost = false) ∧
    (let s := ready.modSaf (fun x => { x with smcOk := true }); s.saf.smcOk = true ∧ s.saf.lockstepFail = false) := by decide +kernel

theorem witness_SafeEntered : ready.dev.state ≠ .off ∧ ready.dev.state ≠ .safe := by decide

/-- Side A of a pair, in a role, with the cross-link up and domain 44 on. -/
def paired (role : Nat) : State :=
  ({ ready with dev := { ready.dev with pairCfg := true } } : State).modDomain 44 (fun d => { d with st := 2 }) |>.modPair (fun p =>
    { p with role := role, xlink := 2, xlock := true, partnerReady := true, partnerRole := 3 - role, partnerState := 3 })

theorem witness_CrossLink :
    (paired 1).dev.pairCfg = true ∧ (paired 1).pair.xlock = true ∧ ((paired 1).domain 44).st = 2 ∧ (paired 1).pair.xlink = 2 ∧
      (paired 2).owns = false ∧ 15 < (paired 2).panel.tiles.length := by decide +kernel

def pairCmd (a : Nat) : Cmd := cmd 0x1502 0 [a]

/-- A standby side that is ready. -/
def standby : State := (paired 2).modPair (fun p => { p with agree := true, partnerDigest := (paired 2).pairDigest })

theorem witness_Ownership_commands :
    (AtHand (.pairCtrl (pairCmd 3)) (paired 1) ∧ (pairCmd 3).okBits 1 0xFF = true ∧ (pairCmd 3).f 1 7 0 = 3) ∧
    (AtHand (.pairCtrl (pairCmd 2)) (paired 1) ∧ (pairCmd 2).okBits 1 0xFF = true ∧ (pairCmd 2).f 1 7 0 = 2 ∧ (paired 1).pair.partnerReady = true ∧
      (paired 1).pair.role ≠ 3 ∧ (paired 1).pair.switch = none ∧ (paired 1).owns = true) := by
  repeat' apply And.intro
  all_goals first | decide +kernel | rfl | exact atHand_of_handy (by decide +kernel)

theorem witness_Ownership_events :
    (standby.pair.xlink = 2 ∧ standby.pair.role = 2 ∧ (standby.modPair (fun p => { p with epochSeen := Nat.max p.epochSeen 5 })).readyNow = true ∧
      standby.pair.switch = none ∧ (paired 2).readyNow = false) ∧
    (let s := (paired 0).modPair (fun p => { p with xlink := 0 });
      s.pair.role = 0 ∧ s.dev.state.joins = true ∧ s.pair.xlink ≠ 2 ∧ s.pair.yielded = false ∧
      (s.modPair (fun p => { p with joinExpired := true })).pair.joinExpired = true ∧ (s.modPair (fun p => { p with role := 2 })).pair.role = 2) ∧
    (let s := ((paired 2).modPair (fun p => { p with xlink := 0 })).modPort 15 (fun p => { p with state := 5, owner := 2 });
      s.pair.xlink ≠ 2 ∧ s.pair.yielded = false ∧ s.dev.state.joins = true ∧ s.link.ports.any (fun p => p.state == 5 && p.owner != 0) = true) ∧
    (let s := ({ (paired 1).pset 0x15000004 1 with dev := { ready.dev with pairCfg := true, state := .blanket } } : State).modPair (fun p => { p with rankAt := some 7 });
      s.pget 0x15000004 = 1 ∧ s.pair.switch = none ∧ s.pair.rankAt = some 7 ∧ s.pair.role = 1 ∧ s.pair.partnerReady = true ∧
      stateRank s.dev.state.code < stateRank s.pair.partnerState) ∧
    (let w : Switch := { kind := 1, t0 := 0, toUs := true, stage := 1, bound := some 100 };
      let s := (paired 2).modPair (fun p => { p with switch := some w });
      s.pair.switch = some w ∧ w.bound = some 100 ∧ w.toUs = true ∧ w.stage = 1) := by decide +kernel
/-! ### Witnesses: scenes and their packets -/

def openCmd : Cmd := cmd 0x0301 0 [2 ^ 112 + 2 ^ 104 + 64 * 2 ^ 80 + 64 * 2 ^ 64]
def submitCmd : Cmd := cmd 0x0302 sceneObj [0x1000, 16]
def closeCmd : Cmd := cmd 0x0303 sceneObj [1]
def readCarrier : Carrier := { len := 16, off := 16, job := some 3 }

theorem witness_SceneCommands_commands :
    (AtHand (.sceneOpen openCmd) (withMem ready) ∧ openCmd.okBits 1 (mask 127 32) = true ∧ openCmd.f 1 127 120 ≤ 1 ∧ openCmd.f 1 119 112 = 1 ∧
      openCmd.f 1 111 104 = 1 ∧ openCmd.f 1 103 96 = 0 ∧ openCmd.f 1 63 32 = 0 ∧ openCmd.f 1 95 80 = 64 ∧ openCmd.f 1 79 64 = 64 ∧
      (withMem ready).scene? 0 = none ∧
      sceneNeed (openCmd.f 1 119 112) (openCmd.f 1 111 104) (openCmd.f 1 95 80) (openCmd.f 1 79 64) 0 0 0 ≤ (withMem ready).freeBaskets ∧
      pairsFit ((withMem ready).pkgFree (withMem ready).usage) 1 = true) ∧
    (AtHand (.sceneSubmit submitCmd) stocked ∧ stocked.sceneOf submitCmd.object.toNat = some scene0 ∧ submitCmd.okBits 1 (mask 63 0) = true ∧
      submitCmd.okBits 2 (mask 31 0) = true ∧ submitCmd.f 1 3 0 = 0 ∧ submitCmd.f 2 31 0 = 16 ∧ scene0.source = 0 ∧ scene0.state = 0 ∧
      countP (fun (j : Job) => j.submits scene0.obj) stocked.host.jobs < 256) ∧
    (AtHand (.sceneClose closeCmd) stocked ∧ stocked.sceneOf closeCmd.object.toNat = some scene0 ∧ closeCmd.okBits 1 1 = true ∧
      closeCmd.f 1 0 0 = 1 ∧ scene0.state ≠ 2) := by
  repeat' apply And.intro
  all_goals first | decide +kernel | rfl | exact atHand_of_handy (by decide +kernel)

theorem witness_SceneCommands_events :
    (let x : Scene := { scene0 with carriers := [readCarrier] }; (withScene ready x).scene? 0 = some x ∧ x.carriers = [readCarrier] ∧
      readCarrier.job = some 3 ∧ readCarrier.len ≤ readCarrier.off) ∧
    (let x : Scene := { scene0 with drainJob := some 3, state := 1 }; (withScene ready x).scene? 0 = some x ∧ x.drainJob = some 3 ∧
      x.state = 1 ∧ x.carriers = [] ∧ x.waiting = [] ∧ x.queue = []) ∧
    (let x : Scene := { scene0 with heard := true }; (withScene ready x).scene? 0 = some x ∧ x.state = 0 ∧ x.heard = true ∧ x.silent = false) := by
  decide +kernel

/-- A scene that reads a carrier, in a sequence of one anchor, with and without an open frame 5. -/
def seqWord : Nat := 2 ^ 96 + 2 ^ 88 + 2 ^ 80 + 2 ^ 72 + 2 ^ 64 + 2 ^ 32
def carried : Scene := { scene0 with carriers := [{ len := 4096, job := some 3 }] }
def framePkt (type index : Nat) (ws : List Nat) : Pkt :=
  pktOf type 0 5 index (ws.flatMap (leBytes 16))
def seqNow : SeqParams := seqOf (framePkt 8 0 [seqWord])
def inSeq : Scene := { carried with seq := some seqNow, first := some 5 }
def cam0 : CamEnt := { n := 0, cam := { px := 0, py := 0, pz := 0, qw := 2 ^ 30, qx := 0, qy := 0, qz := 0, fx := 0x10000, fy := 0x10000, cx := 0, cy := 0 } }
def table0 : TableEnt := { n := 0, layers := [{ w := 64, h := 64, scale := 0, bits := 8, emptyZero := false, near := 1, far := 0 }] }
def inOpen : Scene :=
  { inSeq with first := none, last := 5, cams := [cam0], tables := [table0], queue := [{ num := 5, pts := none, same := false, held := 0, seq := seqNow }] }

theorem witness_PacketChecks :
    let s := withScene ready carried
    let k : Carrier := { len := 4096, job := some 3 }
    let p : Pkt := { pkt 9 0 with header := (pkt 9 0).header ^^^ (3#128 <<< 112) }
    let q : Pkt := { pkt 9 0 with header := (pkt 9 0).header ^^^ 1 }
    (NextOf p s k ∧ p.lost k = some 2) ∧ NextOf q s k ∧ q.lost k = none ∧ (pktForm q.type).framed q = some 1 :=
  ⟨⟨⟨carried, rfl, by decide +kernel, .inl rfl⟩, by decide +kernel⟩, ⟨carried, rfl, by decide +kernel, .inl rfl⟩, by decide +kernel, by decide +kernel⟩

/-- A packet passes the checks, as a check that evaluates: what holds of its scene then. -/
def passesWith (p : Pkt) (s : State) (f : Scene → Bool) : Bool :=
  match s.scene? p.slot with
  | none => false
  | some y =>
    match y.carrier with
    | none => false
    | some k => y.waiting.isEmpty && (p.lost k).isNone && ((pktForm p.type).framed p).isNone &&
      match (heard p s).scene? p.slot with
      | none => false
      | some x => (pktForm p.type).inRange x p && f x

theorem passes_of {p : Pkt} {s : State} {f : Scene → Bool} (h : passesWith p s f = true) : ∃ x, Passes p s x ∧ f x = true := by
  unfold passesWith at h
  split at h
  · cases h
  rename_i y hy
  split at h
  · cases h
  rename_i k hk
  simp only [Bool.and_eq_true, List.isEmpty_iff, Option.isNone_iff_eq_none] at h
  obtain ⟨⟨⟨h1, h2⟩, h3⟩, h4⟩ := h
  split at h4
  · cases h4
  rename_i x hx
  simp only [Bool.and_eq_true] at h4
  exact ⟨x, ⟨k, ⟨y, hy, hk, .inl h1⟩, h2, h3, hx, h4.1⟩, h4.2⟩

/-- The open frame of a scene has the packet's FRAME, and no access unit of anchor 0. -/
def opened (p : Pkt) (x : Scene) : Bool :=
  x.seq.isSome && match x.openFrame with
    | some f => p.frame.toNat == f.num && f.aus.isEmpty && !bit f.held 0
    | none => false

theorem witness_ScenePackets_sequence :
    (∃ x, Passes (framePkt 8 0 [seqWord]) (withScene ready inSeq) x ∧
      decide (x.openFrame = none ∧ x.seq.map (·.raw) = some ((framePkt 8 0 [seqWord]).w 1)) = true) ∧
    (∃ x, Passes (framePkt 8 0 [seqWord]) (withScene ready carried) x ∧
      decide (x.openFrame = none ∧ x.seq.map (·.raw) ≠ some ((framePkt 8 0 [seqWord]).w 1)) = true) ∧
    (∃ x, Passes (framePkt 1 0 [0, 0]) (withScene ready inSeq) x ∧
      decide (x.seq = some seqNow ∧ x.first = some 5 ∧ (framePkt 1 0 [0, 0]).f 1 127 48 = 0 ∧ x.queue.length < 4) = true) ∧
    (∃ x, Passes (framePkt 9 0 []) (withScene ready inSeq) x ∧ decide (x.openFrame = none) = true) := by
  repeat' apply And.intro
  all_goals exact passes_of (by decide +kernel)

/-- A KEEPALIVE with the open frame's FRAME, and one with another. -/
theorem witness_ScenePackets_alive :
    (∃ x, Passes (framePkt 9 0 []) (withScene ready inOpen) x ∧ opened (framePkt 9 0 []) x = true) ∧
    (∃ x, Passes (pkt 9 0) (withScene ready inOpen) x ∧ x.openFrame.any (fun f => (pkt 9 0).frame.toNat != f.num) = true) := by
  repeat' apply And.intro
  all_goals exact passes_of (by decide +kernel)

def camPkt : Pkt := framePkt 2 0 [0, 2 ^ 30 * 2 ^ 96, 0x10000 * 2 ^ 96 + 0x10000 * 2 ^ 64]
def tablePkt : Pkt := framePkt 5 0 [2 ^ 120, 64 * 2 ^ 112 + 64 * 2 ^ 96 + 8 * 2 ^ 80 + 2 ^ 32]
def ovlPkt : Pkt := framePkt 6 0 [16 * 2 ^ 112 + 16 * 2 ^ 96, 0x400 * 2 ^ 48, 0]

theorem witness_ScenePackets_frame :
    (∃ x, Passes camPkt (withScene ready inOpen) x ∧ opened camPkt x = true) ∧
    (∃ x, Passes tablePkt (withScene ready inOpen) x ∧ opened tablePkt x = true) ∧
    (∀ kind, kind < 2 → ∃ x, Passes (framePkt (3 + kind) 0 [1]) (withScene ready inOpen) x ∧
      (opened (framePkt (3 + kind) 0 [1]) x && (x.cam? 0).isSome && (x.table? 0).any (fun l => decide (0 < l.length))) = true) ∧
    (∃ x, Passes ovlPkt (withScene ready inOpen) x ∧ opened ovlPkt x = true) ∧
    (∃ x, Passes (framePkt 7 0 []) (withScene ready inOpen) x ∧ opened (framePkt 7 0 []) x = true) ∧
    (∃ x, Passes (framePkt 10 0 [0, 0]) (withScene ready inOpen) x ∧ (opened (framePkt 10 0 [0, 0]) x && decide (x.cues.length < 64)) = true) := by
  repeat' apply And.intro
  all_goals first
    | exact passes_of (by decide +kernel)
    | intro kind h
      have : kind = 0 ∨ kind = 1 := by omega
      rcases this with rfl | rfl <;> exact passes_of (by decide +kernel)
/-! ### Witnesses: decoding, ray tiles, placement, compression jobs -/

def auItem : AuItem := { kind := 0, frame := 5, seq := seqNow, ent := none }
def runAu : RunAu := { item := auItem, info := auInfo, sets := some mainSets, t0 := 0 }
def decoding (x : DStream) : State := let s := withScene ready scene0; { s with dec := { s.dec with streams := [x] } }
def filed : DStream := { id := dec0, queue := [auItem] }
def coding : DStream := { id := dec0, running := some runAu, team := [23] }
/-- Core 23 has been reset n times within the last second. -/
def resetBefore (n : Nat) : State :=
  let s := decoding coding
  { s with dec := { s.dec with cores := updAt s.dec.cores 23 (fun c => { c with resets := List.replicate n 0 }) } }

theorem witness_AccessUnits_starts :
    (let s := decoding filed; let x := (filed.take auItem).takeSets auInfo;
      s.stream? dec0 = some filed ∧ filed.queue = auItem :: [] ∧ auItem.kind = 0 ∧ filed.running = none ∧
      (∀ y ∈ s.dec.streams, y.queued = none) ∧ s.decodes = true ∧ coreNums.any s.coreOk = true ∧ s.auFate x auItem auInfo = .decodes mainSets ∧
      s.formsTeam filed auInfo.rap mainSets = true ∧ s.coreTurn dec0 = true) ∧
    (let x := filed.takeSets auInfo; let s := decoding x;
      s.stream? dec0 = some x ∧ auInfo.slices = true ∧ auInfo.rap = true ∧ x.setsOf auInfo.sets = some mainSets ∧
      mainSets.bad (auItem.codec 0) = none ∧ s.place.cut.contains ((s.scene? dec0.slot).elim 0 (·.obj)) = false) := by decide +kernel

theorem witness_AccessUnits_ends :
    (let s := resetBefore 1; s.stream? dec0 = some coding ∧ coding.running = some runAu ∧ coding.queue = [] ∧ coding.queued = none ∧
      coding.team.contains 23 = true ∧ 23 < s.dec.cores.length ∧ (recentResets s.now (s.dec.cores.getD 23 {}).resets).length < 3) ∧
    (let s := resetBefore 2; s.stream? dec0 = some coding ∧ 3 ≤ (recentResets s.now (s.dec.cores.getD 23 {}).resets).length) := by decide +kernel

def rtile : RTile := { frame := 1, tile := 1, sf := 0, by_ := 0, tx := 59 }
def started : RTile := { rtile with started := true }
def rband : Band := { frame := 1, tile := 1, sf := 0, by_ := 0, need := 0 }
/-- Cluster 47 with seven tiles dispatched, and lists of its own or of cluster 0. -/
def raying (own other : List RTile) (disp : Nat) : State :=
  let s := { synthesising fix0 with tim := { ready.tim with sf := 0 } }
  let s := (s.modCluster 47 (fun c => { c with list := own, disp := List.replicate disp started })).modCluster 0 (fun c => { c with list := other })
  { s with synth := { s.synth with bands := [rband] } }

/-- The domain of clusters 44 to 47 is on. -/
def powered (s : State) : State := s.modDomain 17 (fun d => { d with st := 2 })

def lay0 : LayTile := { tile := 1, col := 0, row := 0, w := 3840, h := 2160, nu := 4, nw := 4 }
def laid : FrameFix := { fix0 with layout := [lay0] }

theorem witness_RayTiles_clusters :
    (let s := powered (raying [rtile] [] 7); s.dev.state.full = true ∧ s.clusterPool.contains 47 = true ∧ (s.cluster 47).disp.length < 8 ∧
      s.bandHeld rtile = true ∧ (s.domain (6 + 47 / 4)).st = 2 ∧ (s.cluster 47).list = rtile :: []) ∧
    (let s := powered ((raying [] [rtile] 7).pset 0x07000003 1); (s.cluster 47).list = [] ∧ s.pget 0x07000003 = 1 ∧ s.richest 47 = some 0 ∧
      earliest (s.cluster 0).list = some rtile ∧ s.bandHeld rtile = true ∧ s.clusterPool.contains 47 = true ∧ s.dev.state.full = true ∧
      (s.cluster 47).disp.length < 8 ∧ (s.domain (6 + 47 / 4)).st = 2) ∧
    (let s := (raying [] [] 1).advance 19999; (s.cluster 47).disp = started :: [] ∧ started.started = true ∧ s.now < started.t0 + 20000) := by
  decide +kernel

theorem witness_RayTiles_bands :
    (let s := raying [] [] 0; s.dev.state.full = true ∧ s.synth.cur = some fix0 ∧ fix0.blanket = false ∧
      fix0.geom = some (parseGeom geomBytes) ∧ fix0.states[s.synth.checks / 3]? = some 0 ∧ s.unretired fix0.frame 0 = []) ∧
    (let s := raying [] [] 0;
      let s := { s with synth := { s.synth with cur := some laid } };
      s.synth.bands.find? (fun (b : Band) => b.tile == 1) = some rband ∧ s.fixOf rband.frame = some laid ∧
      laid.layout.find? (fun (t : LayTile) => t.tile == 1) = some lay0 ∧ rband.need ≤ rband.got.length ∧ s.dropsRows rband = true ∧
      (s.scanOf 1).used + 8 * (lay0.w / 8) * (formB laid.code / 8) ≤ laid.shareBytes) := by decide +kernel

def hintCmd : Cmd := cmd 0x0703 surfObj [3 * 2 ^ 120 + 2 * 2 ^ 112 + 2 ^ 104]
def moving : Basket := { index := 4, cls := 1, chans := [0], moveTo := some 31, moveFrom := 0 }
def marking (ch : Nat) : State := { withMem ready with place := { ready.place with marked := [ch] } }
def reserving (b : Basket) : State := { withMem ready with place := { ready.place with reserved := [b] } }
/-- A critical basket with copies on channels 0 and 4, and an object that has it. -/
def paired2 : Basket := { index := 4, cls := 0, chans := [0, 4] }
def leaving : Basket := { index := 4, cls := 1, chans := [0], oldSources := [{ chan := 31, epoch := 0 }], oldReps := [{ chan := 30, epoch := 0 }] }

theorem witness_Placement_copies :
    (AtHand (.placeHint hintCmd) stocked ∧ (stocked.obj? hintCmd.object.toNat).map (·.cls) = some 2 ∧ hintCmd.okBits 1 (mask 127 104) = true ∧
      hintCmd.f 1 127 120 = 3 ∧ hintCmd.f 1 119 112 = 2 ∧ hintCmd.f 1 111 104 = 1) ∧
    (let s := reserving moving; s.basket? 0 4 = some moving ∧ moving.copying = true ∧ s.copyRate moving ≠ 0 ∧ s.copyTurn moving = true) ∧
    ([(0, 31), (3, 8)].all (fun x => decide ((reserving paired2).basket? 0 4 = some paired2) && (reserving paired2).copyAllowed 0 paired2 x.1 x.2)) = true ∧
    ((reserving paired2).pget 0x07000001 ≠ 0 ∧ (reserving paired2).place.restoration = none ∧
      ((reserving paired2).objs.objs.map (·.id)).Nodup) := by
  repeat' apply And.intro
  all_goals first | decide +kernel | rfl | exact atHand_of_handy (by decide +kernel)

/-- Epoch 1 with and without an access unit of epoch 0 on a stream that the basket of scene 0 serves. -/
def sceneHeld (old : Nat) : State :=
  let s := withObjs (decoding { coding with running := some { runAu with epoch := old } })
    [{ id := sceneObj, cls := 1, size := 0, data := [], creating := false, baskets := [{ leaving with item := 1, oldSources := [{ chan := 31, epoch := 1 }] }] }]
  { s with place := { s.place with epoch := 1 } }

theorem witness_Placement_releases :
    (ready.nextBoundary.any (fun b => decide (b ≤ ready.place.epochAt + 1000000)) = false ∧
      (withTim ready (fun t => { t with on := true })).nextBoundary.any (fun b => decide (b ≤ ready.place.epochAt + 1000000)) = true) ∧
    (let s := reserving leaving; s.basket? 0 4 = some leaving ∧
      ∀ k, k ∈ leaving.oldSources ∨ k ∈ leaving.oldReps → s.olderOps 0 leaving k.epoch = false) ∧
    (((sceneHeld 0).basket? sceneObj 4).map (fun b => b.oldSources.all (fun k => (sceneHeld 0).olderOps sceneObj b k.epoch)) = some true ∧
      ((sceneHeld 1).basket? sceneObj 4).map (fun b => b.oldSources.any (fun k => (sceneHeld 1).olderOps sceneObj b k.epoch)) = some false) ∧
    ((marking 31).place.marked.contains 31 = true ∧ (marking 31).place.marked.contains 0 = false) ∧
    (let s := fun b : Basket => { reserving b with place := { (reserving b).place with restoration := some { t0 := 0, latest := 31 } } };
      (s paired2).place.restoration.isSome = true ∧ (s paired2).critical.any (fun b => b.chans.length == 1) = false ∧
      (s { paired2 with chans := [0] }).critical.any (fun b => b.chans.length == 1) = true) := by
  repeat' apply And.intro
  all_goals first
    | decide +kernel
    | intro k h
      simp only [leaving, List.mem_singleton, or_comm] at h
      rcases h with rfl | rfl <;> decide +kernel

def jobCmd : Cmd := cmd 0x0901 0 [2 ^ 120, 0x1000, 0x2000, 96 * 2 ^ 96 + blockImageSize 8 2 0 * 2 ^ 64 + 8 * 2 ^ 48 + 2 * 2 ^ 32]
def jobObj : Nat := 8 * 2 ^ 56 + 1
def cjob : CmpJob :=
  { obj := jobObj, op := 1, code := 0, checkSrc := false, checkDst := false, srcCrc := 0, dstCrc := 0, src := 0x1000, dst := 0x2000
    srcLen := 96, dstLen := blockImageSize 8 2 0, w := 8, h := 2 }
def compressing (j : CmpJob) : State :=
  { withObjs ready [{ id := jobObj, cls := 8, size := 64, data := [], creating := false }] with comp := { ready.comp with jobs := [j] } }
def cancelCmd : Cmd := cmd 0x0902 jobObj []

theorem witness_CodecJobs :
    (AtHand (.cmpJob jobCmd) (withMem ready) ∧ cmpArgsOk jobCmd = true ∧
      cmpExact (jobCmd.f 1 127 120) (jobCmd.f 1 119 112) (jobCmd.f 4 63 48) (jobCmd.f 4 47 32) = jobCmd.f 4 95 64 ∧
      planNeed (plan 0 (ceilDiv (jobCmd.f 4 95 64) basketBytes) 2 0 0 0) ≤ (withMem ready).freeBaskets ∧ (withMem ready).sagSeen < 2 ∧
      ((withMem ready).domain 28).failed = false) ∧
    (AtHand (.cmpCancel cancelCmd) (compressing cjob) ∧ (compressing cjob).dev.state.run = true ∧
      (compressing cjob).comp.jobs.find? (fun j => j.obj == cancelCmd.object.toNat) = some cjob) ∧
    (let s := (compressing cjob).modDomain 28 (fun d => { d with st := 2 });
      let src : List Byte := List.replicate 96 7;
      s.comp.jobs = cjob :: [] ∧ cjob.out = none ∧ s.sagSeen < 2 ∧ (s.domain 28).st = 2 ∧ src.length = cjob.srcLen ∧ cjob.checkSrc = false ∧ (cjob.run src).ok = true ∧
      (cjob.run src).bytes.length ≤ cjob.dstLen) ∧
    (let j := { cjob with out := some [1] }; (compressing j).comp.jobs = j :: [] ∧ j.out = some [1]) := by
  repeat' apply And.intro
  all_goals first | decide +kernel | rfl | exact atHand_of_handy (by decide +kernel)
/-! ### Witnesses: panel and monitor timing, tile links -/

/-- The grid runs, with the next boundary and the steering states given. -/
def grid (nextK sCount : Nat) : State := withTim ready (fun t => { t with on := true, begun := true, nextK := nextK, sCount := sCount })
def changing (stage : Nat) : ModeChange := { f0 := 3, stage := stage, k0 := 1 }
def row0 : RowEnt := { frame := 1, sf := 0, row := 0, rcrc := 0, code := 0, blks := [] }

/-- The grid with tile 15 ACTIVE, owned, showing content, and one row of the present subframe in its share. -/
def scanning : State :=
  let s := withTim (((grid 1 1).modPort 15 (fun p => { p with state := 5, own := true })).modTile 15 (fun d => { d with showSf := true, mode := 4 }))
    (fun t => { t with scan := [{ tile := 15, share := [row0] }] })
  { s with synth := { s.synth with cur := some { fix0 with frame := 1 } } }

theorem witness_PanelTiming_boundary :
    (let s := grid 1 1; s.tim.on = true ∧ s.tim.change = none ∧ s.tim.selected ≠ some s.tim.nextFrame ∧ s.tim.pairing = false ∧
      s.panel.enterStage < 2 ∧ s.tim.begun = true ∧ s.tim.cutDone = false ∧ s.tim.keepDone = false ∧
      s.tim.boundaryNs (s.tim.nextK - 1) + 20000000 < s.tim.boundaryNs s.tim.nextK) ∧
    (let s := withTim (grid 1 2) (fun t => { t with pairing := true, second := true }); s.tim.selected ≠ some s.tim.nextFrame ∧ s.tim.second = true) ∧
    (let s := grid 1 2; s.tim.begun = true ∧ s.panel.enterStage = 0 ∧ s.instrument = false ∧ s.tim.nextK % s.tim.sCount ≠ 0) ∧
    (scanning.rowsOpen 15 = true ∧
      (scanning.scanOf 15).share.find? (fun r => some r.frame == scanning.synth.cur.map (·.frame) && r.sf == scanning.tim.sf) = some row0) ∧
    (let s := withTim (grid 3 1) (fun t => { t with change := some (changing 2) }); s.tim.change = some (changing 2) ∧ (changing 2).stage = 2) ∧
    (let s := withTim (grid 3 1) (fun t => { t with change := some (changing 3) }); s.tim.change = some (changing 3) ∧ 3 ≤ (changing 3).stage ∧
      (changing 3).tn = none ∧ ({ changing 3 with tn := some 9 } : ModeChange).tn = some 9) := by
  decide +kernel

/-- The monitor output is enabled, its domain on, a sink present, its link in a state. -/
def monitoring (link : Nat) : State :=
  (((withTim ready (fun t => { t with monState := 1, monBegun := true })).pset 0x0B000013 1).modDomain 31 (fun d => { d with st := 2 })).modMon (fun m =>
    { m with link := link, hpd := true })

theorem witness_MonitorOutput :
    (let s := (monitoring 2).modMon (fun m => { m with intended := some 5 });
      s.tim.monState = 1 ∧ s.par.commit = none ∧ s.enc.mon.link = 2 ∧ s.tim.monBegun = true ∧ s.enc.mon.intended = some 5 ∧
      s.enc.mon.hpd = true ∧ s.monWanted = true) ∧
    (let s := (monitoring 1).modMon (fun m => { m with sinkMax := 3 });
      s.enc.mon.link = 1 ∧ s.pget 0x0F000002 ≤ s.enc.mon.sinkMax ∧ (s.advance 100000000).now ≤ s.enc.mon.trainAt + 100000000 ∧
      s.pget 0x0F000002 < 4 ∧ s.enc.mon.sinkMax < 4 ∧ s.enc.mon.trainAt + 100000000 < (s.advance 100000001).now) ∧
    (AtHand (.monRetrain (cmd 0x0F02 0 [])) (monitoring 2) ∧ (monitoring 2).pget 0x0B000013 = 1 ∧ (monitoring 2).sagSeen < 2 ∧
      ((monitoring 2).domain 31).st = 2) := by
  repeat' apply And.intro
  all_goals first | decide +kernel | rfl | exact atHand_of_handy (by decide +kernel)

/-- Port 15 in a state, with its tile's supply on. -/
def linkIs (st : Nat) : State := (ready.modPort 15 (fun p => { p with state := st, own := true })).modTile 15 (fun d => { d with powered := true })

/-- A packet from a tile with two payload words, and an ACK. -/
def fromTile (kind w1 w2 : Nat) : Nat := linkHdr kind [at' 63 32 (crc32c (leBytes 16 w1 ++ leBytes 16 w2))]
def capsWord : Nat := 2 ^ 92 + 2 ^ 88 + 2 ^ 84 + 2 ^ 80
def ackWord : Nat := linkHdr 0x22 [at' 119 112 (7 : Nat), at' 111 104 (0x15 : Nat), at' 103 96 (4 : Nat)]
def wait7 (why : Nat) : AckWait := { kind := 0x15, tag := 7, op := 2, why := why, due := 6000000 }
def awaited (why : Nat) : State := (linkIs 5).modPort 15 (fun p => { p with acks := [wait7 why] })

/-- A block of lane 0 whose sync header is invalid, and one whose CTRL KIND starts no packet to the device. -/
def badBlock : LinkBlock := { lane := 0, pos := 1, sync := 0, wire := 7 }
def strayCtrl : LinkBlock := { lane := 0, pos := 1, sync := 12, wire := scrambleMask 0 1 ^^^ linkHdr 0x30 [] }
/-- Port 15 after the first unit and the first two units of a CAPS reply. -/
def begunRx (n : Nat) : Port := { state := 5, rx := [fromTile 0x20 capsWord 0, capsWord].take n }

theorem witness_LinkPackets_blocks :
    (((linkIs 4).port 15).state = 4 ∧ ((linkIs 5).port 15).state = 5) ∧
    (badBlock.pos ≠ 0 ∧ badBlock.sync ≠ 3 ∧ badBlock.sync ≠ 12 ∧ (begunRx 0).rx = [] ∧ (begunRx 1).rx = [fromTile 0x20 capsWord 0] ∧
      (begunRx 2).rx = [fromTile 0x20 capsWord 0, capsWord] ∧ backUnits (bits (fromTile 0x20 capsWord 0) 127 120) = some 2) ∧
    (strayCtrl.pos ≠ 0 ∧ strayCtrl.sync = 12 ∧ backUnits (bits (linkPayload strayCtrl) 127 120) = none) := by decide +kernel

theorem witness_LinkPackets_packets :
    (packetOk (fromTile 0x20 capsWord 0) capsWord 0 = true ∧ bits (fromTile 0x20 capsWord 0) 127 120 = 0x20 ∧
      (parseCaps (fromTile 0x20 capsWord 0) capsWord 0).ok = true ∧ packetOk (fromTile 0x20 capsWord 0) capsWord 1 = false) ∧
    (let w1 := 2 * 2 ^ 52 + 6 * 2 ^ 48; packetOk (fromTile 0x21 w1 0) w1 0 = true ∧ bits (fromTile 0x21 w1 0) 127 120 = 0x21 ∧
      bits (fromTile 0x21 w1 0) 119 112 ≤ 1 ∧ bits w1 55 52 = 2 ∧ bits w1 51 48 = 6 ∧ packetOk (fromTile 0x21 w1 0) w1 1 = false) ∧
    (hdrOk (ackWord ^^^ 1) = false ∧ bits (ackWord ^^^ 1) 127 120 = 0x22 ∧ hdrOk ackWord = true ∧ bits ackWord 127 120 = 0x22 ∧
      bits ackWord 103 96 = 4 ∧
      ((awaited 11).port 15).acks.find? (fun a => a.tag == bits ackWord 119 112 && a.kind == bits ackWord 111 104) = some (wait7 11)) ∧
    firstDue (((awaited 11).port 15).acks.filter (fun a => a.why != 6)) = some (wait7 11) ∧
    ((awaited 6).port 15).acks.find? (fun a => a.why == 6) = some (wait7 6) := by decide +kernel

/-- Port 15 ACTIVE, its lane 0 with n invalid sync headers among its last blocks and in the last second. -/
def erring (n : Nat) : State := (linkIs 5).modPort 15 (fun p => { p with lanes := updAt p.lanes 0 (fun _ => { bad := List.replicate n true, errs := List.replicate n 0 }) })
/-- What one more such block leaves. -/
def afterBad (n : Nat) : Port × List (List Nat) := [badBlock].foldl (Port.block 0) ((erring n).port 15, [])

theorem witness_PortStates :
    (ready.dev.state ≠ .parasol ∧ ((linkIs 1).port 15).state = 1 ∧ ((linkIs 1).tile 15).powered = true ∧ ((linkIs 1).port 15).waiting = false) ∧
    (let s := (linkIs 1).modPort 15 (fun p => { p with waiting := true }); (s.port 15).state = 1 ∧ (s.port 15).waiting = true ∧ (s.tile 15).powered = true) ∧
    (((linkIs 2).port 15).state = 2 ∧ (linkIs 2).expired 15 = false ∧ ((linkIs 2).pset 0x0A000004 1).pget 0x0A000004 ≠ 0 ∧
      slipOffset [{ valid := 4090, tail := true }] 0 = some 0 ∧ slipOffset [{ valid := 4089, tail := true }] 0 = none) ∧
    (((linkIs 3).port 15).state = 3 ∧ (linkIs 3).expired 15 = false) ∧
    (((linkIs 4).port 15).state ≠ 0 ∧ ((linkIs 4).port 15).limit = some 10000000) ∧
    (((linkIs 5).port 15).state = 5 ∧ (afterBad 6).2 = [] ∧ (afterBad 6).1.lanes.any RxLane.lost = false ∧
      (afterBad 7).1.lanes.any RxLane.lost = true ∧ ((erring 1).pset 0x0A000005 1).pget 0x0A000005 ≠ 0 ∧
      ((afterBad 1).1.lanes.any (fun l => decide (1 < l.errs.length))) = true) ∧
    (let s := (linkIs 6).modPort 15 (fun p => { p with wakeL1 := true }); (s.port 15).state = 6 ∧ (s.port 15).wakeL1 = true) := by decide +kernel

def ctrlCmd (op : Nat) : Cmd := cmd 0x0A01 0 [op * 2 ^ 120 + 2 ^ 15]
def eyeCmd : Cmd := cmd 0x0A03 0 [15 * 2 ^ 120 + 3 * 2 ^ 112 + 20 * 2 ^ 104 + 0xE0 * 2 ^ 88 + 31 * 2 ^ 80 + 2 ^ 72 + 2 ^ 48, 0x1000]
def eye0 : EyeScan := { job := 3, tile := 15, lane := 3, points := 1, dwell := 20, dest := 0x1000, t0 := 0 }

theorem witness_TileBringUp :
    (let s := (readyIn .boot).pset 0x0C00000D 0x8000; s.dev.state = .boot ∧
      s.enabledTiles.find? (fun t => (s.port t).state == 0 && !(s.domain (40 + t / 4)).failed && !((s.tile t).powered && decide (0 < (s.tile t).rise))) = some 15 ∧
      15 < s.panel.tiles.length ∧ 15 < s.link.ports.length) ∧
    (let s := { linkIs 1 with dev := { ready.dev with state := .boot } }; s.dev.state = .boot ∧ (s.tile 15).powered = true ∧ (s.port 15).state ≠ 5) ∧
    (let s := (linkIs 5).modTile 15 (fun d => { d with mode := 7 }); (s.tile 15).mode = 7 ∧ s.ownActive 15 = true ∧ s.mayReconcile = true) ∧
    (AtHand (.linkCtrl (ctrlCmd 3)) (linkIs 5) ∧ (linkIs 5).dev.state ≠ .safe ∧ (linkIs 5).dev.state ≠ .shutdown ∧
      (ctrlCmd 3).okBits 1 (mask 127 120 + mask 15 0) = true ∧ (ctrlCmd 3).f 1 127 120 = 3 ∧ (ctrlCmd 3).f 1 15 0 ≠ 0) ∧
    (AtHand (.eyeScan eyeCmd) (linkIs 5) ∧ eyeArgsOk eyeCmd = true ∧ ((linkIs 5).port (eyeCmd.f 1 127 120)).state = 5 ∧ (linkIs 5).link.eye = none) ∧
    (let s := withJobs (linkIs 5) [job 3 1 .eyeScan]; ({ s with link := { s.link with eye := some eye0 } } : State).link.eye = some eye0) := by
  repeat' apply And.intro
  all_goals first | decide +kernel | rfl | exact atHand_of_handy (by decide +kernel)
/-! ### Witnesses: panel drive, encoders, direct window -/

def napping : State := { readyIn .parasol with panel := { ready.panel with enterStage := 3 } }
/-- PARASOL with the geometry of Table 5.15 in force and room for rows. -/
def nappingGeom : State := ({ withMem stocked with dev := { ready.dev with state := .parasol } } : State).pset 0x05000001 geomObj
def powerCmd (op : Nat) : Cmd := cmd 0x0C03 0 [op * 2 ^ 120 + 2 ^ 15]
def regionCmd : Cmd := cmd 0x0C04 0 [15 * 2 ^ 120 + 0 * 2 ^ 112 + 8 * 2 ^ 48 + 2 * 2 ^ 32, 0x1000, blockImageSize 8 2 0]
def region0 : Region :=
  { region := 15, job := 3, tile := 0, code := 0, x := 0, y := 0, w := 8, h := 2, src := 0x1000, srcLen := blockImageSize 8 2 0 }
/-- The block image of a black block row, as BLOCK_ENCODE makes it, and the same with a wrong row CRC. -/
def blackRow : List Byte := (blockEncode 0 8 2 (List.replicate 96 0)).bytes
def wrongRow : List Byte := blackRow.take (blockImageSize 8 2 0 - 1) ++ [BitVec.ofNat 8 ((blackRow.getLastD 0).toNat + 1)]
def rowsOf (src : List Byte) : List (List Nat × Nat) :=
  imageRows region0.code region0.w region0.h (padTo (0 : Byte) region0.srcLen (src.take region0.srcLen))

theorem witness_PanelUnit_commands :
    (AtHand (.parasol (cmd 0x0C02 0 [1])) ready ∧ (cmd 0x0C02 0 [1]).okBits 1 0xFF = true ∧ (cmd 0x0C02 0 [1]).f 1 7 0 = 1 ∧
      ready.dev.state.shows = true) ∧
    (AtHand (.parasol (cmd 0x0C02 0 [2])) napping ∧ (cmd 0x0C02 0 [2]).f 1 7 0 = 2 ∧ napping.dev.state = .parasol ∧ napping.pwr.stage < 5) ∧
    (let s := ready.pset 0x0C00000D 0x8000;
      AtHand (.tilePower (powerCmd 2)) s ∧ s.dev.state.shows = true ∧ (powerCmd 2).okBits 1 (mask 127 120 + mask 15 0) = true ∧
      (powerCmd 2).f 1 127 120 ∈ [1, 2] ∧ (powerCmd 2).f 1 15 0 ≠ 0 ∧
      (∀ t ∈ maskTiles ((powerCmd 2).f 1 15 0), bit (s.pget 0x0C00000D) t = true)) ∧
    (AtHand (.regionUpdate regionCmd) nappingGeom ∧ nappingGeom.dev.state = .parasol ∧ regionArgsOk regionCmd nappingGeom = true ∧
      planNeed (regionPlan nappingGeom.host.nextJob (regionCmd.f 3 31 0)) ≤ nappingGeom.freeBaskets) := by
  repeat' apply And.intro
  all_goals first | decide +kernel | rfl | exact atHand_of_handy (by decide +kernel)

theorem witness_PanelUnit_events :
    (let s : State := { napping with panel := { napping.panel with regions := [region0] } };
      s.panel.regions.find? (fun r => r.region == 15 && r.rows.isNone) = some region0) ∧
    ((rowsOf blackRow).length = 1 ∧ (∀ x ∈ rowsOf blackRow, reconCrc region0.code x.1 = x.2) ∧
      (∃ x ∈ rowsOf wrongRow, reconCrc region0.code x.1 ≠ x.2)) ∧
    (napping.dev.state = .parasol ∧ napping.panel.enterStage = 3 ∧ napping.host.jobs.any (fun j => j.key == .parasolWake) = false) ∧
    (let s : State := { nappingGeom with dev := ready.dev, panel := { ready.panel with nextRow := 538 } };
      s.geom = some (parseGeom geomBytes) ∧ s.dev.state.shows = true ∧ s.dev.state.run = true ∧ s.panel.nextRow + 1 < (parseGeom geomBytes).tileH / 4 ∧
      (parseGeom geomBytes).tileH / 4 ≤ 539 + 1) ∧
    (let s : State := { ready with panel := { ready.panel with rebuild := some {} } }; s.panel.rebuild = some {} ∧ ({} : Rebuild).result = none) := by
  decide +kernel

def ringCmd : Cmd := cmd 0x0E01 0 [2 ^ 120 + 28 * 2 ^ 112 + 0x1000]
def releaseCmd : Cmd := cmd 0x0E02 0 [2 ^ 120 + 64]
def idrCmd : Cmd := cmd 0x0E03 0 [2 ^ 120]
def picture : Coding := { frame := 1, idr := false, tf := 0, slices := 2 }
def encoding (e : EncStream) : State := (withTim ready (fun t => { t with begun := true })).modEnc 1 (fun _ => e)

theorem witness_Encoders_commands :
    (AtHand (.encRing ringCmd) ready ∧ ringCmd.okBits 1 (mask 127 112 + mask 63 0) = true ∧ ringCmd.f 1 127 120 = 1 ∧ ringCmd.f 1 119 112 = 28 ∧
      ringCmd.f 1 11 0 = 0 ∧ ready.encP (ringCmd.f 1 127 120) 1 = 0) ∧
    (let s := encoding { tail := 128, starts := [64] };
      AtHand (.encRelease releaseCmd) s ∧ releaseCmd.okBits 1 (mask 127 120 + mask 31 0) = true ∧ releaseCmd.f 1 127 120 = 1 ∧
      (s.encS (releaseCmd.f 1 127 120)).starts.contains (releaseCmd.f 1 31 0) = true ∧ releaseCmd.f 1 127 120 < s.enc.streams.length) ∧
    (AtHand (.encIdr idrCmd) ready ∧ idrCmd.okBits 1 (mask 127 120) = true ∧ idrCmd.f 1 127 120 = 1) := by
  repeat' apply And.intro
  all_goals first | decide +kernel | rfl | exact atHand_of_handy (by decide +kernel)

/-- Both encode engines are on. -/
def coder (e : EncStream) : State := ((encoding e).modDomain 24 (fun d => { d with st := 2 })).modDomain 25 (fun d => { d with st := 2 })

theorem witness_Encoders_pictures :
    (let s := coder { state := 1, coding := some picture }; (s.encS 1).state = 1 ∧ (s.encS 1).phase = 0 ∧ s.tim.begun = true ∧
      s.encPowered 1 = true ∧ (s.encS 1).coding = some picture) ∧
    (let s := (coder { state := 1, idrNext := false }).pset (encId 1 9) 0; (s.encS 1).state = 1 ∧ (s.encS 1).phase = 0 ∧ s.tim.begun = true ∧
      s.encPowered 1 = true ∧ (s.encS 1).coding = none ∧ (s.encS 1).idrNext = false ∧ s.encP 1 9 = 0) ∧
    (∀ d ∈ [0, 1], let k : Coding := { picture with dropped := d, maxBytes := 1, budget := 1, qpMax := 51 };
      ((coder { state := 1, coding := some k }).encS 1).coding = some k ∧ k.admits ([1] : List Byte).length 51 0 false = true ∧
      k.next + 1 < k.slices ∧ k.admits 1 52 0 false = false) := by decide +kernel

def drawing : State := ready.modG2d (fun g => { g with busy := true })

/-- A FILL of one pixel of host memory: the check passes; without an operation it does not. -/
def filling : State :=
  ready.modG2d (fun g => { g with reg := { g.reg with op := 2, size := 0x00010001, dstLo := 0x1000, dstDesc := 0x80000010 } })

theorem witness_DirectUnits :
    (bit (1 : BitVec 32).toNat 0 = true ∧ (ready.direct.cvu.getD 7 {}).cfgErr = false) ∧ drawing.direct.g2d.busy = true ∧
    (drawing.modDomain 29 (fun d => { d with st := 2 })).direct.g2d.busy = true ∧ ((drawing.modDomain 29 (fun d => { d with st := 2 })).domain 29).st = 2 ∧
    (filling.direct.g2d.busy = false ∧ ((filling.serviceRequest 29).modG2d (fun g => { g with lat := g.reg })).g2dCheck = 0) ∧
    (ready.direct.g2d.busy = false ∧ ((ready.serviceRequest 29).modG2d (fun g => { g with lat := g.reg })).g2dCheck ≠ 0) := by decide +kernel
/-! ### Witnesses: time, network, PTP, ledgers -/

def setCmd : Cmd := cmd 0x1204 0 [2 * 2 ^ 120 + 999999999]
def compareCmd : Cmd := cmd 0x1205 0 [0 * 2 ^ 120 + 7 * 2 ^ 112 + 2 ^ 104 + 1]
def armed7 : State := ready.modCompare 7 (fun _ => { armed := true, base := 0, t := 5 })

def setTb3 : Cmd := cmd 0x1204 0 [3 * 2 ^ 120 + 1]
def setTb0 : Cmd := cmd 0x1204 0 [1]
def hostTb3 : State := ready.pset 0x12000051 3

theorem witness_TimeBases_set :
    (let s := ready.modTb 2 (fun b => { b with running := true }); AtHand (.timeSet setCmd) s ∧
      s.mayTimeSet (setCmd.f 1 127 120) = true ∧ (s.tb (setCmd.f 1 127 120)).running = true) ∧
    (AtHand (.timeSet setTb3) hostTb3 ∧ setTb3.okBits 1 (mask 127 104 + mask 79 0) = true ∧ setTb3.f 1 127 120 = 3 ∧
      timeObjOk setTb3 = true ∧ time80Ns (setTb3.f 1 79 0) = some 1 ∧ hostTb3.mayTimeSet 3 = true) ∧
    (AtHand (.timeSet setTb3) ready ∧ ready.mayTimeSet (setTb3.f 1 127 120) = false) ∧
    (AtHand (.timeSet setTb0) ready ∧ setTb0.f 1 127 120 = 0) := by
  repeat' apply And.intro
  all_goals first | decide +kernel | rfl | exact atHand_of_handy (by decide +kernel)

theorem witness_TimeBases :
    (AtHand (.timeSet setCmd) ready ∧ setCmd.okBits 1 (mask 127 104 + mask 79 0) = true ∧ setCmd.f 1 119 104 = 0 ∧ setCmd.f 1 127 120 ∈ [1, 2] ∧
      timeObjOk setCmd = true ∧ time80Ns (setCmd.f 1 79 0) = some 999999999 ∧ ready.mayTimeSet (setCmd.f 1 127 120) = true ∧
      (ready.tb (setCmd.f 1 127 120)).running = false) ∧
    (AtHand (.timeCompare compareCmd) ready ∧ compareCmd.okBits 1 (mask 127 104 + mask 79 0) = true ∧ compareCmd.f 1 127 120 = 0 ∧
      compareCmd.f 1 119 112 = 7 ∧ compareCmd.f 1 111 104 = 1 ∧ timeObjOk compareCmd = true ∧ time80Ns (compareCmd.f 1 79 0) = some 1 ∧
      ready.baseNs (compareCmd.f 1 127 120) = some 0) ∧
    ((armed7.time.compares.getD 7 {}).armed = true ∧ armed7.baseNs (armed7.time.compares.getD 7 {}).base = some 0) ∧
    ready.dev.state ≠ .off ∧
    (let s := ready.pset 0x12000053 1; bits (s.pget 0x12000053) 7 0 ≠ 0 ∧ s.baseNs (bits (s.pget 0x12000053) 7 0 - 1) = some 0) ∧
    (let s := (ready.pset 0x12000054 1).advance 500000000; s.pget 0x12000054 = 1 ∧
      (s.modTime (fun x => { x with ppsInLast := some 0 })).time.ppsInLast = some 0 ∧ 0 + 500000000 ≤ s.now) ∧
    (ready.pset 0x12000054 1).now < 0 + 500000000 := by
  repeat' apply And.intro
  all_goals first | decide +kernel | rfl | exact atHand_of_handy (by decide +kernel)

def bindCmd : Cmd := cmd 0x1202 0 [15 * 2 ^ 120 + 2 * 2 ^ 112 + 3 * 2 ^ 104 + 63 * 2 ^ 96 + 2 ^ 64 + 2 ^ 48 + 2 ^ 32, 0]
def unbindCmd : Cmd := cmd 0x1202 0 [15 * 2 ^ 120]
def badUnbind : Cmd := cmd 0x1202 0 [15 * 2 ^ 120, 2 ^ 32]
def lostUnit : NetUnit := { num := 9, t0 := 0, frags := [{ off := 0, len := 16 }] }
def flow15 : Flow :=
  { n := 15, op := 1, port := 3, dscp := 0, remoteIp := 0, remotePort := 0, localPort := 7, group := 0, unitMax := 65536, scene := 0, next := some 9
    units := [lostUnit] }
def wired : State :=
  (((ready.modNet 3 (fun x => { x with up := true })).modTime (fun t => { t with flows := [flow15] })).modDomain 45 (fun d => { d with st := 2 })).pset 0x12000130 1
def datagram : Udp := { dst := 0, src := 5, dport := 7, room := true, header := 2 ^ 120, len := 32 }

theorem witness_Network_commands :
    (AtHand (.netFlow bindCmd) ready ∧ bindCmd.f 1 127 120 = 15 ∧ bindCmd.f 1 119 112 = 2 ∧ bindCmd.object.toNat = 0 ∧ flowArgsOk bindCmd = true ∧
      ready.flow? (bindCmd.f 1 127 120) = none ∧
      ready.time.flows.any (fun f => f.port == bindCmd.f 1 111 104 && f.localPort == bindCmd.f 1 47 32) = false) ∧
    (AtHand (.netFlow unbindCmd) wired ∧ unbindCmd.f 1 127 120 = 15 ∧ unbindCmd.f 1 119 112 = 0 ∧ unbindCmd.object.toNat = 0 ∧
      unbindCmd.okBits 2 (mask 31 0) = true ∧ wired.flowEncodes (unbindCmd.f 1 127 120) = false) ∧
    (AtHand (.netFlow badUnbind) wired ∧ badUnbind.f 1 127 120 = 15 ∧ badUnbind.f 1 119 112 = 0 ∧ badUnbind.object.toNat = 0 ∧
      badUnbind.okBits 2 (mask 31 0) = false) := by
  repeat' apply And.intro
  all_goals first | decide +kernel | rfl | exact atHand_of_handy (by decide +kernel)

theorem witness_Network_events :
    (wired.netP 3 0 ≠ 0 ∧ (wired.domain 45).st = 2 ∧ 3 < wired.time.ports.length ∧ (wired.netPort 3).up = true ∧ (ready.netPort 3).up = false) ∧
    (datagram.room = true ∧ datagram.frag = false ∧ datagram.vid = bits (wired.netP 3 3) 11 0 ∧
      ({ datagram with vid := 1 } : Udp).vid ≠ bits (wired.netP 3 3) 11 0 ∧ ({ datagram with frag := true } : Udp).frag = true ∧ wired.time.flows.find? (wired.flowTakes 3 datagram) = some flow15 ∧ ({ datagram with room := false } : Udp).room = false) ∧
    (wired.flow? flow15.n = some flow15 ∧ flow15.unit? lostUnit.num = some lostUnit ∧ lostUnit.gone = false ∧ lostUnit.complete = false ∧
      flow15.raised = false ∧ flow15.cause = 0) := by decide +kernel

/-- Base 2 runs PTP on port 3 in a role and a port state. -/
def ptp (role st : Nat) : State :=
  ((ready.modNet 3 (fun x => { x with up := true })).pset 0x12000002 (2 ^ 24 + 3 * 2 ^ 8 + role)).modTb 2 (fun b => { b with portState := st })
def sync : PtpRx := { portState := 9, gm := 5, master := none, answer := none }

theorem witness_PtpMessages :
    ((ptp 0 4).ptpOn 2 = true ∧ roleAdmits (bits ((ptp 0 4).ptpCfg 2) 7 0) sync.portState = true ∧ sync.master = none ∧ sync.answer = none) ∧
    ((ptp 1 6).ptpOn 2 = true ∧ ((ptp 1 6).tb 2).portState = 6 ∧
      ((ptp 1 6).time.tsq.getD (bits ((ptp 1 6).ptpCfg 2) 15 8) {}).entries.length < 32 ∧ bits ((ptp 1 6).ptpCfg 2) 15 8 < (ptp 1 6).time.tsq.length ∧
      (((ptp 1 6).modTb 2 (fun b => { b with lastSync := some 8 })).tb 2).lastSync = some 8) ∧
    (bits ((ptp 0 9).ptpCfg 2) 7 0 = 0 ∧ ((ptp 0 9).tb 2).portState ≠ 6 ∧ (ptp 0 9).ptpOn 2 = true) := by decide +kernel

/-- A tile that has been driven once, by the inversion mode 1. -/
def driven : TileDrive :=
  { l0 := 1, l1 := -1, inv := some 1, drive := some { frame := 0, sf := 0, k := 0, dl0 := -1, dl1 := 1, fm := none } }

theorem witness_LedgersBalanced : Balanced (ready.tile 15) ∧ Balanced ((ready.modTile 15 (fun _ => driven)).tile 15) :=
  ⟨⟨by decide +kernel, by decide +kernel, by decide +kernel, trivial⟩, by decide +kernel, by decide +kernel, by decide +kernel, by decide +kernel, by decide +kernel⟩

end Sys2Proof.Tests
end

