-- ==== Sys2Proof/Proofs/HostInterface/Events.lean ====
section
/-! PROOFS. The event collector (R67, R428): which events it discards, what an event leaves alone, and the pending bits. -/

namespace Sys2Proof.Machine

open Sys2Proof Sys2Proof.Safety

/-! ### Which events are discarded (R67) -/

theorem State.discards_iff (s : State) (source severity : Nat) :
    s.discards source severity = true ↔
      severity < 3 ∧ (severity < s.pget 0x02000001 ∨ (severity ≤ 1 ∧ bit (s.pget 0x02000002) source = true)) := by
  simp [State.discards]

theorem State.raise_of_discards {s : State} {source severity : Nat} (h : s.discards source severity = true)
    (code arg arg2 : Nat) : s.raise source code severity arg arg2 = s := if_pos h

/-- An event of severity 4 is never discarded: it latches first, then room is made and it is collected (R428). -/
theorem State.raise_four (s : State) (source code arg arg2 : Nat) :
    s.raise source code 4 arg arg2 =
      ((({ s with ev := { s.ev with nextSeq := s.ev.nextSeq + 1 } } : State).safetyEvent source code s.ev.nextSeq).makeOpen 4 512).collect
        { seq := s.ev.nextSeq
          ev := { source := source, code := code, severity := 4, arg := arg % 2 ^ 64, arg2 := arg2 % 2 ^ 48, time := s.now } } := by
  have kept : s.discards source 4 = false := by simp [State.discards]
  unfold State.raise State.raiseAt
  rw [kept]
  rfl

/-! ### What an event leaves alone -/

theorem State.saf_of_rest {s t : State} (h : t.rest = s.rest) : t.saf = s.saf := by
  have e := congrArg (fun z : State => z.saf) h
  exact e

theorem State.safetyEvent_saf (s : State) (source code : Nat) (seq : Reg) :
    (s.safetyEvent source code seq).saf.latch = true ∧ (s.safetyEvent source code seq).saf.lastSeq = seq := by
  unfold State.safetyEvent
  extract_lets g x
  rw [State.saf_of_rest (State.setPend_rest x 0)]
  exact ⟨rfl, rfl⟩

theorem State.raise_four_saf (s : State) (source code arg arg2 : Nat) :
    (s.raise source code 4 arg arg2).saf.latch = true ∧ (s.raise source code 4 arg arg2).saf.lastSeq = s.ev.nextSeq := by
  rw [State.raise_four, State.saf_of_rest ((State.collect_rest _ _).trans (State.makeOpen_rest 4 512 _))]
  exact State.safetyEvent_saf _ source code _

/-! ### Pending bits stay set -/

/-- A vector is pending. -/
def State.Pends (s : State) (v : Nat) : Prop := bit s.host.irq.status.toNat v = true

theorem State.Pends.of_irq {s t : State} {v : Nat} (p : s.Pends v) (h : t.host.irq = s.host.irq) : t.Pends v := by
  unfold State.Pends; rw [h]; exact p

@[simp] theorem State.irqMsg_host (s : State) (v : Nat) : (s.irqMsg v).host = s.host := by
  unfold State.irqMsg; split <;> rfl

theorem State.setPend_status (s : State) (v : Nat) :
    (s.setPend v).host.irq.status = BitVec.ofNat 64 (putBit s.host.irq.status.toNat v true) := by
  unfold State.setPend; rw [State.irqMsg_host]

theorem State.pends_setPend_same (s : State) {v : Nat} (hv : v < 64) : (s.setPend v).Pends v := by
  unfold State.Pends; rw [State.setPend_status, bit_ofNat hv, bit_putBit_true]

theorem State.Pends.setPend {s : State} {v : Nat} (p : s.Pends v) (hv : v < 64) (w : Nat) : (s.setPend w).Pends v := by
  by_cases e : v = w
  · subst e; exact State.pends_setPend_same s hv
  · unfold State.Pends
    rw [State.setPend_status, bit_ofNat hv, bit_putBit_true_of_ne e]
    exact p

theorem State.Pends.writeRecord {s : State} {v : Nat} (p : s.Pends v) (hv : v < 64) (h : HeldEvent) : (s.writeRecord h).Pends v := by
  unfold State.writeRecord
  extract_lets q x q' g y
  have py : y.Pends v := p.of_irq rfl
  clear_value y
  split
  · exact py.setPend hv 1
  · exact py

/-- Writing a held record changes the collector and writes one record, or does nothing. -/
theorem State.writeHeld_cases (s : State) :
    s.writeHeld = s ∨ ∃ (c : Collector) (h : HeldEvent), s.writeHeld = ({ s with ev := c } : State).writeRecord h := by
  unfold State.writeHeld
  split
  · exact .inl rfl
  · split
    · exact .inr ⟨_, _, rfl⟩
    · split
      · exact .inl rfl
      · exact .inr ⟨_, _, rfl⟩
      · exact .inr ⟨_, _, rfl⟩
      · split <;> exact .inr ⟨_, _, rfl⟩

theorem State.Pends.writeHeld {s : State} {v : Nat} (p : s.Pends v) (hv : v < 64) : s.writeHeld.Pends v := by
  obtain e | ⟨c, h, e⟩ := s.writeHeld_cases <;> rw [e]
  · exact p
  · have pc : ({ s with ev := c } : State).Pends v := p
    exact pc.writeRecord hv h

theorem State.Pends.makeOpen {v : Nat} (hv : v < 64) (severity n : Nat) : ∀ {s : State}, s.Pends v → (s.makeOpen severity n).Pends v := by
  induction n with
  | zero => intro s p; exact p
  | succ n ih =>
    intro s p
    unfold State.makeOpen
    split
    · exact p
    · exact ih (p.writeHeld hv)

@[simp] theorem State.collect_irq (s : State) (h : HeldEvent) : (s.collect h).host.irq = s.host.irq := by
  unfold State.collect
  extract_lets n
  split
  · split
    · rfl
    · split <;> rfl
  · split <;> rfl

/-- An event of severity 4 leaves vector 0 pending. -/
theorem State.raise_four_pends (s : State) (source code arg arg2 : Nat) : (s.raise source code 4 arg arg2).Pends 0 := by
  rw [State.raise_four]
  refine State.Pends.of_irq ?_ (State.collect_irq _ _)
  exact State.Pends.makeOpen (by decide) 4 512 (State.pends_setPend_same _ (by decide))

/-- Settles O26: the cases of R67, the latch of a severity-4 event, and the frame of `State.raiseAt_rest_saf` field by field. -/
theorem raiseFrame : Obligations.RaiseFrame := by
  intro s source code severity arg arg2 t
  have frame : t.rest = { s.rest with saf := t.saf } := State.raiseAt_rest_saf s s.now source code severity arg arg2
  have same {α : Type} (f : State → α) : f t.rest = f { s.rest with saf := t.saf } := congrArg f frame
  refine ⟨s.discards_iff source severity, fun h => State.raise_of_discards h code arg arg2, ?severe,
    fun h => State.saf_of_rest (State.raise_rest s source code severity arg arg2 h), same (·.dev), same (·.par), same (·.objs),
    same (·.fw), same (·.tim), same (·.time), same (·.mem), same (·.pwr), same (·.pair), same (·.start), same (·.direct),
    same (·.enc), same (·.ingest), same (·.dec), same (·.synth), same (·.place), same (·.link), same (·.panel), same (·.comp),
    same (·.free), same (·.pending), same (·.host.mb), same (·.host.jobs)⟩
  case severe =>
    rintro rfl
    obtain ⟨latch, seq⟩ := State.raise_four_saf s source code arg arg2
    exact ⟨latch, seq, State.raise_four_pends s source code arg arg2⟩

end Sys2Proof.Machine
end

