-- ==== Sys2Proof/Proofs/HostInterface/Rings.lean ====
section
/-! PROOFS. Mailbox rings (R39, R44, R48, R49, R50, R232): pointer writes, configuration, disable. -/

namespace Sys2Proof.Machine

open Sys2Proof Sys2Proof.Safety

/-! ### Updates of one mailbox -/

theorem updAt_id {α : Type} : ∀ (l : List α) (n : Nat), updAt l n (fun x => x) = l
  | [], _ => rfl
  | _ :: _, 0 => rfl
  | x :: l, n + 1 => congrArg (x :: ·) (updAt_id l n)

theorem updAt_congr {α : Type} (d : α) {f g : α → α} : ∀ {l : List α} {n : Nat},
    f (l.getD n d) = g (l.getD n d) → updAt l n f = updAt l n g
  | [], _, _ => rfl
  | _ :: l, 0, h => congrArg (· :: l) h
  | x :: _, _ + 1, h => congrArg (x :: ·) (updAt_congr d h)

/-- An update of a mailbox is told by what it makes of that mailbox. -/
theorem State.modMb_congr {s : State} {mb : Nat} {f g : Mailbox → Mailbox} (h : f (s.mailbox mb) = g (s.mailbox mb)) :
    s.modMb mb f = s.modMb mb g := by
  have e : updAt s.host.mb mb f = updAt s.host.mb mb g := updAt_congr ({} : Mailbox) h
  unfold State.modMb; rw [e]

theorem State.modMb_id (s : State) (mb : Nat) : s.modMb mb (fun m => m) = s :=
  congrArg (fun l => ({ s with host := { s.host with mb := l } } : State)) (updAt_id s.host.mb mb)

/-! ### Pointers (R39, R44, R50) -/

section Pointers
variable {s : State} {mb : Nat} (hmb : mb < 8) (v : BitVec 16)

theorem exec_mbCmdTailWrite_of_disabled (hen : (s.mailbox mb).en = false) : exec (.mbCmdTailWrite mb v) s = .next s :=
  congrArg Host.Outcome.next (if_pos (.inr hen))

include hmb in
/-- A mailbox whose EN is 1 takes CMD_TAIL; one that is served stops where the tail is too far ahead. -/
theorem exec_mbCmdTailWrite_of_enabled (hen : (s.mailbox mb).en = true) :
    exec (.mbCmdTailWrite mb v) s = .next (
      if (s.mailbox mb).active && decide (2 ^ (s.mailbox mb).cmdLog2.toNat < wsub 16 v.toNat (s.mailbox mb).cmdHead.toNat) then
        (s.modMb mb (fun m => { m with cmdTail := v })).stopMb mb 1
      else s.modMb mb (fun m => { m with cmdTail := v })) :=
  congrArg Host.Outcome.next (if_neg (by simp [hen, hmb]))

include hmb in
theorem exec_mbCmdTailWrite_within (hen : (s.mailbox mb).en = true)
    (hin : (s.mailbox mb).active = false ∨ wsub 16 v.toNat (s.mailbox mb).cmdHead.toNat ≤ 2 ^ (s.mailbox mb).cmdLog2.toNat) :
    exec (.mbCmdTailWrite mb v) s = .next (s.modMb mb (fun m => { m with cmdTail := v })) := by
  rw [exec_mbCmdTailWrite_of_enabled hmb v hen, if_neg]
  rw [Bool.and_eq_true, decide_eq_true_iff]
  rintro ⟨hact, hout⟩
  obtain hin | hin := hin
  · exact absurd (hin.symm.trans hact) Bool.false_ne_true
  · exact absurd hin (Nat.not_le.mpr hout)

include hmb in
theorem exec_mbCmdTailWrite_too_far (hen : (s.mailbox mb).en = true) (hact : (s.mailbox mb).active = true)
    (hout : 2 ^ (s.mailbox mb).cmdLog2.toNat < wsub 16 v.toNat (s.mailbox mb).cmdHead.toNat) :
    exec (.mbCmdTailWrite mb v) s = .next ((s.modMb mb (fun m => { m with cmdTail := v })).stopMb mb 1) := by
  rw [exec_mbCmdTailWrite_of_enabled hmb v hen, if_pos]
  rw [hact, Bool.true_and, decide_eq_true_iff]
  exact hout

theorem exec_pendingResponseWrite_of_room {r : Rsp} {rs : List Rsp} (hheld : (s.mailbox mb).held = r :: rs)
    (hw : (s.mailbox mb).writes = true) (hfull : (s.mailbox mb).rspFull = false) :
    exec (.pendingResponseWrite mb) s = .next ((s.modMb mb (fun m => { m with held := rs })).putRsp mb r).freeJobs := by
  change execPendingResponseWrite mb s = _
  simp [execPendingResponseWrite, hheld, hw, hfull]

end Pointers

/-! ### What a freed JOB object and a cleared EN leave alone (R49, R232) -/

/-- What is left of a state without the object store and the placement, and without what an event touches. -/
def State.restStore (s : State) : State := { s.rest with objs := {}, place := {} }

theorem State.restStore_of_rest {s t : State} (h : t.rest = s.rest) : t.restStore = s.restStore := by
  unfold State.restStore; rw [h]

theorem State.capacityCheck_restStore (s : State) : s.capacityCheck.restStore = s.restStore := by
  unfold State.capacityCheck
  extract_lets f w
  split
  · split <;> rfl
  · split
    · exact (State.restStore_of_rest (State.raise_rest _ 7 4 2 _ _ (by decide))).trans rfl
    · rfl

theorem State.removeObj_restStore (s : State) (id : Nat) : (s.removeObj id).restStore = s.restStore := by
  unfold State.removeObj
  refine (State.capacityCheck_restStore _).trans ?_
  split <;> rfl

theorem State.foldl_removeObj_restStore (ids : List Nat) : ∀ s : State, (ids.foldl State.removeObj s).restStore = s.restStore := by
  induction ids with
  | nil => intro s; rfl
  | cons id ids ih => intro s; exact (ih _).trans (State.removeObj_restStore s id)

theorem State.freeJobs_restStore (s : State) : s.freeJobs.restStore = s.restStore := State.foldl_removeObj_restStore _ s

@[simp] theorem State.freeJobs_mailbox (s : State) (n : Nat) : s.freeJobs.mailbox n = s.mailbox n := by
  have e := congrArg (fun z : State => z.mailbox n) s.freeJobs_restStore
  exact e

@[simp] theorem State.freeJobs_jobs (s : State) : s.freeJobs.host.jobs = s.host.jobs := by
  have e := congrArg (fun z : State => z.host.jobs) s.freeJobs_restStore
  exact e

theorem State.disableMb_mailbox_same (s : State) {mb : Nat} (h : mb < s.host.mb.length) :
    (s.disableMb mb).mailbox mb = (s.mailbox mb).disable :=
  (State.freeJobs_mailbox ..).trans (State.mailbox_modMb_same s mb _ h)

theorem State.disableMb_mailbox_ne (s : State) {mb n : Nat} (h : mb ≠ n) : (s.disableMb mb).mailbox n = s.mailbox n :=
  (State.freeJobs_mailbox ..).trans (State.mailbox_modMb_ne s mb n _ h)

/-- The jobs of a mailbox whose EN is cleared answer no more. -/
theorem State.disableMb_respond (s : State) (mb : Nat) : ∀ j ∈ (s.disableMb mb).host.jobs, j.mb = mb → j.respond = false := by
  unfold State.disableMb
  rw [State.freeJobs_jobs]
  intro j hj
  obtain ⟨k, -, rfl⟩ := List.mem_map.mp hj
  split
  · exact fun _ => rfl
  · rename_i h
    exact fun e => absurd (beq_iff_eq.mpr e) h

/-! ### Configuration (R48) -/

theorem bits_lt (w hi lo : Nat) : bits w hi lo < 2 ^ (hi + 1 - lo) := Nat.mod_lt _ (Nat.two_pow_pos _)

theorem toNat_ofNat_bits (w hi lo : Nat) : (BitVec.ofNat (hi + 1 - lo) (bits w hi lo)).toNat = bits w hi lo :=
  (BitVec.toNat_ofNat _ _).trans (Nat.mod_eq_of_lt (bits_lt w hi lo))

theorem ofNat_bits_ne_iff (w hi lo : Nat) (x : BitVec (hi + 1 - lo)) :
    BitVec.ofNat (hi + 1 - lo) (bits w hi lo) ≠ x ↔ bits w hi lo ≠ x.toNat := by
  rw [Ne, ← BitVec.toNat_inj, toNat_ofNat_bits]

/-- A write of MBn_CFG names ring sizes that differ from those held. -/
def Mailbox.sizesDiffer (m : Mailbox) (v : Nat) : Bool :=
  decide (bits v 11 8 ≠ m.cmdLog2.toNat ∨ bits v 15 12 ≠ m.rspLog2.toNat)

section Configuration
variable {s : State} {mb : Nat} (hmb : mb < 8) (v : BitVec 32)

include hmb in
theorem exec_mbCfgWrite_of_rise (hen : (s.mailbox mb).en = false) (hv : bit v.toNat 0 = true) :
    exec (.mbCfgWrite mb v) s =
      .next (s.modMb mb (fun m => m.enable (BitVec.ofNat 4 (bits v.toNat 11 8)) (BitVec.ofNat 4 (bits v.toNat 15 12)))) := by
  change execMbCfgWrite mb v s = _
  simp [execMbCfgWrite, hen, hv, Nat.not_le.mpr hmb]

/-- An enabled mailbox is served where both ring sizes are from 4 to 10. -/
theorem Mailbox.enable_active_iff (m : Mailbox) (v : Nat) :
    (m.enable (BitVec.ofNat 4 (bits v 11 8)) (BitVec.ofNat 4 (bits v 15 12))).active = true ↔
      4 ≤ bits v 11 8 ∧ bits v 11 8 ≤ 10 ∧ 4 ≤ bits v 15 12 ∧ bits v 15 12 ≤ 10 := by
  have hc : (BitVec.ofNat 4 (bits v 11 8)).toNat = bits v 11 8 := toNat_ofNat_bits v 11 8
  have hr : (BitVec.ofNat 4 (bits v 15 12)).toNat = bits v 15 12 := toNat_ofNat_bits v 15 12
  unfold Mailbox.enable
  rw [decide_eq_true_iff, hc, hr]

theorem Mailbox.enable_cfgErr (m : Mailbox) (c r : BitVec 4) : (m.enable c r).cfgErr = (m.cfgErr || !(m.enable c r).active) := rfl

include hmb in
/-- While EN is 1 the ring sizes written are compared with those held, and EN alone is taken. -/
theorem exec_mbCfgWrite_of_enabled (hen : (s.mailbox mb).en = true) :
    exec (.mbCfgWrite mb v) s = .next (
      let t := s.modMb mb (fun m => { m with cfgErr := m.cfgErr || (s.mailbox mb).sizesDiffer v.toNat })
      if bit v.toNat 0 then t else t.disableMb mb) := by
  have hcmp : BitVec.ofNat 4 (bits v.toNat 11 8) ≠ (s.mailbox mb).cmdLog2 ∨ BitVec.ofNat 4 (bits v.toNat 15 12) ≠ (s.mailbox mb).rspLog2 ↔
      (s.mailbox mb).sizesDiffer v.toNat = true :=
    (or_congr (ofNat_bits_ne_iff v.toNat 11 8 _) (ofNat_bits_ne_iff v.toNat 15 12 _)).trans (decide_eq_true_iff ..).symm
  change execMbCfgWrite mb v s = _
  cases hd : (s.mailbox mb).sizesDiffer v.toNat
  · simp [execMbCfgWrite, hen, Nat.not_le.mpr hmb, hcmp, hd, State.modMb_id]
  · simp [execMbCfgWrite, hen, Nat.not_le.mpr hmb, hcmp, hd]

/-- A write of a base register while EN is 1 sets CFG_ERR alone. -/
theorem Mailbox.write_base_of_enabled {m : Mailbox} (hen : m.en = true) {r : Nat} (hr : r < 0x10) (v : Nat) :
    m.write r v = { m with cfgErr := true } := by
  unfold Mailbox.write
  rw [if_neg (by omega), if_neg (by omega), if_pos hen]

include hmb in
theorem exec_registerWrite_mailbox {r : Nat} (hr : r < 0x20) (h4 : r % 4 = 0) :
    exec (.registerWrite (0x200 + 0x20 * mb + r) v) s = .next (s.modMb mb (fun m => m.write r v.toNat)) := by
  have hn : (0x200 + 0x20 * mb + r - 0x200) / 0x20 = mb := by omega
  have ho : (0x200 + 0x20 * mb + r) % 0x20 = r := by omega
  change Host.Outcome.next (s.writeReg (0x200 + 0x20 * mb + r) v.toNat) = _
  unfold State.writeReg
  rw [if_neg (by omega), if_pos (by omega), hn, ho]

end Configuration

/-! ### The statement -/

/-- Settles O22: the pointer clauses, then the configuration clauses, each by the equation of its register write. -/
theorem rings : Obligations.Rings := by
  refine ⟨fun s mb v hmb => ⟨exec_mbCmdTailWrite_within hmb v, exec_mbCmdTailWrite_too_far hmb v,
    exec_mbCmdTailWrite_of_disabled v, rfl, fun r rs => exec_pendingResponseWrite_of_room⟩, ?_⟩
  intro s mb v hmb hlen
  have hl : mb < s.host.mb.length := hlen ▸ hmb
  refine ⟨?served, ?refused, ?compared, ?base, ?falls⟩
  case served =>
    intro hen hv hc4 hc10 hr4 hr10
    refine ⟨_, exec_mbCfgWrite_of_rise hmb v hen hv, ?_⟩
    rw [State.mailbox_modMb_same s mb _ hl]
    exact ⟨(Mailbox.enable_active_iff ..).mpr ⟨hc4, hc10, hr4, hr10⟩, rfl, rfl, rfl, rfl, rfl,
      fun n hn => State.mailbox_modMb_ne s mb n _ hn.symm, rfl⟩
  case refused =>
    intro hen hv hsize
    have hact : ((s.mailbox mb).enable (BitVec.ofNat 4 (bits v.toNat 11 8)) (BitVec.ofNat 4 (bits v.toNat 15 12))).active = false := by
      rw [← Bool.not_eq_true, Mailbox.enable_active_iff]
      omega
    refine ⟨_, exec_mbCfgWrite_of_rise hmb v hen hv, ?_⟩
    rw [State.mailbox_modMb_same s mb _ hl]
    refine ⟨hact, rfl, ?_, rfl, rfl, rfl, rfl, fun n hn => State.mailbox_modMb_ne s mb n _ hn.symm⟩
    rw [Mailbox.enable_cfgErr, hact, Bool.not_false, Bool.or_true]
  case compared =>
    intro hen hv
    rw [exec_mbCfgWrite_of_enabled hmb v hen]
    exact congrArg Host.Outcome.next (if_pos hv)
  case base =>
    intro hen r hr
    have hr : r < 0x10 ∧ r % 4 = 0 := by
      simp only [List.mem_cons, List.not_mem_nil, or_false] at hr
      omega
    rw [exec_registerWrite_mailbox hmb v (by omega) hr.2]
    exact congrArg Host.Outcome.next (State.modMb_congr (Mailbox.write_base_of_enabled hen hr.1 v.toNat))
  case falls =>
    intro hen hv
    refine ⟨_, (exec_mbCfgWrite_of_enabled hmb v hen).trans (congrArg Host.Outcome.next (if_neg (Bool.eq_false_iff.mp hv))), ?_⟩
    rw [State.disableMb_mailbox_same _ (by simpa using hl), State.mailbox_modMb_same s mb _ hl]
    exact ⟨rfl, rfl, rfl, rfl, rfl, rfl,
      fun n hn => (State.disableMb_mailbox_ne _ hn.symm).trans (State.mailbox_modMb_ne s mb n _ hn.symm), State.disableMb_respond _ mb⟩

end Sys2Proof.Machine
end

