-- ==== Sys2Proof/Proofs/DirectUnits/Untouched.lean ====
section
/-! PROOFS. What leaves the check-value units and the 2D engine alone: events, what is sent, the ends of jobs, the power
domains, the end of SHUTDOWN, and a request for the service of a domain under self-test (R465). -/

namespace Sys2Proof.Machine

open Sys2Proof

/-! ### Events, interrupts, responses -/

theorem State.direct_of_rest {s t : State} (h : t.rest = s.rest) : t.direct = s.direct := by
  have e := congrArg (fun z : State => z.direct) h
  exact e

@[simp] theorem State.setPend_direct (s : State) (v : Nat) : (s.setPend v).direct = s.direct :=
  State.direct_of_rest (State.setPend_rest s v)

@[simp] theorem State.raise_direct (s : State) (source code severity arg arg2 : Nat) :
    (s.raise source code severity arg arg2).direct = s.direct := by
  have e := congrArg (fun z : State => z.direct) (State.raiseAt_rest_saf s s.now source code severity arg arg2)
  exact e

@[simp] theorem State.raise_dev (s : State) (source code severity arg arg2 : Nat) :
    (s.raise source code severity arg arg2).dev = s.dev := by
  have e := congrArg (fun z : State => z.dev) (State.raiseAt_rest_saf s s.now source code severity arg arg2)
  exact e

@[simp] theorem State.endJob_direct (s : State) (id status : Nat) (ws : List Word) : (s.endJob id status ws).direct = s.direct := by
  have e := congrArg (fun z : State => z.direct) (State.endJob_restJobs s id status ws)
  exact e

/-- Operations that each leave the units alone do so one after another. -/
theorem State.foldl_direct {α : Type} {f : State → α → State} (h : ∀ s a, (f s a).direct = s.direct) (l : List α) :
    ∀ s : State, (l.foldl f s).direct = s.direct := by
  induction l with
  | nil => exact fun s => rfl
  | cons a l ih => exact fun s => (ih (f s a)).trans (h s a)

/-! ### Power domains, the panel grid, time -/

@[simp] theorem State.powerSync_direct (s : State) : s.powerSync.direct = s.direct := rfl

@[simp] theorem State.stopGrid_direct (s : State) : s.stopGrid.direct = s.direct := rfl

@[simp] theorem State.advanceTo_direct (s : State) (t : Nat) : (s.advanceTo t).direct = s.direct := rfl

@[simp] theorem State.sendTile_direct (s : State) (t kind : Nat) (ws : List Nat) : (s.sendTile t kind ws).direct = s.direct := by
  unfold State.sendTile; split <;> rfl

@[simp] theorem State.sendPair_direct (s : State) (t pol amp width why : Nat) : (s.sendPair t pol amp width why).direct = s.direct :=
  State.sendTile_direct ..

@[simp] theorem State.reconcile_direct (s : State) (t : Nat) : (s.reconcile t).direct = s.direct := by
  unfold State.reconcile
  split
  · rfl
  · exact State.sendPair_direct ..

@[simp] theorem State.startReconciles_direct (s : State) : s.startReconciles.direct = s.direct := by
  unfold State.startReconciles
  split
  · refine State.foldl_direct (fun x t => ?_) _ s
    split
    · exact State.reconcile_direct x t
    · rfl
  · rfl

/-! ### Entry to OFF and the end of SHUTDOWN (R468) -/

theorem State.onEntry_of_off {s : State} (h : s.dev.state = .off) (reason : Nat) (old : DevState) : s.onEntry reason old = s := by
  unfold State.onEntry; rw [h]

@[simp] theorem State.stateChange_direct (s : State) (old : DevState) (reason : Nat) (fault : Bool) :
    (s.stateChange old reason fault).direct = s.direct := State.raise_direct ..

@[simp] theorem State.stateChange_dev (s : State) (old : DevState) (reason : Nat) (fault : Bool) :
    (s.stateChange old reason fault).dev = s.dev := State.raise_dev ..

/-- The entry to OFF gives no unit anything to do: it announces the change and requests the power domains. -/
@[simp] theorem State.enter_off_direct (s : State) (reason : Nat) : (s.enter .off reason).direct = s.direct := by
  change (State.onEntry (State.stateChange _ s.dev.state reason false) reason s.dev.state).powerSync.direct = s.direct
  rw [State.powerSync_direct, State.onEntry_of_off (by rw [State.stateChange_dev]), State.stateChange_direct]

@[simp] theorem State.finishShutdown_direct (s : State) (seq result : Nat) : (s.finishShutdown seq result).direct = s.direct := by
  unfold State.finishShutdown
  extract_lets ids w ended stopped dev saf x low y
  have hx : x.direct = s.direct := State.foldl_direct (fun _ _ => State.endJob_direct ..) ids s
  have hy : y.direct = s.direct := (State.enter_off_direct _ 1).trans hx
  clear_value y
  split
  · exact hy
  · exact (State.setPend_direct y 0).trans hy

/-! ### Self-test (R462 to R467) -/

@[simp] theorem State.modRecord_direct (s : State) (f : Record → Record) : (s.modRecord f).direct = s.direct := by
  unfold State.modRecord; split <;> rfl

@[simp] theorem State.testAbort_direct (s : State) (d cause count : Nat) : (s.testAbort d cause count).direct = s.direct :=
  State.raise_direct ..

@[simp] theorem State.cutTest_direct (s : State) (d result cause : Nat) : (s.cutTest d result cause).direct = s.direct := by
  unfold State.cutTest
  extract_lets n sig x
  have hx : x.direct = s.direct := State.modRecord_direct ..
  clear_value x
  split
  · exact hx
  · exact (State.testAbort_direct ..).trans hx

@[simp] theorem State.milestone_direct (s : State) (m : Nat) : (s.milestone m).direct = s.direct := by
  unfold State.milestone
  split
  · rfl
  · exact State.raise_direct ..

@[simp] theorem State.eraseOther_direct (s : State) : s.eraseOther.direct = s.direct := by
  unfold State.eraseOther; split <;> rfl

@[simp] theorem State.maybeStartSynth_direct (s : State) : s.maybeStartSynth.direct = s.direct := by
  unfold State.maybeStartSynth; split <;> rfl

@[simp] theorem State.finishSelfTest_direct (s : State) (whole : Bool) : (s.finishSelfTest whole).direct = s.direct := by
  unfold State.finishSelfTest
  split
  · rfl
  · rename_i x _
    extract_lets t
    have ht : t.direct = s.direct := State.modRecord_direct ..
    clear_value t
    split
    · exact ht
    · rename_i r _
      extract_lets reported severity sent pwr start u start' erased
      have hr : reported.direct = s.direct := by
        simp only [reported]
        split
        · split
          · exact (State.testAbort_direct ..).trans ht
          · exact ht
        · exact ht
      have hu : u.direct = s.direct := (State.raise_direct ..).trans hr
      have he : erased.direct = s.direct := (State.eraseOther_direct _).trans hu
      clear_value erased u
      split
      · simp [he]
      · split
        · exact (State.finishShutdown_direct ..).trans hu
        · exact hu

@[simp] theorem State.nextPhase_direct (s : State) : s.nextPhase.direct = s.direct := by
  unfold State.nextPhase
  split
  · rfl
  · split
    · rfl
    · split
      · exact State.startReconciles_direct _
      · exact State.finishSelfTest_direct s true

/-- A request for a domain's service may end the self-test and SHUTDOWN with it; no unit of the direct window sees that. -/
@[simp] theorem State.serviceRequest_direct (s : State) (d : Nat) : (s.serviceRequest d).direct = s.direct := by
  unfold State.serviceRequest
  split
  · rfl
  · split
    · rfl
    · exact (State.nextPhase_direct _).trans (State.cutTest_direct s d 3 1)

end Sys2Proof.Machine
end

