-- ==== Sys2Proof/Proofs/DirectUnits/Units.lean ====
section
/-! PROOFS. The check-value units (R365 to R369), the 2D engine (R374 to R380), and register writes without a behaviour
of their own (R45). -/

namespace Sys2Proof.Machine

open Sys2Proof

/-! ### Check-value units -/

theorem exec_cvuReset_of_set {s : State} {n : Nat} {v : BitVec 32} (hv : bit v.toNat 0 = true) :
    exec (.cvuReset n v) s = .next ((s.serviceRequest 2).modCvu n Cvu.doReset) := congrArg Host.Outcome.next (if_pos hv)

theorem exec_cvuFinal_of_ok {s : State} {n : Nat} (v : BitVec 32) (hn : n < 8) (hok : (s.direct.cvu.getD n {}).cfgErr = false) :
    exec (.cvuFinal n v) s = .next (((s.serviceRequest 2).modCvu n Cvu.final).setPend (10 + n)) := by
  refine congrArg Host.Outcome.next (if_neg ?_)
  rintro (h | h)
  · omega
  · exact Bool.false_ne_true (hok.symm.trans h)

/-- The vectors of the check-value units are edges (R369). -/
theorem State.causeHolds_cvu (s : State) {n : Nat} (hn : n < 8) : s.causeHolds (10 + n) = false := by
  unfold State.causeHolds
  rw [if_neg (by omega), if_neg (by omega), if_neg (by omega), if_neg (by omega), if_neg (by omega)]

/-! ### The end of a 2D operation (R376) -/

theorem State.g2dFinish_g2d (s : State) (error : Nat) :
    (s.g2dFinish error).direct.g2d =
      { s.direct.g2d with busy := false, error := BitVec.ofNat 8 error, ops := s.direct.g2d.ops + 1, done := true } := by
  unfold State.g2dFinish
  extract_lets g direct x
  split
  · rfl
  · exact congrArg Direct.g2d (State.setPend_direct x 18)

@[simp] theorem State.g2dWrite_direct (s : State) (g : G2dSide) (i : Nat) (bs : List Byte) : (s.g2dWrite g i bs).direct = s.direct := by
  unfold State.g2dWrite; split <;> rfl

/-- The rows of an operation count in ROWS_DONE and leave the engine's other fields alone (R377). -/
theorem State.g2dRows_g2d (a : Option G2dSide) (d : G2dSide) (rows : List G2dHostRow) : ∀ (s : State) (n : Nat),
    ∃ k, (s.g2dRows a d n rows).direct.g2d = { s.direct.g2d with rowsDone := k } := by
  induction rows with
  | nil => exact fun s n => ⟨_, rfl⟩
  | cons row rows ih =>
    intro s n
    unfold State.g2dRows
    extract_lets r i written direct g2d counted
    have hw : written.direct = s.direct := State.g2dWrite_direct ..
    obtain ⟨k, hk⟩ := ih counted (n + 1)
    exact ⟨k, hk.trans (congrArg (fun x : Direct => { x.g2d with rowsDone := k }) hw)⟩

/-- However it ends, a running operation ends with DONE, the error given and one operation more; ROWS_DONE is what its
rows have made of it. -/
theorem State.g2dEnd_g2d {s : State} (hb : s.direct.g2d.busy = true) (rows : List G2dHostRow) (part : Nat) (next : G2dHostRow)
    (error : Nat) :
    ∃ k, (s.g2dEnd rows part next error).direct.g2d =
      { s.direct.g2d with
        rowsDone := k, busy := false, error := BitVec.ofNat 8 error, ops := s.direct.g2d.ops + 1, done := true } := by
  unfold State.g2dEnd
  rw [if_neg (by simp [hb])]
  extract_lets h taken
  split
  · exact ⟨_, State.g2dFinish_g2d s error⟩
  · rename_i a d _
    extract_lets ran n after
    obtain ⟨k, hk⟩ : ∃ k, ran.direct.g2d = { s.direct.g2d with rowsDone := k } := State.g2dRows_g2d a d taken s 0
    have ha : after.direct = ran.direct := by
      simp only [after]
      split
      · rfl
      · exact State.g2dWrite_direct ..
    exact ⟨k, by rw [State.g2dFinish_g2d, ha, hk]⟩

@[simp] theorem State.g2dPaced_direct (s : State) (rows : Nat) : (s.g2dPaced rows).direct = s.direct := by
  unfold State.g2dPaced
  split
  · rfl
  · exact State.advanceTo_direct ..

theorem exec_g2dAbort_of_busy {s : State} (hb : s.direct.g2d.busy = true) (rows : List G2dHostRow) :
    exec (.g2dAbort rows) s = .next (s.g2dEnd rows 0 {} 9).powerSync := congrArg Host.Outcome.next (if_pos hb)

/-- The end without an error comes after all rows of the rectangle, paced by R381. -/
theorem exec_g2dOperationEnd_whole {s : State} (hb : s.direct.g2d.busy = true) (hup : (s.domain 29).st = 2)
    (rows : List G2dHostRow) (next : G2dHostRow) :
    exec (.g2dOperationEnd rows 0 0 next) s =
      .next ((s.g2dPaced (bits s.direct.g2d.lat.size.toNat 31 16)).g2dEnd
        (padTo ({} : G2dHostRow) (bits s.direct.g2d.lat.size.toNat 31 16) rows) 0 {} 0).powerSync := by
  refine congrArg Host.Outcome.next ((if_neg ?_).trans (if_neg (by decide)))
  simp [hb, hup]

/-! ### The start of a 2D operation (R375) -/

/-- The registers latched for an operation, with PD29 in service. -/
def State.g2dLatched (s : State) : State := (s.serviceRequest 29).modG2d (fun g => { g with lat := g.reg })

theorem State.g2dLatched_g2d (s : State) : s.g2dLatched.direct.g2d = { s.direct.g2d with lat := s.direct.g2d.reg } := by
  unfold State.g2dLatched; rw [State.modG2d_direct, State.serviceRequest_direct]

theorem exec_g2dStart_of_busy {s : State} {v : BitVec 32} (hv : bit v.toNat 0 = true) (hb : s.direct.g2d.busy = true) :
    exec (.g2dStart v) s = .next (s.modG2d (fun g => { g with ignored := true })) :=
  congrArg Host.Outcome.next ((if_neg (by simp [hv])).trans (if_pos hb))

theorem exec_g2dStart_of_idle {s : State} {v : BitVec 32} (hv : bit v.toNat 0 = true) (hb : s.direct.g2d.busy = false) :
    exec (.g2dStart v) s =
      .next (if s.g2dLatched.g2dCheck ≠ 0 then s.g2dLatched.g2dFinish s.g2dLatched.g2dCheck
        else (s.g2dLatched.modG2d (fun g => { g with busy := true, rowsDone := 0, startAt := s.g2dLatched.now })).powerSync) :=
  congrArg Host.Outcome.next ((if_neg (by simp [hv])).trans (if_neg (by simp [hb])))

/-! ### Register writes (R45) -/

theorem exec_registerWrite_unaligned {s : State} {off : Nat} (v : BitVec 32) (h : off % 4 ≠ 0) :
    exec (.registerWrite off v) s = .next s := congrArg Host.Outcome.next (if_pos h)

/-- An operation register of the 2D engine, apart from STATUS, needs PD29 and takes the bits it keeps. -/
theorem exec_registerWrite_g2d {s : State} {r : Nat} (v : BitVec 32) (hr : r < 0x40) (h4 : r % 4 = 0) (hs : r ≠ 8) :
    exec (.registerWrite (0x5000 + r) v) s =
      .next ((s.serviceRequest 29).modG2d (fun g => { g with reg := g.reg.write r v.toNat })) := by
  change Host.Outcome.next (s.writeReg (0x5000 + r) v.toNat) = _
  unfold State.writeReg
  rw [if_neg (by omega), if_neg (by omega), if_neg (by omega), if_neg (by omega), if_neg (by omega), if_neg (by omega),
    if_pos (by omega), Nat.add_sub_cancel_left]

theorem G2dRegs.write_fillLo (g : G2dRegs) (v : BitVec 32) : g.write 0x14 v.toNat = { g with fillLo := v } :=
  congrArg (fun x => { g with fillLo := x }) (BitVec.ofNat_toNat 32 v)

/-! ### The statement -/

/-- Settles O55: the clauses of the check-value units, then the start, the ignored START and the ends of a 2D operation,
then the register writes, each by the equation of its instruction. -/
theorem directUnits : Obligations.DirectUnits := by
  intro s n v8 v16 v rows next u feed
  refine ⟨rfl, rfl, rfl, exec_cvuReset_of_set, ?final, s.causeHolds_cvu, exec_g2dStart_of_busy, ?start, ?ends, ?fill, rfl,
    fun off => exec_registerWrite_unaligned v⟩
  case final =>
    intro hn hok
    exact ⟨_, exec_cvuFinal_of_ok v hn hok, State.pends_setPend_same _ (by omega), State.setPend_direct ..⟩
  case start =>
    intro hv hb
    change (s.g2dLatched.g2dCheck = 0 → _) ∧ (s.g2dLatched.g2dCheck ≠ 0 → _)
    refine ⟨fun hc => ⟨_, exec_g2dStart_of_idle hv hb, ?begun⟩, fun hc => ⟨_, exec_g2dStart_of_idle hv hb, ?refused⟩⟩
    case begun =>
      rw [if_neg (not_not_intro hc), State.powerSync_direct, State.modG2d_direct, State.g2dLatched_g2d]
      rfl
    case refused =>
      rw [if_pos hc, State.g2dFinish_g2d, State.g2dLatched_g2d]
      rfl
  case ends =>
    intro hb
    constructor
    · obtain ⟨k, hk⟩ := State.g2dEnd_g2d hb rows 0 {} 9
      exact ⟨_, exec_g2dAbort_of_busy hb rows, by simp [hk]⟩
    · intro hup
      refine ⟨_, exec_g2dOperationEnd_whole hb hup rows next, ?_⟩
      obtain ⟨k, hk⟩ := State.g2dEnd_g2d (s := s.g2dPaced (bits s.direct.g2d.lat.size.toNat 31 16)) (by simpa using hb)
        (padTo {} (bits s.direct.g2d.lat.size.toNat 31 16) rows) 0 {} 0
      simp [hk]
  case fill =>
    rw [exec_registerWrite_g2d (r := 0x14) v (by decide) (by decide) (by decide)]
    simp only [G2dRegs.write_fillLo]

end Sys2Proof.Machine
end

