-- ==== Sys2Proof/Proofs/TimeNetwork/TimeBases.lean ====
section
/-! PROOFS. Time bases (spec/16): TIME_SET and its steps (R385, R389, R390), compares (R393), latches (R398), transmit
timestamps (R399), and the two pulse pins (R395, R396). -/

namespace Sys2Proof.Machine

open Sys2Proof Sys2Proof.Safety

/-! ### Time and pending bits through events and waits -/

@[simp] theorem State.setPend_time (s : State) (v : Nat) : (s.setPend v).time = s.time := by
  have e := congrArg (fun z : State => z.time) (State.setPend_rest s v)
  exact e

@[simp] theorem State.raise_time (s : State) (source code severity arg arg2 : Nat) :
    (s.raise source code severity arg arg2).time = s.time := by
  have e := congrArg (fun z : State => z.time) (State.raiseAt_rest_saf s s.now source code severity arg arg2)
  exact e

theorem State.Pends.safetyEvent {s : State} {v : Nat} (p : s.Pends v) (hv : v < 64) (source code : Nat) (seq : Reg) :
    (s.safetyEvent source code seq).Pends v := by
  unfold State.safetyEvent
  extract_lets g x
  have px : x.Pends v := p.of_irq rfl
  exact px.setPend hv 0

/-- An event clears no pending bit. -/
theorem State.Pends.raise {s : State} {v : Nat} (p : s.Pends v) (hv : v < 64) (source code severity arg arg2 : Nat) :
    (s.raise source code severity arg arg2).Pends v := by
  unfold State.raise State.raiseAt
  split
  · exact p
  · extract_lets seq e h c numbered latched
    have pn : numbered.Pends v := p.of_irq rfl
    have pl : latched.Pends v := by
      simp only [latched]
      split
      · exact pn.safetyEvent hv source code seq
      · exact pn
    exact (pl.makeOpen hv severity 512).of_irq (State.collect_irq _ h)

@[simp] theorem State.advance_now (s : State) (n : Nat) : (s.advance n).now = s.now + n :=
  Nat.add_mul_div_right s.time.tb0 n (by decide)

/-! ### TIME_SET (R385, R389, R390) -/

theorem State.mayTimeSet_iff_of_ne {n : Nat} (hn : n ≠ 3) (s : State) :
    s.mayTimeSet n = true ↔ bits (s.pget (0x12000000 + n)) 31 24 = 0 ∨ bits (s.pget (0x12000000 + n)) 7 0 = 1 ∨
      (s.tb n).portState = 6 := by
  simp [State.mayTimeSet, hn, or_assoc]

theorem State.mayTimeSet_three_iff (s : State) : s.mayTimeSet 3 = true ↔ s.pget 0x12000051 = 3 := beq_iff_eq

theorem exec_timeSet_of_body {c : Cmd} {s : State} {r : Ran} (h : AtHand (.timeSet c) s)
    (hr : timeSetBody c (taken c s) = r) : exec (.timeSet c) s = .next (report c r) :=
  congrArg Host.Outcome.next ((hostCmd_atHand timeSetBody rfl h).trans (congrArg (report c) hr))

/-- TB0 is never set (R390). -/
theorem timeSetBody_of_tb0 {c : Cmd} (s : State) (hn : c.f 1 127 120 = 0) : timeSetBody c s = refuse s stBadArg :=
  if_pos (by simp [hn])

section TimeSet
variable {c : Cmd} {t : Nat} (s : State) (hw : c.okBits 1 (mask 127 104 + mask 79 0) = true) (hz : c.f 1 119 104 = 0)
  (hobj : timeObjOk c = true) (ht : time80Ns (c.f 1 79 0) = some t)
include hw hz hobj ht

theorem timeSetBody_of_barred (hn : c.f 1 127 120 ∈ [1, 2, 3]) (hmay : s.mayTimeSet (c.f 1 127 120) = false) :
    timeSetBody c s = refuse s stBadState := by
  have hrange : c.f 1 127 120 ≠ 0 ∧ ¬3 < c.f 1 127 120 := by
    simp only [List.mem_cons, List.not_mem_nil, or_false] at hn
    omega
  obtain ⟨h0, h3⟩ := hrange
  simp only [timeSetBody, ht]
  rw [if_neg (by simp [hw, hz, hobj, h0, h3]), if_pos (by simp [hmay])]

/-- TB1 and TB2 start at the time named, or are stepped to it while they run. -/
theorem timeSetBody_of_disciplined (hn : c.f 1 127 120 ∈ [1, 2]) (hmay : s.mayTimeSet (c.f 1 127 120) = true) :
    timeSetBody c s = if (s.tb (c.f 1 127 120)).running then answer (s.stepTb (c.f 1 127 120) t) []
      else answer (s.modTb (c.f 1 127 120) (fun b => { b with running := true, v := t * 65536 })) [] := by
  have hrange : c.f 1 127 120 ≠ 0 ∧ ¬3 < c.f 1 127 120 ∧ c.f 1 127 120 ≠ 3 := by
    simp only [List.mem_cons, List.not_mem_nil, or_false] at hn
    omega
  obtain ⟨h0, h3, hne⟩ := hrange
  simp only [timeSetBody, ht]
  rw [if_neg (by simp [hw, hz, hobj, h0, h3]), if_neg (by simp [hmay]), if_neg hne]

theorem timeSetBody_of_tb3 (hn : c.f 1 127 120 = 3) (hmay : s.mayTimeSet 3 = true) :
    timeSetBody c s =
      let set := s.modTime (fun x => { x with tb3 := { x.tb3 with hostRunning := true, hostV := t * 65536 } })
      answer (if s.time.tb3.hostRunning then set.stepTb3 ((t * 65536 : Nat) - (s.time.tb3.hostV : Int)) else set) [] := by
  simp only [timeSetBody, ht]
  rw [if_neg (by simp [hw, hz, hobj, hn]), if_neg (by simp [hn, hmay]), if_pos hn]

end TimeSet

/-! ### Compares (R393) -/

theorem exec_timeCompare_of_body {c : Cmd} {s : State} {r : Ran} (h : AtHand (.timeCompare c) s)
    (hr : timeCompareBody c (taken c s) = r) : exec (.timeCompare c) s = .next (report c r) :=
  congrArg Host.Outcome.next ((hostCmd_atHand timeCompareBody rfl h).trans (congrArg (report c) hr))

/-- A slot is armed for a time that its base has yet to reach. -/
theorem timeCompareBody_of_later {c : Cmd} {s : State} {t v : Nat} (hw : c.okBits 1 (mask 127 104 + mask 79 0) = true)
    (hn : c.f 1 127 120 ≤ 3) (hk : c.f 1 119 112 ≤ 7) (hop : c.f 1 111 104 = 1) (hobj : timeObjOk c = true)
    (ht : time80Ns (c.f 1 79 0) = some t) (hv : s.baseNs (c.f 1 127 120) = some v) (hlater : v < t) (hnear : t - v < 2 ^ 39) :
    timeCompareBody c s =
      answer (s.modCompare (c.f 1 119 112) (fun _ => { armed := true, base := c.f 1 127 120, t := t })) [] := by
  have hrange : ¬(2 ^ 39 ≤ t - v ∨ 2 ^ 39 ≤ v - t) := by omega
  simp only [timeCompareBody, ht, hv, if_neg hrange, if_neg (Nat.not_le.mpr hlater)]
  rw [if_neg (by simp [hw, hop, hobj, hn, hk]), if_neg (by simp [hop])]

@[simp] theorem State.fireCompare_time (s : State) (slot flags : Nat) :
    (s.fireCompare slot flags).time =
      { s.time with compares := updAt s.time.compares slot (fun c => { c with armed := false }) } := by
  unfold State.fireCompare State.timeMatch
  rw [State.raise_time, State.setPend_time, State.modCompare_time]

theorem State.fireCompare_disarms (s : State) (slot flags : Nat) :
    ((s.fireCompare slot flags).time.compares.getD slot {}).armed = false := by
  rw [State.fireCompare_time, updAt_getD]
  split
  · rfl
  · rename_i h
    rw [List.getD_eq_getElem?_getD, List.getElem?_eq_none (by omega), Option.getD_none]

theorem State.fireCompare_pends (s : State) (slot flags : Nat) : (s.fireCompare slot flags).Pends 23 :=
  (State.pends_setPend_same _ (by decide)).raise (by decide) ..

/-- An armed slot fires once its base has gone on to its time. -/
theorem exec_compareFire_of_armed {s : State} {slot v : Nat} (hslot : slot < 8)
    (harmed : (s.time.compares.getD slot {}).armed = true) (hv : s.baseNs (s.time.compares.getD slot {}).base = some v) :
    exec (.compareFire slot) s = .next ((s.advance (s.tbWait (s.time.compares.getD slot {}).base
      ((s.time.compares.getD slot {}).t - v))).fireCompare slot 0) := by
  change execCompareFire slot s = _
  unfold execCompareFire
  simp only [hv, harmed]
  rw [if_neg (by simpa using hslot)]

/-! ### Latches and transmit timestamps (R398, R399) -/

/-- The latches after TIME_LATCH: those that its word names are taken, the others stay. -/
def State.latched (s : State) (w : Nat) : List Latch :=
  s.time.latches.zipIdx.map (fun (l, n) => if bit w n then s.latchOf n else l)

theorem State.latched_getD (s : State) (w : Nat) {n : Nat} (hn : n < s.time.latches.length) :
    (s.latched w).getD n {} = if bit w n then s.latchOf n else s.time.latches.getD n {} := by
  simp [State.latched, hn]

theorem exec_timeLatch_of_on {s : State} (hon : s.dev.state ≠ .off) (w : BitVec 32) :
    exec (.timeLatch w) s = .next (s.modTime (fun t => { t with latches := s.latched w.toNat })) :=
  congrArg Host.Outcome.next (if_neg (by simpa using hon))

theorem exec_tsqPop_of_on {s : State} (hon : s.dev.state ≠ .off) (p : Nat) :
    exec (.tsqPop p) s = .next (s.modTime (fun x => { x with
      tsq := updAt x.tsq p (fun q => { q with entries := q.entries.drop 1 }) })) :=
  congrArg Host.Outcome.next (if_neg (by simpa using hon))

/-! ### PPS_OUT and PPS_IN (R395, R396) -/

/-- A pulse of PPS_OUT after d ns, its rising edge noted. -/
def State.pulseAfter (s : State) (d : Nat) : State :=
  ((s.advance d).modTime (fun t => { t with ppsOutLast := some (s.advance d).now })).emit
    (.pulse "PPS_OUT" (bits (s.pget 0x12000053) 31 16))

theorem State.le_pulseAfter_now (s : State) (d : Nat) : s.now ≤ (s.pulseAfter d).now := by
  have e : (s.pulseAfter d).now = s.now + d := s.advance_now d
  rw [e]
  exact Nat.le_add_right s.now d

/-- While `time.pps_out` names a running base, the pulse comes after some wait. -/
theorem exec_ppsOutPulse_of_running {s : State} {v : Nat} (hk : bits (s.pget 0x12000053) 7 0 ≠ 0)
    (hv : s.baseNs (bits (s.pget 0x12000053) 7 0 - 1) = some v) : ∃ d, exec .ppsOutPulse s = .next (s.pulseAfter d) := by
  change ∃ d, execPpsOutPulse s = _
  unfold execPpsOutPulse
  simp only [hk, if_false, hv]
  exact ⟨_, rfl⟩

theorem exec_ppsInEdge_of_taken {s : State} (hsel : s.pget 0x12000054 = 1)
    (hgap : ∀ l, s.time.ppsInLast = some l → l + 500000000 ≤ s.now) :
    exec .ppsInEdge s =
      .next ((s.modTime (fun x => { x with ppsInLast := some s.now })).raise 0x12 6 0 (s.baseShort 1) (s.baseShort 2)) := by
  refine congrArg Host.Outcome.next (if_neg ?_)
  cases hl : s.time.ppsInLast with
  | none => simp [hsel]
  | some l => simpa [hsel] using hgap l hl

theorem exec_ppsInEdge_of_ignored {s : State}
    (h : s.pget 0x12000054 ≠ 1 ∨ ∃ l, s.time.ppsInLast = some l ∧ s.now < l + 500000000) : exec .ppsInEdge s = .next s := by
  refine congrArg Host.Outcome.next (if_pos (h.imp_right ?_))
  rintro ⟨l, hl, hsoon⟩
  simpa [hl] using hsoon

/-- An edge of PPS_IN moves at most the note of the last edge taken: it adjusts no base. -/
theorem exec_ppsInEdge_time (s : State) :
    ∃ u last, exec .ppsInEdge s = .next u ∧ u.time = { s.time with ppsInLast := last } := by
  by_cases h : s.pget 0x12000054 ≠ 1 ∨ ∃ l, s.time.ppsInLast = some l ∧ s.now < l + 500000000
  · exact ⟨s, s.time.ppsInLast, exec_ppsInEdge_of_ignored h, rfl⟩
  · obtain ⟨hsel, hgap⟩ := not_or.mp h
    have hlong : ∀ l, s.time.ppsInLast = some l → l + 500000000 ≤ s.now :=
      fun l hl => Nat.not_lt.mp (fun hsoon => hgap ⟨l, hl, hsoon⟩)
    exact ⟨_, _, exec_ppsInEdge_of_taken (Decidable.of_not_not hsel) hlong, by rw [State.raise_time, State.modTime_time]⟩

/-! ### The statement -/

/-- Settles O56: the clauses of TIME_SET and TIME_COMPARE by their bodies on checked operands, the others by the equation
of their event. -/
theorem timeBases : Obligations.TimeBases := by
  intro c s t v slot p w
  refine ⟨?starts, ?steps, ?tb3, ?barred, ?tb0, ?may, s.mayTimeSet_three_iff, ?compare, ?fire, ?latch,
    fun hon => exec_tsqPop_of_on hon p, ?pulse, exec_ppsInEdge_of_taken, exec_ppsInEdge_of_ignored, ?untouched⟩
  case starts =>
    intro h hw hz hn hobj ht hmay hrun
    exact exec_timeSet_of_body h
      ((timeSetBody_of_disciplined (taken c s) hw hz hobj ht hn hmay).trans (if_neg (Bool.eq_false_iff.mp hrun)))
  case steps =>
    intro h hw hz hn hobj ht hmay hrun
    exact exec_timeSet_of_body h ((timeSetBody_of_disciplined (taken c s) hw hz hobj ht hn hmay).trans (if_pos hrun))
  case tb3 =>
    intro h hw hz hn hobj ht hmay
    exact exec_timeSet_of_body h (timeSetBody_of_tb3 _ hw hz hobj ht hn hmay)
  case barred =>
    intro h hw hz hn hobj ht hmay
    exact exec_timeSet_of_body h (timeSetBody_of_barred _ hw hz hobj ht hn hmay)
  case tb0 => exact fun h hn => exec_timeSet_of_body h (timeSetBody_of_tb0 _ hn)
  case may =>
    intro n hn
    exact State.mayTimeSet_iff_of_ne (by rintro rfl; simp at hn) s
  case compare =>
    intro h hw hn hk hop hobj ht hv hlater hnear
    exact exec_timeCompare_of_body h (timeCompareBody_of_later hw hn hk hop hobj ht hv hlater hnear)
  case fire =>
    intro hslot harmed hv
    exact ⟨_, exec_compareFire_of_armed hslot harmed hv, State.fireCompare_disarms .., State.fireCompare_pends ..⟩
  case latch =>
    exact fun hon => ⟨_, exec_timeLatch_of_on hon w, fun n hn => s.latched_getD w.toNat hn, rfl, rfl, rfl, rfl⟩
  case pulse =>
    intro hk hv
    obtain ⟨d, hd⟩ := exec_ppsOutPulse_of_running hk hv
    exact ⟨_, hd, List.mem_cons_self, rfl, s.le_pulseAfter_now d⟩
  case untouched =>
    obtain ⟨u, last, hu, htime⟩ := exec_ppsInEdge_time s
    exact ⟨u, hu, by simp [htime]⟩

end Sys2Proof.Machine
end

