-- ==== Sys2Proof/Proofs/Step/Queue.lean ====
section
/-! PROOFS. The step and the queue: what every command of the table does to the queue and to the sizes of the register
files, one line for each row. -/

namespace Sys2Proof.Machine

open Sys2Proof Sys2Proof.Safety

/-! ### Every row answers a next state with the same queue and the same sizes, or the sizes after an entry to BOOT -/

theorem Keeps.reboots {s : State} {o : Host.Outcome State Fault Refusal} (h : Keeps s o) : Reboots s o :=
  let ⟨t, ht, hs⟩ := h
  ⟨t, ht, .inl hs⟩

/-- The table of the rows: RESTART and the edges of PORST_N enter BOOT or OFF, every other row keeps the shape. -/
theorem exec_reboots (s : State) : ∀ i : Instr, Reboots s (exec i s)
  | .nop c => (execNop_shape c s).reboots
  | .fence c => (execFence_shape c s).reboots
  | .fenceCompletion mb => (execFenceCompletion_shape mb s).reboots
  | .devInfo c => (execDevInfo_shape c s).reboots
  | .paramSet c => (execParamSet_shape c s).reboots
  | .paramGet c => (execParamGet_shape c s).reboots
  | .paramDiscard c => (execParamDiscard_shape c s).reboots
  | .commit c => (execCommit_shape c s).reboots
  | .objectCreate c => (execObjectCreate_shape c s).reboots
  | .objectCreateCompletion obj data => (execObjectCreateCompletion_shape obj data s).reboots
  | .objectDestroy c => (execObjectDestroy_shape c s).reboots
  | .objectRead c => (execObjectRead_shape c s).reboots
  | .objectReadCompletion job => (execObjectReadCompletion_shape job s).reboots
  | .restart c => execRestart_reboots c s
  | .fwStage c => (execFwStage_shape c s).reboots
  | .fwStageCompletion r => (execFwStageCompletion_shape r s).reboots
  | .fwActivate c => (execFwActivate_shape c s).reboots
  | .fwConfirm c => (execFwConfirm_shape c s).reboots
  | .fwStatus c => (execFwStatus_shape c s).reboots
  | .hostStatus c => (execHostStatus_shape c s).reboots
  | .mbCmdTailWrite mb v => (execMbCmdTailWrite_shape mb v s).reboots
  | .mbRspHeadWrite mb v => (execMbRspHeadWrite_shape mb v s).reboots
  | .pendingResponseWrite mb => (execPendingResponseWrite_shape mb s).reboots
  | .mbCfgWrite mb v => (execMbCfgWrite_shape mb v s).reboots
  | .ringFetchError mb => (execRingFetchError_shape mb s).reboots
  | .dmaReadTimeout t => (execDmaReadTimeout_shape t s).reboots
  | .eqCfgWrite v => (execEqCfgWrite_shape v s).reboots
  | .eqHeadWrite v => (execEqHeadWrite_shape v s).reboots
  | .eqHoldoffExpiry => (execEqHoldoffExpiry_shape s).reboots
  | .eventQueueWrite => (execEventQueueWrite_shape s).reboots
  | .irqStatusWrite hi v => (execIrqStatusWrite_shape hi v s).reboots
  | .irqMaskWrite hi v => (execIrqMaskWrite_shape hi v s).reboots
  | .msixEntryUnmask vector => (execMsixEntryUnmask_shape vector s).reboots
  | .functionLevelReset => (execFunctionLevelReset_shape s).reboots
  | .pcieLinkDown => (execPcieLinkDown_shape s).reboots
  | .pcieLinkUp speed width => (execPcieLinkUp_shape speed width s).reboots
  | .pcieError correctable aer => (execPcieError_shape correctable aer s).reboots
  | .registerWrite offset v => (execRegisterWrite_shape offset v s).reboots
  | .sceneOpen c => (execSceneOpen_shape c s).reboots
  | .sceneSubmit c => (execSceneSubmit_shape c s).reboots
  | .sceneSubmitCompletion slot => (execSceneSubmitCompletion_shape slot s).reboots
  | .sceneClose c => (execSceneClose_shape c s).reboots
  | .sceneCloseDrainComplete slot => (execSceneCloseDrainComplete_shape slot s).reboots
  | .sceneStatus c => (execSceneStatus_shape c s).reboots
  | .seqParams p => (execSeqParams_shape p s).reboots
  | .frameBegin p => (execFrameBegin_shape p s).reboots
  | .anchorParams p => (execAnchorParams_shape p s).reboots
  | .textureAu p => (execTextureAu_shape p s).reboots
  | .depthAu p => (execDepthAu_shape p s).reboots
  | .layerTable p => (execLayerTable_shape p s).reboots
  | .overlay p => (execOverlay_shape p s).reboots
  | .frameEnd p => (execFrameEnd_shape p s).reboots
  | .keepalive p => (execKeepalive_shape p s).reboots
  | .cue p => (execCue_shape p s).reboots
  | .sceneSilenceTimeout slot => (execSceneSilenceTimeout_shape slot s).reboots
  | .selectionPoint => (execSelectionPoint_shape s).reboots
  | .auDecodeStart st info => (execAuDecodeStart_shape st info s).reboots
  | .auDecodeComplete st res => (execAuDecodeComplete_shape st res s).reboots
  | .ctuTimeout core st res => (execCtuTimeout_shape core st res s).reboots
  | .auBudgetExpiry st stop res => (execAuBudgetExpiry_shape st stop res s).reboots
  | .decodeStatus c => (execDecodeStatus_shape c s).reboots
  | .decodeCores c => (execDecodeCores_shape c s).reboots
  | .geomInfo c => (execGeomInfo_shape c s).reboots
  | .geomRay c => (execGeomRay_shape c s).reboots
  | .rayTileDispatch cluster => (execRayTileDispatch_shape cluster s).reboots
  | .rayTileRetire cluster wait => (execRayTileRetire_shape cluster wait s).reboots
  | .rayTileTimeout cluster => (execRayTileTimeout_shape cluster s).reboots
  | .forecastQuarterCheck => (execForecastQuarterCheck_shape s).reboots
  | .bandCompress tile => (execBandCompress_shape tile s).reboots
  | .synthStatus c => (execSynthStatus_shape c s).reboots
  | .synthProbe c => (execSynthProbe_shape c s).reboots
  | .placeStatus c => (execPlaceStatus_shape c s).reboots
  | .placeObject c => (execPlaceObject_shape c s).reboots
  | .placeHint c => (execPlaceHint_shape c s).reboots
  | .placementEpochTick => (execPlacementEpochTick_shape s).reboots
  | .basketCopyComplete obj index kind dest => (execBasketCopyComplete_shape obj index kind dest s).reboots
  | .basketSourceRelease obj index => (execBasketSourceRelease_shape obj index s).reboots
  | .channelFailedMark ch => (execChannelFailedMark_shape ch s).reboots
  | .mirrorRestorationComplete => (execMirrorRestorationComplete_shape s).reboots
  | .compStatus c => (execCompStatus_shape c s).reboots
  | .cmpJob c => (execCmpJob_shape c s).reboots
  | .cmpJobOutputComplete src => (execCmpJobOutputComplete_shape src s).reboots
  | .cmpJobCopyComplete => (execCmpJobCopyComplete_shape s).reboots
  | .cmpCancel c => (execCmpCancel_shape c s).reboots
  | .cmpStatus c => (execCmpStatus_shape c s).reboots
  | .subframeBoundary => (execSubframeBoundary_shape s).reboots
  | .blockRow tile => (execBlockRow_shape tile s).reboots
  | .rowCutoff => (execRowCutoff_shape s).reboots
  | .keepAlive => (execKeepAlive_shape s).reboots
  | .latencyToleranceReport => (execLatencyToleranceReport_shape s).reboots
  | .modeChangeNeutralPair => (execModeChangeNeutralPair_shape s).reboots
  | .modeChangeTn => (execModeChangeTn_shape s).reboots
  | .panelMode c => (execPanelMode_shape c s).reboots
  | .timStatus c => (execTimStatus_shape c s).reboots
  | .capsRequest tile => (execCapsRequest_shape tile s).reboots
  | .capsReply tile rx => (execCapsReply_shape tile rx s).reboots
  | .status tile rx => (execStatus_shape tile rx s).reboots
  | .ack tile rx => (execAck_shape tile rx s).reboots
  | .ackTimeout tile => (execAckTimeout_shape tile s).reboots
  | .heartbeat tile => (execHeartbeat_shape tile s).reboots
  | .signalDetect tile => (execSignalDetect_shape tile s).reboots
  | .trainComplete tile laneOrder => (execTrainComplete_shape tile laneOrder s).reboots
  | .lockComplete tile => (execLockComplete_shape tile s).reboots
  | .portStateTimeout tile => (execPortStateTimeout_shape tile s).reboots
  | .bitslipSearch tile lane offsets => (execBitslipSearch_shape tile lane offsets s).reboots
  | .blockLockLoss tile rx => (execBlockLockLoss_shape tile rx s).reboots
  | .statusTimeout tile => (execStatusTimeout_shape tile s).reboots
  | .reconcileRetry tile => (execReconcileRetry_shape tile s).reboots
  | .dischargeTimeout tile => (execDischargeTimeout_shape tile s).reboots
  | .tilePwrEnStagger => (execTilePwrEnStagger_shape s).reboots
  | .bootTileTimeout tile => (execBootTileTimeout_shape tile s).reboots
  | .linkCtrl c => (execLinkCtrl_shape c s).reboots
  | .linkStatus c => (execLinkStatus_shape c s).reboots
  | .eyeScan c => (execEyeScan_shape c s).reboots
  | .eyeScanCompletion counts => (execEyeScanCompletion_shape counts s).reboots
  | .panelStatus c => (execPanelStatus_shape c s).reboots
  | .parasol c => (execParasol_shape c s).reboots
  | .tilePower c => (execTilePower_shape c s).reboots
  | .regionUpdate c => (execRegionUpdate_shape c s).reboots
  | .regionStagingComplete region src => (execRegionStagingComplete_shape region src s).reboots
  | .parasolVisit => (execParasolVisit_shape s).reboots
  | .stressSample => (execStressSample_shape s).reboots
  | .gainMapRebuild => (execGainMapRebuild_shape s).reboots
  | .gainMapRebuildComplete => (execGainMapRebuildComplete_shape s).reboots
  | .memStatus c => (execMemStatus_shape c s).reboots
  | .memChannel c => (execMemChannel_shape c s).reboots
  | .memSetpoint c => (execMemSetpoint_shape c s).reboots
  | .setpointSwitch ns => (execSetpointSwitch_shape ns s).reboots
  | .setpointTimeout => (execSetpointTimeout_shape s).reboots
  | .memRetrain c => (execMemRetrain_shape c s).reboots
  | .fullRetrainingEnd ch m0 m1 => (execFullRetrainingEnd_shape ch m0 m1 s).reboots
  | .trackingPassTimer ch => (execTrackingPassTimer_shape ch s).reboots
  | .trainingStep ch ns done => (execTrainingStep_shape ch ns done s).reboots
  | .refreshWindow => (execRefreshWindow_shape s).reboots
  | .dramTemperatureRead temps => (execDramTemperatureRead_shape temps s).reboots
  | .rowguardTableClear => (execRowguardTableClear_shape s).reboots
  | .bankActivate ch bank row => (execBankActivate_shape ch bank row s).reboots
  | .pageIdleTimeout ch bank => (execPageIdleTimeout_shape ch bank s).reboots
  | .scrubTick => (execScrubTick_shape s).reboots
  | .correctedRead ch bank addr cw merge => (execCorrectedRead_shape ch bank addr cw merge s).reboots
  | .correctedWriteback ch bank => (execCorrectedWriteback_shape ch bank s).reboots
  | .uncorrectableRead ch bank addr at_ both reader cw merge => (execUncorrectableRead_shape ch bank addr at_ both reader cw merge s).reboots
  | .encRing c => (execEncRing_shape c s).reboots
  | .encRelease c => (execEncRelease_shape c s).reboots
  | .encIdr c => (execEncIdr_shape c s).reboots
  | .encStatus c => (execEncStatus_shape c s).reboots
  | .encPictureDue n params => (execEncPictureDue_shape n params s).reboots
  | .encSliceComplete n data qp fallback bp => (execEncSliceComplete_shape n data qp fallback bp s).reboots
  | .monitorFrameStart back => (execMonitorFrameStart_shape back s).reboots
  | .monHpdRise sinkMax => (execMonHpdRise_shape sinkMax s).reboots
  | .irqHpd lost => (execIrqHpd_shape lost s).reboots
  | .monLinkTrainingEnd best => (execMonLinkTrainingEnd_shape best s).reboots
  | .monStatus c => (execMonStatus_shape c s).reboots
  | .monRetrain c => (execMonRetrain_shape c s).reboots
  | .cvuReset n v => (execCvuReset_shape n v s).reboots
  | .cvuData8 n v => (execCvuData8_shape n v s).reboots
  | .cvuData16 n v => (execCvuData16_shape n v s).reboots
  | .cvuData32 n v => (execCvuData32_shape n v s).reboots
  | .cvuFinal n v => (execCvuFinal_shape n v s).reboots
  | .g2dStart v => (execG2dStart_shape v s).reboots
  | .g2dAbort rows => (execG2dAbort_shape rows s).reboots
  | .g2dOperationEnd rows error part next => (execG2dOperationEnd_shape rows error part next s).reboots
  | .netStatus c => (execNetStatus_shape c s).reboots
  | .netFlow c => (execNetFlow_shape c s).reboots
  | .timeStatus c => (execTimeStatus_shape c s).reboots
  | .timeSet c => (execTimeSet_shape c s).reboots
  | .timeCompare c => (execTimeCompare_shape c s).reboots
  | .compareFire slot => (execCompareFire_shape slot s).reboots
  | .timeLatch v => (execTimeLatch_shape v s).reboots
  | .tsqPop p => (execTsqPop_shape p s).reboots
  | .ppsOutPulse => (execPpsOutPulse_shape s).reboots
  | .ppsInEdge => (execPpsInEdge_shape s).reboots
  | .ptpMessage base r => (execPtpMessage_shape base r s).reboots
  | .ptpSend base type seq => (execPtpSend_shape base type seq s).reboots
  | .announceReceiptTimeout base gm => (execAnnounceReceiptTimeout_shape base gm s).reboots
  | .netLinkChange port up => (execNetLinkChange_shape port up s).reboots
  | .udpDatagram port d => (execUdpDatagram_shape port d s).reboots
  | .reassemblyTimeout flow unit => (execReassemblyTimeout_shape flow unit s).reboots
  | .icmpEcho port arp => (execIcmpEcho_shape port arp s).reboots
  | .pwrStatus c => (execPwrStatus_shape c s).reboots
  | .paceReport c => (execPaceReport_shape c s).reboots
  | .thermStatus c => (execThermStatus_shape c s).reboots
  | .railStatus c => (execRailStatus_shape c s).reboots
  | .sagSample vcore pace => (execSagSample_shape vcore pace s).reboots
  | .supplyWarnNFall => (execSupplyWarnNFall_shape s).reboots
  | .supplyWarnNRise => (execSupplyWarnNRise_shape s).reboots
  | .avsTick r => (execAvsTick_shape r s).reboots
  | .pmbAlertNFall status => (execPmbAlertNFall_shape status s).reboots
  | .avsRetry r => (execAvsRetry_shape r s).reboots
  | .telemetryTick reads => (execTelemetryTick_shape reads s).reboots
  | .thermalSample temps => (execThermalSample_shape temps s).reboots
  | .thermtripShutdownTimeout => (execThermtripShutdownTimeout_shape s).reboots
  | .tempCompensationTick n => (execTempCompensationTick_shape n s).reboots
  | .domainUpStart => (execDomainUpStart_shape s).reboots
  | .domainUpComplete d failStep => (execDomainUpComplete_shape d failStep s).reboots
  | .domainDownComplete d => (execDomainDownComplete_shape d s).reboots
  | .domainTransitionTimeout d => (execDomainTransitionTimeout_shape d s).reboots
  | .safetyStatus c => (execSafetyStatus_shape c s).reboots
  | .safetyClear c => (execSafetyClear_shape c s).reboots
  | .safetyTest c => (execSafetyTest_shape c s).reboots
  | .safetyTestCompletion hit => (execSafetyTestCompletion_shape hit s).reboots
  | .rayProbeComplete probes => (execRayProbeComplete_shape probes s).reboots
  | .lockstepMismatch => (execLockstepMismatch_shape s).reboots
  | .fabricParityError => (execFabricParityError_shape s).reboots
  | .controlProcessorWatchdog => (execControlProcessorWatchdog_shape s).reboots
  | .hostHbWrite v => (execHostHbWrite_shape v s).reboots
  | .hostHbTimeout => (execHostHbTimeout_shape s).reboots
  | .smcAliveTick => (execSmcAliveTick_shape s).reboots
  | .pairStatus c => (execPairStatus_shape c s).reboots
  | .pairCtrl c => (execPairCtrl_shape c s).reboots
  | .xlinkStateSend => (execXlinkStateSend_shape s).reboots
  | .xlinkState m => (execXlinkState_shape m s).reboots
  | .xlinkStateTimeout => (execXlinkStateTimeout_shape s).reboots
  | .ledger frame sf settled rows => (execLedger_shape frame sf settled rows s).reboots
  | .handover kind epoch => (execHandover_shape kind epoch s).reboots
  | .hello epoch => (execHello_shape epoch s).reboots
  | .pairJoinTimeout => (execPairJoinTimeout_shape s).reboots
  | .witnessTimeout => (execWitnessTimeout_shape s).reboots
  | .autoDegradeTimer => (execAutoDegradeTimer_shape s).reboots
  | .porstNAssert => execPorstNAssert_reboots s
  | .porstNRelease sideB strapBoot => execPorstNRelease_reboots sideB strapBoot s
  | .vaonPowerOn => (execVaonPowerOn_shape s).reboots
  | .aonCounterTick => (execAonCounterTick_shape s).reboots
  | .firmwareLoadComplete r0 r1 => (execFirmwareLoadComplete_shape r0 r1 s).reboots
  | .channelTrainingComplete ch m0 m1 => (execChannelTrainingComplete_shape ch m0 m1 s).reboots
  | .synthesisStartupComplete => (execSynthesisStartupComplete_shape s).reboots
  | .selftestConditionCheck clk vMin vMax => (execSelftestConditionCheck_shape clk vMin vMax s).reboots
  | .selftestDomainComplete d sig count => (execSelftestDomainComplete_shape d sig count s).reboots
  | .shutdown c => (execShutdown_shape c s).reboots
  | .selftestRecord c => (execSelftestRecord_shape c s).reboots
  | .calStatus c => (execCalStatus_shape c s).reboots
  | .dmaReadPoisoned t => (execDmaReadPoisoned_shape t s).reboots
  | .detectRetryWait tile => (execDetectRetryWait_shape tile s).reboots
  | .l1WakeActive tile => (execL1WakeActive_shape tile s).reboots
  | .smcStartChecksPass => (execSmcStartChecksPass_shape s).reboots
  | .recordSectorProgrammed => (execRecordSectorProgrammed_shape s).reboots
  | .switchoverClaim => (execSwitchoverClaim_shape s).reboots

/-- What a row leaves of the queue and of the sizes. -/
theorem exec_shape {i : Instr} {s t : State} (h : exec i s = .next t) :
    t.shape = s.shape ∨ t.shape = Shape.boot s.shape.pending s.shape.tiles ∨ t.shape = Shape.boot s.shape.pending 16 := by
  obtain ⟨u, hu, hs⟩ := exec_reboots s i
  obtain rfl : u = t := Host.Outcome.next.inj (hu.symm.trans h)
  exact hs

theorem exec_pending {i : Instr} {s t : State} (h : exec i s = .next t) : t.pending = s.pending := by
  change t.shape.pending = s.shape.pending
  obtain e | e | e := exec_shape h <;> rw [e] <;> rfl

/-! ### Sizes -/

theorem sized_iff_shape (s : State) : Sized s ↔ s.shape = Shape.boot s.pending 16 := by
  constructor
  · rintro ⟨mb, ports, tiles, chans, clusters, cores, cvu, compares, latches, tsq, netPorts⟩
    simp only [State.shape, Shape.boot, mb, ports, tiles, chans, clusters, cores, cvu, compares, latches, tsq, netPorts]
  · intro h
    simp only [State.shape, Shape.boot, Shape.mk.injEq, true_and] at h
    obtain ⟨mb, ports, tiles, chans, clusters, cores, cvu, compares, latches, tsq, netPorts⟩ := h
    exact ⟨mb, ports, tiles, chans, clusters, cores, cvu, compares, latches, tsq, netPorts⟩

theorem sized_of_shape {s t : State} (hs : Sized s) (h : t.shape = s.shape) : Sized t := by
  rw [sized_iff_shape] at hs ⊢
  have hp : t.pending = s.pending := congrArg Shape.pending h
  rw [h, hs, hp]

theorem sized_exec {i : Instr} {s t : State} (hs : Sized s) (h : exec i s = .next t) : Sized t := by
  have hp : t.pending = s.shape.pending := exec_pending h
  have ht : s.shape.tiles = 16 := hs.tiles
  obtain e | e | e := exec_shape h
  · exact sized_of_shape hs e
  · rw [sized_iff_shape, e, hp, ht]
  · rw [sized_iff_shape, e, hp]

/-- What the block does of itself before a command keeps the sizes: a ring's head is taken, a packet resumes, or time
passes. -/
theorem State.idle_shape (s : State) : s.idle.2.shape = s.shape := by
  unfold State.idle
  split
  · split
    · rfl
    · exact State.modMb_shape s _ _
  · split <;> rfl

theorem sized_step {s t : State} (hs : Sized s) (h : step s = .next t) : Sized t := by
  unfold step at h
  split at h
  · rename_i c rest _
    have hq : Sized { s with pending := rest } := ⟨hs.mailboxes, hs.ports, hs.tiles, hs.channels, hs.clusters, hs.cores, hs.cvus,
      hs.compares, hs.latches, hs.stampQueues, hs.netPorts⟩
    exact sized_exec hq h
  · have hi : Sized s.idle.2 := sized_of_shape hs s.idle_shape
    split at h
    · rename_i c u e
      rw [e] at hi
      exact sized_exec hi h
    · rename_i u e
      rw [e] at hi
      exact Host.Outcome.next.inj h ▸ hi

/-! ### The statements -/

/-- Settles O1, by the equation of the step on a queue with a front. -/
theorem stepRunsFront : Obligations.StepRunsFront := by
  intro s c rest h
  unfold step
  rw [h]

/-- Settles O3, by the table of the rows: each answers a next state. -/
theorem noCommandStops : Obligations.NoCommandStops := by
  intro i s
  obtain ⟨t, ht, -⟩ := exec_reboots s i
  exact ⟨t, ht⟩

/-- Settles O4, by the table of the rows: each leaves the shape of the state, or that of an entry to BOOT with the same
queue. -/
theorem queueUntouched : Obligations.QueueUntouched := fun _ _ _ h => exec_pending h

/-- Settles O5: a command keeps the sizes or enters BOOT, which has the sizes of the reset; so does an idle step. -/
theorem stepKeepsSizes : Obligations.StepKeepsSizes := fun _ _ hs h => sized_step hs h

/-- Settles O6, by the fields of the reset state. -/
theorem resetState : Obligations.ResetState := by
  refine ⟨(sized_iff_shape _).mpr rfl, rfl, rfl, rfl, rfl, fun x hx => ?ledgers⟩
  case ledgers =>
    obtain rfl := List.eq_of_mem_replicate (n := 16) (a := ({} : TileDrive)) hx
    exact ⟨rfl, rfl⟩

end Sys2Proof.Machine
end

