-- ==== Sys2Proof/Proofs/HostInterface/Commands.lean ====
section
/-! PROOFS. Host commands (R49 to R57): the checks, the wait in a ring, the answer, and the end of a job. -/

namespace Sys2Proof.Machine

open Sys2Proof Sys2Proof.Safety

/-! ### Every host command is one wrapper around its body -/

/-- The row of a host command is what its meaning checks: the body and the late effect are its own, the rest is
`hostCmdWith`. -/
theorem exec_of_hostRow {i : Instr} {c : Cmd} {row : CmdRow} (h : hostRow i = some (c, row)) :
    ∃ body post, ∀ s, exec i s = .next (hostCmdWith i row body post c s) := by
  unfold hostRow at h
  split at h
  all_goals simp only [Option.some.injEq, Prod.mk.injEq, reduceCtorEq] at h
  all_goals
    obtain ⟨rfl, rfl⟩ := h
    exact ⟨_, _, fun _ => rfl⟩

/-- Settles O7: a host command that fails a check never reaches its body. -/
theorem firstFailedCheck : Obligations.FirstFailedCheck := by
  intro i c row s st hrow hfetched hfailed
  obtain ⟨body, post, hexec⟩ := exec_of_hostRow hrow
  exact (hexec s).trans (congrArg Host.Outcome.next (hostCmdWith_failed body post hrow hfetched hfailed))

/-- Settles O8: a host command that is not taken goes back to its ring. -/
theorem waitsInRing : Obligations.WaitsInRing := by
  intro i c row s hrow hwaits
  obtain ⟨body, post, hexec⟩ := exec_of_hostRow hrow
  exact (hexec s).trans (congrArg Host.Outcome.next (hostCmdWith_waits body post hrow hwaits))

/-! ### The answer (R53) and the end of a job (R52) leave the other groups alone -/

/-- A part of the state that `State.restJobs` keeps reads alike in two states that agree on the rest. -/
theorem State.congr_restJobs {α : Type} {s t : State} (f : State → α) (hf : ∀ z : State, f z.restJobs = f z)
    (h : t.restJobs = s.restJobs) : f t = f s := (hf t).symm.trans ((congrArg f h).trans (hf s))

/-- Settles O9: the answer keeps `State.restJobs`, which holds each of these groups. -/
theorem reportFrame : Obligations.ReportFrame := by
  intro c s a t
  have same {α : Type} (f : State → α) (hf : ∀ z : State, f z.restJobs = f z) : f t = f s :=
    State.congr_restJobs f hf (report_restJobs c ⟨s, a⟩)
  exact ⟨same (·.dev) fun _ => rfl, same (·.par) fun _ => rfl, same (·.objs) fun _ => rfl, same (·.fw) fun _ => rfl,
    same (·.tim) fun _ => rfl, same (·.time) fun _ => rfl, same (·.mem) fun _ => rfl, same (·.pwr) fun _ => rfl,
    same (·.saf) fun _ => rfl, same (·.pair) fun _ => rfl, same (·.start) fun _ => rfl, same (·.direct) fun _ => rfl,
    same (·.enc) fun _ => rfl, same (·.ingest) fun _ => rfl, same (·.dec) fun _ => rfl, same (·.synth) fun _ => rfl,
    same (·.place) fun _ => rfl, same (·.link) fun _ => rfl, same (·.panel) fun _ => rfl, same (·.comp) fun _ => rfl,
    same (·.free) fun _ => rfl, same (·.pending) fun _ => rfl, same (·.host.eq.head) fun _ => rfl,
    same (·.host.irq.mask) fun _ => rfl, same (·.host.pcie) fun _ => rfl⟩

/-- Settles O21: the job goes (`State.endJob_jobs`), and its response and CMD_DONE keep `State.restJobs`. -/
theorem jobEnds : Obligations.JobEnds := by
  intro s id st ws t
  have same {α : Type} (f : State → α) (hf : ∀ z : State, f z.restJobs = f z) : f t = f s :=
    State.congr_restJobs f hf (State.endJob_restJobs s id st ws)
  obtain ⟨hjobs, hnext⟩ := State.endJob_jobs s id st ws
  exact ⟨hjobs, hnext, same (·.par) fun _ => rfl, same (·.objs) fun _ => rfl, same (·.dev) fun _ => rfl,
    same (·.tim) fun _ => rfl, same (·.panel) fun _ => rfl, same (·.link) fun _ => rfl, same (·.place) fun _ => rfl,
    same (·.saf) fun _ => rfl, same (·.mem) fun _ => rfl, same (·.pwr) fun _ => rfl, same (·.time) fun _ => rfl,
    same (·.fw) fun _ => rfl, same (·.ingest) fun _ => rfl, same (·.comp) fun _ => rfl, same (·.enc) fun _ => rfl,
    same (·.pending) fun _ => rfl⟩

/-! ### A response (R39, R53) -/

@[simp] theorem State.setPend_mailbox (s : State) (v n : Nat) : (s.setPend v).mailbox n = s.mailbox n := by
  have e := congrArg (fun z : State => z.mailbox n) (State.setPend_rest s v)
  exact e

theorem State.respond_of_room {s : State} {mb : Nat} (r : Rsp) (hw : (s.mailbox mb).writes = true)
    (hfull : (s.mailbox mb).rspFull = false) (hheld : (s.mailbox mb).held = []) : s.respond mb r = s.putRsp mb r := by
  simp [State.respond, hw, hfull, hheld]

theorem State.putRsp_sent (s : State) (mb : Nat) (r : Rsp) :
    Out.response mb (s.mailbox mb).rspTail.toNat r ∈ (s.putRsp mb r).out :=
  sent_setPend _ (2 + mb) _ List.mem_cons_self

theorem State.putRsp_mailbox (s : State) (mb : Nat) (r : Rsp) (n : Nat) :
    (s.putRsp mb r).mailbox n =
      if mb = n ∧ n < s.host.mb.length then { s.mailbox n with rspTail := (s.mailbox n).rspTail + 1 } else s.mailbox n :=
  (State.setPend_mailbox ..).trans (State.mailbox_modMb ..)

/-- Settles O10, by the response written at the tail of a ring with room. -/
theorem responseWritten : Obligations.ResponseWritten := by
  intro c s st ws hlen hmb hwant hquiet hw hfull hheld t r
  have ht : t = s.putRsp c.mb r := by
    have h : t = s.respond c.mb r := by simp only [t, r, report, hwant, hquiet, if_true, Bool.false_eq_true, if_false]
    exact h.trans (State.respond_of_room r hw hfull hheld)
  rw [ht]
  refine ⟨State.putRsp_sent s c.mb r, ?tail, State.pends_setPend_same _ (by omega), fun n hn => ?others⟩
  case tail => rw [State.putRsp_mailbox, if_pos ⟨rfl, hlen⟩]
  case others => rw [State.putRsp_mailbox, if_neg (fun e => hn e.1.symm)]

/-! ### Commands at hand -/

section AtHand
variable {i : Instr} {row : CmdRow} {c : Cmd} {s : State} {body : Cmd → State → Ran} {r : Ran}

/-- A command at hand reports what its body answers on the state that has taken it. -/
theorem next_hostCmd (h : hostRow i = some (c, row)) (a : AtHand i s) (hr : body c (taken c s) = r) :
    Host.Outcome.next (φ := Fault) (ρ := Refusal) (hostCmd i row body c s) = .next (report c r) :=
  congrArg Host.Outcome.next ((hostCmd_atHand body h a).trans (congrArg (report c) hr))

/-- A command at hand that is completed or accepted has its late effect after its report. -/
theorem next_hostCmdWith {post : Cmd → State → State} (h : hostRow i = some (c, row)) (a : AtHand i s)
    (hr : body c (taken c s) = r) (hok : r.a.status = stOk ∨ r.a.status = stAccepted) :
    Host.Outcome.next (φ := Fault) (ρ := Refusal) (hostCmdWith i row body post c s) = .next (post c (report c r)) := by
  rw [hostCmdWith_atHand body post h a, hr, if_pos hok]

/-- One that is refused or warned has none. -/
theorem next_hostCmdWith_of_refused {post : Cmd → State → State} (h : hostRow i = some (c, row)) (a : AtHand i s)
    (hr : body c (taken c s) = r) {st : Nat} (hst : r.a.status = st) (hok : ¬(st = stOk ∨ st = stAccepted)) :
    Host.Outcome.next (φ := Fault) (ρ := Refusal) (hostCmdWith i row body post c s) = .next (report c r) := by
  rw [hostCmdWith_atHand body post h a, hr, if_neg (hst ▸ hok)]

theorem report_start (c : Cmd) (r : Ran) : (report c r).start = r.s.start :=
  State.congr_restJobs (·.start) (fun _ => rfl) (report_restJobs c r)

theorem State.serveCore_of_unserved {s : State} (h : s.start.service = false) : s.serveCore = s := by
  simp [State.serveCore, h]

/-- A command that would stop a self-test met none (R465). -/
theorem next_hostCmdWith_serveCore (h : hostRow i = some (c, row)) (a : AtHand i s) (hr : body c (taken c s) = r)
    (hs : r.s.start.service = false) :
    Host.Outcome.next (φ := Fault) (ρ := Refusal) (hostCmdWith i row body (fun _ s => s.serveCore) c s) = .next (report c r) := by
  have e : (report c r).serveCore = report c r := State.serveCore_of_unserved (by rw [report_start, hs])
  rw [hostCmdWith_atHand body _ h a, hr, e, ite_self]

end AtHand

/-- Settles O20: acceptance by the body of FENCE; the completion acts on the oldest job of its mailbox alone. -/
theorem fenceOrder : Obligations.FenceOrder := by
  intro c s mb
  refine ⟨fun h => next_hostCmd rfl h rfl, ?ends, ?waits⟩
  case ends =>
    intro j hj hkey
    change execFenceCompletion mb s = _
    simp [execFenceCompletion, hj, hkey]
  case waits =>
    intro j hj hkey
    change execFenceCompletion mb s = _
    simp [execFenceCompletion, hj, hkey]

end Sys2Proof.Machine
end

