-- ==== Sys2Proof/Proofs/HostInterface/Reports.lean ====
section
/-! PROOFS. Commands that report (R55, section 2.7 and the STATUS commands of the chapters): what they answer, that they
change nothing else, and their clear bits. -/

namespace Sys2Proof.Machine

open Sys2Proof Sys2Proof.Safety

/-! ### Reports without a change -/

section Reads
variable {i : Instr} {row : CmdRow} {c : Cmd} {s : State} {body : Cmd → State → Ran} {ws : List Word}

/-- A report that takes no free value. -/
theorem reads_of_next (h : exec i s = .next (report c (answer (taken c s) ws))) : Reads i c s ws := ⟨0, h⟩

theorem reads_of_hostCmd (hexec : exec i s = .next (hostCmd i row body c s)) (h : hostRow i = some (c, row)) (a : AtHand i s)
    (hr : body c (taken c s) = answer (taken c s) ws) : Reads i c s ws :=
  reads_of_next (hexec.trans (next_hostCmd h a hr))

/-- A report of a command that would stop a self-test, where there is none to stop. -/
theorem reads_of_serveCore (hexec : exec i s = .next (hostCmdWith i row body (fun _ s => s.serveCore) c s))
    (h : hostRow i = some (c, row)) (a : AtHand i s) (ht : NoTestMet c s) (hr : body c (taken c s) = answer (taken c s) ws) :
    Reads i c s ws :=
  reads_of_next (hexec.trans (next_hostCmdWith_serveCore h a hr ht))

end Reads

/-! ### Reports with a clear bit: one equation for each body -/

theorem okBits_refused {c : Cmd} {n m : Nat} (h : c.okBits n m = true) : ¬(!c.okBits n m) = true := by simp [h]

section ClearBit
variable {c : Cmd} (hok : c.okBits 1 1 = true) (s : State)
include hok

theorem hostStatusBody_of_ok : ∃ w, hostStatusBody c s = answer
    (if c.f 1 0 0 = 1 then { s with host := { s.host with pcie := { s.host.pcie with corr := 0, uncorr := 0, cto := 0 } } } else s) [w] :=
  ⟨_, if_neg (okBits_refused hok)⟩

theorem sceneStatusBody_of_ok {x : Scene} (hx : s.sceneOf c.object.toNat = some x) : sceneStatusBody c s = answer
    (if c.f 1 0 0 = 1 then s.modScene x.slot (fun y => { y with
      received := 0, discarded := 0, late := 0, dropped := 0, incomplete := 0, concealed := 0 }) else s) (sceneStatusWords x) := by
  unfold sceneStatusBody
  rw [hx]
  exact if_neg (okBits_refused hok)

theorem synthStatusBody_of_ok : ∃ w1 w2 w3 w4, synthStatusBody c s = answer
    (if bit (c.w 1) 0 then { s with synth := { s.synth with degraded := 0, escalated := 0, resets := 0, waitMax := 0 } } else s)
    [w1, w2, w3, w4] := by
  unfold synthStatusBody
  rw [if_neg (by simp [hok])]
  exact ⟨_, _, _, _, rfl⟩

/-- The rate of evictions that a PLACE_STATUS shows is a free value. -/
theorem placeStatusBody_of_ok : ∃ r, placeStatusBody c s = answer
    ((if c.f 1 0 0 = 1 then { s with place := { s.place with migrated := 0, steals := 0, evicted := 0 } } else s : State).takeFree
      (2 ^ 32)).1 (placeStatusWords s r) :=
  ⟨_, if_neg (okBits_refused hok)⟩

theorem cmpStatusBody_of_ok : ∃ w1 w2 w3, cmpStatusBody c s = answer
    (if c.f 1 0 0 = 1 then s.modComp (fun x => { x with jobsOk := 0, jobsFailed := 0 }) else s) [w1, w2, w3] :=
  ⟨_, _, _, if_neg (okBits_refused hok)⟩

theorem timStatusBody_of_ok : ∃ w1 w2 w3, timStatusBody c s = answer
    (if bit (c.w 1) 0 then { s with tim := { s.tim with holds := 0, underrun := 0, freeze := 0 } } else s) [w1, w2, w3] :=
  ⟨_, _, _, if_neg (okBits_refused hok)⟩

theorem linkStatusBody_of_ok : linkStatusBody c s = answer
    (if c.f 1 0 0 = 1 then { s with link := { s.link with
      ports := s.link.ports.map (fun p => { p with retrains := 0, rcrc := 0, missing := 0, hcrc := 0 }) } } else s)
    (s.link.ports.map linkWord) :=
  if_neg (okBits_refused hok)

theorem panelStatusBody_of_ok : ∃ w1 w2 w3, panelStatusBody c s = answer
    (if c.f 1 0 0 = 1 then { s with panel := { s.panel with fmFail := 0, excursions := 0, visits := 0 } } else s) [w1, w2, w3] :=
  ⟨_, _, _, if_neg (okBits_refused hok)⟩

/-- The traffic that a MEM_STATUS shows is a free value. -/
theorem memStatusBody_of_ok : ∃ r, memStatusBody c s = answer
    (if c.f 1 0 0 = 1 then (s.takeFree (2 ^ 32)).1.modMem (fun m => { m with ce := 0, ue := 0, guard := 0, stalls := 0 })
      else (s.takeFree (2 ^ 32)).1) (memStatusWords s r) :=
  ⟨_, if_neg (okBits_refused hok)⟩

theorem pwrStatusBody_of_ok : pwrStatusBody c s = answer
    (if c.f 1 0 0 = 1 then s.modPwr (fun p => { p with sagRises := 0, warnFalls := 0, throttleMs := 0, pmbErrors := 0 }) else s)
    (pwrStatusWords s) :=
  if_neg (okBits_refused hok)

theorem thermStatusBody_of_ok : thermStatusBody c s = answer
    (if c.f 1 0 0 = 1 then s.modPwr (fun p => { p with warnings := 0, throttles := 0 }) else s) (thermStatusWords s) :=
  if_neg (okBits_refused hok)

end ClearBit

/-- Settles O11: a report's body answers on the state it is given; with its clear bit 0 the state it answers with is that
one too. -/
theorem reports : Obligations.Reports := by
  refine ⟨fun c s => ⟨fun h => reads_of_hostCmd rfl rfl h rfl, fun h => reads_of_hostCmd rfl rfl h rfl,
    fun h => reads_of_hostCmd rfl rfl h rfl, fun h => reads_of_hostCmd rfl rfl h rfl, fun h => reads_of_hostCmd rfl rfl h rfl,
    fun h => reads_of_hostCmd rfl rfl h rfl, fun h ht => reads_of_serveCore rfl rfl h ht rfl,
    fun h ht => reads_of_serveCore rfl rfl h ht rfl, fun h ht => reads_of_serveCore rfl rfl h ht rfl,
    fun h => ⟨_, reads_of_hostCmd rfl rfl h rfl⟩, fun h => ⟨_, _, reads_of_hostCmd rfl rfl h rfl⟩,
    fun h ht => ⟨_, _, reads_of_serveCore rfl rfl h ht rfl⟩, fun h ht => ⟨_, _, reads_of_serveCore rfl rfl h ht rfl⟩⟩, ?counters⟩
  intro c s hclear hok
  have hkeep : ¬c.f 1 0 0 = 1 := by omega
  have hbit : ¬bit (c.w 1) 0 = true := fun h => hkeep (beq_iff_eq.mp h)
  refine ⟨?host, ?scene, ?synth, ?place, ?cmp, ?tim, fun h => ?link, ?panel, ?mem, fun h ht => ?pwr, fun h ht => ?therm⟩
  case host =>
    intro h
    obtain ⟨w, hw⟩ := hostStatusBody_of_ok hok (taken c s)
    exact ⟨w, reads_of_hostCmd rfl rfl h (by rw [hw, if_neg hkeep])⟩
  case scene =>
    intro x h hx
    exact reads_of_hostCmd rfl rfl h (by rw [sceneStatusBody_of_ok hok (taken c s) hx, if_neg hkeep])
  case synth =>
    intro h
    obtain ⟨w1, w2, w3, w4, hw⟩ := synthStatusBody_of_ok hok (taken c s)
    exact ⟨w1, w2, w3, w4, reads_of_hostCmd rfl rfl h (by rw [hw, if_neg hbit])⟩
  case place =>
    intro h
    obtain ⟨r, hr⟩ := placeStatusBody_of_ok hok (taken c s)
    rw [if_neg hkeep] at hr
    exact ⟨r, 1, next_hostCmd rfl h hr⟩
  case cmp =>
    intro h
    obtain ⟨w1, w2, w3, hw⟩ := cmpStatusBody_of_ok hok (taken c s)
    exact ⟨w1, w2, w3, reads_of_hostCmd rfl rfl h (by rw [hw, if_neg hkeep])⟩
  case tim =>
    intro h
    obtain ⟨w1, w2, w3, hw⟩ := timStatusBody_of_ok hok (taken c s)
    exact ⟨w1, w2, w3, reads_of_hostCmd rfl rfl h (by rw [hw, if_neg hbit])⟩
  case link => exact reads_of_hostCmd rfl rfl h (by rw [linkStatusBody_of_ok hok, if_neg hkeep]; rfl)
  case panel =>
    intro h
    obtain ⟨w1, w2, w3, hw⟩ := panelStatusBody_of_ok hok (taken c s)
    exact ⟨w1, w2, w3, reads_of_hostCmd rfl rfl h (by rw [hw, if_neg hkeep])⟩
  case mem =>
    intro h
    obtain ⟨r, hr⟩ := memStatusBody_of_ok hok (taken c s)
    rw [if_neg hkeep] at hr
    exact ⟨r, 1, next_hostCmd rfl h hr⟩
  case pwr => exact reads_of_serveCore rfl rfl h ht (by rw [pwrStatusBody_of_ok hok, if_neg hkeep]; rfl)
  case therm => exact reads_of_serveCore rfl rfl h ht (by rw [thermStatusBody_of_ok hok, if_neg hkeep]; rfl)

/-! ### What a report leaves of the groups that it clears (O13) -/

/-- A group that `State.restJobs` keeps is after a report as the body left it. -/
theorem report_part {α : Type} (f : State → α) (hf : ∀ z : State, f z.restJobs = f z) (c : Cmd) (r : Ran) :
    f (report c r) = f r.s := State.congr_restJobs f hf (report_restJobs c r)

/-- Settles O13: with its clear bit 1 a report's body answers on the state with its counters at 0, and the report keeps
their group. -/
theorem clearCounters : Obligations.ClearCounters := by
  intro c s hclear hok
  have hbit : bit (c.w 1) 0 = true := beq_iff_eq.mpr hclear
  refine ⟨?host, ?synth, ?place, ?cmp, ?tim, ?panel, ?mem, fun h ht => ?pwr, fun h ht => ?therm, fun h => ?link⟩
  case host =>
    intro h
    obtain ⟨w, hw⟩ := hostStatusBody_of_ok hok (taken c s)
    rw [if_pos hclear] at hw
    refine ⟨_, next_hostCmd rfl h hw, ?_⟩
    rw [report_part (·.host.pcie) fun _ => rfl]
    exact ⟨rfl, rfl, rfl⟩
  case synth =>
    intro h
    obtain ⟨w1, w2, w3, w4, hw⟩ := synthStatusBody_of_ok hok (taken c s)
    rw [if_pos hbit] at hw
    refine ⟨_, next_hostCmd rfl h hw, ?_⟩
    rw [report_part (·.synth) fun _ => rfl]
    exact ⟨rfl, rfl, rfl, rfl, rfl⟩
  case place =>
    intro h
    obtain ⟨r, hr⟩ := placeStatusBody_of_ok hok (taken c s)
    rw [if_pos hclear] at hr
    refine ⟨_, next_hostCmd rfl h hr, ?_⟩
    rw [report_part (·.place) fun _ => rfl]
    exact ⟨rfl, rfl, rfl, rfl⟩
  case cmp =>
    intro h
    obtain ⟨w1, w2, w3, hw⟩ := cmpStatusBody_of_ok hok (taken c s)
    rw [if_pos hclear] at hw
    refine ⟨_, next_hostCmd rfl h hw, ?_⟩
    rw [report_part (·.comp) fun _ => rfl]
    exact ⟨rfl, rfl, rfl⟩
  case tim =>
    intro h
    obtain ⟨w1, w2, w3, hw⟩ := timStatusBody_of_ok hok (taken c s)
    rw [if_pos hbit] at hw
    exact ⟨_, next_hostCmd rfl h hw, report_part (·.tim) (fun _ => rfl) c _⟩
  case panel =>
    intro h
    obtain ⟨w1, w2, w3, hw⟩ := panelStatusBody_of_ok hok (taken c s)
    rw [if_pos hclear] at hw
    exact ⟨_, next_hostCmd rfl h hw, report_part (·.panel) (fun _ => rfl) c _⟩
  case mem =>
    intro h
    obtain ⟨r, hr⟩ := memStatusBody_of_ok hok (taken c s)
    rw [if_pos hclear] at hr
    exact ⟨_, next_hostCmd rfl h hr, report_part (·.mem) (fun _ => rfl) c _⟩
  case pwr =>
    have hr := pwrStatusBody_of_ok hok (taken c s)
    rw [if_pos hclear] at hr
    exact ⟨_, next_hostCmdWith_serveCore rfl h hr ht, report_part (·.pwr) (fun _ => rfl) c _⟩
  case therm =>
    have hr := thermStatusBody_of_ok hok (taken c s)
    rw [if_pos hclear] at hr
    exact ⟨_, next_hostCmdWith_serveCore rfl h hr ht, report_part (·.pwr) (fun _ => rfl) c _⟩
  case link =>
    have hr := linkStatusBody_of_ok hok (taken c s)
    rw [if_pos hclear] at hr
    exact ⟨_, next_hostCmd rfl h hr, report_part (·.link) (fun _ => rfl) c _⟩

end Sys2Proof.Machine
end

