-- ==== Sys2Proof/Proofs/HostInterface/NamedReports.lean ====
section
/-! PROOFS. Commands that report on what their operands name: parameters, objects, rays, channels, ports, anchors. -/

namespace Sys2Proof.Machine

open Sys2Proof Sys2Proof.Safety

section Bodies
variable {c : Cmd} (s : State)

theorem paramGetBody_of_known (hn : 0 < c.nWords)
    (hok : ∀ n, n < c.nWords → bits (c.w (n + 1)) 95 88 ≤ 1 ∧ bits (c.w (n + 1)) 87 0 = 0 ∧ (paramDef (bits (c.w (n + 1)) 127 96)).isSome) :
    paramGetBody c s = answer s ((List.range c.nWords).map (fun n => s.getWord (c.w (n + 1)))) := by
  unfold paramGetBody
  rw [if_neg (by omega), if_neg]
  simp only [Bool.not_eq_true', Bool.not_eq_false, List.all_eq_true, List.mem_range]
  intro n hlt
  obtain ⟨hsel, hzero, hdef⟩ := hok n hlt
  simp [hsel, hzero, hdef]

theorem geomInfoBody_of_object {o : Obj} (ho : s.obj? c.object.toNat = some o) :
    ∃ w1 w2 w3, geomInfoBody c s = answer s [w1, w2, w3] := by
  unfold geomInfoBody
  rw [ho]
  exact ⟨_, _, _, rfl⟩

theorem geomRayBody_of_args {o : Obj} {e : TileEnt} {i j k : Nat} (ho : s.obj? c.object.toNat = some o)
    (he : geomRayArgs (parseGeom o.data) c = some (e, i, j, k)) :
    geomRayBody c s = answer s (rayWords (parseGeom o.data) e i j k) := by
  simp only [geomRayBody, ho, he]

theorem synthProbeBody_of_args {x : FrameFix} {g : Geom} {e : TileEnt} {i j k : Nat} (hfull : s.dev.state.full = true)
    (hx : s.synth.cur = some x) (hb : x.blanket = false) (hg : x.geom = some g) (he : geomRayArgs g c = some (e, i, j, k))
    (hk : x.states.contains k = true) :
    synthProbeBody c s = answer s (probeWords (x.rayResult g e (s.tileStep x e.tile k (j / 16) (i / 64)) i j k)
      (s.tileStep x e.tile k (j / 16) (i / 64)) x.frame) := by
  have hcur : s.synth.cur.filter (fun x => s.dev.state.full && !x.blanket) = some x := by simp [hx, hfull, hb]
  simp only [synthProbeBody, hcur, hg, he]
  exact if_neg (by rw [hk]; exact Bool.noConfusion)

theorem placeObjectBody_of_object {o : Obj} (ho : s.obj? c.object.toNat = some o) (hcls : o.cls ≠ 7) :
    placeObjectBody c s = answer s (placeObjectWords o) := by
  unfold placeObjectBody
  rw [ho]
  exact if_neg hcls

theorem selftestRecordBody_of_newest {r : Record} {b : Bool} (hok : c.okBits 1 1 = true) (hr : s.start.newest = some (r, b)) :
    selftestRecordBody c s = answer s (recordReport s (if c.f 1 0 0 = 0 then some r else s.start.rec_ (!b))) := by
  simp only [selftestRecordBody, hr]
  exact if_neg (okBits_refused hok)

theorem memChannelBody_of_ok (hok : c.okBits 1 (mask 8 8 + mask 4 0) = true) :
    memChannelBody c s = answer
      (if c.f 1 8 8 = 1 then s.modChan (c.f 1 4 0) (fun x => { x with ce := 0, ue := 0, guard := 0 }) else s)
      (memChannelWords s (c.f 1 4 0)) :=
  if_neg (okBits_refused hok)

theorem netStatusBody_of_ok (hok : c.okBits 1 0x103 = true) : ∃ w1 w2 w3, netStatusBody c s = answer
    (if c.f 1 8 8 = 1 then s.modNet (c.f 1 1 0) (fun x => { x with
      rxFrames := 0, rxErrors := 0, txFrames := 0, rxDropped := 0, txDropped := 0, fecCorr := 0, fecUncorr := 0 }) else s)
    [w1, w2, w3] :=
  ⟨_, _, _, if_neg (okBits_refused hok)⟩

theorem decodeStatusBody_of_anchor {x : Scene} (hx : s.sceneOf c.object.toNat = some x)
    (hok : c.okBits 1 (mask 12 8 + 1) = true) (ha : c.f 1 12 8 < x.maxAnchors) :
    decodeStatusBody c s = answer
      (if c.f 1 0 0 = 1 then { s with dec := { s.dec with streams := s.dec.streams.map (fun d =>
        if d.id.slot = x.slot ∧ d.id.anchor = c.f 1 12 8 then { d with decoded := 0, concealed := 0 } else d) } } else s)
      ((anchorStreams x.slot (c.f 1 12 8) 4).map (fun d => streamWord (s.stream? d))) := by
  unfold decodeStatusBody
  rw [hx]
  exact if_neg (by simp [hok, ha])

end Bodies

theorem selftestRecord_reads {c : Cmd} {s : State} {r : Record} {b : Bool} (h : AtHand (.selftestRecord c) s) (ht : NoTestMet c s)
    (hok : c.okBits 1 1 = true) (hr : s.start.newest = some (r, b)) :
    Reads (.selftestRecord c) c s (recordReport s (if c.f 1 0 0 = 0 then some r else s.start.rec_ (!b))) :=
  reads_of_serveCore rfl rfl h ht (selftestRecordBody_of_newest (taken c s) hok hr)

/-- Settles O12, by the equation of each command's body on the operands that its clause names. -/
theorem namedReports : Obligations.NamedReports := by
  refine ⟨fun c s => ⟨fun h hn hok => reads_of_hostCmd rfl rfl h (paramGetBody_of_known _ hn hok), fun o h ho => ?info,
    fun o e i j k h ho he => reads_of_hostCmd rfl rfl h (geomRayBody_of_args _ ho he),
    fun x g e i j k h hf hx hb hg he hk => reads_of_hostCmd rfl rfl h (synthProbeBody_of_args _ hf hx hb hg he hk),
    fun o h ho hcls => reads_of_hostCmd rfl rfl h (placeObjectBody_of_object _ ho hcls),
    fun r b h ht hok hr => selftestRecord_reads h ht hok hr⟩, fun c s => ⟨fun h hok hkeep => ?chan, fun h hok hclear => ?chanClear,
    fun h hok hkeep => ?port, fun h hok hclear => ?portClear, fun x h hx hok ha hkeep => ?anchor,
    fun x h hx hok ha hclear => ?anchorClear⟩⟩
  case info =>
    obtain ⟨w1, w2, w3, hw⟩ := geomInfoBody_of_object (taken c s) ho
    exact ⟨w1, w2, w3, reads_of_hostCmd rfl rfl h hw⟩
  case chan => exact reads_of_hostCmd rfl rfl h (by rw [memChannelBody_of_ok _ hok, if_neg (by omega)]; rfl)
  case chanClear =>
    have hr := memChannelBody_of_ok (taken c s) hok
    rw [if_pos hclear] at hr
    exact ⟨_, next_hostCmd rfl h hr, report_part (·.mem.chans) (fun _ => rfl) c _⟩
  case port =>
    obtain ⟨w1, w2, w3, hw⟩ := netStatusBody_of_ok (taken c s) hok
    exact ⟨w1, w2, w3, reads_of_hostCmd rfl rfl h (by rw [hw, if_neg (by omega)])⟩
  case portClear =>
    obtain ⟨w1, w2, w3, hw⟩ := netStatusBody_of_ok (taken c s) hok
    rw [if_pos hclear] at hw
    exact ⟨_, next_hostCmd rfl h hw, report_part (·.time.ports) (fun _ => rfl) c _⟩
  case anchor =>
    exact reads_of_hostCmd rfl rfl h (by rw [decodeStatusBody_of_anchor (taken c s) hx hok ha, if_neg (by omega)]; rfl)
  case anchorClear =>
    have hr := decodeStatusBody_of_anchor (taken c s) hx hok ha
    rw [if_pos hclear] at hr
    exact ⟨_, next_hostCmd rfl h hr, report_part (·.dec.streams) (fun _ => rfl) c _⟩

end Sys2Proof.Machine
end

