-- ==== Sys2Proof/Proofs/HostInterface/Params.lean ====
section
/-! PROOFS. Parameters: lists of values (R58), staging (R61, R289, R487) and COMMIT (R59 to R62, R228). -/

namespace Sys2Proof.Machine

open Sys2Proof Sys2Proof.Safety

/-! ### Lists of values -/

theorem pfind_pput_same (l : List PVal) (id v : Nat) : pfind (pput l id v) id = some v := by simp [pfind, pput]

theorem pfind_pput_ne (l : List PVal) {id other : Nat} (v : Nat) (h : other ≠ id) : pfind (pput l id v) other = pfind l other := by
  unfold pfind pput
  rw [List.find?_cons_of_neg (by simpa using Ne.symm h), List.find?_filter]
  congr 2
  funext p
  by_cases e : p.id = other <;> simp [e, h]

theorem pfind_stageWords_of_unnamed (c : Cmd) (l : List PVal) (id : Nat) : ∀ n, (∀ m, 1 ≤ m → m ≤ n → c.f m 127 96 ≠ id) →
    pfind (stageWords c l n) id = pfind l id
  | 0, _ => rfl
  | n + 1, h => by
    unfold stageWords
    rw [pfind_pput_ne _ _ (h (n + 1) (by omega) (Nat.le_refl _)).symm]
    exact pfind_stageWords_of_unnamed c l id n fun m h1 hn => h m h1 (by omega)

theorem pfind_stageWords_of_last (c : Cmd) (l : List PVal) (k : Nat) (hk : 1 ≤ k) : ∀ n, k ≤ n →
    (∀ m, k < m → m ≤ n → c.f m 127 96 ≠ c.f k 127 96) → pfind (stageWords c l n) (c.f k 127 96) = some (c.f k 63 0)
  | 0, h, _ => by omega
  | n + 1, hkn, hlast => by
    unfold stageWords
    by_cases e : k = n + 1
    · rw [e, pfind_pput_same]
    · rw [pfind_pput_ne _ _ (hlast (n + 1) (by omega) (Nat.le_refl _)).symm]
      exact pfind_stageWords_of_last c l k hk n (by omega) fun m h1 hn => hlast m h1 (by omega)

/-- Settles O15: a write puts its value in front and drops the older one of its ID. -/
theorem paramLists : Obligations.ParamLists := by
  refine ⟨fun s id v => ⟨?same, fun other h => ?other⟩, fun c l n =>
    ⟨fun k hk hkn hlast => pfind_stageWords_of_last c l k hk n hkn hlast, fun id h => pfind_stageWords_of_unnamed c l id n h⟩⟩
  case same =>
    change (pfind (pput s.par.vals id v) id).getD (paramReset id) = v
    rw [pfind_pput_same, Option.getD_some]
  case other =>
    change (pfind (pput s.par.vals id v) other).getD (paramReset other) = (pfind s.par.vals other).getD (paramReset other)
    rw [pfind_pput_ne _ _ h]

/-! ### PARAM_SET (R61, R487) -/

theorem State.firstBad_of_all (s : State) (c : Cmd) : ∀ k i, (∀ m, i ≤ m → m < i + k → s.entryOk (c.w m) = true) → s.firstBad c k i = none
  | 0, _, _ => rfl
  | k + 1, i, h => by
    unfold State.firstBad
    rw [if_pos (h i (Nat.le_refl _) (by omega))]
    exact State.firstBad_of_all s c k (i + 1) fun m h1 h2 => h m (by omega) (by omega)

theorem State.firstBad_of_first (s : State) (c : Cmd) {n : Nat} (hbad : s.entryOk (c.w n) = false) : ∀ k i, i ≤ n → n < i + k →
    (∀ m, i ≤ m → m < n → s.entryOk (c.w m) = true) → s.firstBad c k i = some n
  | 0, i, h1, h2, _ => by omega
  | k + 1, i, h1, h2, h => by
    unfold State.firstBad
    by_cases e : i = n
    · rw [e, if_neg (by simp [hbad])]
    · rw [if_pos (h i (Nat.le_refl _) (by omega))]
      exact State.firstBad_of_first s c hbad k (i + 1) (by omega) (by omega) fun m hm hn => h m (by omega) hn

/-- No word of a command names an object of a kind. -/
theorem range_any_eq_false {n : Nat} {p : Nat → Bool} (h : ∀ m, m < n → p m = false) : ¬(List.range n).any p = true := by
  simpa using fun m hm => h m hm

theorem range_any_of_lt {n k : Nat} {p : Nat → Bool} (hk : k < n) (h : p k = true) : (List.range n).any p = true :=
  List.any_eq_true.mpr ⟨k, List.mem_range.mpr hk, h⟩

section ParamSet
variable {c : Cmd} (s : State) (hn : 0 < c.nWords)
include hn

theorem paramSetBody_of_creating {n : Nat} (hlt : n < c.nWords) (h : s.namesCreating (c.w (n + 1)) = true) :
    paramSetBody c s = refuse s stBusy := by
  unfold paramSetBody
  rw [if_neg (by omega), if_pos (range_any_of_lt hlt h)]

variable (hcre : ∀ m, m < c.nWords → s.namesCreating (c.w (m + 1)) = false)
include hcre

theorem paramSetBody_of_destroyed {n : Nat} (hlt : n < c.nWords) (h : s.namesDestroyed (c.w (n + 1)) = true) :
    paramSetBody c s = refuse s stBadObject := by
  unfold paramSetBody
  rw [if_neg (by omega), if_neg (range_any_eq_false hcre), if_pos (range_any_of_lt hlt h)]

variable (hdes : ∀ m, m < c.nWords → s.namesDestroyed (c.w (m + 1)) = false)
include hdes

theorem paramSetBody_of_lost {n : Nat} (hlt : n < c.nWords) (h : s.namesLost (c.w (n + 1)) = true) :
    paramSetBody c s = refuse s stIntegrity := by
  unfold paramSetBody
  rw [if_neg (by omega), if_neg (range_any_eq_false hcre), if_neg (range_any_eq_false hdes), if_pos (range_any_of_lt hlt h)]

variable (hlost : ∀ m, m < c.nWords → s.namesLost (c.w (m + 1)) = false)
include hlost

/-- Where its objects can be named, PARAM_SET names its first bad word or stages all. -/
theorem paramSetBody_of_objects : paramSetBody c s =
    match s.firstBad c c.nWords 1 with
    | some i => { s := s, a := { status := stBadArg, payload := offending (c.f i 127 96) i } }
    | none => answer { s with par := { s.par with staged := stageWords c s.par.staged c.nWords } } [] := by
  unfold paramSetBody
  rw [if_neg (by omega), if_neg (range_any_eq_false hcre), if_neg (range_any_eq_false hdes)]
  exact if_neg (range_any_eq_false hlost)

end ParamSet

/-! ### PANEL_MODE (R289) -/

theorem paramDef_of_mem_modeVals {c : Cmd} {p : PVal} (h : p ∈ modeVals c) : ∃ d, paramDef p.id = some d := by
  have hid : p.id = 0x0B000001 ∨ p.id = 0x0A000001 ∨ p.id = 0x09000001 := by
    unfold modeVals at h
    rw [List.mem_append, List.mem_append, List.mem_singleton] at h
    obtain (rfl | h) | h := h
    · exact .inl rfl
    all_goals
      split at h
      · rw [List.mem_singleton] at h
        subst h
        simp
      · exact absurd h List.not_mem_nil
  rw [← Option.isSome_iff_exists]
  obtain h | h | h := hid <;> rw [h] <;> rfl

theorem panelModeBody_of_ok {c : Cmd} (s : State) (hok : c.okBits 1 (mask 127 104 + mask 63 0) = true) (hfl : c.f 1 127 120 ≤ 3)
    (hrate : bit (c.f 1 127 120) 0 = false → c.f 1 119 112 = 0) (hcode : bit (c.f 1 127 120) 1 = false → c.f 1 111 104 = 0)
    (hvals : ∀ p ∈ modeVals c, ∀ d, paramDef p.id = some d → s.valueOk d p.v = true)
    (htiming : ∀ id ∈ s.checkTiming (fun id => (pfind (modeVals c) id).getD ((pfind s.par.staged id).getD (s.pget id)))
      (fun id => id == 0x0B000001 || id == 0x0A000001 || id == 0x09000001) true, id = 0x0B000003) :
    panelModeBody c s = answer { s with par := { s.par with
      staged := (modeVals c).foldl (fun l p => pput l p.id p.v) s.par.staged } } [] := by
  have hrange : (modeVals c).filter (fun p => match paramDef p.id with
      | some d => !s.valueOk d p.v
      | none => true) = [] := by
    rw [List.filter_eq_nil_iff]
    intro p hp
    obtain ⟨d, hd⟩ := paramDef_of_mem_modeVals hp
    simp [hd, hvals p hp d hd]
  have htimes : (s.checkTiming (fun id => (pfind (modeVals c) id).getD ((pfind s.par.staged id).getD (s.pget id)))
      (fun id => id == 0x0B000001 || id == 0x0A000001 || id == 0x09000001) true).filter (· != 0x0B000003) = [] := by
    rw [List.filter_eq_nil_iff]
    intro id hid
    simp [htiming id hid]
  unfold panelModeBody
  extract_lets fl rate code staged vals v range ids
  have hfields : (!c.okBits 1 (mask 127 104 + mask 63 0) || decide (3 < fl) || (!bit fl 0 && rate != 0) || (!bit fl 1 && code != 0)) = false := by
    simp only [Bool.or_eq_false_iff, hok, Bool.not_true, decide_eq_false_iff_not, Nat.not_lt, Bool.and_eq_false_iff, Bool.not_eq_false',
      bne_eq_false_iff_eq]
    exact ⟨⟨⟨trivial, hfl⟩, Classical.or_iff_not_imp_left.mpr fun h => hrate (Bool.eq_false_iff.mpr h)⟩,
      Classical.or_iff_not_imp_left.mpr fun h => hcode (Bool.eq_false_iff.mpr h)⟩
  have hids : ids = [] := by
    change range.map (·.id) ++ _ = []
    rw [show range = [] from hrange, List.map_nil, List.nil_append]
    exact htimes
  rw [if_neg (by rw [hfields]; exact Bool.noConfusion), hids]
  rfl

theorem paramDiscardBody_of_ok {c : Cmd} (s : State) (hok : c.okBits 1 0x7FFFFE = true) :
    paramDiscardBody c s = answer { s with par := { s.par with staged := s.par.staged.filter (fun p => !maskTakes (c.f 1 31 0) p.id) } } [] :=
  if_neg (okBits_refused hok)

/-- Settles O14, by the bodies of PARAM_SET, PARAM_DISCARD and PANEL_MODE. -/
theorem paramStaging : Obligations.ParamStaging := by
  intro c s
  refine ⟨fun h hn hok => next_hostCmd rfl h ?stages, fun n h h1 hn hbad hfirst hobj => next_hostCmd rfl h ?names,
    fun n h hn hc => next_hostCmd rfl h (paramSetBody_of_creating (taken c s) (by omega) hn hc),
    fun n h hn hd hc => next_hostCmd rfl h (paramSetBody_of_destroyed (taken c s) (by omega) hc hn hd),
    fun n h hn hl hobj => next_hostCmd rfl h (paramSetBody_of_lost (taken c s) (by omega) (fun m hm => (hobj m hm).1)
      (fun m hm => (hobj m hm).2) hn hl),
    fun h hok => next_hostCmd rfl h (paramDiscardBody_of_ok (taken c s) hok),
    fun h hok hfl hrate hcode hvals htiming => next_hostCmd rfl h (panelModeBody_of_ok (taken c s) hok hfl hrate hcode hvals htiming)⟩
  case stages =>
    simp only [forall_and] at hok
    obtain ⟨hentry, hcreating, hdestroyed, hlost⟩ := hok
    rw [paramSetBody_of_objects (taken c s) hn hcreating hdestroyed hlost, State.firstBad_of_all (taken c s) c c.nWords 1]
    · rfl
    · intro m h1 hm
      obtain ⟨k, rfl⟩ : ∃ k, m = k + 1 := ⟨m - 1, by omega⟩
      exact hentry k (by omega)
  case names =>
    rw [paramSetBody_of_objects (taken c s) (by omega) (fun m hm => (hobj m hm).1) (fun m hm => (hobj m hm).2.1)
        (fun m hm => (hobj m hm).2.2),
      State.firstBad_of_first (taken c s) c hbad c.nWords 1 h1 (by omega) hfirst]

end Sys2Proof.Machine
end

