-- ==== Sys2Proof/Proofs/HostInterface/Commit.lean ====
section
/-! PROOFS. COMMIT (R59 to R62, R228): acceptance of values of the panel frame, and the refusals. -/

namespace Sys2Proof.Machine

open Sys2Proof Sys2Proof.Safety

/-- Values of one class are all of that class and none of another. -/
theorem ofClass_of_all {k : PClass} {l : List PVal} (h : ∀ p ∈ l, ∃ d, paramDef p.id = some d ∧ d.cls = k) : ofClass k l = l := by
  unfold ofClass
  rw [List.filter_eq_self]
  intro p hp
  obtain ⟨d, hd, hk⟩ := h p hp
  simp [hd, hk]

theorem ofClass_of_other {k k' : PClass} {l : List PVal} (hne : k ≠ k') (h : ∀ p ∈ l, ∃ d, paramDef p.id = some d ∧ d.cls = k) :
    ofClass k' l = [] := by
  unfold ofClass
  rw [List.filter_eq_nil_iff]
  intro p hp
  obtain ⟨d, hd, hk⟩ := h p hp
  simp [hd, hk, hne]

/-- The checks of a COMMIT's values read none of what a command that is taken moves. -/
theorem taken_offendingId (c : Cmd) (s : State) (v : Nat → Nat) (ch : Nat → Bool) :
    (taken c s).offendingId v ch = s.offendingId v ch := by
  have timing : (taken c s).checkTiming v ch = s.checkTiming v ch := rfl
  have comp : (taken c s).checkComp v ch = s.checkComp v ch := rfl
  have maps : (taken c s).checkMaps v ch = s.checkMaps v ch := rfl
  have encs : (taken c s).checkEncs v ch = s.checkEncs v ch := rfl
  have time : (taken c s).checkTime v ch = s.checkTime v ch := rfl
  have lost : (taken c s).checkLost v ch = s.checkLost v ch := rfl
  simp only [State.offendingId, timing, comp, maps, encs, time, lost]

section Bodies
variable {c : Cmd} (s : State)

theorem commitBody_of_pending (h : s.par.commit.isSome = true) : commitBody c s = refuse s stBusy := if_pos h

variable (hnone : s.par.commit = none) (hok : c.okBits 1 (mask 64 32 + 0x7FFFFE) = true)
include hnone hok

/-- In PARASOL a COMMIT of another code is refused (R228). -/
theorem commitBody_of_code (hpar : s.dev.state = .parasol) (hcode : takenValue c s 0x09000001 ≠ s.pget 0x09000001) :
    commitBody c s = refuse s stBadState := by
  unfold commitBody
  rw [if_neg (by simp [hnone]), if_neg (okBits_refused hok)]
  refine if_pos ?_
  have hcode' : ((pfind (s.commitTakes (c.f 1 31 0)) 0x09000001).getD (s.pget 0x09000001) != s.pget 0x09000001) = true :=
    bne_iff_ne.mpr hcode
  rw [hpar, hcode']
  rfl

variable (hpar : s.dev.state ≠ .parasol)
include hpar

theorem commitBody_of_offending {id : Nat} (h : s.offendingId (takenValue c s) (takenChange c s) = some id) :
    commitBody c s = { s := s, a := { status := stBadArg, payload := offending id 0 } } := by
  unfold commitBody
  rw [if_neg (by simp [hnone]), if_neg (okBits_refused hok)]
  extract_lets take v ch target
  have h' : s.offendingId v ch = some id := h
  rw [if_neg (by simp [hpar]), h']

variable (hall : s.offendingId (takenValue c s) (takenChange c s) = none)
include hall

theorem commitBody_of_late (htarget : c.f 1 64 64 = 1) (hon : s.tim.on = true)
    (hlate : after 32 s.openFrame (s.targetFrame (c.f 1 63 32)) = true) : commitBody c s = refuse s stLate := by
  unfold commitBody
  rw [if_neg (by simp [hnone]), if_neg (okBits_refused hok)]
  extract_lets take v ch target late
  have h' : s.offendingId v ch = none := hall
  have ht : target = some (c.f 1 63 32) := if_pos htarget
  have hl : late = true := by simp only [late, ht, hon, hlate, Bool.and_self]
  rw [if_neg (by simp [hpar]), h']
  exact if_pos hl

/-- The commit that waits for a panel frame, once a COMMIT of such values alone is accepted without a target. -/
def panelCommit (c : Cmd) (s : State) : PendingCommit :=
  { job := s.host.nextJob, tag := c.tag.toNat, all := s.commitTakes (c.f 1 31 0)
    panel := s.commitTakes (c.f 1 31 0), monitor := [], target := none
    panelAt := s.openFrame, monitorAt := if s.nextMon.2 then (s.nextMon.1 + 1) % 2 ^ 32 else s.nextMon.1
    mode := s.modeChanges (takenValue c s) }

theorem commitBody_of_panel (hcls : ∀ p ∈ s.commitTakes (c.f 1 31 0), ∃ d, paramDef p.id = some d ∧ d.cls = .panelFrame)
    (hnow : c.f 1 64 64 = 0) :
    commitBody c s = accept { s with par := { s.par with
      staged := s.par.staged.filter (fun q => !takenChange c s q.id), commit := some (panelCommit c s) } } .commit := by
  have hp : ofClass .panelFrame (s.commitTakes (c.f 1 31 0)) = s.commitTakes (c.f 1 31 0) := ofClass_of_all hcls
  have hm : ofClass .monitorFrame (s.commitTakes (c.f 1 31 0)) = [] := ofClass_of_other (by decide) hcls
  have hi : ofClass .immediate (s.commitTakes (c.f 1 31 0)) = [] := ofClass_of_other (by decide) hcls
  have hmode : (s.dev.state != .parasol) = true := bne_iff_ne.mpr hpar
  unfold commitBody
  rw [if_neg (by simp [hnone]), if_neg (okBits_refused hok)]
  extract_lets take v ch target late mon p staged dropped brought waits
  have h' : s.offendingId v ch = none := hall
  have ht : target = none := if_neg (by omega)
  have hl : ¬late = true := by simp only [late, ht, Bool.false_eq_true, not_false_eq_true]
  have hb : brought = dropped := by
    simp only [brought]
    rw [show ofClass .immediate take = [] from hi]
    rfl
  have hc : p = panelCommit c s := by
    simp only [p, ht, hmode, Bool.true_and]
    rw [show ofClass .panelFrame take = take from hp, show ofClass .monitorFrame take = [] from hm]
    rfl
  rw [if_neg (by simp [hpar]), h']
  refine (if_neg hl).trans ?_
  simp only [waits, hb, hc]
  rfl

end Bodies

/-- Values that wait for a panel frame whose window is open leave nothing to do after the report. -/
theorem commitPost_of_waiting {c : Cmd} {s : State} {p : PendingCommit} (hp : s.par.commit = some p) (hmissed : s.missedFrame = none)
    (hmon : s.monRuns = true) (hpanel : p.panel.isEmpty = false) (hmonitor : p.monitor = []) : commitPost c s = s := by
  simp only [commitPost, hp, hmissed, hmon, hmonitor, List.isEmpty_nil, Bool.not_true, Bool.and_false, Bool.false_eq_true, if_false,
    if_true, State.finishCommit, hpanel, Bool.false_and]

/-- Settles O16: the values of the panel frame wait for it, and each refusal is that of the first check that fails. -/
theorem commits : Obligations.Commits := by
  refine ⟨fun c s h hnone hok hpar htake hcls hall hnow hmissed hmon => ?accepted, fun c s =>
    ⟨fun h hpend => next_hostCmdWith_of_refused (st := stBusy) rfl h (commitBody_of_pending (taken c s) hpend) rfl (by decide),
      fun h hnone hok hpar hall htarget hon hlate => next_hostCmdWith_of_refused (st := stLate) rfl h
        (commitBody_of_late (taken c s) hnone hok hpar ((taken_offendingId ..).trans hall) htarget hon hlate) rfl (by decide),
      fun id h hnone hok hpar hbad => next_hostCmdWith_of_refused (st := stBadArg) rfl h (commitBody_of_offending (taken c s) hnone hok hpar ((taken_offendingId ..).trans hbad))
        rfl (by decide),
      fun h hnone hok hpar hcode => next_hostCmdWith_of_refused (st := stBadState) rfl h (commitBody_of_code (taken c s) hnone hok hpar hcode) rfl (by decide)⟩⟩
  case accepted =>
    refine (next_hostCmdWith rfl h (commitBody_of_panel (taken c s) hnone hok hpar ((taken_offendingId ..).trans hall) hcls hnow) (.inr rfl)).trans
      (congrArg Host.Outcome.next ?_)
    have part {α : Type} (f : State → α) (hf : ∀ z : State, f z.restJobs = f z) (r : Ran) : f (report c r) = f r.s :=
      report_part f hf c r
    refine commitPost_of_waiting (part (·.par.commit) (fun _ => rfl) _) ((part State.missedFrame (fun _ => rfl) _).trans hmissed)
      ((part State.monRuns (fun _ => rfl) _).trans hmon) ?_ rfl
    exact List.isEmpty_eq_false_iff.mpr htake

end Sys2Proof.Machine
end

