-- ==== Sys2Proof/Proofs/HostInterface/Interrupts.lean ====
section
/-! PROOFS. Interrupts (R47): PEND and MASK writes and their messages; the event queue's registers (R63). -/

namespace Sys2Proof.Machine

open Sys2Proof Sys2Proof.Safety

/-! ### PEND bits and messages -/

theorem State.setPend_host (s : State) (v : Nat) : (s.setPend v).host =
    { s.host with irq := { s.host.irq with status := BitVec.ofNat 64 (putBit s.host.irq.status.toNat v true) } } :=
  State.irqMsg_host _ v

@[simp] theorem State.causeHolds_setPend (s : State) (v n : Nat) : (s.setPend v).causeHolds n = s.causeHolds n := by
  have msg : ∀ x : State, (x.irqMsg v).causeHolds n = x.causeHolds n := fun x => by
    unfold State.irqMsg
    split <;> rfl
  exact (msg _).trans rfl

theorem State.setPend_bit (s : State) {v n : Nat} (hn : n < 64) :
    bit (s.setPend v).host.irq.status.toNat n = (decide (n = v) || bit s.host.irq.status.toNat n) := by
  rw [State.setPend_status, bit_ofNat hn]
  by_cases e : n = v
  · simp [e]
  · simp [e, bit_putBit_true_of_ne e]

/-- A vector whose cause holds is made pending again (R47). -/
def State.pendHolding (s : State) (n : Nat) : State := if s.causeHolds n then s.setPend n else s

theorem State.pendHolding_causeHolds (s : State) (v n : Nat) : (s.pendHolding v).causeHolds n = s.causeHolds n := by
  unfold State.pendHolding
  split
  · exact State.causeHolds_setPend s v n
  · rfl

theorem State.pendHolding_bit (s : State) {v n : Nat} (hn : n < 64) :
    bit (s.pendHolding v).host.irq.status.toNat n = (bit s.host.irq.status.toNat n || (decide (n = v) && s.causeHolds n)) := by
  unfold State.pendHolding
  split
  · rename_i h
    rw [State.setPend_bit s hn]
    by_cases e : n = v
    · subst e; simp [h]
    · simp [e]
  · rename_i h
    by_cases e : n = v
    · subst e; simp [h]
    · simp [e]

/-- Of vectors taken in turn, those are pending afterwards that were, or whose cause holds. -/
theorem State.foldl_pendHolding_bit {n : Nat} (hn : n < 64) (l : List Nat) : ∀ s : State,
    bit (l.foldl State.pendHolding s).host.irq.status.toNat n =
      (bit s.host.irq.status.toNat n || (decide (n ∈ l) && s.causeHolds n)) := by
  induction l with
  | nil => intro s; simp
  | cons v l ih =>
    intro s
    rw [List.foldl_cons, ih, State.pendHolding_causeHolds, State.pendHolding_bit s hn]
    by_cases e : n = v
    · subst e
      cases s.causeHolds n <;> simp
    · simp [e]

theorem bit_and_not (x : BitVec 64) {w n : Nat} (hn : n < 64) :
    bit (x &&& ~~~(BitVec.ofNat 64 w)).toNat n = (bit x.toNat n && !bit w n) := by
  simp only [bit_eq_testBit, BitVec.testBit_toNat, BitVec.getLsbD_and, BitVec.getLsbD_not, BitVec.getLsbD_ofNat, hn, decide_true,
    Bool.true_and]

/-- The PEND bits after a write of IRQ_STATUS: one written goes unless its cause holds, the others stay. -/
theorem irqStatusWrite_bit (s : State) (w : Nat) {n : Nat} (hn : n < 64) :
    bit (((List.range 64).filter (fun n => bit w n && bit s.host.irq.status.toNat n)).foldl State.pendHolding
      (s.modIrq (fun q => { q with status := q.status &&& ~~~(BitVec.ofNat 64 w) }))).host.irq.status.toNat n =
      (bit s.host.irq.status.toNat n && (!bit w n || s.causeHolds n)) := by
  have hc : (s.modIrq (fun q => { q with status := q.status &&& ~~~(BitVec.ofNat 64 w) })).causeHolds n = s.causeHolds n := rfl
  rw [State.foldl_pendHolding_bit hn, hc]
  have hb : bit (s.modIrq (fun q => { q with status := q.status &&& ~~~(BitVec.ofNat 64 w) })).host.irq.status.toNat n =
      (bit s.host.irq.status.toNat n && !bit w n) := bit_and_not s.host.irq.status hn
  rw [hb]
  cases hs : bit s.host.irq.status.toNat n <;> cases hw : bit w n <;> simp [hn, hs, hw]

theorem State.foldl_irqMsg_host (l : List Nat) : ∀ s : State, (l.foldl State.irqMsg s).host = s.host := by
  induction l with
  | nil => exact fun _ => rfl
  | cons v l ih => exact fun s => (ih _).trans (State.irqMsg_host s v)

theorem sent_irqMsg (s : State) (v : Nat) : Sent s (s.irqMsg v) := by
  unfold State.irqMsg
  split
  · exact Sent.rfl'
  · exact sent_emit s _

theorem sent_foldl_irqMsg (l : List Nat) : ∀ s : State, Sent s (l.foldl State.irqMsg s) := by
  induction l with
  | nil => exact fun _ => Sent.rfl'
  | cons v l ih => exact fun s => (sent_irqMsg s v).trans (ih _)

theorem State.irqMsg_sends {s : State} {v : Nat} (hmask : bit s.host.irq.mask.toNat v = false)
    (htable : bit s.host.irq.msixMask.toNat v = false) (hup : s.host.pcie.up = true) : Out.msix v ∈ (s.irqMsg v).out := by
  unfold State.irqMsg
  rw [if_neg (by simp [hmask, htable, hup])]
  exact List.mem_cons_self

theorem State.foldl_irqMsg_sends {v : Nat} (l : List Nat) : ∀ {s : State}, v ∈ l → bit s.host.irq.mask.toNat v = false →
    bit s.host.irq.msixMask.toNat v = false → s.host.pcie.up = true → Out.msix v ∈ (l.foldl State.irqMsg s).out := by
  induction l with
  | nil => exact fun h => absurd h List.not_mem_nil
  | cons w l ih =>
    intro s hv hmask htable hup
    by_cases e : v = w
    · subst e
      exact sent_foldl_irqMsg l _ _ (State.irqMsg_sends hmask htable hup)
    · refine ih (List.mem_of_ne_of_mem e hv) ?_ ?_ ?_ <;> rw [State.irqMsg_host] <;> assumption

/-- A half of MASK that is written reads as it was written; the other half stays. -/
theorem bit_maskHalf (old : Nat) (hi : Bool) (v : BitVec 32) {n : Nat} (hn : n < 64) :
    bit (BitVec.ofNat 64 (if hi then v.toNat * 2 ^ 32 + old % 2 ^ 32 else old / 2 ^ 32 * 2 ^ 32 + v.toNat)).toNat n =
      if hi = decide (32 ≤ n) then bit v.toNat (n % 32) else bit old n := by
  rw [bit_ofNat hn]
  simp only [bit_eq_testBit]
  cases hi
  · simp only [Bool.false_eq_true, if_false]
    rw [Nat.mul_comm, Nat.testBit_two_pow_mul_add _ v.isLt]
    by_cases h : n < 32
    · rw [if_pos h, if_pos (by simp [h]), Nat.mod_eq_of_lt h]
    · rw [if_neg h, if_neg (by simpa using h), Nat.testBit_div_two_pow]
      congr 1
      omega
  · simp only [if_true]
    rw [Nat.mul_comm, Nat.testBit_two_pow_mul_add _ (Nat.mod_lt _ (by decide))]
    by_cases h : n < 32
    · rw [if_pos h, if_neg (by simpa using h), Nat.testBit_mod_two_pow]
      simp [h]
    · rw [if_neg h, if_pos (by simpa using h)]
      congr 1
      omega

/-- Settles O25: PEND by the vectors whose cause holds, MASK by its halves, messages by the vectors that become free to
send. -/
theorem interrupts : Obligations.Interrupts := by
  intro s hi v n hn
  refine ⟨⟨_, rfl, ?pend⟩, ⟨_, rfl, ?mask⟩, fun hmasked => ⟨_, rfl, ?unmask⟩⟩
  case pend =>
    have hbit := irqStatusWrite_bit s (if hi then v.toNat * 2 ^ 32 else v.toNat) hn
    refine ⟨fun hw hc => hbit.trans ?_, fun hw hc hp => hbit.trans ?_, fun hw => hbit.trans ?_⟩
    · rw [hw, hc, Bool.not_true, Bool.or_false, Bool.and_false]
    · rw [hp, hc, Bool.or_true, Bool.and_true]
    · rw [hw, Bool.not_false, Bool.true_or, Bool.and_true]
  case mask =>
    rw [State.foldl_irqMsg_host]
    have hbit := bit_maskHalf s.host.irq.mask.toNat hi v hn
    refine ⟨rfl, hbit, fun hold hnew hpend htable hup => ?_⟩
    have hnew' : bit (if hi then v.toNat * 2 ^ 32 + s.host.irq.mask.toNat % 2 ^ 32
        else s.host.irq.mask.toNat / 2 ^ 32 * 2 ^ 32 + v.toNat) n = false := (bit_ofNat hn).symm.trans hnew
    refine State.foldl_irqMsg_sends _ ?_ hnew htable hup
    simp only [List.mem_filter, List.mem_range, hn, hold, hpend, hnew', Bool.not_false, Bool.and_self, and_self]
  case unmask =>
    have hu : ¬(64 ≤ n ∨ bit s.host.irq.msixMask.toNat n = false) := by simp [hn, hmasked]
    rw [if_neg hu]
    have hfree : bit (BitVec.ofNat 64 (putBit s.host.irq.msixMask.toNat n false)).toNat n = false := by rw [bit_ofNat hn, bit_putBit_false]
    extract_lets x
    have hx : bit x.host.irq.msixMask.toNat n = false := hfree
    refine ⟨?_, ?_, fun hpend hmask hup => ?_⟩
    · split
      · rw [State.irqMsg_host]; exact hx
      · exact hx
    · split
      · rw [State.irqMsg_host]; rfl
      · rfl
    · rw [if_pos (show bit x.host.irq.status.toNat n = true from hpend)]
      exact State.irqMsg_sends hmask hx hup

/-! ### The event queue's registers (R63) -/

/-- Settles O24, by the branch of each register's write. -/
theorem eventQueueWrites : Obligations.EventQueueWrites := by
  intro s v h
  refine ⟨fun hv hen => ?rise, fun hv => ?fall, fun hpos hle => ?taken, fun hfar => ?ignored, fun hunread => ?holdoff, rfl⟩
  case rise =>
    change execEqCfgWrite v s = _
    simp [execEqCfgWrite, hv, hen]
  case fall =>
    change execEqCfgWrite v s = _
    simp [execEqCfgWrite, hv]
  case taken => exact congrArg Host.Outcome.next (if_neg (by omega))
  case ignored => exact congrArg Host.Outcome.next (if_pos (.inr hfar))
  case holdoff =>
    refine ⟨_, congrArg Host.Outcome.next (if_neg (by omega)), State.pends_setPend_same _ (by decide), ?_⟩
    rw [State.setPend_host]
    rfl

end Sys2Proof.Machine
end

