-- ==== Sys2Proof/Proofs/HostInterface/Failures.lean ====
section
/-! PROOFS. Failed DMA reads (R44), function-level reset, and loss and return of the link (R49, R68). -/

namespace Sys2Proof.Machine

open Sys2Proof Sys2Proof.Safety

/-! ### A mailbox that stops -/

@[simp] theorem State.raise_mb (s : State) (source code severity arg arg2 : Nat) :
    (s.raise source code severity arg arg2).host.mb = s.host.mb := by
  have e := congrArg (fun z : State => z.host.mb) (State.raiseAt_rest_saf s s.now source code severity arg arg2)
  exact e

@[simp] theorem State.raise_pcie (s : State) (source code severity arg arg2 : Nat) :
    (s.raise source code severity arg arg2).host.pcie = s.host.pcie := by
  have e := congrArg (fun z : State => z.host.pcie) (State.raiseAt_rest_saf s s.now source code severity arg arg2)
  exact e

@[simp] theorem State.raise_jobs (s : State) (source code severity arg arg2 : Nat) :
    (s.raise source code severity arg arg2).host.jobs = s.host.jobs := by
  have e := congrArg (fun z : State => z.host.jobs) (State.raiseAt_rest_saf s s.now source code severity arg arg2)
  exact e

@[simp] theorem State.raise_eq_en (s : State) (source code severity arg arg2 : Nat) :
    (s.raise source code severity arg arg2).host.eq.en = s.host.eq.en := by
  have e := congrArg (fun z : State => z.host.eq.en) (State.raiseAt_rest_saf s s.now source code severity arg arg2)
  exact e

theorem State.stopMb_mailbox (s : State) (mb cause n : Nat) : (s.stopMb mb cause).mailbox n =
    if mb = n ∧ n < s.host.mb.length then { s.mailbox n with err := true, active := false, errCause := BitVec.ofNat 8 cause }
    else s.mailbox n := by
  unfold State.stopMb State.mailbox
  rw [State.raise_mb]
  exact State.mailbox_modMb ..

theorem State.ringFail_of_active {s : State} {mb : Nat} (h : (s.mailbox mb).active = true) (cause : Nat) :
    s.ringFail mb cause = s.stopMb mb cause := if_pos h

/-! ### The host interface stops: no mailbox and no event queue is enabled, no job answers -/

/-- The host interface is stopped. -/
def HostStopped (s : State) : Prop :=
  s.host.eq.en = false ∧ (∀ m ∈ s.host.mb, m.en = false ∧ m.ring = []) ∧ ∀ j ∈ s.host.jobs, j.respond = false

theorem HostStopped.congr {s t : State} (h : HostStopped s) (heq : t.host.eq.en = s.host.eq.en) (hmb : t.host.mb = s.host.mb)
    (hjobs : t.host.jobs = s.host.jobs) : HostStopped t := by
  unfold HostStopped
  rw [heq, hmb, hjobs]
  exact h

theorem State.hostStop_stopped (s : State) : HostStopped s.hostStop := by
  unfold State.hostStop
  extract_lets host eq x
  have hx : HostStopped (x.muteJobs (fun _ => true)) := by
    refine ⟨rfl, fun m hm => ?_, fun j hj => ?_⟩
    · obtain ⟨n, -, rfl⟩ := List.mem_map.mp hm
      exact ⟨rfl, rfl⟩
    · obtain ⟨k, -, rfl⟩ := List.mem_map.mp hj
      rfl
  have part {α : Type} (f : State → α) (hf : ∀ z : State, f z.restStore = f z) (z : State) : f z.freeJobs = f z :=
    (hf _).symm.trans ((congrArg f z.freeJobs_restStore).trans (hf z))
  exact hx.congr (part (·.host.eq.en) (fun _ => rfl) _) (part (·.host.mb) (fun _ => rfl) _) (part (·.host.jobs) (fun _ => rfl) _)

theorem State.hostStop_time (s : State) : s.hostStop.time = s.time := by
  have e := congrArg (fun z : State => z.time) (State.freeJobs_restStore
    (({ s with host := { s.host with mb := s.host.mb.map Mailbox.disable, eq := { s.host.eq with en := false } } } : State).muteJobs
      (fun _ => true)))
  exact e

/-! ### What the end of a 2D operation leaves alone -/

/-- A state without the direct units, the objects and the free values, and without what an event touches. -/
def State.restDirect (s : State) : State := { s.rest with direct := {}, objs := {}, free := 0 }

@[simp] theorem State.g2dWrite_restDirect (s : State) (g : G2dSide) (i : Nat) (bs : List Byte) :
    (s.g2dWrite g i bs).restDirect = s.restDirect := by
  unfold State.g2dWrite; split <;> rfl

theorem State.g2dRows_restDirect (a : Option G2dSide) (d : G2dSide) (rows : List G2dHostRow) : ∀ (s : State) (n : Nat),
    (s.g2dRows a d n rows).restDirect = s.restDirect := by
  induction rows with
  | nil => exact fun _ _ => rfl
  | cons row rows ih =>
    intro s n
    unfold State.g2dRows
    extract_lets r i written direct g2d counted
    exact (ih counted (n + 1)).trans (State.g2dWrite_restDirect s d i _)

theorem State.g2dFinish_restDirect (s : State) (error : Nat) : (s.g2dFinish error).restDirect = s.restDirect := by
  unfold State.g2dFinish
  extract_lets g direct x
  have hx : x.restDirect = s.restDirect := rfl
  clear_value x
  split
  · exact hx
  · refine Eq.trans ?_ hx
    unfold State.restDirect
    rw [State.setPend_rest]

theorem State.g2dEnd_restDirect (s : State) (rows : List G2dHostRow) (part : Nat) (next : G2dHostRow) (error : Nat) :
    (s.g2dEnd rows part next error).restDirect = s.restDirect := by
  unfold State.g2dEnd
  split
  · rfl
  · extract_lets h taken
    split
    · exact State.g2dFinish_restDirect s error
    · rename_i a d _
      extract_lets ran n after
      have hran : ran.restDirect = s.restDirect := State.g2dRows_restDirect a d taken s 0
      refine (State.g2dFinish_restDirect after error).trans (Eq.trans ?_ hran)
      simp only [after]
      split
      · rfl
      · exact State.g2dWrite_restDirect ..

theorem State.g2dForce_restDirect (s : State) (error : Nat) : (s.g2dForce error).restDirect = s.restDirect := by
  unfold State.g2dForce
  split
  · rfl
  · exact (State.g2dEnd_restDirect ..).trans rfl

/-! ### The statement -/

/-- Settles O23: the failures of reads by the mailbox or the job they name; the reset and the lost link by the stop of
the host interface. -/
theorem hostFailures : Obligations.HostFailures := by
  refine ⟨fun s mb id hlen hact => ?reads, fun s speed width aer => ⟨?reset, fun hup => ?down, fun hdown => ?up, ?corrected, ?uncorrected⟩⟩
  case reads =>
    have hsame : (s.stopMb mb 2).mailbox mb = { s.mailbox mb with err := true, active := false, errCause := BitVec.ofNat 8 2 } := by
      rw [State.stopMb_mailbox, if_pos ⟨rfl, hlen⟩]
    refine ⟨congrArg Host.Outcome.next (State.ringFail_of_active hact 2), congrArg Host.Outcome.next (State.ringFail_of_active hact 2),
      congrArg Host.Outcome.next (State.ringFail_of_active (s := s.countCto) hact 3), rfl, rfl, ?_, ?_, fun n hn => ?_, rfl⟩
    · rw [hsame]
    · rw [hsame]
    · rw [State.stopMb_mailbox, if_neg (fun e => hn e.1.symm)]
  case reset =>
    have part {α : Type} (f : State → α) (hf : ∀ z : State, f z.restDirect = f z) : f (s.hostStop.g2dForce 9) = f s.hostStop :=
      (hf _).symm.trans ((congrArg f (State.g2dForce_restDirect s.hostStop 9)).trans (hf _))
    obtain ⟨hen, hmb, hjobs⟩ : HostStopped (s.hostStop.g2dForce 9) := (State.hostStop_stopped s).congr
      (part (·.host.eq.en) fun _ => rfl) (part (·.host.mb) fun _ => rfl) (part (·.host.jobs) fun _ => rfl)
    refine ⟨_, rfl, ?cvu, hen, ?tb0, hmb, hjobs⟩
    case cvu =>
      have hlen : (s.hostStop.g2dForce 9).direct.cvu.length = s.direct.cvu.length :=
        congrArg Shape.cvu ((State.g2dForce_shape ..).trans (State.hostStop_shape s))
      change ({ cvu := _ } : Direct) = { cvu := _ }
      rw [List.map_const', List.map_const', hlen]
    case tb0 => exact (part (·.time.tb0) fun _ => rfl).trans (congrArg TimeSt.tb0 (State.hostStop_time s))
  case down =>
    refine ⟨_, congrArg Host.Outcome.next (if_neg (by simp [hup])), ?_⟩
    unfold State.hostLink
    rw [State.raise_pcie]
    exact ⟨rfl, (State.hostStop_stopped s).congr (State.raise_eq_en ..) (State.raise_mb ..) (State.raise_jobs ..)⟩
  case up =>
    refine ⟨_, congrArg Host.Outcome.next (if_neg (by simp [hdown])), ?_⟩
    unfold State.hostLink
    exact ⟨State.raise_pcie .., State.raise_mb ..⟩
  case corrected => exact ⟨_, rfl, State.raise_pcie .., State.raise_mb ..⟩
  case uncorrected => exact ⟨_, rfl, State.raise_pcie .., State.raise_mb ..⟩

end Sys2Proof.Machine
end

