-- ==== Sys2Proof/Proofs/HostInterface/Objects.lean ====
section
/-! PROOFS. Objects: creation, destruction, reads (R13, section 2.7). Firmware slots (R65, R66). -/

namespace Sys2Proof.Machine

open Sys2Proof Sys2Proof.Safety

/-! ### Jobs that have ended -/

theorem find_filter_ne (l : List Job) (id : Nat) : (l.filter (fun k => k.id != id)).find? (fun k => k.id == id) = none := by
  rw [List.find?_eq_none]
  intro k hk
  simpa using (List.mem_filter.mp hk).2

/-- A job that has ended is on the list no more. -/
theorem State.endJob_job_none (s : State) (id status : Nat) (ws : List Word) : (s.endJob id status ws).job? id = none := by
  unfold State.job?
  rw [(State.endJob_jobs s id status ws).1]
  cases h : s.job? id with
  | none => exact h
  | some j => exact find_filter_ne _ id

/-! ### Objects -/

section Objects
variable {c : Cmd} (s : State)

theorem objectCreateBody_of_room (hok1 : c.okBits 1 (mask 127 120 + mask 63 0) = true) (hok2 : c.okBits 2 (mask 63 0) = true)
    (hlo : 2 ≤ c.f 1 127 120) (hhi : c.f 1 127 120 ≤ 6) (halign : c.f 1 3 0 = 0) (hsize : c.f 2 63 32 % 16 = 0)
    (hmin : 16 ≤ c.f 2 63 32) (hlen : c.f 2 31 0 ≤ c.f 2 63 32) (hmirror : s.place.mirrorShort = false)
    (hfits : s.fits (plan 0 (ceilDiv (c.f 2 63 32) basketBytes) 0 0 0 0) = true) :
    objectCreateBody c s = {
      s := s.addObj { id := s.nextId (c.f 1 127 120), cls := c.f 1 127 120, size := c.f 2 63 32, data := [], creating := true }
        (plan 0 (ceilDiv (c.f 2 63 32) basketBytes) 0 0 0 0)
      a := { status := stAccepted, object := some (s.nextId (c.f 1 127 120))
             job := some (.objectCreate (s.nextId (c.f 1 127 120)) (c.f 2 31 0)) } } := by
  have hfields : (!c.okBits 1 (mask 127 120 + mask 63 0) || !c.okBits 2 (mask 63 0) || decide (c.f 1 127 120 < 2 ∨ 6 < c.f 1 127 120)
      || c.f 1 3 0 != 0 || c.f 2 63 32 % 16 != 0 || decide (c.f 2 63 32 < 16 ∨ c.f 2 63 32 < c.f 2 31 0)) = false := by
    simp [hok1, hok2, halign, hsize, hhi, hmin, hlen]; omega
  simp only [objectCreateBody, hfields, hmirror, hfits, Bool.false_eq_true, if_false, Bool.not_true, Bool.or_self]

theorem objectDestroyBody_of_free {o : Obj} (ho : s.obj? c.object.toNat = some o) (huse : s.inUse o = false) (hname : s.named o.id = false) :
    objectDestroyBody c s = answer ((s.dropScene o.id).removeObj o.id) [] := by
  simp only [objectDestroyBody, ho, huse, hname, Bool.or_self, Bool.false_eq_true, if_false]

theorem objectReadBody_of_range {o : Obj} (ho : s.obj? c.object.toNat = some o) (hok1 : c.okBits 1 (mask 63 0) = true)
    (hok2 : c.okBits 2 (mask 63 0) = true) (halign : c.f 1 3 0 = 0) (hoff : c.f 2 63 32 % 16 = 0) (hlen : c.f 2 31 0 % 16 = 0)
    (hrange : c.f 2 63 32 + c.f 2 31 0 ≤ o.size) :
    objectReadBody c s =
      accept s (.objectRead o.id (c.f 1 63 0) (c.f 2 63 32) (c.f 2 31 0) (slice o.data (c.f 2 63 32) (c.f 2 31 0))) := by
  unfold objectReadBody
  rw [ho]
  refine if_neg ?_
  simp [hok1, hok2, halign, hoff, hlen, hrange]

end Objects

/-- The end of a creation: the bytes that came with the command, padded to the object's size, are the object, or it goes. -/
theorem exec_objectCreateCompletion {s : State} {o : Obj} {j : Job} {n : Nat} {data : List Byte} (ho : s.obj? o.id = some o)
    (hc : o.creating = true)
    (hj : s.findJob (fun j => match j.key with | .objectCreate x _ => x == o.id | _ => false) = some j)
    (hkey : j.key = .objectCreate o.id n) :
    exec (.objectCreateCompletion o.id data) s = .next (
      if objectOk o.cls o.size (padTo (0 : Byte) o.size (data.take n)) then
        (s.modObj o.id (fun x => { x with data := padTo (0 : Byte) o.size (data.take n), creating := false })).endJob j.id stOk []
      else (s.removeObj o.id).endJob j.id stBadArg []) := by
  change execObjectCreateCompletion o.id data s = _
  unfold execObjectCreateCompletion
  generalize hfound : s.findJob _ = found
  obtain rfl : found = some j := hfound.symm.trans hj
  simp only [ho, hkey, hc, Bool.not_true, Bool.false_eq_true, if_false]

/-- The end of a read of an object whose bytes stayed: they are in host memory and the job is gone. -/
theorem exec_objectReadCompletion {s : State} {o : Obj} {j : Job} {dest off len : Nat} (hj : s.job? j.id = some j)
    (ho : s.obj? o.id = some o) (hkey : j.key = .objectRead o.id dest off len (slice o.data off len)) :
    ∃ t, exec (.objectReadCompletion j.id) s = .next t ∧ Out.hostWrite dest (slice o.data off len) ∈ t.out ∧ t.job? j.id = none := by
  refine ⟨_, rfl, ?_⟩
  simp only [hj, hkey, ho, if_true]
  have hsent := sent_endJob (s.emit (.hostWrite dest (slice o.data off len))) j.id stOk [] _ List.mem_cons_self
  have hgone := State.endJob_job_none (s.emit (.hostWrite dest (slice o.data off len))) j.id stOk []
  split
  · exact ⟨hsent, hgone⟩
  · exact ⟨hsent, hgone⟩

/-- Settles O17, by the bodies of the object commands and the two completions. -/
theorem objectLife : Obligations.ObjectLife := by
  intro c s
  refine ⟨fun h hok1 hok2 hlo hhi halign hsize hmin hlen hmirror hfits => next_hostCmd rfl h
      (objectCreateBody_of_room (taken c s) hok1 hok2 hlo hhi halign hsize hmin hlen hmirror hfits),
    fun o j n data ho hc hj hkey => exec_objectCreateCompletion ho hc hj hkey,
    fun o h ho huse hname => next_hostCmd rfl h (objectDestroyBody_of_free (taken c s) ho huse hname),
    fun o h ho hok1 hok2 halign hoff hlen hrange =>
      next_hostCmd rfl h (objectReadBody_of_range (taken c s) ho hok1 hok2 halign hoff hlen hrange),
    fun o j dest off len hj ho hkey => exec_objectReadCompletion hj ho hkey⟩

/-! ### Firmware slots -/

theorem Firmware.slot_setSlot_same (f : Firmware) (n : Nat) (x : FwSlot) : (f.setSlot n x).slot n = x := by
  unfold Firmware.setSlot Firmware.slot
  by_cases h : n = 0 <;> simp [h]

section FwBodies
variable {c : Cmd} (s : State)

theorem fwStageBody_of_free (hok1 : c.okBits 1 (mask 63 0) = true) (hok2 : c.okBits 2 (mask 31 0) = true) (halign : c.f 1 3 0 = 0)
    (hlen : c.f 2 31 0 ≤ 32 * 2 ^ 20) (hstaging : s.fw.staging = none) (hd : (s.domain 47).failed = false) :
    fwStageBody c s = accept { s with fw := { s.fw.setSlot s.stageSlot {} with staging := some s.stageSlot } }
      (.fwStage s.stageSlot (c.f 1 63 0) (c.f 2 31 0)) := by
  unfold fwStageBody
  have hshort : ¬ 32 * 2 ^ 20 < c.f 2 31 0 := by omega
  rw [if_neg (by simp only [hok1, hok2, halign, hshort]; decide), if_neg (by simp [hstaging]), if_neg (by simp [hd])]

theorem fwActivateBody_of_filled (hok : c.okBits 1 1 = true) (hstaging : s.fw.staging = none) (hslot : (s.fw.slot (c.f 1 0 0)).state ≠ 0) :
    fwActivateBody c s = answer { s with fw := { s.fw with activate := some (c.f 1 0 0) } } [] := by
  unfold fwActivateBody
  rw [if_neg (okBits_refused hok), if_neg (by simp [hstaging]), if_neg hslot]

theorem fwConfirmBody_of_steady (h : s.dev.trial = false) : fwConfirmBody c s = { s := s, a := { status := stWarn } } := if_pos (by simp [h])

/-- What FW_CONFIRM makes of the slots: the running one is permanent, the other permanent no more. -/
def Firmware.confirmed (f : Firmware) : Firmware :=
  (f.setSlot f.running { f.slot f.running with state := 3 }).setSlot (1 - f.running)
    { f.slot (1 - f.running) with state := if (f.slot (1 - f.running)).state = 3 then 1 else (f.slot (1 - f.running)).state }

theorem fwConfirmBody_of_trial (h : s.dev.trial = true) :
    fwConfirmBody c s = answer { s with fw := s.fw.confirmed, dev := { s.dev with trial := false } } [] := if_neg (by simp [h])

end FwBodies

theorem State.endJobs_restJobs (ids : List Nat) (status : Nat) : ∀ s : State, (s.endJobs ids status).restJobs = s.restJobs := by
  induction ids with
  | nil => exact fun _ => rfl
  | cons i ids ih => exact fun s => (ih _).trans (State.endJob_restJobs s i status [])

/-- The end of FW_STAGE leaves in the slot what its image verifies as. -/
theorem exec_fwStageCompletion {s : State} {n : Nat} (h : s.fw.staging = some n) (r : FwImage) :
    ∃ t, exec (.fwStageCompletion r) s = .next t ∧ t.fw = { s.fw.setSlot n
      (if (if r.tooLong then stNoSpace else if r.ok then stOk else stIntegrity) = stOk then { version := r.version, state := 1 } else {})
      with staging := none } := by
  refine ⟨_, rfl, ?_⟩
  simp only [h]
  exact State.congr_restJobs (·.fw) (fun _ => rfl) (State.endJobs_restJobs _ _ _)

section Confirmed
variable (f : Firmware)

theorem Firmware.setSlot_running (n : Nat) (x : FwSlot) : (f.setSlot n x).running = f.running := by
  unfold Firmware.setSlot
  by_cases h : n = 0 <;> simp [h]

theorem Firmware.confirmed_running : f.confirmed.running = f.running := by
  unfold Firmware.confirmed
  rw [Firmware.setSlot_running, Firmware.setSlot_running]

theorem Firmware.confirmed_slot_running : (f.confirmed.slot f.running).state = 3 := by
  unfold Firmware.confirmed Firmware.setSlot Firmware.slot
  by_cases h : f.running = 0
  · simp [h]
  · have hother : 1 - f.running = 0 := by omega
    simp [h, hother]

theorem Firmware.confirmed_slot_other : (f.confirmed.slot (1 - f.running)).version = (f.slot (1 - f.running)).version := by
  unfold Firmware.confirmed
  rw [Firmware.slot_setSlot_same]

end Confirmed

theorem report_dev_fw (c : Cmd) (r : Ran) : (report c r).dev = r.s.dev ∧ (report c r).fw = r.s.fw :=
  ⟨report_part (·.dev) (fun _ => rfl) c r, report_part (·.fw) (fun _ => rfl) c r⟩

/-- Settles O18, by the bodies of the firmware commands and the end of FW_STAGE. -/
theorem firmwareSlots : Obligations.FirmwareSlots := by
  intro c s
  refine ⟨fun h hok1 hok2 halign hlen hstaging hd => next_hostCmdWith rfl h
      (fwStageBody_of_free (taken c s) hok1 hok2 halign hlen hstaging hd) (.inr rfl),
    fun n r hn hok hlong => ?ended, fun n r hn hbad => ?failed,
    fun h hok hstaging hslot => next_hostCmd rfl h (fwActivateBody_of_filled (taken c s) hok hstaging hslot),
    fun h htrial => next_hostCmd rfl h (fwConfirmBody_of_steady (taken c s) htrial), fun h htrial => ?confirmed⟩
  case ended =>
    obtain ⟨t, hrun, hfw⟩ := exec_fwStageCompletion hn r
    exact ⟨t, hrun, by simpa [hok, hlong] using hfw⟩
  case failed =>
    obtain ⟨t, hrun, hfw⟩ := exec_fwStageCompletion hn r
    have hstatus : (if r.tooLong then stNoSpace else if r.ok then stOk else stIntegrity) ≠ stOk := by
      cases hbad with
      | inl hok => simp only [hok, Bool.false_eq_true, if_false]; split <;> decide
      | inr hlong => simp only [hlong, if_true]; decide
    exact ⟨t, hrun, by rw [hfw, if_neg hstatus]⟩
  case confirmed =>
    obtain ⟨hdev, hfw⟩ := report_dev_fw c (fwConfirmBody c (taken c s))
    rw [fwConfirmBody_of_trial (taken c s) htrial] at hdev hfw
    refine ⟨_, next_hostCmd rfl h (fwConfirmBody_of_trial (taken c s) htrial), hdev, ?_⟩
    rw [hfw]
    exact ⟨s.fw.confirmed_slot_running, s.fw.confirmed_running, s.fw.confirmed_slot_other⟩

end Sys2Proof.Machine
end

