-- ==== Sys2Proof/Proofs/HostInterface/Severe.lean ====
section
/-! PROOFS. Events of severity 3 and 4 in the collector (R35, R36). -/

namespace Sys2Proof.Machine

open Sys2Proof Sys2Proof.Safety

/-- An event of severity 3 or more that the collector takes is held, or counted in the entry of its source and code. -/
theorem State.collect_severe (s : State) (h : HeldEvent) (hsev : 3 ≤ h.ev.severity) :
    h ∈ (s.collect h).ev.held ∨ ∃ x ∈ (s.collect h).ev.overflow,
      x.first.ev.source = h.ev.source ∧ x.first.ev.code = h.ev.code ∧ x.last = h.seq := by
  unfold State.collect
  rw [if_pos hsev]
  split
  next => exact .inl (List.mem_append_right _ (List.mem_singleton_self h))
  next =>
    refine .inr ?_
    cases hentry : s.ev.overflow.find? (fun e => e.first.ev.source == h.ev.source && e.first.ev.code == h.ev.code) with
    | none => exact ⟨_, List.mem_append_right _ (List.mem_singleton_self _), rfl, rfl, rfl⟩
    | some e =>
      have hnamed := List.find?_some hentry
      obtain ⟨hsource, hcode⟩ : e.first.ev.source = h.ev.source ∧ e.first.ev.code = h.ev.code := by simpa using hnamed
      refine ⟨_, List.mem_map_of_mem (List.mem_of_find?_eq_some hentry), ?_⟩
      simp only [hnamed, if_true]
      exact ⟨hsource, hcode, trivial⟩

/-- Settles O27, by the collector's two places for a severe event: no such event is discarded before it gets there. -/
theorem severeKept : Obligations.SevereKept := by
  intro s source code severity arg arg2 hlo hhi t e
  have hkept : ¬ s.discards source severity = true := fun hd => by
    have hlow := ((s.discards_iff source severity).mp hd).1
    omega
  have ht : t = _ := if_neg hkept
  rw [ht]
  exact State.collect_severe _ { seq := s.ev.nextSeq, ev := e } hlo

end Sys2Proof.Machine
end

