-- ==== Sys2Proof/Proofs/Memory/RowGuard.lean ====
section
/-! PROOFS. The counted mode of the row guard (R337). -/

namespace Sys2Proof.Machine

open Sys2Proof Sys2Proof.Safety

/-- The counts of one row change by `f`, those of the others stay. -/
def mapRow (f : Nat → Nat) (r : Nat) (table : List RowCount) : List RowCount :=
  table.map (fun x => if x.row = r then { x with count := f x.count } else x)

theorem find_mapRow {f : Nat → Nat} {r n : Nat} {table : List RowCount}
    (h : table.find? (fun x => x.row == r) = some { row := r, count := n }) :
    (mapRow f r table).find? (fun x => x.row == r) = some { row := r, count := f n } := by
  have hrow : ((fun x : RowCount => x.row == r) ∘ fun x => if x.row = r then { x with count := f x.count } else x) =
      fun x => x.row == r := by
    funext x
    by_cases hx : x.row = r <;> simp [hx]
  unfold mapRow
  rw [List.find?_map, hrow, h]
  simp

theorem countRow_of_mem {r n : Nat} {table : List RowCount} (h : table.find? (fun x => x.row == r) = some { row := r, count := n }) :
    countRow table r = mapRow (· + 1) r table := by
  have hany : table.any (fun x => x.row == r) = true :=
    List.any_eq_true.mpr ⟨_, List.mem_of_find?_eq_some h, List.find?_some (p := fun x : RowCount => x.row == r) h⟩
  exact if_pos hany

/-- A row counted to the threshold is scheduled and counts from 0 again. -/
theorem Bank.count_reached {b : Bank} {r threshold : Nat} (h : (countRow b.table r).any (fun x => x.row == r && decide (threshold ≤ x.count)) = true) :
    b.count r threshold = { b with table := mapRow (fun _ => 0) r (countRow b.table r), queue := b.queue ++ [r] } := if_pos h

theorem Bank.count_below {b : Bank} {r threshold : Nat} (h : (countRow b.table r).any (fun x => x.row == r && decide (threshold ≤ x.count)) = false) :
    b.count r threshold = { b with table := countRow b.table r } := if_neg (by simp [h])

/-- Settles O30, by the count of the row in the table after its activate, against the threshold. -/
theorem rowCounted : Obligations.RowCounted := by
  intro b row threshold n h _
  have hfound : (countRow b.table row).find? (fun x => x.row == row) = some { row := row, count := n + 1 } := by
    rw [countRow_of_mem h]
    exact find_mapRow h
  refine ⟨fun hreached => ?reached, fun hbelow hsame => ?below⟩
  case reached =>
    have hany : (countRow b.table row).any (fun x => x.row == row && decide (threshold ≤ x.count)) = true :=
      List.any_eq_true.mpr ⟨_, List.mem_of_find?_eq_some hfound, by simpa using hreached⟩
    rw [Bank.count_reached hany]
    exact ⟨rfl, find_mapRow (f := fun _ => 0) hfound⟩
  case below =>
    have hany : (countRow b.table row).any (fun x => x.row == row && decide (threshold ≤ x.count)) = false := by
      rw [countRow_of_mem h, mapRow, List.any_map, List.any_eq_false]
      intro x hx
      by_cases hr : x.row = row
      · simp [hr, hsame x hx hr, hbelow]
      · simp [hr]
    rw [Bank.count_below hany]
    exact ⟨rfl, hfound⟩

end Sys2Proof.Machine
end

