-- ==== Sys2Proof/Proofs/Power/Sag.lean ====
section
/-! PROOFS. The sag stages (R412, R413). -/

namespace Sys2Proof.Machine

open Sys2Proof Sys2Proof.Safety

/-! ### One step of the stage -/

section Step
variable {s : State}

theorem State.sagStep_rise (hwarn : s.pwr.warnLow = false) (h : s.pwr.stage < sagLevel s.pwr.input) :
    s.sagStep = s.setStage (sagLevel s.pwr.input) 1 := by
  simp [State.sagStep, hwarn, h]

/-- SUPPLY_WARN_N low asks for stage 4. -/
theorem State.sagStep_warned (hwarn : s.pwr.warnLow = true) (hstage : s.pwr.stage < 4) (hlevel : sagLevel s.pwr.input < 4) :
    s.sagStep = s.setStage 4 2 := by
  have hmax : Nat.max (sagLevel s.pwr.input) 4 = 4 := Nat.max_eq_right (by omega)
  have hne : 4 ≠ sagLevel s.pwr.input := by omega
  simp [State.sagStep, hwarn, hmax, hstage, hne]

/-- Where nothing asks for a higher stage, the dwell decides. -/
theorem State.sagStep_dwell (h : (if s.pwr.warnLow then Nat.max (sagLevel s.pwr.input) 4 else sagLevel s.pwr.input) ≤ s.pwr.stage) :
    s.sagStep =
      if !s.pwr.dwells s.pwr.stage then s.modPwr (fun p => { p with above := none })
      else if s.pwr.above.any (fun t => decide (t + 200000 ≤ s.now)) then s.setStage (s.pwr.stage - 1) 3
      else s.modPwr (fun p => { p with above := some (p.above.getD s.now) }) := if_neg (Nat.not_lt.mpr h)

theorem State.sagStep_dwell_of_unwarned (hwarn : s.pwr.warnLow = false) (h : sagLevel s.pwr.input ≤ s.pwr.stage) :
    s.sagStep =
      if !s.pwr.dwells s.pwr.stage then s.modPwr (fun p => { p with above := none })
      else if s.pwr.above.any (fun t => decide (t + 200000 ≤ s.now)) then s.setStage (s.pwr.stage - 1) 3
      else s.modPwr (fun p => { p with above := some (p.above.getD s.now) }) :=
  State.sagStep_dwell (by simpa [hwarn] using h)

end Step

theorem Pwr.dwells_middle {p : Pwr} (hwarn : p.warnLow = false) {k : Nat} (hlo : 0 < k) (hhi : k < 6) :
    p.dwells k = decide (sagThreshold k + 10 ≤ p.input) := by
  have h0 : (k == 0) = false := by simp; omega
  have h6 : (k == 6) = false := by simp; omega
  simp [Pwr.dwells, hwarn, h0, h6]

/-- A dwell of a stage between 1 and 5 has stood long enough when it began 200 µs ago. -/
theorem dwelt_iff (above : Option Nat) (now : Nat) :
    above.any (fun t => decide (t + 200000 ≤ now)) = true ↔ ∃ t, above = some t ∧ t + 200000 ≤ now := by
  simp only [Option.any_eq_true, decide_eq_true_eq]

/-- Settles O32, by the order of `State.sagStep`: what asks for more, then the dwell, then its 200 µs. -/
theorem sagDwell : Obligations.SagDwell := by
  intro s
  refine ⟨fun hwarn => ⟨State.sagStep_rise hwarn, fun hlevel hlo hhi => ⟨fun hbelow => ?broken, fun habove hyoung => ?young,
    fun t habove ht hold => ?old⟩, fun hlevel h6 => ?six⟩, State.sagStep_warned, fun hwarn h4 hlevel => ?held⟩
  case broken =>
    rw [State.sagStep_dwell_of_unwarned hwarn hlevel, Pwr.dwells_middle hwarn hlo hhi, decide_eq_false (by omega)]
    rfl
  case young =>
    have hnot : ¬ s.pwr.above.any (fun t => decide (t + 200000 ≤ s.now)) = true := by
      rw [dwelt_iff]
      rintro ⟨t, ht, hold⟩
      have := hyoung t ht
      omega
    rw [State.sagStep_dwell_of_unwarned hwarn hlevel, Pwr.dwells_middle hwarn hlo hhi, decide_eq_true habove]
    exact if_neg hnot
  case old =>
    rw [State.sagStep_dwell_of_unwarned hwarn hlevel, Pwr.dwells_middle hwarn hlo hhi, decide_eq_true habove]
    exact if_pos ((dwelt_iff _ _).mpr ⟨t, ht, hold⟩)
  case six =>
    rw [State.sagStep_dwell_of_unwarned hwarn hlevel, h6]
    rfl
  case held =>
    have hwant : (if s.pwr.warnLow then Nat.max (sagLevel s.pwr.input) 4 else sagLevel s.pwr.input) ≤ s.pwr.stage := by
      rw [if_pos hwarn, h4]
      exact Nat.max_le.mpr ⟨hlevel, (Nat.le_refl _)⟩
    rw [State.sagStep_dwell hwant, h4]
    simp [Pwr.dwells, hwarn]

/-! ### Samples and SUPPLY_WARN_N -/

theorem b2n_decide (p : Prop) [Decidable p] : b2n (decide p) = if p then 1 else 0 := by
  simp only [b2n, decide_eq_true_eq]

/-- The stage of an input is the number of thresholds above it (Table 17.2). -/
theorem sagLevel_eq_countP (mv : Nat) : sagLevel mv = countP (fun k => decide (mv < sagThreshold (k + 1))) (List.range 6) := by
  have hrange : List.range 6 = [0, 1, 2, 3, 4, 5] := by decide
  simp only [hrange, countP, b2n_decide]
  change sagLevel mv = (if mv < 715 then 1 else 0) + ((if mv < 700 then 1 else 0) + ((if mv < 685 then 1 else 0) +
    ((if mv < 670 then 1 else 0) + ((if mv < 655 then 1 else 0) + ((if mv < 640 then 1 else 0) + 0)))))
  unfold sagLevel
  grind
theorem exec_sagSample {s : State} (hon : s.dev.state ≠ .off) (hup : (s.domain 46).st = 2) (vcore pace : List Nat) :
    exec (.sagSample vcore pace) s = .next (((s.advanceTo (s.pwr.sagAt + 10000)).modPwr (fun p => { p with
      sites := pushSites s.pwr.sites vcore pace, sagAt := (s.advanceTo (s.pwr.sagAt + 10000)).now
      input := (lowest ((pushSites s.pwr.sites vcore pace).map (fun x => meanN x.vcore)) 0).1
      inputMon := (lowest ((pushSites s.pwr.sites vcore pace).map (fun x => meanN x.vcore)) 0).2 })).sagStep) :=
  congrArg Host.Outcome.next (if_neg (by simp [hon, hup]))

/-- Settles O31, by the executions of the sample and of the two edges of SUPPLY_WARN_N. -/
theorem sagStages : Obligations.SagStages := by
  intro s vcore pace
  exact ⟨fun hon hup => exec_sagSample hon hup vcore pace, sagLevel_eq_countP,
    fun hwarn => congrArg Host.Outcome.next (if_neg (by simp [hwarn])),
    fun hwarn => congrArg Host.Outcome.next (if_pos hwarn)⟩

end Sys2Proof.Machine
end

