-- ==== Sys2Proof/Proofs/Placement/Copies.lean ====
section
/-! PROOFS. Where the copies of new baskets lie (R172). -/

namespace Sys2Proof.Machine

open Sys2Proof Sys2Proof.Safety

theorem mem_of_roundFrom {pos c : Nat} {cs : List Nat} (h : roundFrom pos cs = some c) : c ∈ cs := by
  unfold roundFrom at h
  split at h
  next d hd =>
    obtain rfl : d = c := Option.some.inj h
    exact List.mem_of_find?_eq_some hd
  next => exact List.mem_of_head? h

/-- A channel with a free basket works. -/
theorem State.works_of_mem_open {s : State} {u : List Nat} {c : Nat} (h : c ∈ s.open_ u) : s.works c = true :=
  (List.mem_filter.mp (List.mem_filter.mp h).1).2

/-- Channels for the copies of one basket: they work, and a second one is for a basket of two copies and lies in another package. -/
def State.Apart (s : State) (two : Bool) (cs : List Nat) : Prop :=
  (∀ c ∈ cs, s.works c = true) ∧ cs.length ≤ 2 ∧ ∀ c d, cs = [c, d] → two = true ∧ c / 4 ≠ d / 4

theorem State.apart_nil (s : State) (two : Bool) : s.Apart two [] :=
  ⟨fun _ h => absurd h List.not_mem_nil, Nat.zero_le 2, fun _ _ h => absurd h (List.cons_ne_nil _ _).symm⟩

theorem State.apart_single {s : State} {c : Nat} (two : Bool) (h : s.works c = true) : s.Apart two [c] := by
  refine ⟨fun d hd => ?_, by simp, fun _ _ e => by simp at e⟩
  rw [List.mem_singleton.mp hd]
  exact h

theorem State.apart_pair {s : State} {c d : Nat} (hc : s.works c = true) (hd : s.works d = true) (hne : c / 4 ≠ d / 4) :
    s.Apart true [c, d] := by
  refine ⟨by simp [hc, hd], (Nat.le_refl _), fun x y e => ?_⟩
  obtain ⟨rfl, rfl⟩ : c = x ∧ d = y := by simpa using e
  exact ⟨rfl, hne⟩

theorem State.allotOne_apart (s : State) (two : Bool) (left : Nat) (a : Alloc) : s.Apart two (s.allotOne two left a).2 := by
  unfold State.allotOne
  split
  next => exact s.apart_nil two
  next c hc =>
    have hfirst : s.works c = true := State.works_of_mem_open (mem_of_roundFrom hc)
    extract_lets a' free good cands
    cases two with
    | false => exact State.apart_single false hfirst
    | true =>
      simp only [Bool.not_true, Bool.false_eq_true, if_false]
      split
      next => exact State.apart_single true hfirst
      next d hd =>
        obtain ⟨hopen, hother⟩ := List.mem_filter.mp (List.mem_of_getElem? hd)
        have hne : c / 4 ≠ d / 4 := by
          have h := (Bool.and_eq_true_iff.mp hother).1
          exact fun e => by simp [e] at h
        exact State.apart_pair hfirst (State.works_of_mem_open hopen) hne

theorem State.allotAll_apart (s : State) : ∀ (ps : List Basket) (a : Alloc),
    (s.allotAll a ps).2.length = ps.length ∧ ∀ b ∈ (s.allotAll a ps).2, s.Apart (b.cls == 0) b.chans
  | [], _ => ⟨rfl, fun _ h => absurd h List.not_mem_nil⟩
  | p :: ps, a => by
    have hone := s.allotOne_apart (p.cls == 0) (countP (fun x => x.cls == 0) ps) a
    obtain ⟨hlen, hrest⟩ := State.allotAll_apart s ps (s.allotOne (p.cls == 0) (countP (fun x => x.cls == 0) ps) a).1
    refine ⟨congrArg (· + 1) hlen, fun b hb => ?_⟩
    cases List.mem_cons.mp hb with
    | inl heq => rw [heq]; exact hone
    | inr hmem => exact hrest b hmem

/-- Settles O60, by induction on the new baskets: each one's channels are those of `State.allotOne_apart`. -/
theorem copiesApart : Obligations.CopiesApart := by
  intro s ps a out
  obtain ⟨hlen, hall⟩ := s.allotAll_apart ps a
  refine ⟨hlen, fun b hb => ?_⟩
  obtain ⟨hworks, htwo, hpair⟩ := hall b hb
  refine ⟨hworks, htwo, fun c d e => ?_⟩
  obtain ⟨hcls, hne⟩ := hpair c d e
  exact ⟨by simpa using hcls, hne⟩

end Sys2Proof.Machine
end

