-- ==== Sys2Proof/Proofs/Panel/Ledgers.lean ====
section
/-! PROOFS. The ledgers of a tile (R306 to R308). -/

namespace Sys2Proof.Machine

open Sys2Proof Sys2Proof.Safety

/-! ### Ledgers without a drive in flight -/

/-- Balanced ledgers of a tile that has no drive in flight. -/
def Settled (d : TileDrive) : Prop :=
  (d.l0 = 0 ∨ d.l0 = 1) ∧ (d.inv = none → d.l0 = 0) ∧ d.l1 = if d.inv.getD 0 = 0 then d.l0 else -d.l0

/-- The drive of a SUBFRAME_START with the next inversion mode, over settled ledgers. -/
def TileDrive.driven (d : TileDrive) (inv : Nat) (x : Drive) (w : Nat) : TileDrive :=
  { d with inv := some inv, drive := some x, lastWord := some w, recent := (x :: d.recent).take 8 }

theorem TileDrive.settle_settled {d : TileDrive} (h : Balanced d) : Settled d.settle := by
  obtain ⟨hl0, hfresh, hl1, hdrive⟩ := h
  unfold TileDrive.settle
  split
  next => exact ⟨hl0, fun hi => (hfresh hi).1, hl1⟩
  next x hx =>
    obtain ⟨hdl0, hdl1⟩ : x.dl0 = (if d.l0 = 1 then -1 else 1) ∧ x.dl1 = (if d.inv.getD 0 = 0 then x.dl0 else -x.dl0) := by
      simpa [hx] using hdrive
    have hmode : d.inv ≠ none := fun hi => by simp [hx] at hfresh; exact hfresh hi
    split
    next =>
      refine ⟨?_, fun hi => absurd hi hmode, ?_⟩
      · show d.l0 + x.dl0 = 0 ∨ d.l0 + x.dl0 = 1
        rw [hdl0]
        cases hl0 with
        | inl h0 => simp [h0]
        | inr h1 => simp [h1]
      · show d.l1 + x.dl1 = if d.inv.getD 0 = 0 then d.l0 + x.dl0 else -(d.l0 + x.dl0)
        rw [hl1, hdl1]
        split
        · rfl
        · omega
    next => exact ⟨hl0, fun hi => absurd hi hmode, hl1⟩

/-- The inversion mode changes over ledgers of 0 only, and then either mode fits. -/
theorem TileDrive.nextInv_fits {d : TileDrive} (h : Settled d) (want : Nat) :
    d.l1 = if d.nextInv want = 0 then d.l0 else -d.l0 := by
  obtain ⟨-, hfresh, hl1⟩ := h
  unfold TileDrive.nextInv
  split
  next hi =>
    have h0 := hfresh hi
    simp [hl1, h0]
  next i hi =>
    simp only [hi, Option.getD_some] at hl1
    split
    next hz => simp [hz.1, hz.2]
    next => exact hl1

theorem TileDrive.phase_eq_one {d : TileDrive} (h : Settled d) : d.phase = 1 ↔ d.l0 = 1 := by
  unfold TileDrive.phase
  cases h.1 with
  | inl h0 => simp [h0]
  | inr h1 => simp [h1]

theorem balanced_driven {d : TileDrive} (h : Settled d) {want : Nat} {x : Drive} (w : Nat) (hdl0 : x.dl0 = if d.phase = 1 then -1 else 1)
    (hdl1 : x.dl1 = if d.nextInv want = 0 then x.dl0 else -x.dl0) : Balanced (d.driven (d.nextInv want) x w) := by
  refine ⟨h.1, fun hi => absurd hi (Option.some_ne_none _), TileDrive.nextInv_fits h want, 
    hdl0.trans (ite_congr (propext (TileDrive.phase_eq_one h)) (fun _ => rfl) (fun _ => rfl)), hdl1⟩

/-- A STATUS that marks the drive as made leaves the ledgers and the drive's signs. -/
theorem balanced_mark {d : TileDrive} (h : Balanced d) (frame sf : Nat) : Balanced (d.mark frame sf) := by
  obtain ⟨hl0, hfresh, hl1, hdrive⟩ := h
  refine ⟨hl0, fun hi => ⟨(hfresh hi).1, ?_⟩, hl1, ?_⟩
  · simp [TileDrive.mark, (hfresh hi).2]
  · unfold TileDrive.mark
    cases hx : d.drive with
    | none => trivial
    | some x => simpa [hx] using hdrive

/-! ### SUBFRAME_START -/

theorem State.tile_sendTile (s : State) (t kind n : Nat) (ws : List Nat) : (s.sendTile t kind ws).tile n = s.tile n := by
  unfold State.sendTile
  split <;> rfl

theorem State.sendStart_tile_ne (s : State) {t n : Nat} (h : n ≠ t) (frame sf k rep sCount dark : Nat) (fm : Option Nat) :
    (s.sendStart t frame sf k rep sCount dark fm).tile n = s.tile n := by
  unfold State.sendStart
  extract_lets u
  rw [State.tile_sendTile, State.tile_modTile_ne _ _ _ _ h.symm]
  exact State.tile_modTile_ne _ _ _ _ h.symm

theorem State.sendStart_balanced {s : State} {t : Nat} (h : Balanced (s.tile t)) (frame sf k rep sCount dark : Nat) (fm : Option Nat) :
    Balanced ((s.sendStart t frame sf k rep sCount dark fm).tile t) := by
  unfold State.sendStart
  extract_lets u d inv ph w dl x v
  rw [State.tile_sendTile]
  have hu : u.tile t = if t = t ∧ t < s.panel.tiles.length then (s.tile t).settle else s.tile t := State.tile_modTile ..
  have hv : v.tile t = if t = t ∧ t < u.panel.tiles.length then (u.tile t).driven inv x w else u.tile t := State.tile_modTile ..
  have hlen : u.panel.tiles.length = s.panel.tiles.length := updAt_length _ _ _
  rw [hv, hlen]
  by_cases ht : t = t ∧ t < s.panel.tiles.length
  · rw [if_pos ht] at hu ⊢
    have hset : Settled (u.tile t) := hu ▸ TileDrive.settle_settled h
    exact balanced_driven hset w rfl rfl
  · rw [if_neg ht] at hu ⊢
    exact hu ▸ h

/-- Settles O59, by settling the last drive, then adding one whose signs follow the ledgers and the mode. -/
theorem ledgersBalanced : Obligations.LedgersBalanced := by
  intro s t frame sf k rep sCount dark fm h
  exact ⟨State.sendStart_balanced h frame sf k rep sCount dark fm, balanced_mark h frame sf,
    fun n hn => s.sendStart_tile_ne hn frame sf k rep sCount dark fm⟩

end Sys2Proof.Machine
end

