-- ==== Sys2Proof/Proofs/Scene/Packets.lean ====
section
/-! PROOFS. How a packet of the scene stream is read (R71). -/

namespace Sys2Proof.Machine

open Sys2Proof Sys2Proof.Safety

/-! ### The packet that is read -/

/-- Every packet instruction reads the packet by the form of its type. -/
theorem exec_pktInstr (p : Pkt) (s : State) : ∃ body, exec (pktInstr p) s = .next (s.ingestPkt (pktForm p.type) body p) := by
  unfold pktInstr
  generalize p.type = t
  split
  case h_10 =>
    unfold pktForm
    split
    case h_10 => exact ⟨_, rfl⟩
    all_goals contradiction
  all_goals exact ⟨_, rfl⟩

section Read
variable {p : Pkt} {s : State} {k : Carrier}

/-- The next packet of its carrier is read, and waits in front where its frame finds no room. -/
theorem State.ingestPkt_of_next (h : NextOf p s k) (form : PktForm) (body : Scene → Pkt → State → State × PktEnd) :
    s.ingestPkt form body p =
      if (({ s with ingest := { s.ingest with resuming := none } } : State).readPkt form body p k).2 = .wait then
        (({ s with ingest := { s.ingest with resuming := none } } : State).closeFrame p.slot none).modScene p.slot
          (fun y => { y with waiting := p :: y.waiting })
      else (({ s with ingest := { s.ingest with resuming := none } } : State).readPkt form body p k).1 := by
  obtain ⟨x, hscene, hcarrier, hfirst⟩ := h
  have hscene' : ({ s with ingest := { s.ingest with resuming := none } } : State).scene? p.slot = some x := hscene
  have hnow : (!x.waiting.isEmpty && !(s.ingest.resuming == some p.slot)) = false := by
    cases hfirst with
    | inl hw => simp [hw]
    | inr hr => simp [hr]
  unfold State.ingestPkt
  simp only [hscene', hnow, hcarrier, Bool.false_eq_true, if_false]

/-- Framing that is lost: the carrier is read to its end. -/
theorem State.readPkt_of_lost {r : Nat} (h : p.lost k = some r) (form : PktForm) (body : Scene → Pkt → State → State × PktEnd) :
    ({ s with ingest := { s.ingest with resuming := none } } : State).readPkt form body p k =
      (((counted p s).discardPkt p k.off r false).modScene p.slot (fun x => x.modCarrier (fun c => { c with off := c.len })), .taken) := by
  unfold State.readPkt
  rw [h]
  rfl

/-- A packet whose framing holds: what its type does, then the carrier is read past it. -/
theorem State.readPkt_of_kept (h : p.lost k = none) (form : PktForm) (body : Scene → Pkt → State → State × PktEnd) :
    ({ s with ingest := { s.ingest with resuming := none } } : State).readPkt form body p k =
      (readPast p (((counted p s).framedPkt form body p).1.endPkt p k.off ((counted p s).framedPkt form body p).2),
        ((counted p s).framedPkt form body p).2) := by
  unfold State.readPkt
  rw [h]
  rfl

theorem State.framedPkt_of_failed {form : PktForm} {r : Nat} (h : form.framed p = some r) (body : Scene → Pkt → State → State × PktEnd) :
    s.framedPkt form body p = (s, .discard r) := by
  unfold State.framedPkt
  rw [h]

end Read

/-- Settles O42, by the two reads of a packet that a check refuses: neither comes to what its type does. -/
theorem packetChecks : Obligations.PacketChecks := by
  intro p s k r hnext
  obtain ⟨body, hrun⟩ := exec_pktInstr p s
  rw [hrun, State.ingestPkt_of_next hnext]
  refine ⟨fun hlost => ?lost, fun hkept hcheck => ?framed⟩
  case lost => rw [State.readPkt_of_lost hlost]; rfl
  case framed => rw [State.readPkt_of_kept hkept, State.framedPkt_of_failed hcheck]; rfl

end Sys2Proof.Machine
end

