-- ==== Sys2Proof/Proofs/Safety/SafeEntry.lean ====
section
/-! PROOFS. The entry to SAFE (R59, R312, R428, Table 1.4). -/

namespace Sys2Proof.Machine

open Sys2Proof Sys2Proof.Safety

/-! ### What the entry leaves alone

The entry to SAFE ends work of many units. What it has to establish is in the five parts below; each unit's work leaves
them alone. -/

/-- The device state, the safety unit, the parameters, the region updates and the panel grid. -/
def State.guard (s : State) : Dev × Saf × Params × List Region × Tim := (s.dev, s.saf, s.par, s.panel.regions, s.tim)

theorem State.guard_of_rest {s t : State} (h : t.rest = s.rest) : t.guard = s.guard := by
  have e := congrArg State.guard h
  exact e

theorem State.guard_parts {s t : State} (h : t.guard = s.guard) :
    t.dev = s.dev ∧ t.saf = s.saf ∧ t.par = s.par ∧ t.panel.regions = s.panel.regions ∧ t.tim = s.tim := by
  simpa only [State.guard, Prod.mk.injEq] using h

@[simp] theorem State.powerSync_guard (s : State) : s.powerSync.guard = s.guard := rfl

theorem State.raise_guard (s : State) {severity : Nat} (h : severity ≠ 4) (source code arg arg2 : Nat) :
    (s.raise source code severity arg arg2).guard = s.guard := State.guard_of_rest (State.raise_rest s source code severity arg arg2 h)

@[simp] theorem State.setPend_guard (s : State) (v : Nat) : (s.setPend v).guard = s.guard := State.guard_of_rest (State.setPend_rest s v)

@[simp] theorem State.endJob_guard (s : State) (id status : Nat) (ws : List Word) : (s.endJob id status ws).guard = s.guard := by
  have e := congrArg State.guard (State.endJob_restJobs s id status ws)
  exact e

@[simp] theorem State.endJobs_guard (s : State) (ids : List Nat) (status : Nat) : (s.endJobs ids status).guard = s.guard := by
  have e := congrArg State.guard (State.endJobs_restJobs ids status s)
  exact e

theorem State.foldl_guard {α : Type} {f : State → α → State} (h : ∀ s a, (f s a).guard = s.guard) (l : List α) :
    ∀ s : State, (l.foldl f s).guard = s.guard := by
  induction l with
  | nil => exact fun _ => rfl
  | cons a l ih => exact fun s => (ih (f s a)).trans (h s a)

/-! ### Compression, the 2D engine, the encoders -/

theorem State.endCmpJob_guard (s : State) (j : CmpJob) (status : Nat) (ws : List Word) : (s.endCmpJob j status ws).guard = s.guard := by
  unfold State.endCmpJob
  extract_lets comp x y
  have hx : x.guard = s.guard := rfl
  have hy : y.guard = s.guard := by
    simp only [y]
    split
    · exact (State.endJob_guard ..).trans hx
    · exact hx
  have hfree := congrArg State.guard y.freeJobs_restStore
  exact Eq.trans hfree hy

theorem State.endCmpJobs_guard (s : State) (status : Nat) : (s.endCmpJobs status 0).guard = s.guard := by
  unfold State.endCmpJobs
  extract_lets js x
  have hx : x.guard = s.guard := State.foldl_guard (fun _ _ => State.endCmpJob_guard ..) js s
  rw [if_pos (by simp)]
  exact hx

theorem State.g2dForce_guard (s : State) (error : Nat) : (s.g2dForce error).guard = s.guard := by
  have e := congrArg State.guard (s.g2dForce_restDirect error)
  exact e

theorem State.sendFlow_guard (s : State) (flow : Nat) (bytes : List Byte) : (s.sendFlow flow bytes).1.guard = s.guard := by
  unfold State.sendFlow
  split
  · rfl
  · extract_lets p upd
    split <;> rfl

theorem State.modEnc_guard (s : State) (n : Nat) (f : EncStream → EncStream) : (s.modEnc n f).guard = s.guard := rfl

theorem State.storeRecord_guard (s : State) (addr : Nat) (rec_ : List Byte) : (s.storeRecord addr rec_).guard = s.guard := rfl

theorem State.encRecord_guard (s : State) (n type slice frame tf flags qp spare : Nat) (payload : List Byte) :
    (s.encRecord n type slice frame tf flags qp spare payload).1.guard = s.guard := by
  unfold State.encRecord
  extract_lets e size ran sent ok
  split
  next =>
    have hsent : sent.guard = s.guard := State.sendFlow_guard ..
    clear_value sent ok
    cases ok with
    | false => exact hsent
    | true => exact (State.modEnc_guard ..).trans hsent
  next =>
    split
    next => rfl
    next base log2 _ =>
      extract_lets ring used pad after_ need padded e'
      have hpadded : padded.guard = s.guard := by
        simp only [padded]
        split
        · rfl
        · exact (State.modEnc_guard ..).trans (State.storeRecord_guard ..)
      clear_value padded
      split
      · rfl
      · exact (State.modEnc_guard ..).trans ((State.storeRecord_guard ..).trans hpadded)

@[simp] theorem State.encEvent_guard (s : State) (code arg : Nat) {severity : Nat} (h : severity ≠ 4) :
    (s.encEvent code severity arg).guard = s.guard := State.raise_guard s h ..

theorem State.encPictureEnd_guard (s : State) (n : Nat) (c : Coding) : (s.encPictureEnd n c).guard = s.guard := by
  unfold State.encPictureEnd
  extract_lets drop flags qp payload ran sent counted x
  have hx : x.guard = s.guard :=
    (State.encEvent_guard counted 1 _ (by decide)).trans (State.encRecord_guard ..)
  clear_value x
  split
  · exact (State.encEvent_guard x 2 _ (by decide)).trans hx
  · exact hx

theorem State.encStop_guard (s : State) (n cause : Nat) : (s.encStop n cause).guard = s.guard := by
  unfold State.encStop
  extract_lets e dropped x
  have hdropped : dropped.guard = s.guard := by
    simp only [dropped, State.encDropRunning]
    split
    · rfl
    · exact State.encPictureEnd_guard ..
  have hx : x.guard = s.guard := hdropped
  split
  · rfl
  · split
    · rfl
    · exact (State.encEvent_guard x 4 _ (by decide)).trans hx

theorem State.encStopAll_guard (s : State) (cause : Nat) : (s.encStopAll cause).guard = s.guard :=
  (State.encStop_guard ..).trans (State.encStop_guard ..)

/-! ### Tiles and the pair -/

@[simp] theorem State.sendTile_guard (s : State) (t kind : Nat) (ws : List Nat) : (s.sendTile t kind ws).guard = s.guard := by
  unfold State.sendTile
  split <;> rfl

theorem State.sendPower_guard (s : State) (t op show_ wake why : Nat) : (s.sendPower t op show_ wake why).guard = s.guard :=
  State.sendTile_guard ..

theorem State.sendHeartbeat_guard (s : State) (t : Nat) : (s.sendHeartbeat t).guard = s.guard := State.sendTile_guard ..

theorem State.eyeAbort_guard (s : State) (t : Nat) : (s.eyeAbort t).guard = s.guard := by
  unfold State.eyeAbort
  split
  · split
    · exact State.endJob_guard ..
    · rfl
  · rfl

theorem State.portGo_guard (s : State) (t new cause : Nat) : (s.portGo t new cause).guard = s.guard := by
  unfold State.portGo
  extract_lets p x y sev
  have hx : x.guard = s.guard := by
    simp only [x]
    split
    · exact State.eyeAbort_guard ..
    · rfl
  have hy : y.guard = s.guard := hx
  have hsev : sev ≠ 4 := by
    simp only [sev]
    split <;> decide
  clear_value y sev
  split
  · exact hy
  · exact (State.raise_guard y hsev ..).trans hy

theorem State.settleTilePower_guard (s : State) : s.settleTilePower.guard = s.guard :=
  State.foldl_guard (fun _ _ => State.endJob_guard ..) _ s

theorem State.powerLow_guard (s : State) (t : Nat) : (s.powerLow t).guard = s.guard := by
  unfold State.powerLow
  extract_lets d fresh low pin quiet told
  have hpin : pin.guard = s.guard := by
    simp only [pin]
    split <;> rfl
  have hquiet : quiet.guard = s.guard := (State.portGo_guard pin t 0 _).trans hpin
  exact (State.settleTilePower_guard _).trans ((State.raise_guard quiet (by decide) ..).trans hquiet)

theorem State.fastOff_guard (s : State) (cause : Nat) : (s.fastOff cause).guard = s.guard := by
  refine State.foldl_guard (fun x t => ?_) tileNums s
  extract_lets d marked muted
  split
  · rfl
  · split
    · exact (State.sendPower_guard ..).trans (State.sendPower_guard ..)
    · exact State.powerLow_guard ..

theorem State.handoverStep_guard (s : State) : s.handoverStep.guard = s.guard := by
  unfold State.handoverStep
  split
  · rfl
  · extract_lets told
    have hdisowned : told.disownAll.guard = s.guard := by
      refine State.foldl_guard (fun x t => ?_) tileNums told
      extract_lets owned
      split
      · exact State.sendHeartbeat_guard ..
      · rfl
    refine (State.foldl_guard (fun x t => ?_) tileNums _).trans hdisowned
    split
    · exact State.powerLow_guard ..
    · rfl

theorem State.tilesFast_guard (s : State) (cause : Nat) : (s.tilesFast cause).guard = s.guard := by
  unfold State.tilesFast
  split
  · refine (State.handoverStep_guard _).trans (State.foldl_guard (fun x t => ?_) tileNums s)
    extract_lets marked
    split
    · exact State.sendPower_guard ..
    · rfl
  · exact State.fastOff_guard ..

theorem State.leavePair_guard (s : State) : s.leavePair.guard = s.guard := by
  unfold State.leavePair State.roleGo
  extract_lets ids pair ended old
  have hended : ended.guard = s.guard := State.endJobs_guard ..
  split
  · rfl
  · split
    · exact hended
    · exact (State.raise_guard _ (by split <;> decide) ..).trans hended

/-! ### The entry -/

/-- What the entry to SAFE establishes beside the stopped panel grid. -/
structure State.Barred (s : State) : Prop where
  state : s.dev.state = .safe
  low : s.saf.safeStateLow = true
  latch : s.saf.latch = true
  regions : s.panel.regions = []
  commit : s.par.commit = none

theorem State.Barred.of_guard {s t : State} (h : s.Barred) (e : t.guard = s.guard) : t.Barred := by
  obtain ⟨hdev, hsaf, hpar, hregions, -⟩ := State.guard_parts e
  exact ⟨hdev ▸ h.state, hsaf ▸ h.low, hsaf ▸ h.latch, hregions ▸ h.regions, hpar ▸ h.commit⟩

/-- The work that the entry to SAFE ends, and what it sets. -/
theorem State.onSafe_safe {s : State} (hstate : s.dev.state = .safe) (hlatch : s.saf.latch = true) (hcommit : s.par.commit = none) :
    s.onSafe.Barred ∧ s.onSafe.tim.on = false ∧ s.onSafe.tim.change = none := by
  unfold State.onSafe
  extract_lets forced ended panel place mem link saf cleared pinned fast jobs stopped
  have hended : ended.guard = s.guard :=
    (State.encStopAll_guard ..).trans ((State.g2dForce_guard ..).trans (State.endCmpJobs_guard ..))
  obtain ⟨hdev, hsaf, hpar, -⟩ := State.guard_parts hended
  have hcleared : cleared.Barred := ⟨(congrArg Dev.state hdev).trans hstate, rfl, (congrArg Saf.latch hsaf).trans hlatch, rfl,
    (congrArg Params.commit hpar).trans hcommit⟩
  have hjobs : jobs.guard = cleared.guard :=
    (State.endJobs_guard ..).trans ((State.tilesFast_guard ..).trans (State.setPend_guard ..))
  have hbarred : jobs.Barred := hcleared.of_guard hjobs
  clear_value jobs
  have hstopped : stopped.Barred := ⟨hbarred.state, hbarred.low, hbarred.latch, hbarred.regions, hbarred.commit⟩
  have hleft : stopped.leavePair.guard = stopped.guard := State.leavePair_guard stopped
  obtain ⟨-, -, -, -, htim⟩ := State.guard_parts hleft
  exact ⟨hstopped.of_guard hleft, congrArg Tim.on htim, congrArg Tim.change htim⟩

/-- No COMMIT is pending once it has been dropped. -/
theorem State.dropCommit_commit (s : State) (status : Nat) : (s.dropCommit status).par.commit = none := by
  unfold State.dropCommit
  split
  next h => exact h
  next c _ =>
    extract_lets par panel x
    have e := congrArg (fun z : State => z.par.commit) (State.endJob_restJobs x c.job status [])
    exact e

theorem State.dropCommit_dev_saf (s : State) (status : Nat) : (s.dropCommit status).dev = s.dev ∧ (s.dropCommit status).saf = s.saf := by
  unfold State.dropCommit
  split
  next => exact ⟨rfl, rfl⟩
  next c _ =>
    extract_lets par panel x
    have e := State.endJob_guard x c.job status []
    obtain ⟨hdev, hsaf, -⟩ := State.guard_parts e
    exact ⟨hdev, hsaf⟩

theorem State.stopChange_dev_saf (s : State) : s.stopChange.dev = s.dev ∧ s.stopChange.saf = s.saf := by
  unfold State.stopChange
  split <;> exact ⟨rfl, rfl⟩

/-- The entry to SAFE that a fault brings about. -/
theorem State.enterBy_safe (s : State) (reason : Nat) :
    (s.enterBy .safe reason true).Barred ∧ (s.enterBy .safe reason true).tim.on = false ∧ (s.enterBy .safe reason true).tim.change = none := by
  unfold State.enterBy
  extract_lets old red dev start moved told joins pair alone dropped
  have htold : told.dev.state = .safe ∧ told.saf.latch = true :=
    ⟨congrArg Dev.state (State.stateChange_dev moved old reason true), (State.raise_four_saf moved ..).1⟩
  clear_value told
  have halone : alone = told := rfl
  have hdropped : dropped = told.stopChange.dropCommit stAborted := congrArg (fun z : State => z.stopChange.dropCommit stAborted) halone
  obtain ⟨hdev, hsaf⟩ := told.stopChange.dropCommit_dev_saf stAborted
  obtain ⟨hdev', hsaf'⟩ := told.stopChange_dev_saf
  rw [hdropped]
  have hstate := (congrArg Dev.state (hdev.trans hdev')).trans htold.1
  obtain ⟨hbarred, hgrid⟩ := State.onSafe_safe hstate ((congrArg Saf.latch (hsaf.trans hsaf')).trans htold.2) (State.dropCommit_commit _ _)
  have hentry : (told.stopChange.dropCommit stAborted).onEntry reason old = (told.stopChange.dropCommit stAborted).onSafe := by
    unfold State.onEntry
    rw [hstate]
  rw [hentry]
  have hsync := State.powerSync_guard (told.stopChange.dropCommit stAborted).onSafe
  obtain ⟨-, -, -, -, htim⟩ := State.guard_parts hsync
  refine ⟨hbarred.of_guard hsync, ?_⟩
  rw [htim]
  exact hgrid

/-- Settles O38, by the entry to SAFE that the fault brings about. -/
theorem safeEntered : Obligations.SafeEntered := by
  intro s cause unit_ hoff hsafe t
  have hruns : ¬ ((s.raise 0x14 1 4 (packNat [at' 63 56 cause, at' 55 48 unit_, at' 31 0 s.tim.frame.toNat]) s.arg2f).dev.state == .off ||
      (s.raise 0x14 1 4 (packNat [at' 63 56 cause, at' 55 48 unit_, at' 31 0 s.tim.frame.toNat]) s.arg2f).dev.state == .safe) = true := by
    simp [hoff, hsafe]
  have ht : t = _ := if_neg hruns
  rw [ht]
  obtain ⟨hbarred, hgrid, hstill⟩ := State.enterBy_safe _ _
  exact ⟨hbarred.state, hbarred.low, hbarred.latch, hgrid, hstill, hbarred.regions, hbarred.commit⟩

end Sys2Proof.Machine
end

