-- ==== Sys2Proof/Proofs/Scene/ScenePackets.lean ====
section
/-! PROOFS. What an accepted packet does to its scene (R74 to R92). -/

namespace Sys2Proof.Machine

open Sys2Proof Sys2Proof.Safety

/-! ### The scenes of a state -/

/-- A scene that is changed in place. -/
theorem State.scene?_modScene (s : State) (n : Nat) {f : Scene → Scene} (hf : ∀ y, (f y).slot = y.slot) :
    (s.modScene n f).scene? n = (s.scene? n).map f := by
  have hslot : ((fun y : Scene => y.slot == n) ∘ fun y => if y.slot = n then f y else y) = fun y => y.slot == n := by
    funext y
    by_cases h : y.slot = n <;> simp [h, hf]
  change List.find? _ (List.map _ _) = _
  rw [List.find?_map, hslot]
  unfold State.scene?
  cases h : s.ingest.scenes.find? (fun y => y.slot == n) with
  | none => rfl
  | some x =>
    have hx : x.slot = n := by simpa using List.find?_some h
    simp [hx]

/-- What a sequence sets up in its scene. -/
structure SceneSetup where
  slot : Nat
  seq : Option SeqParams
  first : Option Nat
  cams : List CamEnt
  tables : List TableEnt
  ovl : List OvlSlot

def Scene.setup (x : Scene) : SceneSetup :=
  { slot := x.slot, seq := x.seq, first := x.first, cams := x.cams, tables := x.tables, ovl := x.ovl }

def State.setups (s : State) : List SceneSetup := s.ingest.scenes.map Scene.setup

theorem State.setup_scene? (s : State) (n : Nat) : (s.scene? n).map Scene.setup = s.setups.find? (fun y => y.slot == n) := by
  unfold State.setups State.scene?
  rw [List.find?_map]
  rfl

theorem State.scene?_of_setups {s t : State} (h : t.setups = s.setups) {n : Nat} {x : Scene} (hx : s.scene? n = some x) :
    ∃ y, t.scene? n = some y ∧ y.setup = x.setup := by
  have e : (t.scene? n).map Scene.setup = some x.setup := by
    rw [State.setup_scene?, h, ← State.setup_scene?, hx]
    rfl
  exact Option.map_eq_some_iff.mp e

theorem State.modScene_setups (s : State) (n : Nat) {f : Scene → Scene} (hf : ∀ y, (f y).setup = y.setup) :
    (s.modScene n f).setups = s.setups := by
  unfold State.setups State.modScene
  rw [List.map_map]
  refine List.map_congr_left (fun y _ => ?_)
  by_cases h : y.slot = n <;> simp [h, hf]

theorem State.raise_setups (s : State) {severity : Nat} (h : severity ≠ 4) (source code arg arg2 : Nat) :
    (s.raise source code severity arg arg2).setups = s.setups := by
  have e := congrArg State.setups (State.raise_rest s source code severity arg arg2 h)
  exact e

theorem State.foldl_setups {α : Type} {f : State → α → State} (h : ∀ s a, (f s a).setups = s.setups) (l : List α) :
    ∀ s : State, (l.foldl f s).setups = s.setups := by
  induction l with
  | nil => exact fun _ => rfl
  | cons a l ih => exact fun s => (ih (f s a)).trans (h s a)

/-! ### Items that need no decoding change the pictures of a scene only -/

theorem State.decodeConceal_setups (s : State) (d : StreamId) (frame reason ctus : Nat) :
    (s.decodeConceal d frame reason ctus).setups = s.setups := by
  unfold State.decodeConceal
  split
  · rfl
  · split
    · rfl
    · extract_lets ingest x
      have hx : x.setups = s.setups := by
        simp only [x, State.setups, List.map_map]
        refine List.map_congr_left (fun y _ => ?_)
        by_cases h : y.slot = d.slot <;> simp [h, Scene.setup]
      exact (State.raise_setups x (by decide) ..).trans hx

theorem State.yieldPic_setups (s : State) (d : StreamId) (it : AuItem) (p : YPic) (own benign keep : Bool) (ctus : Nat) :
    (s.yieldPic d it p own benign keep ctus).setups = s.setups := by
  unfold State.yieldPic
  extract_lets x y
  have hy : y.setups = s.setups := State.modScene_setups x d.slot (fun _ => rfl)
  clear_value y
  split
  · exact (State.decodeConceal_setups ..).trans hy
  · exact hy

theorem State.yieldHeld_setups (s : State) (d : StreamId) (it : AuItem) (x : DStream) : (s.yieldHeld d it x).setups = s.setups := by
  unfold State.yieldHeld
  split
  · exact State.yieldPic_setups ..
  · split <;> exact State.yieldPic_setups ..

theorem State.drainStream_setups (d : StreamId) (n : Nat) : ∀ s : State, (s.drainStream d n).setups = s.setups := by
  induction n with
  | zero => exact fun _ => rfl
  | succ n ih =>
    intro s
    unfold State.drainStream
    split
    · rfl
    · split
      · rfl
      next it _ _ =>
        extract_lets taken next
        have hnext : next.setups = s.setups := by
          simp only [next]
          split
          · rfl
          · split
            · rfl
            · split
              · split
                · exact State.yieldPic_setups taken ..
                · exact State.yieldHeld_setups taken ..
              · rfl
        clear_value next
        split
        · rfl
        · exact (ih next).trans hnext

theorem State.drainScene_setups (s : State) (slot : Nat) : (s.drainScene slot).setups = s.setups := by
  refine State.foldl_setups (fun x d => ?_) _ s
  unfold State.drain
  split
  · exact State.drainStream_setups ..
  · rfl

theorem State.fileItem_setups (s : State) (d : StreamId) (it : AuItem) : (s.fileItem d it).setups = s.setups := by
  unfold State.fileItem
  extract_lets dec x
  have hx : x.setups = s.setups := by
    simp only [x]
    split <;> rfl
  exact hx

theorem readPast_setups (p : Pkt) (s : State) : (readPast p s).setups = s.setups := State.modScene_setups s p.slot (fun _ => rfl)

/-! ### Packets that pass their checks -/

section Passed
variable {p : Pkt} {s u : State} {x : Scene} {form : PktForm} {body : Scene → Pkt → State → State × PktEnd}

theorem State.framedPkt_of_passed (hframed : form.framed p = none) (hscene : (heard p s).scene? p.slot = some x)
    (hrange : form.inRange x p = true) : (counted p s).framedPkt form body p = body x p (heard p s) := by
  have h : (counted p s).framedPkt form body p =
      match (heard p s).scene? p.slot with
      | none => (heard p s, .taken)
      | some x => if form.inRange x p then body x p (heard p s) else (heard p s, .discard 6) := by
    unfold State.framedPkt
    rw [hframed]
    rfl
  rw [h, hscene]
  exact if_pos hrange

variable {i : Instr} (hrun : exec i s = .next (s.ingestPkt form body p)) (hform : pktForm p.type = form) (hpass : Passes p s x)
include hrun hform hpass

/-- An accepted packet: what its type does, then the carrier is read past it. -/
theorem exec_of_passed (hwait : (body x p (heard p s)).2 ≠ .wait) :
    ∃ k, exec i s = .next (readPast p ((body x p (heard p s)).1.endPkt p k (body x p (heard p s)).2)) := by
  obtain ⟨k, hnext, hkept, hframed, hscene, hrange⟩ := hpass
  rw [hform] at hframed hrange
  have hbody : (counted p s).framedPkt form body p = body x p (heard p s) := State.framedPkt_of_passed hframed hscene hrange
  refine ⟨k.off, ?_⟩
  rw [hrun, State.ingestPkt_of_next hnext, State.readPkt_of_kept hkept, hbody, if_neg hwait]

theorem exec_of_taken (hbody : body x p (heard p s) = (u, .taken)) : exec i s = .next (readPast p u) := by
  obtain ⟨k, h⟩ := exec_of_passed hrun hform hpass (by rw [hbody]; exact PktEnd.noConfusion)
  rw [h, hbody]
  rfl

theorem exec_of_discarded {r : Nat} (hbody : body x p (heard p s) = (u, .discard r)) :
    ∃ k, exec i s = .next (readPast p (u.discardPkt p k r false)) := by
  obtain ⟨k, h⟩ := exec_of_passed hrun hform hpass (by rw [hbody]; exact PktEnd.noConfusion)
  refine ⟨k, ?_⟩
  rw [h, hbody]
  rfl

end Passed

/-! ### SEQ_PARAMS, FRAME_BEGIN, KEEPALIVE -/

/-- The state in which a new sequence has begun. -/
def sequenced (p : Pkt) (s : State) : State :=
  let ids := (s.dec.streams.filter (fun (d : DStream) => d.id.slot == p.slot)).map (·.id)
  let s := ids.foldl (fun s d => s.fileItem d { kind := 3, frame := p.frame.toNat, seq := seqOf p, ent := none }) s
  let s := s.modScene p.slot (fun (y : Scene) => { y with
    seq := some (seqOf p), first := some p.frame.toNat, cams := [], tables := [], ovl := List.replicate 7 {}, resized := [], timeRaised := false })
  (s.drainScene p.slot).raise 3 1 1 ((seqOf p).seqId * 2 ^ 32 + p.frame.toNat) (p.slot * 2 ^ 40)

theorem seqBody_of_new {x : Scene} {p : Pkt} {s : State} (hopen : x.openFrame = none) (hnew : x.seq.map (·.raw) ≠ some (p.w 1)) :
    seqBody x p s = (sequenced p s, .taken) := by
  unfold seqBody
  rw [hopen]
  exact if_neg hnew

/-- The scene of a new sequence. -/
theorem sequenced_scene? {p : Pkt} {s : State} {x : Scene} (hx : s.scene? p.slot = some x) :
    ∃ y, (readPast p (sequenced p s)).scene? p.slot = some y ∧ y.seq = some (seqOf p) ∧ y.first = some p.frame.toNat ∧
      y.cams = [] ∧ y.tables = [] ∧ y.ovl = List.replicate 7 {} := by
  unfold sequenced
  extract_lets ids filed begun
  obtain ⟨y, hy, -⟩ := State.scene?_of_setups (t := filed) (State.foldl_setups (fun z d => State.fileItem_setups z d _) ids s) hx
  have hbegun : begun.scene? p.slot = _ := State.scene?_modScene filed p.slot (fun _ => rfl)
  rw [hy] at hbegun
  have hsame : (readPast p ((begun.drainScene p.slot).raise 3 1 1 ((seqOf p).seqId * 2 ^ 32 + p.frame.toNat) (p.slot * 2 ^ 40))).setups =
      begun.setups :=
    (readPast_setups ..).trans ((State.raise_setups _ (by decide) ..).trans (State.drainScene_setups ..))
  obtain ⟨z, hz, hsetup⟩ := State.scene?_of_setups hsame hbegun
  exact ⟨z, hz, congrArg SceneSetup.seq hsetup, congrArg SceneSetup.first hsetup, congrArg SceneSetup.cams hsetup,
    congrArg SceneSetup.tables hsetup, congrArg SceneSetup.ovl hsetup⟩

theorem beginBody_of_room {x : Scene} {q : SeqParams} {p : Pkt} {s : State} (hseq : x.seq = some q) (hfirst : x.first = some p.frame.toNat)
    (hpts : p.f 1 127 48 = 0) (hroom : x.queue.length < 4) :
    beginBody x p s = ((s.modScene p.slot (fun y => { y with last := p.frame.toNat, first := none })).modScene p.slot (fun y => { y with
      queue := y.queue ++ [{ num := p.frame.toNat, uid := x.opened, pts := none, same := p.f 1 32 32 == 1, held := p.f 2 127 96, seq := q }]
      opened := y.opened + 1 }), .taken) := by
  have htime : (time80Ns (p.f 1 127 48)).getD 0 = 0 := by rw [hpts]; decide
  have hfull : decide (4 ≤ x.queue.length) = false := decide_eq_false (by omega)
  unfold beginBody
  simp only [hseq, hfirst, if_true]
  unfold beginFrame
  simp only [htime, hfull, Bool.false_and, Bool.or_self, Bool.false_eq_true, if_false, true_or, if_true, Nat.le_refl, ne_eq, not_true, false_and]

theorem aliveBody_of_number {x : Scene} {p : Pkt} {s : State} (h : ∀ f, x.openFrame = some f → p.frame.toNat = f.num) :
    aliveBody x p s = (s, .taken) := by
  unfold aliveBody
  split
  next f hf => exact if_neg (by simp [h f hf])
  next => rfl

theorem aliveBody_of_other {x : Scene} {f : SFrame} {p : Pkt} {s : State} (hf : x.openFrame = some f) (h : p.frame.toNat ≠ f.num) :
    aliveBody x p s = (s, .discard 0x10) := by
  unfold aliveBody
  rw [hf]
  exact if_pos h

/-! ### Packets of the open frame -/

section Frame
variable {x : Scene} {f : SFrame} {p : Pkt} {s : State}

theorem inFrame_of_open (body : Scene → SFrame → Pkt → State → State × PktEnd) (hseq : x.seq.isSome = true) (hopen : x.openFrame = some f)
    (hnum : p.frame.toNat = f.num) : inFrame body x p s = body x f p s := by
  unfold inFrame
  rw [if_neg (by simp [Option.isSome_iff_ne_none.mp hseq]), hopen]
  exact if_neg (Classical.not_not.mpr hnum)

theorem camBody_of_unused (h : f.aus.any (fun d => d.anchor == p.index) = false) :
    camBody x f p s = (s.modScene p.slot (fun y => ({ y with
      cams := { n := p.index, cam := camOf p } :: y.cams.filter (fun c => c.n != p.index) } : Scene).withContent), .taken) :=
  if_neg (by simp [h])

theorem tableBody_of_unused (h : f.aus.any (fun d => d.anchor == p.index) = false) :
    tableBody x f p s = (s.modScene p.slot (fun y => ({ y with
      tables := { n := p.index, layers := layersOf p } :: y.tables.filter (fun c => c.n != p.index)
      resized := if (x.table? p.index).elim false (fun old => tableShape old != tableShape (layersOf p)) then p.index :: y.resized
        else y.resized } : Scene).withContent), .taken) := by
  unfold tableBody
  rw [if_neg (by simp [h])]
  cases x.table? p.index <;> rfl

theorem auBody_of_layer {kind : Nat} {cam : AnchorCam} {ls : List LayerEnt} (hcam : x.cam? (p.index % 256) = some cam)
    (htable : x.table? (p.index % 256) = some ls) (hheld : bit f.held (p.index % 256) = false) (hlayer : p.index / 256 < ls.length)
    (hnew : f.aus.contains { slot := p.slot, anchor := p.index % 256, layer := p.index / 256, kind := kind } = false) :
    auBody kind x f p s =
      ((s.modScene p.slot (fun y => y.modOpen (fun g => { g with
          content := true, aus := { slot := p.slot, anchor := p.index % 256, layer := p.index / 256, kind := kind } :: g.aus }))).fileItem
        { slot := p.slot, anchor := p.index % 256, layer := p.index / 256, kind := kind }
        { kind := 0, frame := f.num, seq := f.seq, ent := ls[p.index / 256]?, len := p.length
          resized := x.resized.contains (p.index % 256) }, .taken) := by
  have hlow : decide (ls.length ≤ p.index / 256) = false := decide_eq_false (by omega)
  unfold auBody
  simp only [hcam, htable, hheld, hlow, hnew, Bool.or_self, Bool.false_eq_true, if_false]

theorem cueBody_of_room (h : x.cues.length < 64) :
    cueBody x f p s = (s.modScene p.slot (fun y => { y with cues := y.cues ++ [
      { num := p.index, kind := p.f 1 127 120, value := p.f 1 63 0, time := (time80Ns (p.f 2 127 48)).getD 0, frame := f.uid }] }), .taken) :=
  if_neg (by omega)

end Frame

/-- Settles O43, by what the body of each packet type makes of the scene. -/
theorem scenePackets : Obligations.ScenePackets := by
  intro p s x f q hpass
  have hform {n : Nat} (h : p.type = n) : pktForm p.type = pktForm n := congrArg pktForm h
  have hscene : (heard p s).scene? p.slot = some x := by
    obtain ⟨-, -, -, -, hx, -⟩ := hpass
    exact hx
  refine ⟨fun h8 hopen hsame => ?same, fun h8 hopen hnew => ?new, fun h1 hseq hfirst hpts hroom => ?begin,
    fun h9 hnum => exec_of_taken rfl (hform h9) hpass (aliveBody_of_number hnum),
    fun h9 hopen hother => exec_of_discarded rfl (hform h9) hpass (aliveBody_of_other hopen hother), fun hseq hopen hnum => ?frame⟩
  case same =>
    refine exec_of_taken rfl (hform h8) hpass ?_
    unfold seqBody
    rw [hopen]
    exact if_pos hsame
  case new =>
    obtain ⟨y, hy, hsetup⟩ := sequenced_scene? hscene
    exact ⟨_, y, exec_of_taken rfl (hform h8) hpass (seqBody_of_new hopen hnew), hy, hsetup⟩
  case begin => exact exec_of_taken rfl (hform h1) hpass (beginBody_of_room hseq hfirst hpts hroom)
  case frame =>
    have hin (body : Scene → SFrame → Pkt → State → State × PktEnd) : inFrame body x p (heard p s) = body x f p (heard p s) :=
      inFrame_of_open body hseq hopen hnum
    refine ⟨fun h2 hunused => exec_of_taken rfl (hform h2) hpass ((hin _).trans (camBody_of_unused hunused)),
      fun h5 hunused => exec_of_taken rfl (hform h5) hpass ((hin _).trans (tableBody_of_unused hunused)),
      ?units,
      fun h6 => exec_of_taken rfl (hform h6) hpass (hin _), fun h7 => exec_of_taken rfl (hform h7) hpass (hin _),
      fun h10 hroom => exec_of_taken rfl (hform h10) hpass ((hin _).trans (cueBody_of_room hroom))⟩
    case units =>
      intro kind cam ls htype _ hcam htable hheld hlayer d hnew t
      have hbody : inFrame (auBody kind) x p (heard p s) = _ := (hin _).trans (auBody_of_layer hcam htable hheld hlayer hnew)
      refine ⟨?texture, ?depth⟩
      case texture =>
        rintro rfl
        exact exec_of_taken rfl (hform htype) hpass hbody
      case depth =>
        rintro rfl
        exact exec_of_taken rfl (hform htype) hpass hbody

end Sys2Proof.Machine
end

