-- ==== Sys2Proof/Proofs/Scene/SceneCommands.lean ====
section
/-! PROOFS. Scene commands and their ends (R92, R102 to R104). -/

namespace Sys2Proof.Machine

open Sys2Proof Sys2Proof.Safety

/-! ### SCENE_OPEN -/

/-- A state without the objects, the placement, the free values and what an event touches. -/
def State.restAlloc (s : State) : State := { s.restStore with free := 0 }

theorem State.makeRoom_restAlloc (s : State) : s.makeRoom.restAlloc = s.restAlloc := by
  unfold State.makeRoom
  extract_lets u r excess
  have hfold (l : List Obj) (os : List Obj) : ∀ x : State, (l.foldl (fun s o =>
      match os.find? (fun x => x.id == o.id) with
      | some x => s.modObj o.id (fun _ => x)
      | none => s) x).restAlloc = x.restAlloc := by
    induction l with
    | nil => exact fun _ => rfl
    | cons o l ih =>
      intro x
      refine (ih _).trans ?_
      dsimp only
      split <;> rfl
  split
  · rfl
  · exact hfold ..

theorem State.addObj_restAlloc (s : State) (o : Obj) (ps : List Basket) : (s.addObj o ps).restAlloc = s.restAlloc := by
  unfold State.addObj
  extract_lets ran placed bs x
  have hx : x.restAlloc = s.restAlloc := rfl
  clear_value x
  have hroom := congrArg (fun z : State => ({ z with free := 0 } : State)) x.makeRoom.capacityCheck_restStore
  exact Eq.trans hroom ((State.makeRoom_restAlloc x).trans hx)

theorem State.addObj_ingest (s : State) (o : Obj) (ps : List Basket) : (s.addObj o ps).ingest = s.ingest := by
  have hpart (z : State) : z.restAlloc.ingest = z.ingest := rfl
  rw [← hpart, State.addObj_restAlloc, hpart]

theorem shiftRight_mod_of_zero {w : Nat} (h : (w >>> 32) % 2 ^ 32 = 0) : (w >>> 48) % 2 ^ 16 = 0 ∧ (w >>> 32) % 2 ^ 16 = 0 := by
  simp only [Nat.shiftRight_eq_div_pow, Nat.reducePow] at h ⊢
  omega

/-- A field that is 0 has parts that are 0. -/
theorem bits_halves_of_zero {w : Nat} (h : bits w 63 32 = 0) : bits w 63 48 = 0 ∧ bits w 47 32 = 0 := shiftRight_mod_of_zero h

/-- SCENE_OPEN without overlays, where a slot and space are free. -/
theorem sceneOpenBody_of_room {c : Cmd} {s : State} {n : Nat} (hok : c.okBits 1 (mask 127 32) = true) (hsource : c.f 1 127 120 ≤ 1)
    (ha : 1 ≤ c.f 1 119 112) (ha' : c.f 1 119 112 ≤ 32) (hl : 1 ≤ c.f 1 111 104) (hl' : c.f 1 111 104 ≤ 4)
    (ho : c.f 1 103 96 = 0) (hovl : c.f 1 63 32 = 0) (hw : 64 ≤ c.f 1 95 80) (hw' : c.f 1 95 80 ≤ 8192) (hh : 64 ≤ c.f 1 79 64)
    (hh' : c.f 1 79 64 ≤ 4320) (hn : n < 4) (hfree : s.scene? n = none) (hlow : ∀ m, m < n → (s.scene? m).isSome = true)
    (hneed : sceneNeed (c.f 1 119 112) (c.f 1 111 104) (c.f 1 95 80) (c.f 1 79 64) 0 0 0 ≤ s.freeBaskets)
    (hpairs : pairsFit (s.pkgFree s.usage) 1 = true) :
    ∃ u a, sceneOpenBody c s = { s := u, a := a } ∧ u.ingest.scenes = s.ingest.scenes ++
      [{ slot := n, obj := s.nextId 1, source := c.f 1 127 120, maxAnchors := c.f 1 119 112, maxLayers := c.f 1 111 104, maxOvl := 0
         maxW := c.f 1 95 80, maxH := c.f 1 79 64, ovlW := 0, ovlH := 0 }] := by
  obtain ⟨how, hoh⟩ : c.f 1 63 48 = 0 ∧ c.f 1 47 32 = 0 := bits_halves_of_zero hovl
  have hslot : (List.range 4).find? (fun n => (s.scene? n).isNone) = some n := by
    rw [List.find?_range_eq_some]
    exact ⟨by simp [hfree], by simpa using hn, fun m hm => by simpa [Option.isSome_iff_ne_none] using hlow m hm⟩
  have hfields : (!c.okBits 1 (mask 127 32) || decide (1 < c.f 1 127 120 ∨ c.f 1 119 112 < 1 ∨ 32 < c.f 1 119 112 ∨ c.f 1 111 104 < 1 ∨
      4 < c.f 1 111 104 ∨ 7 < 0 ∨ c.f 1 95 80 < 64 ∨ 8192 < c.f 1 95 80 ∨ c.f 1 79 64 < 64 ∨ 4320 < c.f 1 79 64)) = false := by
    simp [hok]
    omega
  have hspace : (decide (s.freeBaskets < sceneNeed (c.f 1 119 112) (c.f 1 111 104) (c.f 1 95 80) (c.f 1 79 64) 0 0 0) ||
      !pairsFit (s.pkgFree s.usage) (1 + 0 * overlayBaskets 0 0)) = false := by
    rw [Nat.zero_mul, Nat.add_zero, hpairs, decide_eq_false (by omega)]
    rfl
  unfold sceneOpenBody
  simp only [ho, how, hoh, hfields, hslot, hspace, if_true, BEq.rfl, Bool.not_true, Bool.or_false, Bool.false_eq_true, if_false]
  exact ⟨_, _, rfl, by rw [State.addObj_ingest]⟩

/-! ### SCENE_SUBMIT and its end -/

theorem sceneSubmitBody_of_open {c : Cmd} {s : State} {x : Scene} (hx : s.sceneOf c.object.toNat = some x) (hok1 : c.okBits 1 (mask 63 0) = true)
    (hok2 : c.okBits 2 (mask 31 0) = true) (halign : c.f 1 3 0 = 0) (hlen : c.f 2 31 0 % 16 = 0) (hmin : 16 ≤ c.f 2 31 0)
    (hsource : x.source = 0) (hstate : x.state = 0) (hroom : countP (fun (j : Job) => j.submits x.obj) s.host.jobs < 256) :
    sceneSubmitBody c s = accept (s.modScene x.slot (fun y => { y with carriers := y.carriers ++ [{ len := c.f 2 31 0, job := some s.host.nextJob }] }))
      (.sceneSubmit x.slot) := by
  unfold sceneSubmitBody
  rw [hx]
  have hshort : decide (c.f 2 31 0 < 16) = false := decide_eq_false (by omega)
  simp only [hok1, hok2, halign, hlen, hshort, hsource, hstate, Nat.not_le.mpr hroom, Bool.not_true, bne_self_eq_false, Bool.or_self,
    Bool.false_eq_true, ne_eq, not_true, or_self, if_false]

theorem exec_sceneSubmitCompletion {s : State} {n j : Nat} {x : Scene} {k : Carrier} {rest : List Carrier} (hx : s.scene? n = some x)
    (hc : x.carriers = k :: rest) (hj : k.job = some j) (hread : k.len ≤ k.off) :
    exec (.sceneSubmitCompletion n) s = .next (((s.modScene n (fun y => { y with carriers := rest })).endJob j
      (if k.discarded = 0 then stOk else stWarn) k.words).drainClose n) := by
  change execSceneSubmitCompletion n s = _
  unfold execSceneSubmitCompletion
  simp only [hx, hc, hj, Nat.not_lt.mpr hread, if_false]

/-! ### SCENE_CLOSE -/

/-- Nothing of a scene's streams is queued or runs. -/
def State.Silent (s : State) (slot : Nat) : Prop :=
  ∀ d ∈ s.dec.streams, d.id.slot = slot → d.queue = [] ∧ d.running = none ∧ d.queued = none

theorem State.Silent.startWaiting {s : State} {slot : Nat} (h : s.Silent slot) (d : StreamId) : (s.startWaiting d).Silent slot := by
  unfold State.startWaiting
  split
  · exact h
  · intro y hy hslot
    obtain ⟨x, hx, rfl⟩ := List.mem_map.mp hy
    split
    next hid =>
      have hslot' : x.id.slot = slot := by simpa [hid] using hslot
      obtain ⟨hqueue, -, hqueued⟩ := h x hx hslot'
      exact ⟨hqueue, by simp [hqueued], rfl⟩
    next hid => exact h x hx (by simpa [hid] using hslot)

theorem State.Silent.foldl {slot : Nat} (ids : List StreamId) : ∀ {s : State}, s.Silent slot → (ids.foldl State.startWaiting s).Silent slot := by
  induction ids with
  | nil => exact id
  | cons d ids ih => exact fun h => ih (h.startWaiting d)

theorem State.Silent.startQueued {s : State} {slot : Nat} (h : s.Silent slot) : s.startQueued.Silent slot := State.Silent.foldl _ h

theorem State.Silent.endJob {s : State} {slot : Nat} (h : s.Silent slot) (id status : Nat) (ws : List Word) : (s.endJob id status ws).Silent slot := by
  have e := congrArg (fun z : State => z.dec) (State.endJob_restJobs s id status ws)
  have hdec : (s.endJob id status ws).dec = s.dec := e
  unfold State.Silent
  rw [hdec]
  exact h

theorem sceneCloseBody_of_open {c : Cmd} {s : State} {x : Scene} (hx : s.sceneOf c.object.toNat = some x) (hok : c.okBits 1 1 = true)
    (hnow : c.f 1 0 0 = 1) (hstate : x.state ≠ 2) : sceneCloseBody c s = accept s (.sceneClose x.slot) := by
  unfold sceneCloseBody
  simp [hx, hok, hnow, hstate]

/-- A close that does not drain ends the last job there is, and silences the scene's streams. -/
theorem sceneClosePost_now {c : Cmd} {s : State} {x : Scene} (hx : s.sceneOf c.object.toNat = some x) (hnow : c.f 1 0 0 = 1) :
    (sceneClosePost c s).job? (s.host.nextJob - 1) = none ∧ (sceneClosePost c s).Silent x.slot := by
  unfold sceneClosePost
  rw [hx]
  simp only [hnow, Nat.one_ne_zero, if_false]
  refine ⟨State.endJob_job_none .., State.Silent.endJob (State.Silent.startQueued ?_) _ _ _⟩
  intro d hd hslot
  obtain ⟨y, -, rfl⟩ := List.mem_map.mp hd
  split
  next => exact ⟨rfl, rfl, rfl⟩
  next hne => exact absurd (by simp [hne] at hslot) hne

theorem report_accept_nextJob (c : Cmd) (s : State) (key : JobKey) : (report c (accept s key)).host.nextJob = s.host.nextJob + 1 := by
  unfold report accept
  dsimp only
  split
  · exact (State.respond_jobs ..).2
  · rfl

theorem exec_sceneCloseDrainComplete {s : State} {n j : Nat} {x : Scene} (hx : s.scene? n = some x) (hj : x.drainJob = some j)
    (hstate : x.state = 1) (hc : x.carriers = []) (hw : x.waiting = []) (hq : x.queue = []) :
    exec (.sceneCloseDrainComplete n) s =
      .next ((s.modScene n (fun y => { y with state := 2, drainJob := none })).endJob j stOk []) := by
  change execSceneCloseDrainComplete n s = _
  unfold execSceneCloseDrainComplete
  simp [hx, hj, hstate, hc, hw, hq]

theorem exec_sceneSilenceTimeout {s : State} {n : Nat} {x : Scene} (hx : s.scene? n = some x) (hstate : x.state = 0)
    (hheard : x.heard = true) (hsilent : x.silent = false) :
    exec (.sceneSilenceTimeout n) s = .next (((s.advanceTo (x.lastPkt + s.pget 0x03000004 * 1000000)).modScene n
      (fun y => { y with silent := true })).raise 3 7 2 (x.lastNum * 2 ^ 32 + s.pget 0x03000004) (n * 2 ^ 40)) := by
  change execSceneSilenceTimeout n s = _
  unfold execSceneSilenceTimeout
  rw [hx]
  exact congrArg Host.Outcome.next (if_neg (by simp [hstate, hheard, hsilent]))

/-- Settles O41, by the bodies of the scene commands and their ends. -/
theorem sceneCommands : Obligations.SceneCommands := by
  intro c s x n j k rest
  refine ⟨?opened, ?submitted, ?closed, exec_sceneSubmitCompletion, exec_sceneCloseDrainComplete, exec_sceneSilenceTimeout⟩
  case opened =>
    intro h hok hsource ha ha' hl hl' ho hovl hw hw' hh hh' hn hfree hlow hneed hpairs
    obtain ⟨u, a, hbody, hu⟩ := sceneOpenBody_of_room (s := taken c s) hok hsource ha ha' hl hl' ho hovl hw hw' hh hh' hn hfree hlow hneed hpairs
    have hingest : (report c { s := u, a := a }).ingest = u.ingest := report_part (·.ingest) (fun _ => rfl) c _
    exact ⟨_, next_hostCmd rfl h hbody, by rw [hingest]; exact hu⟩
  case submitted =>
    intro h hx hok1 hok2 halign hlen hmin hsource hstate hroom
    exact next_hostCmd rfl h (sceneSubmitBody_of_open (s := taken c s) hx hok1 hok2 halign hlen hmin hsource hstate hroom)
  case closed =>
    intro h hx hok hnow hstate
    have hbody : sceneCloseBody c (taken c s) = accept (taken c s) (.sceneClose x.slot) :=
      sceneCloseBody_of_open (s := taken c s) hx hok hnow hstate
    have hscene : (report c (accept (taken c s) (.sceneClose x.slot))).sceneOf c.object.toNat = some x :=
      (report_part (·.sceneOf c.object.toNat) (fun _ => rfl) c _).trans hx
    have hjob : (report c (accept (taken c s) (.sceneClose x.slot))).host.nextJob = s.host.nextJob + 1 := report_accept_nextJob c (taken c s) _
    obtain ⟨hgone, hsilent⟩ := sceneClosePost_now hscene hnow
    rw [hjob, Nat.add_sub_cancel] at hgone
    exact ⟨_, next_hostCmdWith rfl h hbody (.inr rfl), hgone, hsilent⟩

end Sys2Proof.Machine
end

