-- ==== Sys2Proof/Proofs/Compression/CodecJobs.lean ====
section
/-! PROOFS. Compression jobs (R231 to R234). -/

namespace Sys2Proof.Machine

open Sys2Proof Sys2Proof.Safety

theorem padTo_of_length {α : Type} (z : α) {n : Nat} {l : List α} (h : l.length = n) : padTo z n l = l := by
  unfold padTo
  simp [← h]

theorem State.addObj_comp (s : State) (o : Obj) (ps : List Basket) : (s.addObj o ps).comp = s.comp := by
  have hpart (z : State) : z.restAlloc.comp = z.comp := rfl
  rw [← hpart, State.addObj_restAlloc, hpart]

/-- The job that a CMP_JOB describes. -/
def cmpJobOf (c : Cmd) (id : Nat) : CmpJob :=
  { obj := id, op := c.f 1 127 120, code := c.f 1 119 112, checkSrc := bit (c.f 1 111 104) 0, checkDst := bit (c.f 1 111 104) 1
    srcCrc := c.f 1 63 32, dstCrc := c.f 1 31 0, src := c.f 2 63 0, dst := c.f 3 63 0, srcLen := c.f 4 127 96
    dstLen := c.f 4 95 64, w := c.f 4 63 48, h := c.f 4 47 32 }

section Bodies
variable {c : Cmd} {s : State}

theorem cmpJobBody_of_room (hargs : cmpArgsOk c = true)
    (hexact : cmpExact (c.f 1 127 120) (c.f 1 119 112) (c.f 4 63 48) (c.f 4 47 32) ≤ c.f 4 95 64)
    (hneed : planNeed (plan 0 (ceilDiv (c.f 4 95 64) basketBytes) 2 0 0 0) ≤ s.freeBaskets) (hsag : s.sagSeen < 2)
    (hd : (s.domain 28).failed = false) :
    ∃ u a, cmpJobBody c s = { s := u, a := a } ∧ u.comp.jobs = s.comp.jobs ++ [cmpJobOf c (s.nextId 8)] := by
  unfold cmpJobBody
  rw [if_neg (by simp [hargs])]
  dsimp only
  rw [if_neg (by omega), if_neg (by simp [hd, hsag])]
  refine ⟨_, _, rfl, ?_⟩
  rw [← State.addObj_comp s { id := s.nextId 8, cls := 8, size := c.f 4 95 64, data := [], creating := false }
    (plan 0 (ceilDiv (c.f 4 95 64) basketBytes) 2 0 0 0)]
  rfl

theorem cmpCancelBody_of_job {j : CmpJob} (hrun : s.dev.state.run = true) (hj : s.comp.jobs.find? (fun j => j.obj == c.object.toNat) = some j) :
    cmpCancelBody c s = answer (s.closeCmpJob j stAborted (cmpPayload 0 j.gotSrcCrc 0 0 [])) [] := by
  unfold cmpCancelBody
  rw [if_neg (by simp [hrun]), hj]

end Bodies

section Completions
variable {s : State} {j : CmpJob} {js : List CmpJob} (hjobs : s.comp.jobs = j :: js)
include hjobs

/-- An output that passes the checks of R233 is held for its copy. -/
theorem exec_cmpJobOutputComplete {src : List Byte} (hout : j.out = none) (hsag : s.sagSeen < 2) (hup : (s.domain 28).st = 2)
    (hlen : src.length = j.srcLen) (hsrc : j.checkSrc = true → crc32c src = j.srcCrc) (hok : (j.run src).ok = true)
    (hfits : (j.run src).bytes.length ≤ j.dstLen) (hdst : j.checkDst = true → crc32c (j.run src).bytes = j.dstCrc) :
    exec (.cmpJobOutputComplete src) s = .next ((s.jobPaced (j.run src).bytes.length).modComp (fun x => { x with
      jobAt := (s.jobPaced (j.run src).bytes.length).now
      jobs := { j with out := some (j.run src).bytes, warn := (j.run src).warn, gotSrcCrc := crc32c src, modes := (j.run src).modes } :: js })) := by
  have hwork : ¬ (j.out.isSome || decide (2 ≤ s.sagSeen) || (s.domain 28).st != 2) = true := by simp [hout, hup, hsag]
  have hgood : ¬ ((j.checkSrc = true ∧ crc32c src ≠ j.srcCrc) ∨ (j.run src).ok = false) := by
    rintro (⟨hc, hne⟩ | hbad)
    · exact hne (hsrc hc)
    · rw [hok] at hbad
      exact Bool.noConfusion hbad
  change execCmpJobOutputComplete src s = _
  unfold execCmpJobOutputComplete
  rw [hjobs]
  dsimp only
  rw [if_neg hwork, padTo_of_length _ hlen, if_neg hgood, if_neg (by omega), if_neg (fun h => h.2 (hdst h.1))]

theorem exec_cmpJobCopyComplete {out : List Byte} (hout : j.out = some out) :
    exec .cmpJobCopyComplete s = .next (((s.jobPaced out.length).emit (.hostWrite j.dst out)).closeCmpJob j
      (if 0 < j.warn then stWarn else stOk) (cmpPayload out.length j.gotSrcCrc (crc32c out) j.warn j.modes)) := by
  change execCmpJobCopyComplete s = _
  unfold execCmpJobCopyComplete
  simp only [hjobs, hout]

end Completions

/-- Settles O47, by the bodies of CMP_JOB and CMP_CANCEL and the two phases of the oldest job. -/
theorem codecJobs : Obligations.CodecJobs := by
  intro c s j js src out
  refine ⟨fun h hargs hexact hneed hsag hd => ?accepted, fun h hrun hj => next_hostCmd rfl h (cmpCancelBody_of_job (s := taken c s) hrun hj),
    fun hjobs hout hsag hup hlen hsrc hok hfits hdst => exec_cmpJobOutputComplete hjobs hout hsag hup hlen hsrc hok hfits hdst,
    fun hjobs hout => exec_cmpJobCopyComplete hjobs hout⟩
  case accepted =>
    obtain ⟨u, a, hbody, hu⟩ := cmpJobBody_of_room (s := taken c s) hargs hexact hneed hsag hd
    have hcomp : (report c { s := u, a := a }).comp = u.comp := report_part (·.comp) (fun _ => rfl) c _
    exact ⟨_, _, next_hostCmd rfl h hbody, (congrArg (·.jobs) hcomp).trans hu, rfl, rfl, rfl, rfl, rfl, rfl, rfl⟩

end Sys2Proof.Machine
end

