-- ==== Sys2Proof/Proofs/Encode/Encoders.lean ====
section
/-! PROOFS. Encoder rings and pictures (R354 to R358). -/

namespace Sys2Proof.Machine

open Sys2Proof Sys2Proof.Safety

/-! ### Encoder streams -/

/-- An entry past the end of a file of registers reads as the default. -/
theorem getD_of_le {α : Type} {l : List α} {n : Nat} (d : α) (h : l.length ≤ n) : l.getD n d = d := by
  rw [List.getD_eq_getElem?_getD, List.getElem?_eq_none h, Option.getD_none]

theorem State.encS_modEnc_same (s : State) {n : Nat} (f : EncStream → EncStream) (h : n < s.enc.streams.length) :
    (s.modEnc n f).encS n = f (s.encS n) := (updAt_getD ..).trans (if_pos ⟨rfl, h⟩)

theorem State.encS_of_enc {s t : State} (h : t.enc = s.enc) (n : Nat) : t.encS n = s.encS n := by
  unfold State.encS; rw [h]

theorem State.raise_enc (s : State) (source code severity arg arg2 : Nat) : (s.raise source code severity arg arg2).enc = s.enc := by
  have e := congrArg (fun z : State => z.enc) (State.raiseAt_rest_saf s s.now source code severity arg arg2)
  exact e

/-- A stream that is not off is one of the device's. -/
theorem State.encS_lt {s : State} {n : Nat} (h : (s.encS n).state ≠ 0 ∨ (s.encS n).coding ≠ none) : n < s.enc.streams.length := by
  refine Decidable.byContradiction fun hn => ?_
  have hout : s.encS n = {} := getD_of_le _ (Nat.le_of_not_lt hn)
  rw [hout] at h
  exact h.elim (fun e => e rfl) (fun e => e rfl)

theorem State.sendFlow_enc (s : State) (flow : Nat) (bytes : List Byte) : (s.sendFlow flow bytes).1.enc = s.enc := by
  unfold State.sendFlow
  split
  · rfl
  · extract_lets p upd
    split <;> rfl

/-- A record leaves the number of streams as it is. -/
theorem State.encRecord_streams (s : State) (n type slice frame tf flags qp spare : Nat) (payload : List Byte) :
    (s.encRecord n type slice frame tf flags qp spare payload).1.enc.streams.length = s.enc.streams.length := by
  unfold State.encRecord
  extract_lets e size ran sent ok
  split
  next =>
    have hsent : sent.enc = s.enc := State.sendFlow_enc ..
    clear_value sent ok
    cases ok with
    | false => exact congrArg (·.streams.length) hsent
    | true => exact (updAt_length _ _ _).trans (congrArg (·.streams.length) hsent)
  next =>
    split
    next => rfl
    next base log2 _ =>
      extract_lets ring used pad after_ need padded e'
      have hpadded : padded.enc.streams.length = s.enc.streams.length := by
        simp only [padded]
        split
        · rfl
        · exact updAt_length _ _ _
      clear_value padded
      split
      · rfl
      · exact (updAt_length _ _ _).trans hpadded

/-! ### Encoder commands -/

section Bodies
variable {c : Cmd} {s : State}

theorem encRingBody_of_disabled (hok : c.okBits 1 (mask 127 112 + mask 63 0) = true) (hn : c.f 1 127 120 ≤ 1) (hlo : 20 ≤ c.f 1 119 112)
    (hhi : c.f 1 119 112 ≤ 28) (halign : c.f 1 11 0 = 0) (hoff : s.encP (c.f 1 127 120) 1 = 0) :
    encRingBody c s = answer (s.modEnc (c.f 1 127 120) (fun e =>
      { e with ring := some (c.f 1 63 0, c.f 1 119 112), tail := 0, head := 0, starts := [] })) [] := by
  have hrange : decide (1 < c.f 1 127 120 ∨ c.f 1 119 112 < 20 ∨ 28 < c.f 1 119 112) = false := decide_eq_false (by omega)
  unfold encRingBody
  dsimp only
  rw [if_neg (by simp only [hok, hrange, halign]; decide), if_neg (by omega)]

theorem encReleaseBody_of_start (hok : c.okBits 1 (mask 127 120 + mask 31 0) = true) (hn : c.f 1 127 120 ≤ 1)
    (hstart : (s.encS (c.f 1 127 120)).starts.contains (c.f 1 31 0) = true) :
    ∃ ws live, encReleaseBody c s = answer (s.modEnc (c.f 1 127 120) (fun e => { e with head := c.f 1 31 0, starts := live })) ws := by
  have hrange : decide (1 < c.f 1 127 120) = false := decide_eq_false (by omega)
  unfold encReleaseBody
  dsimp only
  rw [if_neg (by simp only [hok, hrange, hstart, Bool.or_true]; decide)]
  exact ⟨_, _, rfl⟩

theorem encIdrBody_of_stream (hok : c.okBits 1 (mask 127 120) = true) (hn : c.f 1 127 120 ≤ 1) :
    encIdrBody c s = answer (s.modEnc (c.f 1 127 120) (fun e => { e with idrNext := true })) [] := by
  have hrange : decide (1 < c.f 1 127 120) = false := decide_eq_false (by omega)
  exact if_neg (by simp only [hok, hrange]; decide)

end Bodies

/-! ### Pictures -/

section Due
variable {s : State} {n : Nat} (hrun : (s.encS n).state = 1) (hphase : (s.encS n).phase = 0) (hbegun : s.tim.begun = true)
  (hpower : s.encPowered n = true)
include hrun hphase hbegun hpower

theorem exec_encPictureDue (params : List Byte) :
    exec (.encPictureDue n params) s = .next (
      if (s.encS n).coding.isSome then
        (s.modEnc n (fun e => { e with skipped := e.skipped + 1, skippedSince := (s.encS n).skippedSince + 1, phase := s.encP n 5 })).encEvent 3 2
          (packNat [at' 63 56 n, at' 31 0 ((s.encS n).skippedSince + 1)])
      else s.encBegin n params) := by
  refine congrArg Host.Outcome.next (if_neg ?_)
  simp [hrun, hphase, hbegun, hpower]

/-- A picture that falls due while one is coded is skipped and counted. -/
theorem encPictureDue_of_coding {k : Coding} (hk : (s.encS n).coding = some k) (params : List Byte) :
    ∃ t, exec (.encPictureDue n params) s = .next t ∧ (t.encS n).skipped = (s.encS n).skipped + 1 ∧ (t.encS n).coding = some k := by
  refine ⟨_, exec_encPictureDue hrun hphase hbegun hpower params, ?_⟩
  rw [if_pos (by simp [hk]), State.encEvent, State.encS_of_enc (State.raise_enc ..),
    State.encS_modEnc_same _ _ (State.encS_lt (.inl (by simp [hrun])))]
  exact ⟨rfl, hk⟩

/-- Else its coding begins; one that need not be an IDR has no parameter record. -/
theorem encPictureDue_of_idle (hk : (s.encS n).coding = none) (hidr : (s.encS n).idrNext = false) (hper : s.encP n 9 = 0) (params : List Byte) :
    ∃ t k, exec (.encPictureDue n params) s = .next t ∧ (t.encS n).coding = some k ∧ k.frame = s.tim.frame ∧ k.idr = false ∧ k.next = 0 := by
  refine ⟨_, s.newCoding n false, exec_encPictureDue hrun hphase hbegun hpower params, ?_, rfl, rfl, rfl⟩
  rw [if_neg (by simp [hk])]
  have hnot : ((s.encS n).idrNext || (s.encP n 9 != 0 && decide (s.encP n 9 ≤ (s.encS n).sinceIdr))) = false := by simp [hidr, hper]
  unfold State.encBegin
  simp only [hnot, Bool.not_false, if_true]
  rw [State.encS_modEnc_same _ _ (State.encS_lt (.inl (by simp [hrun])))]

end Due

/-! ### Slices -/

/-- What a slice makes of its picture; `ok`: it has been written. -/
def Coding.sliced (k : Coding) (len qp fallback : Nat) (bp ok : Bool) (cause : Nat) : Coding :=
  { k with
    next := k.next + 1
    bytes := if ok then k.bytes + len else k.bytes
    coded := k.coded + len
    rest := k.rest || bp
    fallback := k.fallback + fallback
    qpSum := k.qpSum + qp * k.ctus k.next
    exhausted := k.exhausted || decide (0 < fallback)
    dropped := if ok then 0 else k.dropped + 1
    cause := if ok ∨ 0 < k.dropped then k.cause else cause }

/-- The record of a slice that is not its picture's last, and whether it has been written. -/
def State.wroteSlice (s : State) (n : Nat) (k : Coding) (qp : Nat) (data : List Byte) : State × Bool :=
  if 0 < k.dropped then (s, false) else s.encRecord n 2 k.next k.frame.toNat k.tf (b2n k.idr + 2 * b2n false) qp 48 data

theorem State.wroteSlice_of_dropped {s : State} {n : Nat} {k : Coding} {qp : Nat} {data : List Byte} (h : 0 < k.dropped) :
    (s.wroteSlice n k qp data).2 = false := by
  unfold State.wroteSlice
  rw [if_pos h]

theorem State.wroteSlice_streams (s : State) (n : Nat) (k : Coding) (qp : Nat) (data : List Byte) :
    (s.wroteSlice n k qp data).1.enc.streams.length = s.enc.streams.length := by
  unfold State.wroteSlice
  split
  · rfl
  · exact State.encRecord_streams ..

section Slice
variable {s : State} {n : Nat} {k : Coding} (hk : (s.encS n).coding = some k)
include hk

theorem exec_encSliceComplete_of_refused {data : List Byte} {qp fallback : Nat} {bp : Bool} (h : k.admits data.length qp fallback bp = false) :
    exec (.encSliceComplete n data qp fallback bp) s = .next s := by
  change execEncSliceComplete n data qp fallback bp s = _
  unfold execEncSliceComplete
  rw [hk]
  exact congrArg Host.Outcome.next (if_pos (by simp [h]))

theorem exec_encSliceComplete_of_admitted {data : List Byte} {qp fallback : Nat} {bp : Bool}
    (h : k.admits data.length qp fallback bp = true) (hmore : k.next + 1 < k.slices) :
    exec (.encSliceComplete n data qp fallback bp) s = .next ((s.wroteSlice n k qp data).1.modEnc n (fun e => { e with
      coding := some (k.sliced data.length qp fallback bp (s.wroteSlice n k qp data).2
        (if (s.wroteSlice n k qp data).1.encP n 10 = 1 then 2 else 1)) })) := by
  have hlast : decide (k.slices ≤ k.next + 1) = false := decide_eq_false (by omega)
  change execEncSliceComplete n data qp fallback bp s = _
  unfold execEncSliceComplete
  rw [hk]
  dsimp only
  rw [if_neg (by simp [h]), hlast, if_neg Bool.false_ne_true]
  rfl

/-- A slice that is not its picture's last is written, or dropped where one before it was or no room is left. -/
theorem encSliceComplete_of_admitted {data : List Byte} {qp fallback : Nat} {bp : Bool} (h : k.admits data.length qp fallback bp = true)
    (hmore : k.next + 1 < k.slices) :
    ∃ t ok cause, exec (.encSliceComplete n data qp fallback bp) s = .next t ∧ (0 < k.dropped → ok = false) ∧
      (t.encS n).coding = some (k.sliced data.length qp fallback bp ok cause) := by
  have hn : n < (s.wroteSlice n k qp data).1.enc.streams.length := by
    rw [State.wroteSlice_streams]
    exact State.encS_lt (.inr (by simp [hk]))
  exact ⟨_, _, _, exec_encSliceComplete_of_admitted hk h hmore, State.wroteSlice_of_dropped,
    congrArg (·.coding) (State.encS_modEnc_same _ _ hn)⟩

end Slice

/-- Settles O54, by the bodies of the encoder commands and the steps of a picture. -/
theorem encoders : Obligations.Encoders := by
  intro c s n params data qp fallback bp k
  refine ⟨fun h hok hn hlo hhi halign hoff => next_hostCmd rfl h (encRingBody_of_disabled (s := taken c s) hok hn hlo hhi halign hoff),
    fun h hok hn hstart hlen => ?release, fun h hok hn => next_hostCmd rfl h (encIdrBody_of_stream (s := taken c s) hok hn),
    fun hrun hphase hbegun hpower => ⟨fun hk => encPictureDue_of_coding hrun hphase hbegun hpower hk params,
      fun hk hidr hper => encPictureDue_of_idle hrun hphase hbegun hpower hk hidr hper params⟩,
    fun hk hadm hmore => ?slice, fun hk hadm => exec_encSliceComplete_of_refused hk hadm⟩
  case release =>
    obtain ⟨ws, live, hbody⟩ := encReleaseBody_of_start (s := taken c s) hok hn hstart
    refine ⟨_, next_hostCmd rfl h hbody, ?_⟩
    rw [State.encS_of_enc (report_part (·.enc) (fun _ => rfl) c _)]
    simp only [answer]
    rw [State.encS_modEnc_same (taken c s) _ hlen]
    exact ⟨rfl, rfl⟩
  case slice =>
    obtain ⟨t, ok, cause, hrun, hdropped, hcoding⟩ := encSliceComplete_of_admitted hk hadm hmore
    refine ⟨t, _, hrun, hcoding, rfl, rfl, ?_, ?_, ?_, ?_⟩
    · simp only [Coding.admits, Bool.and_eq_true, decide_eq_true_eq] at hadm
      obtain ⟨⟨⟨-, hbudget, -⟩, -⟩, -⟩ := hadm
      exact hbudget
    · cases ok <;> simp [Coding.sliced]
    · cases ok <;> simp [Coding.sliced]
    · intro hd
      simp [Coding.sliced, hdropped hd]

end Sys2Proof.Machine
end

