-- ==== Sys2Proof/Proofs/TimeNetwork/Advance.lean ====
section
/-! PROOFS. Waits until a time, and the parts of a state that an event leaves alone. -/

namespace Sys2Proof.Machine

open Sys2Proof

/-- A wait until a time ends at that time or later. -/
theorem State.le_advanceTo_now (s : State) (t : Nat) : t ≤ (s.advanceTo t).now := by
  unfold State.advanceTo
  rw [State.advance_now]
  omega

/-- A wait changes the time bases only. -/
theorem State.advanceTo_part {α : Type} (f : State → α) (hf : ∀ (z : State) (x : TimeSt), f { z with time := x } = f z) (s : State) (t : Nat) :
    f (s.advanceTo t) = f s := hf s _

/-- A wait leaves a part of the time's state that the bases are not in. -/
theorem State.advanceTo_time_part {α : Type} (f : TimeSt → α)
    (hf : ∀ (z : TimeSt) (a : Nat) (b c : TimeBase) (d : Tb3), f { z with tb0 := a, tb1 := b, tb2 := c, tb3 := d } = f z) (s : State) (t : Nat) :
    f (s.advanceTo t).time = f s.time := hf s.time _ _ _ _

@[simp] theorem State.advanceTo_dev (s : State) (t : Nat) : (s.advanceTo t).dev = s.dev := s.advanceTo_part (·.dev) (fun _ _ => rfl) t

theorem State.now_of_time {s t : State} (h : t.time = s.time) : t.now = s.now := by
  unfold State.now
  rw [h]

/-- A part of the state that neither an event's records nor its latch are in stays through every event. -/
theorem State.raise_part {α : Type} (f : State → α) (hf : ∀ z : State, f { z.rest with saf := {} } = f z) (s : State)
    (source code severity arg arg2 : Nat) : f (s.raise source code severity arg arg2) = f s := by
  have e := congrArg (fun z : State => f { z with saf := {} }) (State.raiseAt_rest_saf s s.now source code severity arg arg2)
  exact (hf _).symm.trans (e.trans (hf s))

@[simp] theorem State.raise_now (s : State) (source code severity arg arg2 : Nat) : (s.raise source code severity arg arg2).now = s.now :=
  State.now_of_time (State.raise_time ..)

end Sys2Proof.Machine
end

