-- ==== Sys2Proof/Proofs/TimeNetwork/Network.lean ====
section
/-! PROOFS. Network flows, links and datagrams (R400 to R407). -/

namespace Sys2Proof.Machine

open Sys2Proof Sys2Proof.Safety

/-! ### NET_FLOW -/

section Bodies
variable {c : Cmd} {s : State} (hn : c.f 1 127 120 ≤ 15) (hobj : c.object.toNat = 0)
include hn hobj

/-- A transmit flow is bound. -/
theorem netFlowBody_of_transmit (hop : c.f 1 119 112 = 2) (hargs : flowArgsOk c = true) (hnew : s.flow? (c.f 1 127 120) = none)
    (hfree : s.time.flows.any (fun f => f.port == c.f 1 111 104 && f.localPort == c.f 1 47 32) = false) :
    netFlowBody c s = answer (s.modTime (fun t => { t with flows := t.flows ++ [
      { n := c.f 1 127 120, op := 2, port := c.f 1 111 104, dscp := c.f 1 103 96, remoteIp := c.f 1 95 64, remotePort := c.f 1 63 48
        localPort := c.f 1 47 32, group := c.f 1 31 0, unitMax := c.f 2 31 0, scene := 0 }] })) [] := by
  unfold netFlowBody
  simp only [hop, hobj, hargs, hnew, hfree, ne_eq, not_true, and_false, if_false, if_true, Bool.not_true, Bool.false_eq_true,
    Option.isSome_none, Nat.lt_irrefl, or_false, Nat.not_lt.mpr hn, show ¬ (2 : Nat) = 0 by decide, false_and]

theorem netFlowBody_of_clear (hop : c.f 1 119 112 = 0) (hok : c.okBits 2 (mask 31 0) = true) (hidle : s.flowEncodes (c.f 1 127 120) = false) :
    netFlowBody c s = answer (s.clearFlow (c.f 1 127 120)) [] := by
  unfold netFlowBody
  simp only [hop, hobj, hok, hidle, ne_eq, not_true, and_false, if_false, if_true, Bool.false_eq_true, Nat.not_lt_zero, or_false,
    Nat.not_lt.mpr hn, Bool.true_eq_false]

theorem netFlowBody_of_reserved (hop : c.f 1 119 112 = 0) (hok : c.okBits 2 (mask 31 0) = false) : netFlowBody c s = refuse s stBadArg := by
  unfold netFlowBody
  simp only [hop, hobj, hok, ne_eq, not_true, and_false, if_false, if_true, Nat.not_lt_zero, or_false, Nat.not_lt.mpr hn, true_and]

end Bodies

/-! ### Links -/

theorem State.netPort_modNet (s : State) (n m : Nat) (f : NetPort → NetPort) :
    (s.modNet n f).netPort m = if n = m ∧ m < s.time.ports.length then f (s.netPort m) else s.netPort m := updAt_getD ..

theorem State.netPort_of_time {s t : State} (h : t.time = s.time) (n : Nat) : t.netPort n = s.netPort n := by
  unfold State.netPort
  rw [h]

theorem State.netLink_of_same {s : State} {port : Nat} {up : Bool} (h : (s.netPort port).up = up) : s.netLink port up = s :=
  if_pos (by simp [h])

/-- A link's change sets its port alone. -/
theorem State.netLink_netPort {s : State} {port : Nat} {up : Bool} (h : (s.netPort port).up ≠ up) (n : Nat) :
    (s.netLink port up).netPort n = if port = n ∧ n < s.time.ports.length then { s.netPort n with up := up } else s.netPort n := by
  unfold State.netLink
  rw [if_neg (by simpa using h), State.netPort_of_time (State.raise_time ..)]
  exact State.netPort_modNet ..

theorem exec_netLinkChange {s : State} {port : Nat} {up : Bool} (hport : port < 4)
    (hup : up = true → s.netP port 0 ≠ 0 ∧ (s.domain 45).st = 2) : exec (.netLinkChange port up) s = .next (s.netLink port up) := by
  refine congrArg Host.Outcome.next (if_neg ?_)
  rintro (hbig | ⟨hu, hoff | hdown⟩)
  · omega
  · exact (hup hu).1 hoff
  · exact hdown (hup hu).2

/-! ### Datagrams -/

theorem exec_udpDatagram_of_dropped {s : State} {port : Nat} {d : Udp}
    (h : (s.netPort port).up = false ∨ d.room = false ∨ d.frag = true ∨ d.vid ≠ bits (s.netP port 3) 11 0) :
    exec (.udpDatagram port d) s = .next (s.modNet port (fun x => { x with rxDropped := x.rxDropped + 1 })) := by
  refine congrArg Host.Outcome.next (if_pos ?_)
  rcases h with h | h | h | h <;> simp [h]

theorem exec_udpDatagram_of_flow {s : State} {port : Nat} {d : Udp} {f : Flow} (hup : (s.netPort port).up = true) (hroom : d.room = true)
    (hwhole : d.frag = false) (hvid : d.vid = bits (s.netP port 3) 11 0) (hf : s.time.flows.find? (s.flowTakes port d) = some f) :
    exec (.udpDatagram port d) s = .next ((s.modNet port (fun x => { x with rxFrames := x.rxFrames + 1 })).flowDatagram f d) := by
  have hf' : (s.modNet port (fun x => { x with rxFrames := x.rxFrames + 1 })).time.flows.find?
      ((s.modNet port (fun x => { x with rxFrames := x.rxFrames + 1 })).flowTakes port d) = some f := hf
  change execUdpDatagram port d s = _
  unfold execUdpDatagram
  rw [if_neg (by simp [hup, hroom, hwhole, hvid])]
  simp only [hf']

/-! ### Reassembly -/

theorem find?_modFirst {n : Nat} {f : Flow} {g : Flow → Flow} (hg : (g f).n = n) : ∀ {l : List Flow}, l.find? (fun x => x.n == n) = some f →
    (l.map (fun x => if x.n == n then g x else x)).find? (fun x => x.n == n) = some (g f)
  | [], h => by simp at h
  | a :: l, h => by
    by_cases ha : a.n = n
    · obtain rfl : a = f := by simpa [ha] using h
      simp [ha, hg]
    · have hl : l.find? (fun x => x.n == n) = some f := by simpa [ha] using h
      simpa [ha] using find?_modFirst hg hl

theorem State.flow?_modFlow_same {s : State} {n : Nat} {f : Flow} (h : s.flow? n = some f) {g : Flow → Flow} (hg : (g f).n = n) :
    (s.modFlow n g).flow? n = some (g f) := find?_modFirst hg h

/-- What a flow's units passing by leave alone: its number, and the loss to be reported. -/
theorem State.passUnit_loss (s : State) {f : Flow} (h : f.cause ≠ 0) (cause : Nat) :
    (s.passUnit f cause).1.time = s.time ∧ (s.passUnit f cause).2.n = f.n ∧ (s.passUnit f cause).2.raised = f.raised ∧
      (s.passUnit f cause).2.cause = f.cause := by
  unfold State.passUnit
  extract_lets n dropped on
  have hon : (on.abandon n cause).cause = f.cause := if_neg h
  split
  · split
    · exact ⟨rfl, rfl, rfl, rfl⟩
    · split
      · exact ⟨rfl, rfl, rfl, rfl⟩
      · exact ⟨rfl, rfl, rfl, hon⟩
  · exact ⟨rfl, rfl, rfl, hon⟩

theorem State.drainUnits_loss (k : Nat) : ∀ (s : State) {f : Flow}, f.cause ≠ 0 →
    (s.drainUnits f k).1.time = s.time ∧ (s.drainUnits f k).2.n = f.n ∧ (s.drainUnits f k).2.raised = f.raised ∧
      (s.drainUnits f k).2.cause = f.cause := by
  induction k with
  | zero => exact fun s f _ => ⟨rfl, rfl, rfl, rfl⟩
  | succ k ih =>
    intro s f h
    have stays : s.time = s.time ∧ f.n = f.n ∧ f.raised = f.raised ∧ f.cause = f.cause := ⟨rfl, rfl, rfl, rfl⟩
    unfold State.drainUnits
    split
    · exact stays
    · split
      · split
        · obtain ⟨htime, hn, hraised, hcause⟩ := State.passUnit_loss s h 1
          obtain ⟨htime', hn', hraised', hcause'⟩ := ih (s.passUnit f 1).1 (f := (s.passUnit f 1).2) (by rw [hcause]; exact h)
          exact ⟨htime'.trans htime, hn'.trans hn, hraised'.trans hraised, hcause'.trans hcause⟩
        · exact stays
      · exact stays

/-- A loss that has not been reported in this frame is reported. -/
theorem State.netLoss_of_unreported {s : State} {n : Nat} {f : Flow} (hf : s.flow? n = some f) (hn : f.n = n) (hraised : f.raised = false)
    (hcause : f.cause ≠ 0) : (s.netLoss n).now = s.now ∧ ∃ g, (s.netLoss n).flow? n = some g ∧ g.raised = true ∧ g.cause = 0 := by
  unfold State.netLoss
  rw [hf]
  dsimp only
  rw [if_neg (by simp [hraised]), if_neg hcause]
  refine ⟨State.raise_now .., { f with raised := true, lost := 0, abandoned := 0, firstAbandoned := 0, cause := 0 }, ?_, rfl, rfl⟩
  unfold State.flow?
  rw [State.raise_time]
  exact State.flow?_modFlow_same hf hn

theorem State.flow?_of_time {s t : State} (h : t.time = s.time) (n : Nat) : t.flow? n = s.flow? n := by
  unfold State.flow?
  rw [h]

/-- A flow whose unit is abandoned for its time. -/
def Flow.abandonUnit (f : Flow) (unit_ : Nat) : Flow :=
  { f.abandon unit_ 1 with
    units := (f.abandon unit_ 1).units.map (fun x => if x.num == unit_ then { x with gone := true, frags := [] } else x) }

theorem State.flow?_advanceTo (s : State) (t n : Nat) : (s.advanceTo t).flow? n = s.flow? n := by
  unfold State.flow?
  rw [s.advanceTo_time_part (·.flows) (fun _ _ _ _ _ => rfl) t]

/-- A unit that is abandoned, with those that pass after it, is reported. -/
theorem State.netLoss_of_drained {s : State} {n : Nat} {f g : Flow} (hf : s.flow? n = some f) (hn : g.n = n) (hraised : g.raised = false)
    (hcause : g.cause ≠ 0) (k : Nat) :
    (((s.drainUnits g k).1.modFlow n (fun _ => (s.drainUnits g k).2)).netLoss n).now = s.now ∧
      ∃ x, (((s.drainUnits g k).1.modFlow n (fun _ => (s.drainUnits g k).2)).netLoss n).flow? n = some x ∧ x.raised = true ∧ x.cause = 0 := by
  obtain ⟨htime, hn', hraised', hcause'⟩ := State.drainUnits_loss k s hcause
  have hput : ((s.drainUnits g k).1.modFlow n (fun _ => (s.drainUnits g k).2)).flow? n = some (s.drainUnits g k).2 :=
    State.flow?_modFlow_same ((State.flow?_of_time htime n).trans hf) (hn'.trans hn)
  obtain ⟨hnow, hflow⟩ := State.netLoss_of_unreported hput (hn'.trans hn) (hraised'.trans hraised) (by rw [hcause']; exact hcause)
  have hsame : ((s.drainUnits g k).1.modFlow n (fun _ => (s.drainUnits g k).2)).now = (s.drainUnits g k).1.now := rfl
  exact ⟨hnow.trans (hsame.trans (State.now_of_time htime)), hflow⟩

theorem exec_reassemblyTimeout {s : State} {f : Flow} {u : NetUnit} (hf : s.flow? f.n = some f) (hu : f.unit? u.num = some u)
    (hgone : u.gone = false) (hwhole : u.complete = false) {v : State} (hv : v = s.advanceTo (u.t0 + s.pget 0x12000055 * 1000000)) :
    exec (.reassemblyTimeout f.n u.num) s = .next (((v.drainUnits (f.abandonUnit u.num) 4).1.modFlow f.n
      (fun _ => (v.drainUnits (f.abandonUnit u.num) 4).2)).netLoss f.n) := by
  change execReassemblyTimeout f.n u.num s = _
  unfold execReassemblyTimeout
  rw [hf]
  dsimp only
  rw [hu]
  dsimp only
  rw [if_neg (by simp [hgone, hwhole]), hv]
  rfl

/-- Settles O57, by the executions of the network's instructions. -/
theorem network : Obligations.Network := by
  intro c s port up arp d f u
  refine ⟨fun h hn hop hobj hargs hnew hfree => next_hostCmd rfl h (netFlowBody_of_transmit (s := taken c s) hn hobj hop hargs hnew hfree),
    fun h hn hop hobj hok hidle => next_hostCmd rfl h (netFlowBody_of_clear (s := taken c s) hn hobj hop hok hidle),
    fun hport hup hlen => ?link, fun h hn hop hobj hok => next_hostCmd rfl h (netFlowBody_of_reserved (s := taken c s) hn hobj hop hok),
    exec_udpDatagram_of_dropped, exec_udpDatagram_of_flow, fun hup => congrArg Host.Outcome.next (if_neg (by simp [hup])),
    fun hf hu hgone hwhole hraised hcause => ?timeout⟩
  case link =>
    refine ⟨_, exec_netLinkChange hport hup, ?_⟩
    by_cases hsame : (s.netPort port).up = up
    · rw [State.netLink_of_same hsame]
      exact ⟨hsame, fun _ _ => rfl, fun _ => rfl⟩
    · refine ⟨?_, fun n hn => ?_, fun h => absurd h hsame⟩
      · rw [State.netLink_netPort hsame, if_pos ⟨rfl, hlen⟩]
      · rw [State.netLink_netPort hsame, if_neg (fun e => hn e.1.symm)]
  case timeout =>
    have hflow := (State.flow?_advanceTo s (u.t0 + s.pget 0x12000055 * 1000000) f.n).trans hf
    have hmarked : (f.abandonUnit u.num).cause ≠ 0 := by simp [Flow.abandonUnit, Flow.abandon, hcause]
    have hlate := s.le_advanceTo_now (u.t0 + s.pget 0x12000055 * 1000000)
    have hrun := exec_reassemblyTimeout hf hu hgone hwhole rfl
    generalize s.advanceTo (u.t0 + s.pget 0x12000055 * 1000000) = v at hflow hlate hrun
    obtain ⟨hnow, hloss⟩ := State.netLoss_of_drained hflow (g := f.abandonUnit u.num) rfl hraised hmarked 4
    exact ⟨_, hrun, hnow ▸ hlate, hloss⟩

end Sys2Proof.Machine
end

