-- ==== Sys2Proof/Proofs/Encode/Monitor.lean ====
section
/-! PROOFS. The monitor: frames and link training (R361 to R363). -/

namespace Sys2Proof.Machine

open Sys2Proof Sys2Proof.Safety

/-! ### The read-back of a frame -/

/-- What the reaction to a read-back leaves alone. -/
structure MonView where
  tim : Tim
  par : Params
  time : TimeSt
  checked : Reg
  lastChecked : Reg
  consec : Nat
  mismatches : Reg

def State.monView (s : State) : MonView :=
  { tim := s.tim, par := s.par, time := s.time, checked := s.enc.mon.checked, lastChecked := s.enc.mon.lastChecked
    consec := s.enc.mon.consec, mismatches := s.enc.mon.mismatches }

theorem State.raise_monView (s : State) (source code severity arg arg2 : Nat) :
    (s.raise source code severity arg arg2).monView = s.monView := State.raise_part State.monView (fun _ => rfl) s ..

theorem State.monReact_monView (s : State) : s.monReact.monView = s.monView := by
  unfold State.monReact State.monIdleNow
  extract_lets ran taken cause x
  split
  · rfl
  · exact State.raise_monView ..

theorem xor_eq_zero_iff_eq (a b : Nat) : a ^^^ b = 0 ↔ b = a := by
  constructor
  · intro h
    have hcancel : (b ^^^ a) ^^^ a = b := by rw [Nat.xor_assoc, Nat.xor_self, Nat.xor_zero]
    rw [← hcancel, Nat.xor_comm b a, h, Nat.zero_xor]
  · rintro rfl
    exact Nat.xor_self _

/-- The frame that is read back counts as checked, and as a mismatch where it differs. -/
theorem State.readBack_monView {s : State} {want : Nat} (h : s.enc.mon.intended = some want) (back : Nat) :
    (s.readBack back).monView = { s.monView with
      checked := s.enc.mon.checked + 1, lastChecked := s.tim.monFrame
      consec := if back = want then 0 else s.enc.mon.consec + 1
      mismatches := if back = want then s.enc.mon.mismatches else s.enc.mon.mismatches + 1 } := by
  have hxor : want ^^^ back = 0 ↔ back = want := xor_eq_zero_iff_eq want back
  unfold State.readBack
  rw [h]
  dsimp -zeta only
  extract_lets diff counted missed told
  split
  next hsame =>
    rw [if_pos (hxor.mp hsame), if_pos (hxor.mp hsame)]
    rfl
  next hdiff =>
    rw [if_neg (fun e => hdiff (hxor.mpr e)), if_neg (fun e => hdiff (hxor.mpr e))]
    have htold : told.monView = missed.monView := State.raise_monView ..
    split
    · rfl
    · split
      · exact (State.monReact_monView _).trans htold
      · exact htold

theorem State.readBack_of_unread {s : State} (h : s.enc.mon.intended = none) (back : Nat) : s.readBack back = s := by
  unfold State.readBack
  rw [h]

theorem State.readBack_frame (s : State) (back : Nat) :
    (s.readBack back).tim = s.tim ∧ (s.readBack back).par = s.par ∧ (s.readBack back).time = s.time := by
  cases h : s.enc.mon.intended with
  | none => rw [State.readBack_of_unread h]; exact ⟨rfl, rfl, rfl⟩
  | some want =>
    have e := State.readBack_monView h back
    exact ⟨congrArg MonView.tim e, congrArg MonView.par e, congrArg MonView.time e⟩

/-! ### Monitor frames -/

/-- A state in which a monitor frame begins. -/
def State.monFramed (s : State) (back : Nat) : State :=
  let u := s.readBack back
  { u with tim := { u.tim with monFrame := if u.tim.monBegun then u.tim.monFrame + 1 else 0, monBegun := true, monT0 := u.now } }

theorem State.monPicture_monView (s : State) : s.monPicture.monView = s.monView := rfl

theorem exec_monitorFrameStart {s : State} (hon : s.tim.monState = 1) (hcommit : s.par.commit = none) (back : Nat) :
    exec (.monitorFrameStart back) s = .next (s.monFramed back).monPicture := by
  obtain ⟨htim, hpar, -⟩ := s.readBack_frame back
  have hon' : (s.readBack back).tim.monState = 1 := by rw [htim, hon]
  have hcommit' : (s.readBack back).par.commit = none := by rw [hpar, hcommit]
  change execMonitorFrameStart back s = _
  unfold execMonitorFrameStart
  rw [if_neg (by simp [hon])]
  simp only [hcommit']
  exact congrArg Host.Outcome.next (if_neg (by simp [hon']))

/-! ### Link training -/

theorem State.monIdleNow_rest (s : State) (cause : Nat) :
    s.monIdleNow cause = s ∨ (s.monIdleNow cause).rest = (s.modMon (fun m => { m with link := 0, intended := none })).rest := by
  unfold State.monIdleNow State.monLink
  split
  · exact .inl rfl
  · exact .inr (State.raise_rest _ _ _ _ _ _ (by decide))

/-- Electrical idle of the main link changes the link and the signature of the frame being sent only. -/
theorem State.monIdleNow_part {α : Type} (f : State → α) (hf : ∀ z : State, f z.rest = f z)
    (hmon : ∀ z : State, f (z.modMon (fun m => { m with link := 0, intended := none })) = f z) (s : State) (cause : Nat) :
    f (s.monIdleNow cause) = f s := by
  obtain e | e := s.monIdleNow_rest cause
  · rw [e]
  · exact (hf _).symm.trans ((congrArg f e).trans ((hf _).trans (hmon s)))

theorem State.monIdleNow_wanted (s : State) (cause : Nat) : (s.monIdleNow cause).monWanted = s.monWanted :=
  State.monIdleNow_part State.monWanted (fun _ => rfl) (fun _ => rfl) s cause

theorem State.monIdleNow_hpd (s : State) (cause : Nat) : (s.monIdleNow cause).enc.mon.hpd = s.enc.mon.hpd :=
  State.monIdleNow_part (·.enc.mon.hpd) (fun _ => rfl) (fun _ => rfl) s cause

theorem State.monIdleNow_pget (s : State) (cause id : Nat) : (s.monIdleNow cause).pget id = s.pget id :=
  State.monIdleNow_part (·.pget id) (fun _ => rfl) (fun _ => rfl) s cause

theorem State.monTrain_of_wanted {s : State} (hwant : s.monWanted = true) (hhpd : s.enc.mon.hpd = true) (cause : Nat) :
    s.monTrain cause = s.modMon (fun m => { m with link := 1, cause := cause, rate := s.pget 0x0F000002, trainAt := s.now }) :=
  if_pos (by simp [hwant, hhpd])

theorem State.monTrain_sink (s : State) (cause : Nat) :
    (s.monTrain cause).enc.mon.hpd = s.enc.mon.hpd ∧ (s.monTrain cause).enc.mon.sinkMax = s.enc.mon.sinkMax := by
  unfold State.monTrain
  split <;> exact ⟨rfl, rfl⟩

theorem State.monLink_mon (s : State) (what cause : Nat) : (s.monLink what cause).enc.mon = s.enc.mon :=
  State.raise_part (·.enc.mon) (fun _ => rfl) s ..

/-- A training that ends within 100 ms at the rate asked for, which the sink offers. -/
theorem exec_monLinkTrainingEnd_of_rate {s : State} (htrain : s.enc.mon.link = 1) (hsink : s.pget 0x0F000002 ≤ s.enc.mon.sinkMax)
    (hsoon : s.now ≤ s.enc.mon.trainAt + 100000000) :
    exec (.monLinkTrainingEnd (some (s.pget 0x0F000002))) s =
      .next ((s.modMon (fun m => { m with link := 2, rate := s.pget 0x0F000002 })).monLink 2 s.enc.mon.cause) := by
  change execMonLinkTrainingEnd (some (s.pget 0x0F000002)) s = _
  unfold execMonLinkTrainingEnd
  rw [if_neg (by simp [htrain])]
  exact congrArg Host.Outcome.next (if_pos (by simp [hsink, hsoon]))

theorem exec_monLinkTrainingEnd_of_bad {s : State} {r : Nat} (htrain : s.enc.mon.link = 1)
    (hbad : s.pget 0x0F000002 < r ∨ s.enc.mon.sinkMax < r ∨ s.enc.mon.trainAt + 100000000 < s.now) :
    exec (.monLinkTrainingEnd (some r)) s = .next ((s.modMon (fun m => { m with link := 3 })).monLink 3 s.enc.mon.cause) := by
  change execMonLinkTrainingEnd (some r) s = _
  unfold execMonLinkTrainingEnd
  rw [if_neg (by simp [htrain])]
  refine congrArg Host.Outcome.next (if_neg ?_)
  simp only [Bool.and_eq_true, Bool.or_eq_true, decide_eq_true_eq, beq_iff_eq]
  rintro ⟨⟨hsink, hsoon⟩, hwant | ⟨hless, -⟩⟩ <;> omega

theorem exec_monLinkTrainingEnd_of_none {s : State} (htrain : s.enc.mon.link = 1) :
    exec (.monLinkTrainingEnd none) s = .next ((s.modMon (fun m => { m with link := 3 })).monLink 3 s.enc.mon.cause) := by
  change execMonLinkTrainingEnd none s = _
  unfold execMonLinkTrainingEnd
  rw [if_neg (by simp [htrain])]

theorem monRetrainBody_of_running {c : Cmd} {s : State} (hon : s.tim.monState = 1) :
    monRetrainBody c s = answer (((s.modSaf (fun x => { x with monIdle := false })).monIdleNow 3).monTrain 3) [] := if_neg (by simp [hon])

/-- The training that MON_RETRAIN begins. -/
theorem State.retrained {s : State} (hwant : s.monWanted = true) (hhpd : s.enc.mon.hpd = true) (cause : Nat) :
    (s.monIdleNow cause).monTrain cause =
      (s.monIdleNow cause).modMon (fun m => { m with link := 1, cause := cause, rate := s.pget 0x0F000002, trainAt := (s.monIdleNow cause).now }) := by
  rw [State.monTrain_of_wanted (by rw [State.monIdleNow_wanted, hwant]) (by rw [State.monIdleNow_hpd, hhpd]), State.monIdleNow_pget]

/-- Settles O49, by the read-back and the start of a frame, and by the ways in which a training begins and ends. -/
theorem monitorOutput : Obligations.MonitorOutput := by
  intro c s sinkMax r back
  refine ⟨fun hon hcommit => ?frame, ?rise, fun hlink hhpd hwant => ?lost, rfl, fun htrain => ⟨fun hsink hsoon => ?up, fun hbad => ?failed, ?none⟩,
    fun h hon hhpd hmon hsag hup => ?retrain⟩
  case frame =>
    obtain ⟨htim, -, htime⟩ := s.readBack_frame back
    have hview := (s.monFramed back).monPicture_monView
    refine ⟨_, exec_monitorFrameStart hon hcommit back, ?_, rfl, State.now_of_time htime, fun want hwant => ?_⟩
    · refine (congrArg (fun v : MonView => v.tim.monFrame) hview).trans ?_
      simp only [State.monFramed, State.monView, htim]
    · have hback := State.readBack_monView hwant back
      refine ⟨congrArg MonView.checked hback, congrArg MonView.lastChecked hback, fun hsame => ⟨?_, ?_⟩, fun hdiff => ⟨?_, ?_⟩⟩
      · exact (congrArg MonView.consec hback).trans (if_pos hsame)
      · exact (congrArg MonView.mismatches hback).trans (if_pos hsame)
      · exact (congrArg MonView.consec hback).trans (if_neg hdiff)
      · exact (congrArg MonView.mismatches hback).trans (if_neg hdiff)
  case rise =>
    obtain ⟨hhpd, hsink⟩ := State.monTrain_sink ((s.monIdleNow 1).modMon (fun m => { m with hpd := true, sinkMax := sinkMax })) 1
    refine ⟨_, rfl, hhpd, hsink, fun hwant => ?_⟩
    have hwant' : ((s.monIdleNow 1).modMon (fun m => { m with hpd := true, sinkMax := sinkMax })).monWanted = true :=
      (s.monIdleNow_wanted 1).trans hwant
    rw [State.monTrain_of_wanted hwant' rfl]
    exact ⟨rfl, s.monIdleNow_pget 1 _⟩
  case lost =>
    refine ⟨_, congrArg Host.Outcome.next (if_pos (by simp [hlink])), ?_⟩
    rw [State.retrained hwant hhpd]
    rfl
  case up =>
    refine ⟨_, exec_monLinkTrainingEnd_of_rate htrain hsink hsoon, ?_⟩
    rw [State.monLink_mon]
    exact ⟨rfl, rfl⟩
  case failed =>
    refine ⟨_, exec_monLinkTrainingEnd_of_bad htrain hbad, ?_⟩
    rw [State.monLink_mon]
    rfl
  case none =>
    refine ⟨_, exec_monLinkTrainingEnd_of_none htrain, ?_⟩
    rw [State.monLink_mon]
    rfl
  case retrain =>
    have hwant : ((taken c s).modSaf (fun x => { x with monIdle := false })).monWanted = true := by
      simp only [State.monWanted, Bool.and_eq_true, beq_iff_eq, decide_eq_true_eq]
      exact ⟨⟨⟨hmon, hsag⟩, hup⟩, rfl⟩
    have hbody := monRetrainBody_of_running (c := c) (s := taken c s) hon
    rw [State.retrained hwant hhpd] at hbody
    refine ⟨_, next_hostCmd rfl h hbody, ?_⟩
    exact ⟨report_part (·.enc.mon.link) (fun _ => rfl) c _, report_part (·.enc.mon.cause) (fun _ => rfl) c _,
      (report_part (·.saf.monIdle) (fun _ => rfl) c _).trans
        (State.monIdleNow_part (·.saf.monIdle) (fun _ => rfl) (fun _ => rfl) _ 3)⟩

end Sys2Proof.Machine
end

