-- ==== Sys2Proof/Proofs/Links/LinkPackets.lean ====
section
/-! PROOFS. Packets on a tile link (R238 to R262). -/

namespace Sys2Proof.Machine

open Sys2Proof Sys2Proof.Safety

/-! ### Blocks -/

theorem Port.ctrlUnit_lanes (p : Port) (w : Nat) : (p.ctrlUnit w).1.lanes = p.lanes := by
  unfold Port.ctrlUnit
  split
  · rfl
  · split <;> rfl

theorem Port.dataUnit_lanes (p : Port) (w : Nat) : (p.dataUnit w).1.lanes = p.lanes := by
  unfold Port.dataUnit
  split
  · rfl
  · extract_lets all
    split <;> rfl

theorem Port.dataUnit_second {p : Port} {w0 : Nat} (hrx : p.rx = [w0]) (hkind : backUnits (bits w0 127 120) = some 2) (w : Nat) :
    p.dataUnit w = ({ p with rx := [w0, w] }, []) := by
  unfold Port.dataUnit
  rw [hrx]
  exact if_pos (by simp [hkind])

theorem Port.dataUnit_last {p : Port} {w0 w1 : Nat} (hrx : p.rx = [w0, w1]) (hkind : backUnits (bits w0 127 120) = some 2) (w : Nat) :
    p.dataUnit w = ({ p with rx := [] }, [[w0, w1, w]]) := by
  unfold Port.dataUnit
  rw [hrx]
  exact if_neg (by simp [hkind])

/-- A port whose lane has received a block. -/
def Port.counted (p : Port) (now : Nat) (b : LinkBlock) : Port :=
  { p with lanes := updAt p.lanes b.lane (RxLane.count now (badSync b)) }

section Block
variable {now : Nat} {p : Port} {out : List (List Nat)} {b : LinkBlock}

/-- What a block after a lane's first is: a unit of a packet, or nothing. -/
theorem Port.block_eq : Port.block now (p, out) b =
    ((if b.pos = 0 then (p.counted now b, [])
      else if b.sync = 0xC then (p.counted now b).ctrlUnit (linkPayload b)
      else if b.sync = 0x3 ∨ p.rx ≠ [] then (p.counted now b).dataUnit (linkPayload b)
      else (p.counted now b, [])).1,
     out ++ (if b.pos = 0 then (p.counted now b, [])
      else if b.sync = 0xC then (p.counted now b).ctrlUnit (linkPayload b)
      else if b.sync = 0x3 ∨ p.rx ≠ [] then (p.counted now b).dataUnit (linkPayload b)
      else (p.counted now b, [])).2) := rfl

theorem Port.block_lanes : (Port.block now (p, out) b).1.lanes = updAt p.lanes b.lane (RxLane.count now (badSync b)) := by
  rw [Port.block_eq]
  dsimp only
  split
  · rfl
  · split
    · exact Port.ctrlUnit_lanes ..
    · split
      · exact Port.dataUnit_lanes ..
      · rfl

variable (hpos : b.pos ≠ 0)
include hpos

theorem Port.block_of_ctrl (hctrl : b.sync = 12) :
    Port.block now (p, out) b =
      (((p.counted now b).ctrlUnit (linkPayload b)).1, out ++ ((p.counted now b).ctrlUnit (linkPayload b)).2) := by
  rw [Port.block_eq, if_neg hpos, if_pos hctrl]

theorem Port.block_of_idle (hdata : b.sync ≠ 3) (hctrl : b.sync ≠ 12) (hrx : p.rx = []) :
    Port.block now (p, out) b = (p.counted now b, out) := by
  rw [Port.block_eq, if_neg hpos, if_neg hctrl, if_neg (by simp [hdata, hrx]), List.append_nil]

theorem Port.block_of_packet (hctrl : b.sync ≠ 12) (hrx : p.rx ≠ []) :
    Port.block now (p, out) b =
      (((p.counted now b).dataUnit (linkPayload b)).1, out ++ ((p.counted now b).dataUnit (linkPayload b)).2) := by
  rw [Port.block_eq, if_neg hpos, if_neg hctrl, if_pos (.inr hrx)]

end Block

/-! ### Packets -/

section Packets
variable {s : State} {tile w0 w1 w2 : Nat}

theorem State.receive_of_open (h : (s.port tile).state = 4 ∨ (s.port tile).state = 5) (rx : List LinkBlock) :
    s.receive tile rx =
      (((rx.foldl (Port.block s.now) (s.port tile, [])).2.foldl (fun s ws => s.takePacket tile ws)
        (s.modPort tile (fun _ => (rx.foldl (Port.block s.now) (s.port tile, [])).1))).lockCheck tile) :=
  if_neg (fun e => h.elim e.1 e.2)

theorem State.takePacket_caps (h : bits w0 127 120 = 0x20) : s.takePacket tile [w0, w1, w2] = s.capsPacket tile w0 w1 w2 := if_pos h

theorem State.takePacket_status (h : bits w0 127 120 = 0x21) : s.takePacket tile [w0, w1, w2] = s.statusPacket tile w0 w1 w2 := by
  refine (if_neg ?_).trans (if_pos h)
  rw [h]
  decide

theorem State.takePacket_ack (h : bits w0 127 120 = 0x22) : s.takePacket tile [w0] = s.ackPacket tile w0 := if_pos h

section Caps
variable (hstate : (s.port tile).state = 4)
include hstate

theorem State.capsPacket_of_ok (hcrc : packetOk w0 w1 w2 = true) (hok : (parseCaps w0 w1 w2).ok = true) :
    s.capsPacket tile w0 w1 w2 = s.takeCaps tile (parseCaps w0 w1 w2) := by
  unfold State.capsPacket
  dsimp only
  rw [if_neg (by simp [hstate]), if_neg (by simp [hcrc]), if_neg (by simp [hok])]

theorem State.capsPacket_of_crc (hcrc : packetOk w0 w1 w2 = false) : s.capsPacket tile w0 w1 w2 = s.countHcrc tile := by
  unfold State.capsPacket
  dsimp only
  rw [if_neg (by simp [hstate]), if_pos (by simp [hcrc])]

end Caps

section Active
variable (hstate : (s.port tile).state = 5)
include hstate

theorem State.statusPacket_of_ok (hcrc : packetOk w0 w1 w2 = true) (hversion : bits w0 119 112 ≤ 1) (howner : bits w1 55 52 ≤ 2)
    (htile : bits w1 51 48 ≤ 6) : s.statusPacket tile w0 w1 w2 = s.takeStatus tile w0 w1 w2 := by
  unfold State.statusPacket
  rw [if_neg (by simp [hstate]), if_neg (by simp [hcrc]), if_neg (by omega)]

theorem State.statusPacket_of_crc (hcrc : packetOk w0 w1 w2 = false) : s.statusPacket tile w0 w1 w2 = s.countHcrc tile := by
  unfold State.statusPacket
  rw [if_neg (by simp [hstate]), if_pos (by simp [hcrc])]

theorem State.ackPacket_of_crc (hcrc : hdrOk w0 = false) : s.ackPacket tile w0 = s.countHcrc tile := by
  unfold State.ackPacket
  rw [if_neg (by simp [hstate]), if_pos (by simp [hcrc])]

theorem State.ackPacket_of_wait {a : AckWait} (hcrc : hdrOk w0 = true) (hresult : bits w0 103 96 ≤ 4)
    (ha : (s.port tile).acks.find? (fun a => a.tag == bits w0 119 112 && a.kind == bits w0 111 104) = some a) :
    s.ackPacket tile w0 = (s.dropAck tile a).acked tile a (bits w0 103 96) := by
  unfold State.ackPacket
  rw [if_neg (by simp [hstate]), if_neg (by simp [hcrc]), if_neg (by omega), ha]

end Active
end Packets

/-! ### HEARTBEAT -/

theorem State.port_sendTile (s : State) (t kind n : Nat) (ws : List Nat) : (s.sendTile t kind ws).port n = s.port n := by
  unfold State.sendTile
  split <;> rfl

theorem State.sendTile_now (s : State) (t kind : Nat) (ws : List Nat) : (s.sendTile t kind ws).now = s.now := by
  unfold State.sendTile
  split <;> rfl

theorem sent_sendTile (s : State) (t kind : Nat) (ws : List Nat) : Sent s (s.sendTile t kind ws) := by
  unfold State.sendTile
  split
  · exact sent_emit s _
  · exact Sent.rfl'

/-- A state in which a port is another's but for the packets it waits for; every other port is the other's. -/
structure State.SamePorts (s t : State) (tile : Nat) : Prop where
  hbSeq : (t.port tile).hbSeq = (s.port tile).hbSeq
  hbAt : (t.port tile).hbAt = (s.port tile).hbAt
  others : ∀ n, n ≠ tile → t.port n = s.port n
  now : t.now = s.now
  sent : Sent s t

theorem State.sendPower_samePorts (s : State) (t op show_ wake why : Nat) : s.SamePorts (s.sendPower t op show_ wake why) t := by
  unfold State.sendPower
  extract_lets ran tagged tag w x
  have hx : x.port t = if t = t ∧ t < tagged.link.ports.length then _ else tagged.port t := State.port_modPort ..
  have hsent : Sent s x := sent_of_out rfl
  have hsame : (x.port t).hbSeq = (s.port t).hbSeq ∧ (x.port t).hbAt = (s.port t).hbAt := by
    rw [hx]
    split <;> exact ⟨rfl, rfl⟩
  have hothers : ∀ n, n ≠ t → x.port n = s.port n := fun n hn => State.port_modPort_ne _ _ _ _ hn.symm
  have hnow : x.now = s.now := rfl
  clear_value x
  refine ⟨?_, ?_, fun n hn => ?_, (State.sendTile_now ..).trans hnow, hsent.trans (sent_sendTile _ _ _ _)⟩
  · rw [State.port_sendTile, hsame.1]
  · rw [State.port_sendTile, hsame.2]
  · rw [State.port_sendTile, hothers n hn]

theorem State.visitOver_samePorts (s : State) (t : Nat) : s.SamePorts (s.visitOver t) t := by
  unfold State.visitOver
  split
  · exact State.sendPower_samePorts ..
  · exact ⟨rfl, rfl, fun _ _ => rfl, rfl, Sent.rfl'⟩

theorem State.port_lt {s : State} {tile : Nat} (h : (s.port tile).state ≠ 0) : tile < s.link.ports.length := by
  refine Decidable.byContradiction fun hn => ?_
  exact h (congrArg Port.state (getD_of_le _ (Nat.le_of_not_lt hn)))

/-- An ACTIVE port sends a HEARTBEAT with its next sequence number. -/
theorem State.sendHeartbeat_port {s : State} {tile : Nat} (h : (s.port tile).state = 5) :
    ((s.sendHeartbeat tile).port tile).hbSeq = ((s.port tile).hbSeq + 1) % 256 ∧ ((s.sendHeartbeat tile).port tile).hbAt = s.now ∧
      (s.sendHeartbeat tile).now = s.now ∧ (∃ w, Out.tile tile 0x14 [w] ∈ (s.sendHeartbeat tile).out) ∧
      ∀ n, n ≠ tile → (s.sendHeartbeat tile).port n = s.port n := by
  unfold State.sendHeartbeat
  extract_lets p w x
  have hx : x = s.emit (.tile tile 0x14 [w]) := if_pos h
  have hlen : tile < x.link.ports.length := by
    rw [hx]
    exact State.port_lt (s := s) (by rw [h]; decide)
  rw [State.port_modPort_same _ _ _ hlen, hx]
  exact ⟨rfl, rfl, rfl, ⟨w, List.mem_cons_self⟩, fun n hn => State.port_modPort_ne _ _ _ _ hn.symm⟩

/-- The wait for a HEARTBEAT ends within `link.hb_us` of the last one, unless that time has passed. -/
theorem State.heartbeatWait_now_le (s : State) (t : Nat) :
    (s.heartbeatWait t).now ≤ Nat.max s.now (Nat.max (s.port t).hbAt (s.port t).since + s.pget 0x0A000002 * 1000) := by
  unfold State.heartbeatWait State.advanceTo
  extract_lets p ran
  have hran : ran.2 ≤ s.pget 0x0A000002 * 1000 := Nat.lt_succ_iff.mp (Nat.mod_lt _ (Nat.succ_pos _))
  have hnow : ran.1.now = s.now := rfl
  rw [State.advance_now, hnow]
  change _ ≤ max s.now (Nat.max p.hbAt p.since + _)
  omega

theorem State.heartbeatWait_port (s : State) (t n : Nat) : (s.heartbeatWait t).port n = s.port n :=
  (State.advanceTo_part (·.port n) (fun _ _ => rfl) (s.takeFree (s.pget 0x0A000002 * 1000 + 1)).1 _).trans rfl

theorem exec_heartbeat {s : State} {tile : Nat} (h : (s.port tile).state = 5) :
    exec (.heartbeat tile) s = .next (((s.heartbeatWait tile).sendHeartbeat tile).visitOver tile) :=
  congrArg Host.Outcome.next (if_pos h)

theorem heartbeat_of_active {s : State} {tile : Nat} (h : (s.port tile).state = 5) :
    ∃ t, exec (.heartbeat tile) s = .next t ∧ (t.port tile).hbSeq = ((s.port tile).hbSeq + 1) % 256 ∧ (t.port tile).hbAt = t.now ∧
      t.now ≤ Nat.max s.now (Nat.max (s.port tile).hbAt (s.port tile).since + s.pget 0x0A000002 * 1000) ∧
      (∃ w, Out.tile tile 0x14 [w] ∈ t.out) ∧ ∀ n, n ≠ tile → t.port n = s.port n := by
  have hwait := s.heartbeatWait_now_le tile
  have hport := s.heartbeatWait_port tile
  refine ⟨_, exec_heartbeat h, ?_⟩
  generalize s.heartbeatWait tile = u at hwait hport
  obtain ⟨hseq, hat, hnow, ⟨w, hw⟩, hothers⟩ := State.sendHeartbeat_port (s := u) (tile := tile) (by rw [hport, h])
  have hover := (u.sendHeartbeat tile).visitOver_samePorts tile
  generalize u.sendHeartbeat tile = v at hseq hat hnow hw hothers hover
  refine ⟨?_, ?_, ?_, ⟨w, hover.sent _ hw⟩, fun n hn => ?_⟩
  · rw [hover.hbSeq, hseq, hport]
  · rw [hover.hbAt, hat, hover.now, hnow]
  · rw [hover.now, hnow]
    exact hwait
  · rw [hover.others n hn, hothers n hn, hport]

/-- Settles O50, by the cases of a block, by the checks of each kind of packet, and by the HEARTBEAT and the wait before it. -/
theorem linkPackets : Obligations.LinkPackets := by
  refine ⟨fun s tile rx h => ?_, fun now p out b => ⟨Port.block_lanes, fun hpos hdata hctrl => ?data, fun hpos hctrl hkind => ?ctrl⟩,
    fun s tile w0 w1 w2 a => ⟨fun hcaps => ?caps, fun hactive => ?active, fun ha => ?timeout, fun ha => ?discharge⟩⟩
  case data =>
    refine ⟨fun hrx => ?_, fun w0 hrx hkind => ?_, fun w0 w1 hrx hkind => ?_⟩
    · rw [Port.block_of_idle hpos hdata hctrl hrx]
      exact ⟨hrx, rfl⟩
    · rw [Port.block_of_packet hpos hctrl (by simp [hrx]), Port.dataUnit_second (p := p.counted now b) hrx hkind]
      exact ⟨rfl, List.append_nil _⟩
    · rw [Port.block_of_packet hpos hctrl (by simp [hrx]), Port.dataUnit_last (p := p.counted now b) hrx hkind]
      exact ⟨rfl, rfl⟩
  case ctrl =>
    rw [Port.block_of_ctrl hpos hctrl]
    unfold Port.ctrlUnit
    rw [hkind]
    exact ⟨rfl, List.append_nil _⟩
  case caps =>
    refine ⟨congrArg Host.Outcome.next (if_pos (.inl hcaps)), fun hkind => ⟨fun hcrc hok => ?_, fun hcrc => ?_⟩⟩
    · rw [State.takePacket_caps hkind, State.capsPacket_of_ok hcaps hcrc hok]
    · rw [State.takePacket_caps hkind, State.capsPacket_of_crc hcaps hcrc]
      rfl
  case active =>
    refine ⟨fun hkind => ⟨fun hcrc hversion howner htile => ?_, fun hcrc => ?_⟩, fun hkind => ⟨fun hcrc => ?_, fun hcrc hresult ha => ?_⟩,
      heartbeat_of_active hactive⟩
    · rw [State.takePacket_status hkind, State.statusPacket_of_ok hactive hcrc hversion howner htile]
    · rw [State.takePacket_status hkind, State.statusPacket_of_crc hactive hcrc]
      rfl
    · rw [State.takePacket_ack hkind, State.ackPacket_of_crc hactive hcrc]
      rfl
    · rw [State.takePacket_ack hkind, State.ackPacket_of_wait hactive hcrc hresult ha]
  case timeout =>
    change execAckTimeout tile s = _
    unfold execAckTimeout
    rw [ha]
  case discharge =>
    change execDischargeTimeout tile s = _
    unfold execDischargeTimeout
    rw [ha]
  · have hreceive := State.receive_of_open h rx
    exact ⟨congrArg Host.Outcome.next hreceive, congrArg Host.Outcome.next hreceive, congrArg Host.Outcome.next hreceive⟩

end Sys2Proof.Machine
end

