-- ==== Sys2Proof/Proofs/Links/PortStates.lean ====
section
/-! PROOFS. The states of a tile port (R249 to R255, Table 10.16). -/

namespace Sys2Proof.Machine

open Sys2Proof Sys2Proof.Safety

/-! ### A port changes its state -/

/-- What a change of a port's state leaves alone. -/
structure State.SameFrame (s t : State) : Prop where
  dev : t.dev = s.dev
  time : t.time = s.time
  ports : t.link.ports = s.link.ports
  panel : t.panel = s.panel
  pwr : t.pwr = s.pwr

theorem State.SameFrame.refl (s : State) : s.SameFrame s := ⟨rfl, rfl, rfl, rfl, rfl⟩

theorem State.SameFrame.trans {s t u : State} (h : s.SameFrame t) (g : t.SameFrame u) : s.SameFrame u :=
  ⟨g.dev.trans h.dev, g.time.trans h.time, g.ports.trans h.ports, g.panel.trans h.panel, g.pwr.trans h.pwr⟩

theorem State.raise_sameFrame (s : State) (source code severity arg arg2 : Nat) :
    s.SameFrame (s.raise source code severity arg arg2) :=
  ⟨State.raise_part (·.dev) (fun _ => rfl) s .., State.raise_part (·.time) (fun _ => rfl) s ..,
    State.raise_part (·.link.ports) (fun _ => rfl) s .., State.raise_part (·.panel) (fun _ => rfl) s ..,
    State.raise_part (·.pwr) (fun _ => rfl) s ..⟩

theorem State.endJob_sameFrame (s : State) (id status : Nat) (ws : List Word) : s.SameFrame (s.endJob id status ws) :=
  have e := State.endJob_restJobs s id status ws
  ⟨State.congr_restJobs (·.dev) (fun _ => rfl) e, State.congr_restJobs (·.time) (fun _ => rfl) e,
    State.congr_restJobs (·.link.ports) (fun _ => rfl) e, State.congr_restJobs (·.panel) (fun _ => rfl) e,
    State.congr_restJobs (·.pwr) (fun _ => rfl) e⟩

theorem State.eyeAbort_sameFrame (s : State) (t : Nat) : s.SameFrame (s.eyeAbort t) := by
  unfold State.eyeAbort
  split
  · split
    · obtain ⟨hdev, htime, hports, hpanel, hpwr⟩ :=
        State.endJob_sameFrame ({ s with link := { s.link with eye := none } } : State) _ stAborted []
      exact ⟨hdev, htime, hports, hpanel, hpwr⟩
    · exact .refl s
  · exact .refl s

/-- A port that has changed its state (Table 10.16). -/
def Port.gone (p : Port) (new now : Nat) : Port :=
  { p with
    state := new
    since := if p.state = new then p.since else now
    statusAt := if new = 5 then now else p.statusAt
    retrains := if new = 2 ∧ 4 ≤ p.state then Nat.min 255 (p.retrains + 1) else p.retrains }

section Go
variable (s : State) (t new cause : Nat)

/-- A change of a port's state changes that port, then raises an event. -/
theorem State.portGo_sameFrame :
    (s.modPort t (fun p => p.gone new s.now)).SameFrame (s.portGo t new cause) := by
  unfold State.portGo
  extract_lets p x y sev
  have hx : s.SameFrame x := by
    simp only [x]
    split
    · exact State.eyeAbort_sameFrame s t
    · exact .refl s
  have hy : (s.modPort t (fun p => p.gone new s.now)).SameFrame y := by
    obtain ⟨hdev, htime, hports, hpanel, hpwr⟩ := hx
    refine ⟨hdev, htime, ?_, hpanel, hpwr⟩
    change updAt x.link.ports t (fun p => p.gone new x.now) = updAt s.link.ports t (fun p => p.gone new s.now)
    rw [hports, State.now_of_time htime]
  clear_value y
  split
  · exact hy
  · exact hy.trans (State.raise_sameFrame y ..)

theorem State.portGo_dev : (s.portGo t new cause).dev = s.dev := (s.portGo_sameFrame t new cause).dev

theorem State.portGo_now : (s.portGo t new cause).now = s.now := State.now_of_time (s.portGo_sameFrame t new cause).time

theorem State.portGo_ports_length : (s.portGo t new cause).link.ports.length = s.link.ports.length := by
  rw [(s.portGo_sameFrame t new cause).ports]
  exact updAt_length _ _ _

theorem State.portGo_port (n : Nat) :
    (s.portGo t new cause).port n = if t = n ∧ n < s.link.ports.length then (s.port n).gone new s.now else s.port n := by
  have h : (s.portGo t new cause).port n = (s.modPort t (fun p => p.gone new s.now)).port n := by
    unfold State.port
    rw [(s.portGo_sameFrame t new cause).ports]
  rw [h]
  exact State.port_modPort ..

end Go

section Moves
variable {s : State} {t : Nat} (h : t < s.link.ports.length)
include h

/-- A change of a port's state followed by a change of the port. -/
theorem State.port_modPort_portGo (new cause : Nat) (f : Port → Port) :
    ((s.portGo t new cause).modPort t f).port t = f ((s.port t).gone new s.now) := by
  rw [State.port_modPort_same _ _ _ (by rw [State.portGo_ports_length]; exact h), State.portGo_port, if_pos ⟨rfl, h⟩]

/-- A port in TRAIN. -/
theorem State.toTrain_port (cause : Nat) :
    (s.toTrain t cause).port t = { (s.port t).gone 2 s.now with
      rate := s.trainRate t, acks := keptAcks (s.port t).acks, waiting := false, signal := false
      lanes := List.replicate 4 {}, rx := [] } := State.port_modPort_portGo h 2 _ _

theorem State.portReturn_port (hstate : (s.port t).state ≠ 0) (cause : Nat) :
    ((s.portReturn t cause).port t).state = 1 ∧ ((s.portReturn t cause).port t).waiting = true ∧
      ((s.portReturn t cause).port t).tries = (s.port t).tries + 1 := by
  unfold State.portReturn
  extract_lets p x
  have hx : x.port t = { p with
      tries := p.tries + 1
      fails := if (p.state = 2 ∨ p.fromL2 = true) ∧ p.rate ≠ 0 then p.fails + 1 else p.fails
      fromL2 := false } := State.port_modPort_same s t _ h
  have hlen : t < x.link.ports.length := (updAt_length _ _ _).symm ▸ h
  clear_value x
  rw [if_neg hstate, State.port_modPort_portGo hlen, hx]
  exact ⟨rfl, rfl, rfl⟩

end Moves

theorem State.toTrain_dev (s : State) (t cause : Nat) : (s.toTrain t cause).dev = s.dev := State.portGo_dev ..

theorem State.toTrain_now (s : State) (t cause : Nat) : (s.toTrain t cause).now = s.now := State.portGo_now s t 2 _

theorem State.portReturn_dev_now (s : State) (t cause : Nat) : (s.portReturn t cause).dev = s.dev ∧ (s.portReturn t cause).now = s.now := by
  unfold State.portReturn
  extract_lets p x
  have hx : x.dev = s.dev ∧ x.now = s.now := ⟨rfl, rfl⟩
  clear_value x
  split
  · exact hx
  · exact ⟨(State.portGo_dev x t 1 cause).trans hx.1, (State.portGo_now x t 1 cause).trans hx.2⟩

/-- Out of PARASOL no port's change wakes the panel. -/
theorem State.wakeIfDue_of_state {s : State} (h : s.dev.state ≠ .parasol) : s.wakeIfDue = s := if_pos (by simp [h])

theorem State.portExpires_of_state {s : State} (h : s.dev.state ≠ .parasol) (t : Nat) : s.portExpires t = s.portReturn t 2 :=
  State.wakeIfDue_of_state (by rw [(s.portReturn_dev_now t 2).1]; exact h)

theorem State.toTrain_wakeIfDue {s : State} (h : s.dev.state ≠ .parasol) (t cause : Nat) : (s.toTrain t cause).wakeIfDue = s.toTrain t cause :=
  State.wakeIfDue_of_state (by rw [State.toTrain_dev]; exact h)

/-! ### Blocks on an ACTIVE port -/

theorem Port.ctrlUnit_state (p : Port) (w : Nat) : (p.ctrlUnit w).1.state = p.state ∧ (p.ctrlUnit w).1.retrains = p.retrains := by
  unfold Port.ctrlUnit
  split
  · exact ⟨rfl, rfl⟩
  · split <;> exact ⟨rfl, rfl⟩

theorem Port.dataUnit_state (p : Port) (w : Nat) : (p.dataUnit w).1.state = p.state ∧ (p.dataUnit w).1.retrains = p.retrains := by
  unfold Port.dataUnit
  split
  · exact ⟨rfl, rfl⟩
  · extract_lets all
    split <;> exact ⟨rfl, rfl⟩

theorem Port.block_state (now : Nat) (p : Port) (out : List (List Nat)) (b : LinkBlock) :
    (Port.block now (p, out) b).1.state = p.state ∧ (Port.block now (p, out) b).1.retrains = p.retrains := by
  rw [Port.block_eq]
  dsimp only
  split
  · exact ⟨rfl, rfl⟩
  · split
    · exact Port.ctrlUnit_state ..
    · split
      · exact Port.dataUnit_state ..
      · exact ⟨rfl, rfl⟩

theorem Port.blocks_state (now : Nat) (rx : List LinkBlock) : ∀ acc : Port × List (List Nat),
    (rx.foldl (Port.block now) acc).1.state = acc.1.state ∧ (rx.foldl (Port.block now) acc).1.retrains = acc.1.retrains := by
  induction rx with
  | nil => exact fun _ => ⟨rfl, rfl⟩
  | cons b rx ih =>
    intro acc
    obtain ⟨hstate, hretrains⟩ := ih (Port.block now acc b)
    obtain ⟨hstate', hretrains'⟩ := Port.block_state now acc.1 acc.2 b
    exact ⟨hstate.trans hstate', hretrains.trans hretrains'⟩

/-- A port has lost block lock, or has had more sync errors within a second than `link.err_retrain`. -/
def State.LosesLock (s : State) (p : Port) : Prop :=
  p.lanes.any RxLane.lost = true ∨ (s.pget 0x0A000005 ≠ 0 ∧ ∃ l ∈ p.lanes, s.pget 0x0A000005 < l.errs.length)

theorem State.lockCheck_of_lost {s : State} {t : Nat} (hdev : s.dev.state ≠ .parasol) (hstate : (s.port t).state = 5)
    (h : s.LosesLock (s.port t)) : ∃ cause, s.lockCheck t = s.toTrain t cause := by
  unfold State.lockCheck
  dsimp only
  rw [if_neg (by simp [hstate])]
  split
  next => exact ⟨3, State.toTrain_wakeIfDue hdev t 3⟩
  next hlanes =>
    obtain hlost | ⟨hlimit, l, hl, herrs⟩ := h
    · exact absurd hlost hlanes
    · have hany : (s.port t).lanes.any (fun l => decide (s.pget 0x0A000005 < l.errs.length)) = true :=
        List.any_eq_true.mpr ⟨l, hl, by simpa using herrs⟩
      exact ⟨5, (if_pos ⟨hlimit, hany⟩).trans (State.toTrain_wakeIfDue hdev t 5)⟩

theorem State.lockCheck_of_kept {s : State} {t : Nat} (h : ¬ s.LosesLock (s.port t)) : s.lockCheck t = s := by
  unfold State.lockCheck
  dsimp only
  split
  · rfl
  · split
    next hlost => exact absurd (.inl hlost) h
    next =>
      refine if_neg (fun e => h (.inr ⟨e.1, ?_⟩))
      obtain ⟨l, hl, herrs⟩ := List.any_eq_true.mp e.2
      exact ⟨l, hl, by simpa using herrs⟩

/-- Blocks that complete no packet on an ACTIVE port. -/
theorem exec_blockLockLoss_of_active {s : State} {tile : Nat} (hstate : (s.port tile).state = 5) (hne : tile ≠ 16) {rx : List LinkBlock}
    (hnone : (rx.foldl (Port.block s.now) (s.port tile, [])).2 = []) :
    exec (.blockLockLoss tile rx) s =
      .next ((s.modPort tile (fun _ => (rx.foldl (Port.block s.now) (s.port tile, [])).1)).lockCheck tile) := by
  have hreceive := State.receive_of_open (.inr hstate) rx
  rw [hnone] at hreceive
  exact congrArg Host.Outcome.next ((if_neg hne).trans hreceive)

/-- A port that has taken such blocks is checked for its lock. -/
theorem blockLockLoss_of_active {s : State} {tile : Nat} (hdev : s.dev.state ≠ .parasol) (hstate : (s.port tile).state = 5)
    (rx : List LinkBlock) :
    let p := (rx.foldl (Port.block s.now) (s.port tile, [])).1
    let t := (s.modPort tile (fun _ => p)).lockCheck tile
    (s.LosesLock p → (t.port tile).state = 2 ∧ (t.port tile).retrains = Nat.min 255 ((s.port tile).retrains + 1)) ∧
      (¬ s.LosesLock p → (t.port tile).state = 5 ∧ (t.port tile).lanes = p.lanes) := by
  intro p t
  obtain ⟨hp, hretrains⟩ := Port.blocks_state s.now rx (s.port tile, [])
  have hlen : tile < s.link.ports.length := State.port_lt (by rw [hstate]; decide)
  have hport : (s.modPort tile (fun _ => p)).port tile = p := State.port_modPort_same s tile _ hlen
  have hlen' : tile < (s.modPort tile (fun _ => p)).link.ports.length := (updAt_length _ _ _).symm ▸ hlen
  have h5 : p.state = 5 := hp.trans hstate
  refine ⟨fun hlost => ?_, fun hkept => ?_⟩
  · obtain ⟨cause, ht⟩ := State.lockCheck_of_lost (s := s.modPort tile (fun _ => p)) (t := tile) hdev (by rw [hport, h5])
      (by rw [hport]; exact hlost)
    have htrain := State.toTrain_port hlen' cause
    rw [← ht, hport] at htrain
    refine ⟨congrArg Port.state htrain, (congrArg Port.retrains htrain).trans ?_⟩
    simp only [Port.gone, h5]
    exact congrArg (fun n => Nat.min 255 (n + 1)) hretrains
  · have ht : t = s.modPort tile (fun _ => p) := State.lockCheck_of_kept (by rw [hport]; exact hkept)
    rw [ht, hport]
    exact ⟨h5, rfl⟩

/-! ### The wake of a port -/

theorem State.wakeActive_port {s : State} {t : Nat} (h : t < s.link.ports.length) :
    ((s.wakeActive t).port t).state = 5 ∧ ((s.wakeActive t).port t).tries = 0 := by
  unfold State.wakeActive
  extract_lets inVisit awake visited
  have hawake : awake.port t = { (s.port t).gone 5 s.now with tries := 0, heard := false, wakeL1 := !((s.port t).gone 5 s.now).fromL2 } :=
    State.port_modPort_portGo h 5 8 _
  have hvisited : visited.port t = awake.port t := rfl
  have hlen : t < visited.link.ports.length := (updAt_length _ _ _).symm ▸ (s.portGo_ports_length t 5 8).symm ▸ h
  clear_value awake visited
  unfold State.sendHeartbeat
  extract_lets p w sent
  have hsent : sent.port t = visited.port t := State.port_sendTile ..
  have hlen' : t < sent.link.ports.length := by
    simp only [sent, State.sendTile]
    split <;> exact hlen
  rw [State.port_modPort_same _ _ _ hlen', hsent, hvisited, hawake]
  exact ⟨rfl, rfl⟩

/-! ### The executions -/

theorem exec_signalDetect {s : State} {tile : Nat} (hstate : (s.port tile).state = 1) (hpower : (s.tile tile).powered = true) :
    exec (.signalDetect tile) s = .next (if (s.port tile).waiting then s.modPort tile (fun p => { p with signal := true })
      else s.toTrain tile 1) := congrArg Host.Outcome.next (if_neg (by simp [hstate, hpower]))

theorem State.port_advanceTo (s : State) (t n : Nat) : (s.advanceTo t).port n = s.port n :=
  s.advanceTo_part (·.port n) (fun _ _ => rfl) t

theorem exec_detectRetryWait {s u : State} {tile : Nat} (hstate : (s.port tile).state = 1) (hwait : (s.port tile).waiting = true)
    (hu : s.advanceTo ((s.port tile).since + (s.port tile).retryNs) = u) :
    exec (.detectRetryWait tile) s = .next (
      let v := u.modPort tile (fun p => { p with waiting := false })
      if (s.port tile).signal then v.toTrain tile 1 else v) := by
  change execDetectRetryWait tile s = _
  unfold execDetectRetryWait
  rw [if_neg (by simp [hstate, hwait]), hu]

/-- The wait between attempts ends; a signal that is present begins the next one. -/
theorem detectRetryWait_of_waiting {s : State} {tile : Nat} (hstate : (s.port tile).state = 1) (hwait : (s.port tile).waiting = true) :
    ∃ t, exec (.detectRetryWait tile) s = .next t ∧ (t.port tile).waiting = false ∧
      (s.port tile).since + (if 8 ≤ (s.port tile).tries then 100000000 else 1000000) ≤ t.now ∧
      (t.port tile).state = (if (s.port tile).signal then 2 else 1) := by
  have hlen : tile < s.link.ports.length := State.port_lt (by rw [hstate]; decide)
  have hrun (u : State) := exec_detectRetryWait (u := u) hstate hwait
  have hwaits : (if 8 ≤ (s.port tile).tries then 100000000 else 1000000) = (s.port tile).retryNs := rfl
  rw [hwaits]
  have hnow := s.le_advanceTo_now ((s.port tile).since + (s.port tile).retryNs)
  have hsame := s.port_advanceTo ((s.port tile).since + (s.port tile).retryNs) tile
  rw [← s.advanceTo_part (·.link.ports.length) (fun _ _ => rfl) ((s.port tile).since + (s.port tile).retryNs)] at hlen
  generalize s.advanceTo ((s.port tile).since + (s.port tile).retryNs) = v at hrun hnow hsame hlen
  refine ⟨_, hrun v rfl, ?_⟩
  have hport := State.port_modPort_same v tile (fun p => { p with waiting := false }) hlen
  have hlen' : tile < (v.modPort tile (fun p => { p with waiting := false })).link.ports.length := Nat.lt_of_lt_of_eq hlen (updAt_length _ _ _).symm
  rw [← State.now_of_time (s := v) (t := v.modPort tile (fun p => { p with waiting := false })) rfl] at hnow
  rw [hsame] at hport
  generalize v.modPort tile (fun p => { p with waiting := false }) = u at hport hlen' hnow
  dsimp only
  cases (s.port tile).signal with
  | false => exact ⟨congrArg Port.waiting hport, hnow, (congrArg Port.state hport).trans hstate⟩
  | true =>
    have htrain := State.toTrain_port hlen' 1
    refine ⟨congrArg Port.waiting htrain, ?_, congrArg Port.state htrain⟩
    rw [if_pos rfl, State.toTrain_now]
    exact hnow

theorem trainComplete_of_running {s : State} {tile : Nat} (hstate : (s.port tile).state = 2) (hlive : s.expired tile = false) :
    (∃ t, exec (.trainComplete tile true) s = .next t ∧ (t.port tile).state = 3 ∧ (t.port tile).fails = 0) ∧
      (∃ t, exec (.trainComplete tile false) s = .next t ∧ (t.port tile).state = 1 ∧ (t.port tile).waiting = true ∧
        (t.port tile).tries = (s.port tile).tries + 1) := by
  have hlen : tile < s.link.ports.length := State.port_lt (by rw [hstate]; decide)
  have hrun (order : Bool) : exec (.trainComplete tile order) s = .next (if !order then s.portReturn tile 9
      else (s.modPort tile (fun p => { p with fails := 0 })).portGo tile 3 1) :=
    congrArg Host.Outcome.next ((if_neg (by simp [hstate])).trans (if_neg (by simp [hlive])))
  refine ⟨⟨_, hrun true, ?_⟩, ⟨_, hrun false, State.portReturn_port hlen (by rw [hstate]; decide) 9⟩⟩
  have hport : (s.modPort tile (fun p => { p with fails := 0 })).port tile = { s.port tile with fails := 0 } :=
    State.port_modPort_same s tile _ hlen
  have hlen' : tile < (s.modPort tile (fun p => { p with fails := 0 })).link.ports.length := (updAt_length _ _ _).symm ▸ hlen
  have hgone := State.portGo_port (s.modPort tile (fun p => { p with fails := 0 })) tile 3 1 tile
  rw [if_pos ⟨rfl, hlen'⟩, hport] at hgone
  exact ⟨congrArg Port.state hgone, congrArg Port.fails hgone⟩

theorem exec_bitslipSearch_of_running {s : State} {tile : Nat} (hstate : (s.port tile).state = 2) (hslip : s.pget 0x0A000004 ≠ 0)
    (lane : Nat) {offsets : List SlipCount} {found : Option Nat} (hfound : slipOffset (offsets.take 132) 0 = found) {u : State}
    (hu : s.advanceTo ((s.port tile).since + 10000000 + found.elim 132 (· + 1) * s.slipNs tile) = u) :
    exec (.bitslipSearch tile lane offsets) s = .next (found.elim (u.portReturn tile 10)
      (fun o => u.raise 0x0A 7 1 (packNat [at' 63 56 tile, at' 55 48 lane, at' 47 40 o]) u.arg2f)) := by
  change execBitslipSearch tile lane offsets s = _
  unfold execBitslipSearch
  rw [if_neg (by simp [hstate, hslip])]
  dsimp only
  rw [hfound, hu]
  cases found <;> rfl

/-- A bit-slip search ends 10 ms into TRAIN or later; one that finds no offset returns to DETECT. -/
theorem bitslipSearch_of_running {s : State} {tile : Nat} (hstate : (s.port tile).state = 2) (hslip : s.pget 0x0A000004 ≠ 0) (lane : Nat)
    (offsets : List SlipCount) :
    ∃ t, exec (.bitslipSearch tile lane offsets) s = .next t ∧ (s.port tile).since + 10000000 ≤ t.now ∧
      (t.port tile).state = (if (slipOffset (offsets.take 132) 0).isSome then 2 else 1) := by
  generalize hfound : slipOffset (offsets.take 132) 0 = found
  have hnow := s.le_advanceTo_now ((s.port tile).since + 10000000 + found.elim 132 (· + 1) * s.slipNs tile)
  have hport := s.port_advanceTo ((s.port tile).since + 10000000 + found.elim 132 (· + 1) * s.slipNs tile) tile
  have hrun (u : State) := exec_bitslipSearch_of_running hstate hslip lane hfound (u := u)
  generalize s.advanceTo ((s.port tile).since + 10000000 + found.elim 132 (· + 1) * s.slipNs tile) = u at hnow hport hrun
  have hlate : (s.port tile).since + 10000000 ≤ u.now := Nat.le_trans (Nat.le_add_right _ _) hnow
  have hstate' : (u.port tile).state = 2 := by rw [hport, hstate]
  refine ⟨_, hrun u rfl, ?_⟩
  cases found with
  | some o =>
    refine ⟨Nat.le_trans hlate (Nat.le_of_eq (State.raise_now ..).symm), ?_⟩
    exact (State.raise_part (fun z : State => (z.port tile).state) (fun _ => rfl) u ..).trans hstate'
  | none =>
    have hlen : tile < u.link.ports.length := State.port_lt (by rw [hstate']; decide)
    obtain ⟨h1, -, -⟩ := State.portReturn_port hlen (by rw [hstate']; decide) 10
    exact ⟨Nat.le_trans hlate (Nat.le_of_eq (u.portReturn_dev_now tile 10).2.symm), h1⟩

theorem exec_lockComplete {s : State} {tile : Nat} (hstate : (s.port tile).state = 3) (hlive : s.expired tile = false) :
    exec (.lockComplete tile) s = .next (if (s.port tile).fromL2 then (s.wakeActive tile).sendCaps tile else s.portGo tile 4 1) :=
  congrArg Host.Outcome.next ((if_neg (by simp [hstate])).trans (if_neg (by simp [hlive])))

theorem lockComplete_of_running {s : State} {tile : Nat} (hstate : (s.port tile).state = 3) (hlive : s.expired tile = false) :
    ∃ t, exec (.lockComplete tile) s = .next t ∧ (t.port tile).state = (if (s.port tile).fromL2 then 5 else 4) := by
  have hlen : tile < s.link.ports.length := State.port_lt (by rw [hstate]; decide)
  refine ⟨_, exec_lockComplete hstate hlive, ?_⟩
  split
  · exact (State.wakeActive_port hlen).1
  · have hgone := s.portGo_port tile 4 1 tile
    rw [if_pos ⟨rfl, hlen⟩] at hgone
    exact congrArg Port.state hgone

/-- A state's time-out returns the port to DETECT. -/
theorem portStateTimeout_of_limit {s : State} {tile n : Nat} (hdev : s.dev.state ≠ .parasol) (hstate : (s.port tile).state ≠ 0)
    (hlimit : (s.port tile).limit = some n) :
    ∃ t, exec (.portStateTimeout tile) s = .next t ∧ n ≤ t.now ∧ (t.port tile).state = 1 ∧ (t.port tile).waiting = true ∧
      (t.port tile).tries = (s.port tile).tries + 1 := by
  have hrun : exec (.portStateTimeout tile) s = .next ((s.advanceTo n).portReturn tile 2) := by
    rw [← State.portExpires_of_state (s := s.advanceTo n) (by rwa [State.advanceTo_dev])]
    change execPortStateTimeout tile s = _
    unfold execPortStateTimeout
    rw [hlimit]
  have hnow := s.le_advanceTo_now n
  have hport := s.port_advanceTo n tile
  generalize s.advanceTo n = u at hrun hnow hport
  rw [← hport] at hstate ⊢
  refine ⟨_, hrun, ?_, State.portReturn_port (State.port_lt hstate) hstate 2⟩
  rw [(u.portReturn_dev_now tile 2).2]
  exact hnow

/-- An ACTIVE port that hears no STATUS trains again. -/
theorem statusTimeout_of_active {s : State} {tile : Nat} (hdev : s.dev.state ≠ .parasol) (hstate : (s.port tile).state = 5) :
    ∃ t, exec (.statusTimeout tile) s = .next t ∧ (t.port tile).state = 2 ∧
      (s.port tile).statusAt + s.pget 0x0A000003 * 1000000 ≤ t.now := by
  have hrun : exec (.statusTimeout tile) s =
      .next ((s.advanceTo ((s.port tile).statusAt + s.pget 0x0A000003 * 1000000)).toTrain tile 4).wakeIfDue :=
    congrArg Host.Outcome.next (if_neg (by simp [hstate]))
  have hnow := s.le_advanceTo_now ((s.port tile).statusAt + s.pget 0x0A000003 * 1000000)
  have hport := s.port_advanceTo ((s.port tile).statusAt + s.pget 0x0A000003 * 1000000) tile
  have hdev' : (s.advanceTo ((s.port tile).statusAt + s.pget 0x0A000003 * 1000000)).dev.state ≠ .parasol := by
    rw [State.advanceTo_dev]
    exact hdev
  generalize s.advanceTo ((s.port tile).statusAt + s.pget 0x0A000003 * 1000000) = u at hnow hport hdev' hrun
  rw [State.toTrain_wakeIfDue hdev'] at hrun
  have hlen : tile < u.link.ports.length := State.port_lt (by rw [hport, hstate]; decide)
  exact ⟨_, hrun, congrArg Port.state (State.toTrain_port hlen 4), by rw [State.toTrain_now]; exact hnow⟩

/-- Settles O51, state by state: each execution moves the port by `State.portGo`. -/
theorem portStates : Obligations.PortStates := by
  intro s tile lane n offsets rx hdev
  refine ⟨fun hdetect => ⟨fun hpower hwait => ?signal, fun hpower hwait => ?early, detectRetryWait_of_waiting hdetect⟩,
    fun htrain => ⟨trainComplete_of_running htrain, fun hslip => bitslipSearch_of_running htrain hslip lane offsets⟩,
    lockComplete_of_running, portStateTimeout_of_limit hdev, fun hactive hne => ⟨?blocks, statusTimeout_of_active hdev hactive⟩,
    fun hl1 hwake => ?wake⟩
  case signal =>
    have hlen : tile < s.link.ports.length := State.port_lt (by rw [hdetect]; decide)
    have htrain := State.toTrain_port hlen 1
    refine ⟨_, exec_signalDetect hdetect hpower, ?_⟩
    rw [hwait]
    exact ⟨congrArg Port.state htrain, congrArg Port.rate htrain⟩
  case early =>
    rw [exec_signalDetect hdetect hpower, hwait]
    rfl
  case blocks =>
    intro ran hnone
    obtain ⟨hlost, hkept⟩ := blockLockLoss_of_active hdev hactive rx
    refine ⟨_, exec_blockLockLoss_of_active hactive hne hnone, ?_⟩
    split
    next h => exact hlost h
    next h => exact hkept h
  case wake =>
    have hlen : tile < s.link.ports.length := State.port_lt (by rw [hl1]; decide)
    exact ⟨_, congrArg Host.Outcome.next (if_pos ⟨hl1, .inr hwake⟩), State.wakeActive_port hlen⟩

end Sys2Proof.Machine
end

