-- ==== Sys2Proof/Proofs/Links/TileBringUp.lean ====
section
/-! PROOFS. Tiles in BOOT, LINK_CTRL and eye scans (R26, R265, R266, R311, R315). -/

namespace Sys2Proof.Machine

open Sys2Proof Sys2Proof.Safety

/-! ### LINK_CTRL and eye scans -/

theorem mem_safe_shutdown {s : State} (h1 : s.dev.state ≠ .safe) (h2 : s.dev.state ≠ .shutdown) :
    ¬ (s.dev.state == .safe || s.dev.state == .shutdown) = true := by simp [h1, h2]

section Bodies
variable {c : Cmd} {s : State} (hsafe : s.dev.state ≠ .safe) (hshut : s.dev.state ≠ .shutdown)
include hsafe hshut

theorem linkCtrlBody_of_tiles (hok : c.okBits 1 (mask 127 120 + mask 15 0) = true) (hlo : 1 ≤ c.f 1 127 120) (hhi : c.f 1 127 120 ≤ 3)
    (hts : c.f 1 15 0 ≠ 0) :
    linkCtrlBody c s = answer ((maskTiles (c.f 1 15 0)).foldl (fun u t => u.linkCtrlTile (c.f 1 127 120) t) s) [] := by
  have hargs : decide (c.f 1 127 120 = 0 ∨ 3 < c.f 1 127 120 ∨ c.f 1 15 0 = 0) = false := decide_eq_false (by omega)
  unfold linkCtrlBody
  dsimp only
  rw [if_neg (mem_safe_shutdown hsafe hshut), if_neg (by rw [hok, hargs]; decide)]

/-- The scan that an EYE_SCAN begins. -/
def eyeScanOf (c : Cmd) (s : State) : EyeScan :=
  { job := s.host.nextJob, tile := c.f 1 127 120, lane := c.f 1 119 112, points := (eyePoints c).toNat, dwell := c.f 1 111 104
    dest := c.f 2 63 0, t0 := s.now }

theorem eyeScanBody_of_active (hargs : eyeArgsOk c = true) (hactive : (s.port (c.f 1 127 120)).state = 5) (hfree : s.link.eye = none) :
    eyeScanBody c s = accept { s with link := { s.link with eye := some (eyeScanOf c s) } } .eyeScan := by
  unfold eyeScanBody
  dsimp only
  rw [if_neg (mem_safe_shutdown hsafe hshut), if_neg (by simp [hargs]), if_neg (by simp [hactive]), if_neg (by simp [hfree])]
  rfl

end Bodies

/-- The job of an accepted command is on the list. -/
theorem report_accept_job (c : Cmd) (s : State) (key : JobKey) : ((report c (accept s key)).job? s.host.nextJob).isSome = true := by
  have hjobs : ∃ j, (report c (accept s key)).host.jobs = s.host.jobs ++ [j] ∧ j.id = s.host.nextJob := by
    unfold report accept
    dsimp only
    split
    · exact ⟨_, (State.respond_jobs ..).1, rfl⟩
    · exact ⟨_, rfl, rfl⟩
  obtain ⟨j, hj, hid⟩ := hjobs
  unfold State.job?
  rw [hj, List.find?_isSome]
  exact ⟨j, List.mem_append_right _ (List.mem_singleton_self j), by simpa using hid⟩

theorem exec_eyeScanCompletion {s : State} {e : EyeScan} (he : s.link.eye = some e) {u : State}
    (hu : s.advanceTo (e.t0 + e.points * (2 ^ e.dwell / laneRate (s.port e.tile).rate + 20000)) = u) (counts : List Nat) :
    exec (.eyeScanCompletion counts) s = .next ((({ u with link := { u.link with eye := none } } : State).emit
      (.hostWrite e.dest ((padTo 0 e.points counts).flatMap (leBytes 4)))).endJob e.job stOk
        [packW [at' 127 96 e.points, at' 95 64 ((u.now - e.t0) / 1000000)]]) := by
  change execEyeScanCompletion counts s = _
  unfold execEyeScanCompletion
  rw [he]
  dsimp only
  rw [hu]
  rfl

theorem eyeScanCompletion_of_scan {s : State} {e : EyeScan} (he : s.link.eye = some e) (counts : List Nat) :
    ∃ t, exec (.eyeScanCompletion counts) s = .next t ∧ t.link.eye = none ∧ t.job? e.job = none ∧
      e.t0 + e.points * (2 ^ e.dwell / laneRate (s.port e.tile).rate + 20000) ≤ t.now ∧
      Out.hostWrite e.dest ((padTo 0 e.points counts).flatMap (leBytes 4)) ∈ t.out := by
  have hnow := s.le_advanceTo_now (e.t0 + e.points * (2 ^ e.dwell / laneRate (s.port e.tile).rate + 20000))
  have hrun (u : State) := exec_eyeScanCompletion he (u := u)
  generalize s.advanceTo (e.t0 + e.points * (2 ^ e.dwell / laneRate (s.port e.tile).rate + 20000)) = u at hnow hrun
  have hsame := State.endJob_restJobs (({ u with link := { u.link with eye := none } } : State).emit
    (.hostWrite e.dest ((padTo 0 e.points counts).flatMap (leBytes 4)))) e.job stOk [packW [at' 127 96 e.points, at' 95 64 ((u.now - e.t0) / 1000000)]]
  refine ⟨_, hrun u rfl counts, State.congr_restJobs (·.link.eye) (fun _ => rfl) hsame, State.endJob_job_none .., ?_, ?_⟩
  · exact Nat.le_trans hnow (Nat.le_of_eq (State.now_of_time (s := u) ((State.congr_restJobs (·.time) (fun _ => rfl) hsame).trans rfl)).symm)
  · exact sent_endJob _ _ _ _ _ List.mem_cons_self

/-! ### The power of a tile in BOOT -/

theorem State.toDetect_port {s : State} {t : Nat} (h : t < s.link.ports.length) (hd : (s.pwr.domains.getD (39 + t / 4) {}).failed = false)
    (cause : Nat) : ((s.toDetect t cause).port t).state = 1 := by
  have hrun : s.toDetect t cause = (s.portGo t 1 cause).modPort t (fun p => { p with waiting := false, acks := keptAcks p.acks }) :=
    if_neg (by rw [hd]; exact Bool.false_ne_true)
  rw [hrun, State.port_modPort_portGo h]
  rfl

theorem State.toDetect_panel_time (s : State) (t cause : Nat) :
    (s.toDetect t cause).panel = s.panel ∧ (s.toDetect t cause).time = s.time := by
  unfold State.toDetect
  split
  · exact ⟨rfl, rfl⟩
  · obtain ⟨-, htime, -, hpanel, -⟩ := s.portGo_sameFrame t 1 cause
    exact ⟨hpanel, htime⟩

/-- A tile whose power rises: its port is in DETECT, and its ledgers go on. -/
theorem State.powerUp_tile {s : State} {t : Nat} (htile : t < s.panel.tiles.length) (hport : t < s.link.ports.length)
    (hd : (s.pwr.domains.getD (39 + t / 4) {}).failed = false) (cause : Nat) :
    (s.powerUp t cause).tile t = { powered := true, rise := s.now, cause := cause, l0 := (s.tile t).l0, l1 := (s.tile t).l1
                                   inv := (s.tile t).inv } ∧
      ((s.powerUp t cause).port t).state = 1 ∧ (s.powerUp t cause).now = s.now := by
  unfold State.powerUp
  extract_lets was lit pin fresh up
  have hlit : lit.tile t = { powered := true, rise := s.now, cause := cause, l0 := (s.tile t).l0, l1 := (s.tile t).l1
                             inv := (s.tile t).inv } := State.tile_modTile_same s t _ htile
  have hpin : pin.panel = lit.panel ∧ pin.now = s.now ∧ pin.link = s.link ∧ pin.pwr = s.pwr := by
    simp only [pin]
    split <;> exact ⟨rfl, rfl, rfl, rfl⟩
  obtain ⟨hpanel, hnow, hlink, hpwr⟩ := hpin
  obtain ⟨hupPanel, hupNow, hupPorts, hupPwr⟩ :
      up.panel = lit.panel ∧ up.now = s.now ∧ up.link.ports.length = s.link.ports.length ∧ up.pwr = s.pwr :=
    ⟨hpanel, hnow, (updAt_length _ _ _).trans (congrArg (·.ports.length) hlink), hpwr⟩
  clear_value up
  have htold := State.raise_sameFrame up 0x0C 1 1 (packNat [at' 63 56 t, at' 55 48 1, at' 47 40 cause]) up.arg2f
  change ((up.raise _ _ _ _ _).toDetect t 1).tile t = _ ∧ (((up.raise _ _ _ _ _).toDetect t 1).port t).state = 1 ∧
    ((up.raise _ _ _ _ _).toDetect t 1).now = s.now
  generalize up.raise 0x0C 1 1 (packNat [at' 63 56 t, at' 55 48 1, at' 47 40 cause]) up.arg2f = told at htold
  obtain ⟨hpanel', htime'⟩ := told.toDetect_panel_time t 1
  refine ⟨?_, State.toDetect_port ?_ ?_ 1, ?_⟩
  · rw [← hlit]
    unfold State.tile
    rw [hpanel', htold.panel, hupPanel]
  · rw [htold.ports, hupPorts]
    exact hport
  · rw [htold.pwr, hupPwr]
    exact hd
  · rw [State.now_of_time htime', State.now_of_time htold.time, hupNow]

theorem exec_tilePwrEnStagger {s : State} {tile : Nat} (hboot : s.dev.state = .boot)
    (hnext : s.enabledTiles.find? (fun t => (s.port t).state == 0 && !(s.domain (40 + t / 4)).failed &&
      !((s.tile t).powered && decide (0 < (s.tile t).rise))) = some tile) :
    exec .tilePwrEnStagger s = .next (((if s.panel.tiles.any (·.powered) then
      s.advanceTo (maxN (s.panel.tiles.map (·.rise)) + s.pget 0x0C00000E * 1000000) else s).powerUp tile 1).powerSync) := by
  change execTilePwrEnStagger s = _
  unfold execTilePwrEnStagger
  rw [if_neg (by simp [hboot]), hnext]

theorem tilePwrEnStagger_of_next {s : State} {tile : Nat} (hboot : s.dev.state = .boot)
    (hnext : s.enabledTiles.find? (fun t => (s.port t).state == 0 && !(s.domain (40 + t / 4)).failed &&
      !((s.tile t).powered && decide (0 < (s.tile t).rise))) = some tile)
    (htile : tile < s.panel.tiles.length) (hport : tile < s.link.ports.length) :
    ∃ t, exec .tilePwrEnStagger s = .next t ∧ (t.tile tile).powered = true ∧ (t.tile tile).rise = t.now ∧ (t.port tile).state = 1 ∧
      (s.panel.tiles.any (·.powered) = true → maxN (s.panel.tiles.map (·.rise)) + s.pget 0x0C00000E * 1000000 ≤ t.now) ∧
      (t.tile tile).l0 = (s.tile tile).l0 ∧ (t.tile tile).l1 = (s.tile tile).l1 := by
  have hd : (s.pwr.domains.getD (39 + tile / 4) {}).failed = false := by
    have h := List.find?_some hnext
    have hplace : 40 + tile / 4 - 1 = 39 + tile / 4 := by omega
    simp only [State.domain, hplace, Bool.and_eq_true, Bool.not_eq_true'] at h
    obtain ⟨⟨-, hgood⟩, -⟩ := h
    exact hgood
  have hrun : ∃ u : State, exec .tilePwrEnStagger s = .next ((u.powerUp tile 1).powerSync) ∧ u.panel = s.panel ∧ u.link = s.link ∧
      u.pwr = s.pwr ∧
      (s.panel.tiles.any (·.powered) = true → maxN (s.panel.tiles.map (·.rise)) + s.pget 0x0C00000E * 1000000 ≤ u.now) := by
    have hexec := exec_tilePwrEnStagger hboot hnext
    generalize maxN (s.panel.tiles.map (·.rise)) + s.pget 0x0C00000E * 1000000 = at_ at hexec ⊢
    refine ⟨_, hexec, ?_⟩
    by_cases hany : s.panel.tiles.any (·.powered) = true
    · rw [if_pos hany]
      exact ⟨s.advanceTo_part (·.panel) (fun _ _ => rfl) at_, s.advanceTo_part (·.link) (fun _ _ => rfl) at_,
        s.advanceTo_part (·.pwr) (fun _ _ => rfl) at_, fun _ => s.le_advanceTo_now at_⟩
    · rw [if_neg hany]
      exact ⟨rfl, rfl, rfl, fun h => absurd h hany⟩
  obtain ⟨u, hexec, hpanel, hlink, hpwr, hnow⟩ := hrun
  have hup : ((u.powerUp tile 1).tile tile = _ ∧ _) := State.powerUp_tile (s := u) (t := tile) (by rwa [hpanel]) (by rwa [hlink])
    (by rwa [hpwr]) 1
  have hledger : u.tile tile = s.tile tile := congrArg (·.tiles.getD tile {}) hpanel
  obtain ⟨htile, hstate, htime⟩ := hup
  generalize u.powerUp tile 1 = v at hexec htile hstate htime
  have hsync : v.powerSync.tile tile = v.tile tile := rfl
  refine ⟨_, hexec, ?_, ?_, hstate, fun h => Nat.le_trans (hnow h) (Nat.le_of_eq htime.symm), ?_, ?_⟩
  · rw [hsync, htile]
  · rw [hsync, htile]
    exact htime.symm
  · rw [hsync, htile, hledger]
  · rw [hsync, htile, hledger]

/-- A reconcile that is tried again: the state report, and one more try. -/
theorem State.reconcile_tile {s : State} {t : Nat} (h : t < s.panel.tiles.length) (hmay : s.mayReconcile = true) :
    (s.reconcile t).tile t = { s.tile t with mode := 1, recon := 0, tries := (s.tile t).tries + 1, firstDue := false } := by
  have hrun : s.reconcile t = (s.modTile t (fun d => { d with mode := 1, recon := 0, tries := d.tries + 1, firstDue := false })).sendPair t 0
      (s.pget 0x0C000023) (s.pget 0x0C000024) 1 := if_neg (by simp [hmay])
  rw [hrun]
  unfold State.sendPair
  extract_lets ran u tag w v
  rw [State.tile_sendTile]
  exact State.tile_modTile_same s t _ h

/-- Settles O52, by the tile that `State.powerUp` gives power to, the branch of the body of LINK_CTRL and of EYE_SCAN that its guards select,
and the end of the scan under way. -/
theorem tileBringUp : Obligations.TileBringUp := by
  unfold Obligations.TileBringUp
  intro c s tile e counts
  refine ⟨fun hboot hnext htile hport => tilePwrEnStagger_of_next hboot hnext htile hport, fun hboot hpowered hstate => ?late,
    fun hmode hown hmay => ?again, fun h hsafe hshut hok hlo hhi hts => ?ctrl, fun h hsafe hshut hargs hactive hfree => ?scan,
    fun he => eyeScanCompletion_of_scan he counts⟩
  case late => exact congrArg Host.Outcome.next (if_neg (by simp [hboot, hpowered, hstate]))
  case again =>
    have hlt : tile < s.panel.tiles.length := by
      refine Decidable.byContradiction fun hge => ?_
      have hnone : s.tile tile = {} := getD_of_le _ (by omega)
      rw [hnone] at hmode
      exact absurd hmode (by decide)
    refine ⟨_, congrArg Host.Outcome.next (if_pos ⟨hmode, hown⟩), ?_⟩
    rw [State.reconcile_tile hlt hmay]
    exact ⟨rfl, rfl⟩
  case ctrl => exact next_hostCmd rfl h (linkCtrlBody_of_tiles (s := taken c s) hsafe hshut hok hlo hhi hts)
  case scan =>
    have hbody := eyeScanBody_of_active (s := taken c s) hsafe hshut hargs hactive hfree
    refine ⟨_, _, next_hostCmd rfl h hbody, report_part (·.link.eye) (fun _ => rfl) .., rfl, rfl, rfl, rfl, rfl, ?_⟩
    exact report_accept_job c { taken c s with link := { s.link with eye := some (eyeScanOf c (taken c s)) } } .eyeScan

end Sys2Proof.Machine
end

