-- ==== Sys2Proof/Proofs/Power/PowerOn.lean ====
section
/-! PROOFS. PORST_N, the straps, VAON and its counter (R24, R25, R447, R448, R467). -/

namespace Sys2Proof.Machine

open Sys2Proof Sys2Proof.Safety

/-- A part of the state that outputs are not in stays through every list of outputs. -/
theorem State.emits_part {α : Type} (f : State → α) (hf : ∀ (z : State) (o : Out), f (z.emit o) = f z) (os : List Out) (s : State) :
    f (s.emits os) = f s := by
  induction os generalizing s with
  | nil => rfl
  | cons o os ih => exact (ih (s.emit o)).trans (hf s o)

theorem sent_emits (os : List Out) (s : State) : Sent s (s.emits os) := by
  induction os generalizing s with
  | nil => exact fun _ h => h
  | cons o os ih => exact fun x hx => ih (s.emit o) x (sent_emit s o x hx)

theorem State.mem_emits {os : List Out} {o : Out} (h : o ∈ os) (s : State) : o ∈ (s.emits os).out := by
  induction os generalizing s with
  | nil => cases h
  | cons a os ih =>
    cases h with
    | head => exact sent_emits os (s.emit o) o List.mem_cons_self
    | tail _ h => exact ih h (s.emit a)

/-- The state that PORST_N low leaves, before its outputs. -/
def State.porHeld (s : State) : State :=
  { s.porKeep with
    dev := { s.porKeep.dev with state := .off }
    start := { s.porKeep.start with porLow := true }
    saf := { s.porKeep.saf with safeStateLow := true }
    pwr := { s.porKeep.pwr with domains := (List.range 50).map (fun i => ({ st := if i < 1 then 2 else 0 } : Domain)) } }

theorem exec_porstNAssert (s : State) : exec .porstNAssert s = .next (
    let u := (s.porHeld.emits ((tileNums.filter (fun t => (s.tile t).powered)).map (fun t => Out.pin (pinName t) false))).emit
      (.pin "SAFE_STATE_N" false)
    if s.pwr.tripLow then u.emit (.pin "THERMTRIP_N" true) else u) := rfl

theorem porstNAssert_holds (s : State) : ∃ t, exec .porstNAssert s = .next t ∧ t.dev = s.porHeld.dev ∧ t.start = s.porHeld.start ∧
    t.saf.safeStateLow = true ∧ t.host.jobs = [] ∧ Out.pin "SAFE_STATE_N" false ∈ t.out := by
  refine ⟨_, exec_porstNAssert s, ?_⟩
  have hpart {α : Type} (f : State → α) (hf : ∀ (z : State) (o : Out), f (z.emit o) = f z) :=
    State.emits_part f hf ((tileNums.filter (fun t => (s.tile t).powered)).map (fun t => Out.pin (pinName t) false)) s.porHeld
  have hdev := hpart (·.dev) (fun _ _ => rfl)
  have hstart := hpart (·.start) (fun _ _ => rfl)
  have hsaf := hpart (·.saf.safeStateLow) (fun _ _ => rfl)
  have hjobs := hpart (·.host.jobs) (fun _ _ => rfl)
  generalize s.porHeld.emits _ = u at hdev hstart hsaf hjobs
  dsimp only
  split
  · exact ⟨hdev, hstart, hsaf, hjobs, List.mem_cons_of_mem _ List.mem_cons_self⟩
  · exact ⟨hdev, hstart, hsaf, hjobs, List.mem_cons_self⟩

/-- A change of state other than the entry to SAFE touches the event collector and what is sent only. -/
theorem State.stateChange_rest {s : State} (h : s.dev.state ≠ .safe) (old : DevState) (reason : Nat) (fault : Bool) :
    (s.stateChange old reason fault).rest = s.rest := by
  have hsev : (if s.dev.state == .safe then (if fault then 4 else 3) else 1) ≠ 4 := by simp [h]
  exact State.raise_rest s 1 1 _ _ _ hsev

/-- BOOT after OFF: the straps as they are sampled stay, and the output of the safety core rises. -/
theorem State.bootEntry_parts (s : State) (old : DevState) (askFull : Bool) :
    (s.bootEntry old askFull).dev = { s.dev with state := .boot } ∧
      (s.bootEntry old askFull).start = { s.start with full := (s.fullCause askFull).isSome, cause := (s.fullCause askFull).getD 0, t0 := s.now } ∧
      (s.bootEntry old askFull).saf.safeStateLow = false ∧ Out.pin "SAFE_STATE_N" true ∈ (s.bootEntry old askFull).out := by
  unfold State.bootEntry
  extract_lets c dev start mem saf u v
  have hv : v.dev = u.dev ∧ v.start = u.start ∧ v.saf = u.saf := ⟨rfl, rfl, rfl⟩
  have hout : Out.pin "SAFE_STATE_N" true ∈ v.out := State.mem_emits List.mem_cons_self u
  obtain ⟨hdev, hstart, hsaf⟩ := hv
  have hsent := sent_raise v 1 1 (if v.dev.state == .safe then (if false then 4 else 3) else 1)
    (packNat [at' 63 56 old.code, at' 55 48 v.dev.state.code, at' 47 32 8, at' 31 0 v.tim.frame.toNat])
    (packNat [at' 47 40 v.channels, at' 39 32 v.pwr.stage, at' 31 24 v.reduction]) _ hout
  have hrest := State.stateChange_rest (s := v) (by rw [hdev]; exact DevState.noConfusion) old 8 false
  clear_value v
  refine ⟨(congrArg State.dev hrest).trans hdev, (congrArg State.start hrest).trans hstart, ?_, hsent⟩
  exact (congrArg (·.saf.safeStateLow) hrest).trans (congrArg Saf.safeStateLow hsaf)

theorem porstNRelease_of_low {s : State} (hlow : s.start.porLow = true) (sideB : Bool) (strap : Nat) :
    exec (.porstNRelease sideB strap) s = .next (State.bootEntry
      { s.porKeep with dev := { s.porKeep.dev with sideB := sideB }, start := { s.porKeep.start with strapBoot := strap % 4, porLow := false } }
      .off false) := congrArg Host.Outcome.next (if_neg (by simp [hlow]))

/-- Settles O35, by what `State.porKeep` keeps and what `State.bootEntry` sets. -/
theorem powerOnReset : Obligations.PowerOnReset := by
  unfold Obligations.PowerOnReset
  intro s sideB strap
  refine ⟨?assert, fun hlow => ?release, fun hhigh => congrArg Host.Outcome.next (if_pos (by simp [hhigh])), rfl, rfl⟩
  case assert =>
    obtain ⟨t, hrun, hdev, hstart, hsaf, hjobs, hout⟩ := porstNAssert_holds s
    refine ⟨t, hrun, ?_, ?_, hsaf, ?_, ?_, ?_, ?_, hjobs, hout⟩
    · rw [hdev]; rfl
    · rw [hstart]; rfl
    · rw [hstart]; rfl
    · rw [hstart]; rfl
    · rw [hstart]; rfl
    · rw [hdev]; rfl
  case release =>
    refine ⟨_, porstNRelease_of_low hlow sideB strap, ?_⟩
    obtain ⟨hdev, hstart, hsaf, hout⟩ := State.bootEntry_parts
      { s.porKeep with dev := { s.porKeep.dev with sideB := sideB }, start := { s.porKeep.start with strapBoot := strap % 4, porLow := false } }
      .off false
    refine ⟨?_, ?_, ?_, ?_, hsaf, ?_, hout⟩
    · rw [hdev]
    · rw [hdev]
    · rw [hstart]
    · rw [hstart]
    · rw [hstart]; rfl

end Sys2Proof.Machine
end

