-- ==== Sys2Proof/Proofs/Power/PowerDomains.lean ====
section
/-! PROOFS. Power domains (R409 to R411, R460). -/

namespace Sys2Proof.Machine

open Sys2Proof

/-! ### A domain after an update -/

theorem State.domain_modDomain_same {s : State} {d : Nat} (f : Domain → Domain) (hlo : 1 ≤ d) (hhi : d ≤ s.pwr.domains.length) :
    (s.modDomain d f).domain d = f (s.domain d) := by
  unfold State.domain State.modDomain
  exact (updAt_getD ..).trans (if_pos ⟨rfl, by omega⟩)

theorem State.domain_modDomain_ne {s : State} {d n : Nat} (f : Domain → Domain) (hd : 1 ≤ d) (hn : 1 ≤ n) (hne : n ≠ d) :
    (s.modDomain d f).domain n = s.domain n := by
  unfold State.domain State.modDomain
  exact (updAt_getD ..).trans (if_neg (by omega))

theorem State.domain_of_pwr {s t : State} (h : t.pwr = s.pwr) (d : Nat) : t.domain d = s.domain d := congrArg (·.domains.getD (d - 1) {}) h

/-- A domain that waits is on the list. -/
theorem State.domain_le_of_wantUp {s : State} {d : Nat} (h : (s.domain d).wantUp = true) : d ≤ s.pwr.domains.length := by
  refine Decidable.byContradiction fun hlt => ?_
  have hnone : s.domain d = {} := getD_of_le _ (by omega)
  rw [hnone] at h
  cases h

/-! ### UP -/

/-- The wait between the starts of two domains. -/
def State.afterLastUp (s : State) : State := s.pwr.lastUp.elim s (fun t => s.advanceTo (t + 20000))

theorem State.afterLastUp_spec (s : State) : s.afterLastUp.pwr = s.pwr ∧ ∀ u, s.pwr.lastUp = some u → u + 20000 ≤ s.afterLastUp.now := by
  unfold State.afterLastUp
  cases h : s.pwr.lastUp with
  | none => exact ⟨rfl, fun _ hu => nomatch hu⟩
  | some t =>
    refine ⟨s.advanceTo_part (·.pwr) (fun _ _ => rfl) _, fun u hu => ?_⟩
    cases hu
    exact s.le_advanceTo_now _

theorem exec_domainUpStart {s w : State} {d : Nat} (hw : w = s.powerSync.upRequests)
    (hd : ((List.range 50).map (· + 1)).find? (fun n => (w.domain n).wantUp && (w.domain n).st == 0 && !w.testBlocks n) = some d) :
    exec .domainUpStart s = .next
      ((w.afterLastUp.modDomain d (fun x => { x with st := 1, wantUp := false, since := w.afterLastUp.now })).modPwr
        (fun p => { p with lastUp := some w.afterLastUp.now })) := by
  change execDomainUpStart s = _
  unfold execDomainUpStart
  rw [← hw]
  dsimp only
  rw [hd]
  unfold State.afterLastUp
  cases w.pwr.lastUp <;> rfl

/-- A step of the calibration touches the start-up's own records only. -/
theorem foldl_calRun_pwr_tim (f : Nat → Bool) (l : List Nat) (s : State) :
    (l.foldl (fun s k => s.calRun k (f k)) s).pwr = s.pwr ∧ (l.foldl (fun s k => s.calRun k (f k)) s).tim = s.tim := by
  induction l generalizing s with
  | nil => exact ⟨rfl, rfl⟩
  | cons k l ih => exact ih (s.calRun k (f k))

section Complete
variable {s : State} {d : Nat}

/-- The state of a domain whose UP has ended. -/
def Domain.risen (now : Nat) (x : Domain) : Domain :=
  if x.held = some false then { x with st := 3, held := none, since := now } else { x with st := 2, held := none, since := now }

theorem Domain.risen_st (now : Nat) (x : Domain) : (x.risen now).st = (if x.held = some false then 3 else 2) ∧ (x.risen now).held = none := by
  unfold Domain.risen
  split <;> exact ⟨rfl, rfl⟩

theorem domainUpComplete_of_good (fail : Nat) (hst : (s.domain d).st = 1) (hlate : s.domainLate d = false) (hgood : (upSteps d).contains fail = false) :
    exec (.domainUpComplete d fail) s = .next
      (let u := (upSteps d).foldl (fun s k => s.calRun k (k != fail)) s
       let v := u.modDomain d (fun x => x.risen u.now)
       if d = 31 then v.monBegin (if v.tim.monState = 2 then 5 else 4) else v) := by
  change execDomainUpComplete d fail s = _
  unfold execDomainUpComplete
  rw [if_neg (by rw [hst]; exact fun h => h rfl), if_neg (by rw [hlate]; exact Bool.false_ne_true)]
  dsimp only
  rw [hgood]
  rfl

theorem domainUpComplete_of_bad {fail : Nat} (hst : (s.domain d).st = 1) (hlate : s.domainLate d = false)
    (hbad : (upSteps d).contains fail = true) (h4 : fail ≠ 4) (h5 : fail ≠ 5) (h8 : fail ≠ 8) :
    exec (.domainUpComplete d fail) s = .next
      (((((upSteps d).foldl (fun s k => s.calRun k (k != fail)) s).calFail fail d (if domainCritical d then 5 else 1)).pwrDomain d 1).failDomain d) := by
  have h4' : (fail != 4) = true := bne_iff_ne.2 h4
  have h5' : (fail != 5) = true := bne_iff_ne.2 h5
  have h8' : (fail != 8) = true := bne_iff_ne.2 h8
  have h45 : ¬ (fail = 4 ∨ fail = 5) := by omega
  change execDomainUpComplete d fail s = _
  unfold execDomainUpComplete
  rw [if_neg (by rw [hst]; exact fun h => h rfl), if_neg (by rw [hlate]; exact Bool.false_ne_true)]
  dsimp only
  rw [hbad, h4', h5', h8', if_neg h45]
  rfl

/-- Steps 4, 5 and 8 belong to domains other than the monitor's. -/
theorem upSteps_31 {fail : Nat} (hbad : (upSteps d).contains fail = true) (h : fail = 4 ∨ fail = 5 ∨ fail = 8) : d ≠ 31 := by
  intro he
  rw [he, List.contains_iff_mem] at hbad
  have hmem : fail ∈ [1, 7] := hbad
  simp only [List.mem_cons, List.not_mem_nil, or_false] at hmem
  omega

theorem domainUpComplete_of_spared {fail : Nat} (hst : (s.domain d).st = 1) (hlate : s.domainLate d = false)
    (hbad : (upSteps d).contains fail = true) (h : fail = 4 ∨ fail = 5 ∨ fail = 8) :
    exec (.domainUpComplete d fail) s = .next
      (let u := ((upSteps d).foldl (fun s k => s.calRun k (k != fail)) s).calFail fail d (if fail = 8 then 1 else 3)
       let w := if fail = 8 then u.stopSelfTest 4 3 else u
       w.modDomain d (fun x => x.risen w.now)) := by
  have hne := upSteps_31 hbad h
  change execDomainUpComplete d fail s = _
  unfold execDomainUpComplete
  rw [if_neg (by rw [hst]; exact fun h => h rfl), if_neg (by rw [hlate]; exact Bool.false_ne_true)]
  dsimp only
  rw [hbad, if_neg hne]
  obtain rfl | rfl | rfl := h <;> rfl

theorem domainTransitionTimeout_of_max {m : Nat} (hst : (s.domain d).st = 1 ∨ (s.domain d).st = 3)
    (hm : (if (s.domain d).st = 1 then upMax d else downMax d) = some m) :
    exec (.domainTransitionTimeout d) s = .next (((s.advanceTo ((s.domain d).since + m + 1)).pwrDomain d
      (if (s.domain d).st = 1 then 1 else 2)).failDomain d) := by
  have hsame := State.domain_of_pwr (s.advanceTo_part (·.pwr) (fun _ _ => rfl) ((s.domain d).since + m + 1)) d
  change execDomainTransitionTimeout d s = _
  unfold execDomainTransitionTimeout State.domainTimeout
  dsimp only
  rw [if_neg (by omega), hm]
  dsimp only
  rw [hsame]

end Complete

/-- Settles O34, by the branch of each transition that the state of its domain selects. -/
theorem powerDomains : Obligations.PowerDomains := by
  unfold Obligations.PowerDomains
  intro s d fail hd
  refine ⟨fun w hw hnext => ?upStart, fun hst hlate hgood hin => ?upGood,
    fun hst hlate hbad h4 h5 h8 => domainUpComplete_of_bad hst hlate hbad h4 h5 h8, fun hst hlate hbad h => domainUpComplete_of_spared hst hlate hbad h,
    fun hst hlate => ?upLate, fun hst hlate => ?downLate, fun hst hlate => ?down, fun m hst hm => ?upTimeout, fun m hst hm => ?downTimeout⟩
  case upStart =>
    have hwant : (w.domain d).wantUp = true := by
      have h := List.find?_some hnext
      simp only [Bool.and_eq_true] at h
      obtain ⟨⟨hwant, -⟩, -⟩ := h
      exact hwant
    obtain ⟨hpwr, hnow⟩ := w.afterLastUp_spec
    refine ⟨_, exec_domainUpStart hw hnext, ?_⟩
    generalize w.afterLastUp = u at hpwr hnow
    have hin : d ≤ u.pwr.domains.length := by
      rw [hpwr]
      exact State.domain_le_of_wantUp hwant
    have hsame := State.domain_modDomain_same (s := u) (fun x => { x with st := 1, wantUp := false, since := u.now }) hd hin
    exact ⟨congrArg Domain.st hsame, congrArg Domain.wantUp hsame, rfl, hnow⟩
  case upGood =>
    obtain ⟨hpwr, htim⟩ := foldl_calRun_pwr_tim (fun k => k != fail) (upSteps d) s
    have hrun := domainUpComplete_of_good fail hst hlate hgood
    generalize (upSteps d).foldl (fun s k => s.calRun k (k != fail)) s = u at hpwr htim hrun
    have hdomain := State.domain_of_pwr hpwr
    have hsame := State.domain_modDomain_same (s := u) (fun x => x.risen u.now) hd (by rw [hpwr]; exact hin)
    rw [hdomain] at hsame
    obtain ⟨hrisen, hheld⟩ := Domain.risen_st u.now (s.domain d)
    refine ⟨u.modDomain d (fun x => x.risen u.now), ?_, (congrArg Domain.st hsame).trans hrisen, (congrArg Domain.held hsame).trans hheld, fun n hn hne => ?_⟩
    · rw [← htim]
      exact hrun
    · exact (State.domain_modDomain_ne _ hd hn hne).trans (hdomain n)
  case upLate =>
    refine congrArg Host.Outcome.next ((if_neg (Classical.not_not.2 hst)).trans ((if_pos hlate).trans ?_))
    exact congrArg (fun what => (s.pwrDomain d what).failDomain d) (if_pos hst)
  case downLate =>
    refine congrArg Host.Outcome.next ((if_neg (Classical.not_not.2 hst)).trans ((if_pos hlate).trans ?_))
    exact congrArg (fun what => (s.pwrDomain d what).failDomain d) (if_neg (by rw [hst]; decide))
  case down =>
    exact congrArg Host.Outcome.next ((if_neg (Classical.not_not.2 hst)).trans (if_neg (by rw [hlate]; exact Bool.false_ne_true)))
  case upTimeout =>
    have hrun := domainTransitionTimeout_of_max (.inl hst) ((if_pos hst).trans hm)
    rwa [if_pos hst] at hrun
  case downTimeout =>
    have hne : (s.domain d).st ≠ 1 := by omega
    have hrun := domainTransitionTimeout_of_max (.inr hst) ((if_neg hne).trans hm)
    rwa [if_neg hne] at hrun

end Sys2Proof.Machine
end

