-- ==== Sys2Proof/Proofs/Power/PowerLoop.lean ====
section
/-! PROOFS. The voltage loop, telemetry, thermal samples (R414 to R422). -/

namespace Sys2Proof.Machine

open Sys2Proof

/-! ### The voltage loop -/

theorem State.avsNext_avsAt (s : State) (at_ : Nat) (errors : Reg) :
    (s.modPwr (fun p => { p with avsAt := at_, pmbErrors := errors })).avsNext = s.avsNext := rfl

/-- A period of the loop: its time and its errors, and the loop's inputs as they were. -/
theorem State.avsWait_spec (s : State) (period : Nat) (r : PmbRead) :
    s.pwr.avsAt + period ≤ (s.avsWait period r).now ∧ (s.avsWait period r).pwr.v = s.pwr.v ∧ (s.avsWait period r).pwr.frozen = s.pwr.frozen ∧
      (s.avsWait period r).avsNext = s.avsNext := by
  have hnow := s.le_advanceTo_now (s.pwr.avsAt + period)
  have hpwr := s.advanceTo_part (·.pwr) (fun _ _ => rfl) (s.pwr.avsAt + period)
  have hloop := s.advanceTo_part (·.avsNext) (fun _ _ => rfl) (s.pwr.avsAt + period)
  unfold State.avsWait
  generalize s.advanceTo (s.pwr.avsAt + period) = u at hnow hpwr hloop
  have hv : u.pwr.v = s.pwr.v := congrArg Pwr.v hpwr
  have hfrozen : u.pwr.frozen = s.pwr.frozen := congrArg Pwr.frozen hpwr
  dsimp only [State.modPwr_pwr]
  exact ⟨Nat.le_trans hnow (Nat.le_of_eq (State.now_of_time (State.modPwr_time ..)).symm), hv, hfrozen, (State.avsNext_avsAt u u.now _).trans hloop⟩

theorem State.pwrAvs_pwr_now (s : State) (cause addr status : Nat) :
    (s.pwrAvs cause addr status).pwr = s.pwr ∧ (s.pwrAvs cause addr status).now = s.now :=
  ⟨State.raise_part (·.pwr) (fun _ => rfl) .., State.raise_now ..⟩

theorem State.avsRead_spec (s : State) (r : PmbRead) :
    (s.avsRead r).pwr.v = s.pwr.v ∧ (s.avsRead r).pwr.vRead = r.vout ∧ (s.avsRead r).pwr.frozen = s.pwr.frozen ∧ (s.avsRead r).now = s.now := by
  unfold State.avsRead
  extract_lets u
  split
  · obtain ⟨hpwr, hnow⟩ := u.pwrAvs_pwr_now 4 u.avsAddr r.status
    have hv : (u.pwrAvs 4 u.avsAddr r.status).pwr.v = u.pwr.v := congrArg Pwr.v hpwr
    have hfrozen : (u.pwrAvs 4 u.avsAddr r.status).pwr.frozen = u.pwr.frozen := congrArg Pwr.frozen hpwr
    exact ⟨hv, congrArg Pwr.vRead hpwr, hfrozen, hnow⟩
  · exact ⟨rfl, rfl, rfl, rfl⟩

theorem State.avsFreeze_spec (s : State) (r : PmbRead) : (s.avsFreeze r).pwr = { s.pwr with frozen := true } :=
  ((s.modPwr (fun p => { p with frozen := true })).pwrAvs_pwr_now ..).1

theorem clampN_bounds {lo hi : Nat} (h : lo ≤ hi) (x : Nat) : lo ≤ clampN x lo hi ∧ clampN x lo hi ≤ hi := by
  unfold clampN
  split
  · omega
  · split <;> omega

theorem State.avsFloor_le_avsCeiling (s : State) : s.avsFloor ≤ s.avsCeiling := Nat.min_le_right ..

theorem State.avsNext_bounds (s : State) : s.avsFloor ≤ s.avsNext ∧ s.avsNext ≤ s.avsCeiling := by
  have hle := s.avsFloor_le_avsCeiling
  unfold State.avsNext
  extract_lets c f p t
  split
  · exact ⟨(Nat.le_refl _), hle⟩
  · split
    · exact ⟨hle, (Nat.le_refl _)⟩
    · exact clampN_bounds hle _

section Loop
variable {s : State} {r : PmbRead} (hruns : s.avsRuns = true)
include hruns

theorem avsTick_of_good (hfrozen : s.pwr.frozen = false) (hgood : pmbDead r.fail r.times = false) (hformat : r.linear16 = true) :
    exec (.avsTick r) s = .next (let u := s.avsWait (s.pget 0x13000006 * 1000) r
      let v := u.modPwr (fun p => { p with v := u.avsNext })
      (v.emit (.pmbus v.avsAddr 0x21 v.pwr.v)).avsRead r) :=
  congrArg Host.Outcome.next ((if_neg (by simp [hruns, hfrozen])).trans (if_neg (by simp [hgood, hformat])))

theorem avsTick_of_bad (hfrozen : s.pwr.frozen = false) (hbad : pmbDead r.fail r.times = true ∨ r.linear16 = false) :
    exec (.avsTick r) s = .next ((s.avsWait (s.pget 0x13000006 * 1000) r).avsFreeze r) :=
  congrArg Host.Outcome.next ((if_neg (by simp [hruns, hfrozen])).trans (if_pos (by simpa using hbad)))

theorem avsRetry_of_good (hfrozen : s.pwr.frozen = true) (hgood : pmbDead r.fail r.times = false) (hformat : r.linear16 = true) :
    exec (.avsRetry r) s = .next (((s.avsWait 1000000000 r).modPwr (fun p => { p with frozen := false })).avsRead r) :=
  congrArg Host.Outcome.next ((if_neg (by simp [hruns, hfrozen])).trans (if_neg (by simp [hgood, hformat])))

theorem avsRetry_of_bad (hfrozen : s.pwr.frozen = true) (hbad : pmbDead r.fail r.times = true ∨ r.linear16 = false) :
    exec (.avsRetry r) s = .next ((s.avsWait 1000000000 r).avsFreeze r) :=
  congrArg Host.Outcome.next ((if_neg (by simp [hruns, hfrozen])).trans (if_pos (by simpa using hbad)))

end Loop

/-! ### Telemetry -/

theorem State.teleOne_of_good {s : State} {k : Nat} {r : PmbRail} (hgood : pmbDead r.fail r.times = false) (haddr : s.teleAddr k ≠ 0) :
    (s.teleOne k r).pwr.rails =
      updAt s.pwr.rails k (fun _ => { mv := r.mv, cur := r.cur, temp := r.temp, status := r.status, t := some s.now }) := by
  unfold State.teleOne
  extract_lets a u
  have hu : u.pwr.rails = s.pwr.rails ∧ u.now = s.now := by
    simp only [u]
    split <;> exact ⟨rfl, rfl⟩
  obtain ⟨hrails, hnow⟩ := hu
  rw [if_neg haddr, if_neg (by rw [hgood]; exact Bool.false_ne_true), ← hrails, ← hnow]
  rfl

theorem teleOne_rail {s : State} {k : Nat} {r : PmbRail} (hgood : pmbDead r.fail r.times = false) (haddr : s.teleAddr k ≠ 0)
    (hk : k < s.pwr.rails.length) :
    (s.teleOne k r).pwr.rails.getD k {} = { mv := r.mv, cur := r.cur, temp := r.temp, status := r.status, t := some s.now } ∧
      ∀ m, m ≠ k → (s.teleOne k r).pwr.rails.getD m {} = s.pwr.rails.getD m {} := by
  rw [State.teleOne_of_good hgood haddr]
  exact ⟨(updAt_getD ..).trans (if_pos ⟨rfl, hk⟩), fun m hm => (updAt_getD ..).trans (if_neg fun h => hm h.1.symm)⟩

/-! ### Thermal samples -/

theorem State.trip_spec (s : State) : s.trip.pwr.tripLow = true ∧ s.trip.pwr.sensors = s.pwr.sensors ∧ s.trip.pwr.level = s.pwr.level ∧
    s.trip.dev = s.dev ∧ s.trip.start = s.start := by
  unfold State.trip
  split
  · exact ⟨‹_›, rfl, rfl, rfl, rfl⟩
  · exact ⟨rfl, rfl, rfl, rfl, rfl⟩

/-- The readings that OFF keeps. -/
def offSensors (temps : List Int) (xs : List Sensor) : List Sensor :=
  (List.range 32).map (fun n =>
    let x := xs.getD n {}
    match temps[n]? with
    | some t => { x with t := t, hot := decide ((120 : Int) ≤ t) }
    | none => x)

theorem offSensors_t {temps : List Int} {n : Nat} (hn : n < 32) (hlen : temps.length = 32) (xs : List Sensor) :
    ((offSensors temps xs).getD n {}).t = temps.getD n 0 := by
  have hsome : temps[n]? = some temps[n] := List.getElem?_eq_getElem (by omega)
  simp [offSensors, List.getD, hn, hsome]

/-- A thermal sample before its readings are taken: its time, and the pin where a sensor was hot twice. -/
def State.thermTimed (u : State) (temps : List Int) : State :=
  let v := u.modPwr (fun p => { p with thermAt := u.now })
  if hotTwice v.pwr.sensors temps then v.trip else v

theorem State.thermTimed_spec (u : State) (temps : List Int) : (u.thermTimed temps).pwr.sensors = u.pwr.sensors ∧
    (u.thermTimed temps).pwr.level = u.pwr.level ∧ (u.thermTimed temps).dev = u.dev ∧ (u.thermTimed temps).start = u.start := by
  unfold State.thermTimed
  extract_lets v
  split
  · obtain ⟨-, hrest⟩ := v.trip_spec
    exact hrest
  · exact ⟨rfl, rfl, rfl, rfl⟩

theorem thermalSample_off {s u : State} {temps : List Int} (hu : s.advanceTo (s.pwr.thermAt + 1000000) = u)
    (hoff : (u.thermTimed (temps.take 32)).dev.state = .off) :
    exec (.thermalSample temps) s = .next (((u.thermTimed (temps.take 32)).modPwr
      (fun p => { p with sensors := offSensors (temps.take 32) p.sensors })).takeTmax) := by
  change execThermalSample temps s = _
  unfold execThermalSample
  rw [hu]
  exact congrArg Host.Outcome.next (if_pos (by rw [← State.thermTimed, hoff]; rfl))

theorem thermalSample_on {s u : State} {temps : List Int} (hu : s.advanceTo (s.pwr.thermAt + 1000000) = u)
    (hon : (u.thermTimed (temps.take 32)).dev.state ≠ .off) :
    exec (.thermalSample temps) s = .next (
      let v := u.thermTimed (temps.take 32)
      let first := v.dev.state == .boot && (v.start.cal.getD 1 {}).result == 0
      let x := (if first then v.calRun 2 true else v)
      let y := x.sensorAll (temps.take 32) first 0 (temps.take 32)
      let w := (if 2 ≤ y.pwr.level then y.modPwr (fun p => { p with throttleMs := p.throttleMs + 1 }) else y).thermalUpdate
      if countP (fun x => x.excluded) x.pwr.sensors < 4 ∧ 4 ≤ countP (fun x => x.excluded) w.pwr.sensors then w.safeByFault else w) := by
  change execThermalSample temps s = _
  unfold execThermalSample
  rw [hu]
  exact congrArg Host.Outcome.next (if_neg (by rw [← State.thermTimed]; simpa using hon))

/-- The sample after the start, from the sensors as they stood before it. -/
theorem thermalSample_running {s u₁ : State} {temps : List Int} (hu : s.advanceTo (s.pwr.thermAt + 1000000) = u₁) (hon : s.dev.state ≠ .off) :
    let u₀ := u₁.modPwr (fun p => { p with thermAt := u₁.now })
    let first := s.dev.state == .boot && (s.start.cal.getD 1 {}).result == 0
    let v := if hotTwice s.pwr.sensors (temps.take 32) then u₀.trip else u₀
    let u := (if first then v.calRun 2 true else v).sensorAll (temps.take 32) first 0 (temps.take 32)
    let w := (if 2 ≤ u.pwr.level then u.modPwr (fun p => { p with throttleMs := p.throttleMs + 1 }) else u).thermalUpdate
    exec (.thermalSample temps) s = .next (
      if countP (fun x => x.excluded) s.pwr.sensors < 4 ∧ 4 ≤ countP (fun x => x.excluded) w.pwr.sensors then w.safeByFault else w) := by
  have hexec := thermalSample_on (temps := temps) hu
  have hpwr : u₁.pwr = s.pwr := hu ▸ s.advanceTo_part (·.pwr) (fun _ _ => rfl) _
  have hdev : u₁.dev = s.dev := hu ▸ s.advanceTo_part (·.dev) (fun _ _ => rfl) _
  have hstart : u₁.start = s.start := hu ▸ s.advanceTo_part (·.start) (fun _ _ => rfl) _
  clear hu
  obtain ⟨hsensors, -, hdev', hstart'⟩ := u₁.thermTimed_spec (temps.take 32)
  have htimed : u₁.thermTimed (temps.take 32) = if hotTwice s.pwr.sensors (temps.take 32) then
      (u₁.modPwr (fun p => { p with thermAt := u₁.now })).trip else u₁.modPwr (fun p => { p with thermAt := u₁.now }) := by
    rw [← hpwr]
    rfl
  intro u₀ first
  rw [← htimed]
  generalize u₁.thermTimed (temps.take 32) = v at hexec hsensors hdev' hstart'
  have hfirst : (v.dev.state == .boot && (v.start.cal.getD 1 {}).result == 0) = first := by rw [hdev', hstart', hdev, hstart]
  have hcount : (if first then v.calRun 2 true else v).pwr.sensors = s.pwr.sensors := by
    rw [← hpwr, ← hsensors]
    split <;> rfl
  have hrun := hexec (by rw [hdev', hdev]; exact hon)
  dsimp only at hrun
  rw [hfirst, hcount] at hrun
  exact hrun

theorem thermalSample_in_off {s : State} {temps : List Int} {n : Nat} (hoff : s.dev.state = .off) (hlen : temps.length = 32) (hn : n < 32) :
    ∃ t, exec (.thermalSample temps) s = .next t ∧ (t.pwr.sensors.getD n {}).t = temps.getD n 0 ∧ t.pwr.level = s.pwr.level ∧
      t.pwr.tmax = t.tempMax.1 ∧ t.dev = s.dev := by
  have hrun (u : State) := thermalSample_off (s := s) (u := u) (temps := temps)
  have hpwr := s.advanceTo_part (·.pwr) (fun _ _ => rfl) (s.pwr.thermAt + 1000000)
  have hdev := s.advanceTo_part (·.dev) (fun _ _ => rfl) (s.pwr.thermAt + 1000000)
  generalize s.advanceTo (s.pwr.thermAt + 1000000) = u at hrun hpwr hdev
  rw [List.take_of_length_le (by omega)] at hrun
  obtain ⟨-, hlevel, hdev', -⟩ := u.thermTimed_spec temps
  have hexec := hrun u rfl (by rw [hdev', hdev]; exact hoff)
  generalize u.thermTimed temps = v at hlevel hdev' hexec
  exact ⟨_, hexec, offSensors_t hn hlen v.pwr.sensors, hlevel.trans (congrArg Pwr.level hpwr), rfl, hdev'.trans hdev⟩

/-- Settles O33, by the branch of each tick that its guards select, and the bounds of `clampN`. -/
theorem powerRegulation : Obligations.PowerRegulation := by
  unfold Obligations.PowerRegulation
  refine ⟨fun s r status => ⟨fun hruns hfrozen hgood hformat => ?tick, fun hruns hfrozen hbad => ?freeze, fun hruns hfrozen hgood hformat => ?thaw,
    fun hruns hfrozen hbad => avsRetry_of_bad hruns hfrozen hbad, fun hon => congrArg Host.Outcome.next (if_neg (by simpa using hon))⟩,
    fun s reads temps n k r => ⟨fun hon => congrArg Host.Outcome.next (if_neg (by simpa using hon)), teleOne_rail,
      thermalSample_in_off, fun hon => thermalSample_running rfl hon, fun hstate hreason => ⟨?trip, (State.trip_spec _).1⟩,
      fun hon => congrArg Host.Outcome.next (if_neg (by simpa using hon))⟩⟩
  case tick =>
    obtain ⟨hnow, hv, hfrozen', hnext⟩ := s.avsWait_spec (s.pget 0x13000006 * 1000) r
    obtain ⟨hlo, hhi⟩ := s.avsNext_bounds
    refine ⟨_, avsTick_of_good hruns hfrozen hgood hformat, ?_⟩
    generalize s.avsWait (s.pget 0x13000006 * 1000) r = u at hnow hv hfrozen' hnext
    dsimp only
    generalize hv' : u.modPwr (fun p => { p with v := u.avsNext }) = v
    have hvolt : v.pwr.v = u.avsNext := by rw [← hv', State.modPwr_pwr]
    have hvfrozen : v.pwr.frozen = u.pwr.frozen := by rw [← hv', State.modPwr_pwr]
    have hvnow : v.now = u.now := by rw [← hv']; exact State.now_of_time (State.modPwr_time ..)
    obtain ⟨htv, hread, htfrozen, htime⟩ := (v.emit (.pmbus v.avsAddr 0x21 v.pwr.v)).avsRead_spec r
    replace htime := (htime.trans (State.now_of_time (State.emit_time ..))).trans hvnow
    have hvnext := (htv.trans hvolt).trans hnext
    exact ⟨Nat.le_trans hnow (Nat.le_of_eq htime.symm), hvnext, Nat.le_trans hlo (Nat.le_of_eq hvnext.symm), Nat.le_trans (Nat.le_of_eq hvnext) hhi, hread, htfrozen.trans (hvfrozen.trans (hfrozen'.trans hfrozen))⟩
  case freeze =>
    obtain ⟨-, hv, -⟩ := s.avsWait_spec (s.pget 0x13000006 * 1000) r
    have hpwr := (s.avsWait (s.pget 0x13000006 * 1000) r).avsFreeze_spec r
    refine ⟨_, avsTick_of_bad hruns hfrozen hbad, rfl, ?_, ?_⟩
    · rw [hpwr]
    · rw [hpwr]
      exact hv
  case thaw =>
    obtain ⟨-, hv, -⟩ := s.avsWait_spec 1000000000 r
    refine ⟨_, avsRetry_of_good hruns hfrozen hgood hformat, ?_⟩
    generalize s.avsWait 1000000000 r = u at hv
    obtain ⟨htv, hread, htfrozen, -⟩ := (u.modPwr (fun p => { p with frozen := false })).avsRead_spec r
    exact ⟨htfrozen, htv.trans hv, hread⟩
  case trip => exact congrArg Host.Outcome.next (if_pos (by simp [hstate, hreason]))

end Sys2Proof.Machine
end

