-- ==== Sys2Proof/Proofs/Memory/MemPasses.lean ====
section
/-! PROOFS. Set points, retraining and training passes of the in-package memory (R335, R341 to R344). -/

namespace Sys2Proof.Machine

open Sys2Proof Sys2Proof.Safety

/-! ### Commands -/

section Bodies
variable {c : Cmd} {s : State} (hok : c.okBits 1 1 = true) (hnone : s.mem.request = none)
  (hstate : c.f 1 0 0 = 1 → s.dev.state = .blanket ∨ s.dev.state = .parasol)
include hok hnone hstate

theorem memSetpointBody_of_admitted : memSetpointBody c s =
    if c.f 1 0 0 = s.mem.setpoint then answer s []
    else if s.noSetting (c.f 1 0 0) then refuse s stNoResource
    else accept (s.modMem (fun m => { m with request := some { target := c.f 1 0 0, requester := 1, t0 := s.now } })) .memSetpoint := by
  have hmode : ¬ (c.f 1 0 0 = 1 ∧ s.dev.state ≠ .blanket ∧ s.dev.state ≠ .parasol) := fun ⟨h1, hb, hp⟩ => (hstate h1).elim hb hp
  exact (if_neg (okBits_refused hok)).trans ((if_neg hmode).trans (if_neg (by simp [hnone])))

theorem memSetpointBody_in_force (h : c.f 1 0 0 = s.mem.setpoint) : memSetpointBody c s = answer s [] :=
  (memSetpointBody_of_admitted hok hnone hstate).trans (if_pos h)

theorem memSetpointBody_other (h : c.f 1 0 0 ≠ s.mem.setpoint) (hset : s.noSetting (c.f 1 0 0) = false) :
    memSetpointBody c s = accept { s with mem := { s.mem with request := some { target := c.f 1 0 0, requester := 1, t0 := s.now } } } .memSetpoint :=
  (memSetpointBody_of_admitted hok hnone hstate).trans ((if_neg h).trans (if_neg (by simp [hset])))

end Bodies

theorem memRetrainBody_of_trained {c : Cmd} {s : State} (hok : c.okBits 1 (mask 4 0) = true) (h0 : (s.chan (c.f 1 4 0)).state ≠ 0)
    (h3 : (s.chan (c.f 1 4 0)).state ≠ 3) (hstate : s.dev.state ≠ .parasol) (hruns : (s.chan (c.f 1 4 0)).fullRuns = false)
    (hnone : s.mem.request = none) : memRetrainBody c s = accept s (.memRetrain (c.f 1 4 0)) :=
  (if_neg (okBits_refused hok)).trans ((if_neg h3).trans ((if_neg hstate).trans (if_neg (by simp [hruns, h0, hnone]))))

/-! ### Passes -/

theorem updAt_updAt {α : Type} (f g : α → α) : ∀ (l : List α) (n : Nat), updAt (updAt l n f) n g = updAt l n (fun x => g (f x))
  | [], _ => rfl
  | _ :: _, 0 => rfl
  | a :: l, n + 1 => congrArg (a :: ·) (updAt_updAt f g l n)

/-- Two updates of a channel are one. -/
theorem State.modChan_modChan (s : State) (ch : Nat) (f g : MemChan → MemChan) :
    (s.modChan ch f).modChan ch g = s.modChan ch (fun c => g (f c)) :=
  congrArg (fun l => ({ s with mem := { s.mem with chans := l } } : State)) (updAt_updAt f g s.mem.chans ch)

theorem State.chan_of_mem {s t : State} (h : t.mem = s.mem) (ch : Nat) : t.chan ch = s.chan ch := congrArg (·.chans.getD ch {}) h

theorem exec_trackingPassTimer {s u : State} {ch : Nat} (hu : s.advanceTo ((s.chan ch).trackAt + s.pget 0x0D000006 * 1000000) = u)
    (hin : ch < u.mem.chans.length) (hst : (s.chan ch).state = 1) (hpass : (u.chan ch).pass = none) (hreq : u.mem.request = none)
    (hself : s.mem.selfRefresh = false) (hdev : s.dev.state ≠ .off) :
    exec (.trackingPassTimer ch) s = .next (u.modChan ch (fun c => { c with
      trackAt := u.now, tracks := c.tracks + 1
      pass := some { kind := 0, other := (c.tracks.toNat + 1) % 16 == 0, steps := 0, cause := 0 } })) := by
  have hidle : ((u.modChan ch (fun c => { c with trackAt := u.now })).chan ch).pass = none := by
    rw [State.chan_modChan_same _ _ _ hin]
    exact hpass
  change execTrackingPassTimer ch s = _
  unfold execTrackingPassTimer
  rw [if_neg (by simp [hst, hself, hdev]), hu]
  dsimp only
  rw [if_neg (by rw [hidle]; simp [hreq]), State.modChan_modChan]

/-- The state after a long stall of a step of a pass. -/
def State.stepped (s : State) (ch : Nat) (p : MemPass) : State :=
  (s.modMem (fun m => { m with stalls := m.stalls + 1 })).modChan ch (fun c => closeRows { c with pass := some { p with steps := p.steps + 1 } })

theorem trainingStep_of_fits {s : State} {ch ns : Nat} {p : MemPass} (hpass : (s.chan ch).pass = some p) (hself : s.mem.selfRefresh = false)
    (hfits : s.stallFits ns = true) (hsteps : p.steps < (if p.kind = 0 then 8 else 2048)) (done : Option TrainMargins) :
    exec (.trainingStep ch ns done) s = .next (done.elim (s.stepped ch p)
      (fun m => if p.kind = 0 then (s.stepped ch p).trackDone ch p (marginsOf m) else s.stepped ch p)) := by
  change execTrainingStep ch ns done s = _
  unfold execTrainingStep
  rw [hpass]
  dsimp only
  rw [if_neg (by rw [hself, hfits, decide_eq_false (Nat.not_le.2 hsteps)]; decide)]
  cases done <;> rfl

theorem trainingStep_of_no_fit {s : State} {ch ns : Nat} (hfits : s.stallFits ns = false) : exec (.trainingStep ch ns none) s = .next s := by
  change execTrainingStep ch ns none s = _
  unfold execTrainingStep
  cases (s.chan ch).pass with
  | none => rfl
  | some p => exact congrArg Host.Outcome.next (if_pos (by simp [hfits]))

theorem State.stallFits_iff (s : State) (ns : Nat) :
    s.stallFits ns = true ↔ ns + 10000 ≤ s.tim.ltrNow ∧ s.now + ns < s.mem.refreshAt + s.mem.refi := by
  simp [State.stallFits]

theorem State.memRetrainEvent_mem (s : State) (ch what cause : Nat) : (s.memRetrainEvent ch what cause).mem = s.mem :=
  State.raise_part (·.mem) (fun _ => rfl) ..

theorem State.endJobs_mem (s : State) (ids : List Nat) (status : Nat) : (s.endJobs ids status).mem = s.mem :=
  State.congr_restJobs (·.mem) (fun _ => rfl) (State.endJobs_restJobs ids status s)

theorem State.setpointEvent_mem (s : State) (r : SpRequest) (what : Nat) : (s.setpointEvent r what).mem = s.mem :=
  State.raise_part (·.mem) (fun _ => rfl) ..

/-- The end of a request, reported. -/
theorem State.setpointEnd_mem (s : State) (r : SpRequest) (what status : Nat) :
    ((s.setpointEvent r what).endSetpointJob status).mem = s.mem := (State.endJobs_mem ..).trans (State.setpointEvent_mem ..)

section FullEnd
variable {s : State} {ch : Nat} {m0 m1 : TrainMargins} {p : MemPass} (hpass : (s.chan ch).pass = some p) (hkind : p.kind = 1)
include hpass hkind

theorem fullRetrainingEnd_of_bad (hbad : (if s.mem.setpoint = 0 then m0.ok else m1.ok) = false) :
    exec (.fullRetrainingEnd ch m0 m1) s = .next ((((s.modChan ch (fun c => { c with
      pass := none, fulls := c.fulls + 1, lastFull := s.now })).failChannel ch 2).endRetrainJob ch stNoResource).evaluate) := by
  change execFullRetrainingEnd ch m0 m1 s = _
  unfold execFullRetrainingEnd
  rw [hpass]
  dsimp only
  rw [if_neg (by omega), hbad]
  rfl

theorem fullRetrainingEnd_of_good (hgood : (if s.mem.setpoint = 0 then m0.ok else m1.ok) = true) :
    exec (.fullRetrainingEnd ch m0 m1) s = .next (((s.modChan ch (fun c => { c with
      pass := none, fulls := c.fulls + 1, lastFull := s.now, result := some (marginsOf m0, marginsOf m1) })).memRetrainEvent ch 2
        p.cause).endRetrainJob ch stOk) := by
  change execFullRetrainingEnd ch m0 m1 s = _
  unfold execFullRetrainingEnd
  rw [hpass]
  dsimp only
  rw [if_neg (by omega), hgood, if_pos rfl, State.modChan_modChan]

end FullEnd

/-! ### Set points -/

section Switch
variable {s : State} {ns : Nat} {r : SpRequest} (hreq : s.mem.request = some r) (hidle : ∀ c ∈ s.mem.chans, c.pass = none)
  (hfits : s.mem.selfRefresh = true ∨ s.stallFits ns = true) (hnow : s.now < r.t0 + 50000000)
include hreq hidle hfits hnow

theorem setpointSwitch_of_admitted : exec (.setpointSwitch ns) s = .next (
    if s.noSetting r.target then (s.modMem (fun m => { m with request := none })).endSetpointJob stNoResource
    else ((s.modMem (fun m => { m with request := none, setpoint := r.target, stalls := m.stalls + 1
                                       chans := m.chans.map closeRows })).setpointEvent r 0).endSetpointJob stOk) := by
  have hany : s.mem.chans.any (fun c => c.pass.isSome) = false := by
    rw [List.any_eq_false]
    intro c hc
    rw [hidle c hc]
    exact Bool.false_ne_true
  have hstall : (!s.mem.selfRefresh && !s.stallFits ns) = false := by
    obtain h | h := hfits <;> simp [h]
  change execSetpointSwitch ns s = _
  unfold execSetpointSwitch
  rw [hreq]
  dsimp only
  rw [if_neg (by rw [hany, hstall, decide_eq_false (Nat.not_le.2 hnow)]; decide)]

end Switch

theorem exec_setpointTimeout {s u : State} {r : SpRequest} (hreq : s.mem.request = some r) (hu : s.advanceTo (r.t0 + 50000000) = u) :
    exec .setpointTimeout s = .next (((u.modMem (fun m => { m with request := none })).setpointEvent r 1).endSetpointJob stTimeout) := by
  change execSetpointTimeout s = _
  unfold execSetpointTimeout
  rw [hreq]
  dsimp only
  rw [hu]

/-- Settles O28, by the branch of each body and of each step of a pass that its guards select. -/
theorem memSetpoints : Obligations.MemSetpoints := by
  unfold Obligations.MemSetpoints
  refine ⟨fun c s => ⟨fun h hok hnone heq hstate => ?force, fun h hok hnone hne hstate hset => ?other,
    fun h hok h0 h3 hstate hruns hnone => ?retrain⟩,
    fun s ch ns m0 m1 hin => ⟨fun hst hpass hreq hself hdev => ?track, fun p hpass hself hfits hsteps => ?step,
      fun _ hfits => trainingStep_of_no_fit hfits, s.stallFits_iff ns, fun p hpass hkind hbad => fullRetrainingEnd_of_bad hpass hkind hbad,
      fun p hpass hkind hgood => ?full, fun r hreq hidle hfits hnow => ⟨fun hset => ?switch, fun hset => ?noSwitch⟩, fun r hreq => ?timeout⟩⟩
  case force => exact reads_of_hostCmd rfl rfl h (memSetpointBody_in_force (s := taken c s) hok hnone hstate heq)
  case other => exact next_hostCmd rfl h (memSetpointBody_other (s := taken c s) hok hnone hstate hne hset)
  case retrain => exact next_hostCmdWith rfl h (memRetrainBody_of_trained (s := taken c s) hok h0 h3 hstate hruns hnone) (.inr rfl)
  case track =>
    have hrun (u : State) := exec_trackingPassTimer (s := s) (u := u) (ch := ch)
    have hmem := s.advanceTo_part (·.mem) (fun _ _ => rfl) ((s.chan ch).trackAt + s.pget 0x0D000006 * 1000000)
    dsimp only
    generalize s.advanceTo ((s.chan ch).trackAt + s.pget 0x0D000006 * 1000000) = u at hrun hmem
    exact hrun u rfl (by rw [hmem]; exact hin) hst (by rw [State.chan_of_mem hmem]; exact hpass) (by rw [hmem]; exact hreq) hself hdev
  case step =>
    have hrun := trainingStep_of_fits hpass hself hfits hsteps
    have hsame : (s.stepped ch p).chan ch = closeRows { s.chan ch with pass := some { p with steps := p.steps + 1 } } :=
      State.chan_modChan_same (s.modMem (fun m => { m with stalls := m.stalls + 1 })) ch _ hin
    refine ⟨s.stepped ch p, hrun none, rfl, ?_, fun b hb => ?_, fun n hn => State.chan_modChan_ne _ _ _ _ hn.symm, fun m => hrun (some m)⟩
    · rw [hsame]
      rfl
    · rw [hsame] at hb
      obtain ⟨b', -, rfl⟩ := List.mem_map.1 hb
      rfl
  case full =>
    have hrun := fullRetrainingEnd_of_good hpass hkind hgood
    have hmem (v : State) : ((v.memRetrainEvent ch 2 p.cause).endRetrainJob ch stOk).mem = v.mem :=
      (State.endJobs_mem ..).trans (State.memRetrainEvent_mem ..)
    have hsame := State.chan_modChan_same s ch (fun c => { c with
      pass := none, fulls := c.fulls + 1, lastFull := s.now, result := some (marginsOf m0, marginsOf m1) }) hin
    refine ⟨_, hrun, ?_, ?_, ?_, fun n hn => ?_⟩
    · exact (congrArg MemChan.pass (State.chan_of_mem (hmem _) ch)).trans (congrArg MemChan.pass hsame)
    · exact (congrArg MemChan.result (State.chan_of_mem (hmem _) ch)).trans (congrArg MemChan.result hsame)
    · exact (congrArg MemChan.fulls (State.chan_of_mem (hmem _) ch)).trans (congrArg MemChan.fulls hsame)
    · exact (State.chan_of_mem (hmem _) n).trans (State.chan_modChan_ne _ _ _ _ hn.symm)
  case switch =>
    have hrun := setpointSwitch_of_admitted hreq hidle hfits hnow
    rw [if_neg (by simp [hset])] at hrun
    refine ⟨_, hrun, ?_⟩
    rw [State.setpointEnd_mem]
    exact ⟨rfl, rfl, rfl, rfl⟩
  case noSwitch =>
    have hrun := setpointSwitch_of_admitted hreq hidle hfits hnow
    rw [if_pos hset] at hrun
    exact ⟨_, hrun, State.endJobs_mem ..⟩
  case timeout =>
    have hrun (u : State) := exec_setpointTimeout (u := u) hreq
    have hmem := s.advanceTo_part (·.mem) (fun _ _ => rfl) (r.t0 + 50000000)
    generalize s.advanceTo (r.t0 + 50000000) = u at hrun hmem
    have hend := (u.modMem (fun m => { m with request := none })).setpointEnd_mem r 1 stTimeout
    have hpoint : u.mem.setpoint = s.mem.setpoint := congrArg Mem.setpoint hmem
    exact ⟨_, hrun u rfl, congrArg Mem.request hend, (congrArg Mem.setpoint hend).trans hpoint⟩

end Sys2Proof.Machine
end

