-- ==== Sys2Proof/Proofs/Memory/MemRows.lean ====
section
/-! PROOFS. Banks, the row guard and refresh windows (R334, R336 to R339). -/

namespace Sys2Proof.Machine

open Sys2Proof

/-! ### A bank after an update -/

/-- One bank of one channel updated. -/
def State.modBank (s : State) (ch bank : Nat) (f : Bank → Bank) : State :=
  s.modChan ch (fun c => { c with banks := updAt c.banks bank f })

theorem State.touch_eq_modBank (s : State) (ch bank : Nat) :
    s.touch ch bank = s.modBank ch bank (fun b => { b with idle := s.pget 0x0D000005, at_ := s.now }) := rfl

theorem State.modBank_modBank (s : State) (ch bank : Nat) (f g : Bank → Bank) :
    (s.modBank ch bank f).modBank ch bank g = s.modBank ch bank (fun b => g (f b)) := by
  unfold State.modBank
  rw [State.modChan_modChan]
  simp only [updAt_updAt]

section InRange
variable {s : State} {ch bank : Nat} (f : Bank → Bank)

theorem State.bank_modBank_same (hch : ch < s.mem.chans.length) (hbank : bank < (s.chan ch).banks.length) :
    ((s.modBank ch bank f).chan ch).banks.getD bank {} = f ((s.chan ch).banks.getD bank {}) := by
  unfold State.modBank
  rw [State.chan_modChan_same _ _ _ hch]
  exact (updAt_getD ..).trans (if_pos ⟨rfl, hbank⟩)

theorem State.bank_modBank_ne (hch : ch < s.mem.chans.length) {n : Nat} (hn : n ≠ bank) :
    ((s.modBank ch bank f).chan ch).banks.getD n {} = (s.chan ch).banks.getD n {} := by
  unfold State.modBank
  rw [State.chan_modChan_same _ _ _ hch]
  exact (updAt_getD ..).trans (if_neg fun h => hn h.1.symm)

theorem State.chan_modBank_ne {n : Nat} (hn : n ≠ ch) : (s.modBank ch bank f).chan n = s.chan n := State.chan_modChan_ne _ _ _ _ hn.symm

end InRange

/-! ### Activates -/

/-- A bank whose row opens. -/
def Bank.opened (b : Bank) (row idle now : Nat) : Bank := { b with openRow := some row, idle := idle, at_ := now }

section Activate
variable {s : State} {ch bank : Nat} (row : Nat)

theorem bankActivate_of_full (h : 8 ≤ ((s.chan ch).banks.getD bank {}).queue.length) :
    exec (.bankActivate ch bank row) s = .next (s.rowHeld ch bank) := congrArg Host.Outcome.next (if_pos h)

variable (h : ((s.chan ch).banks.getD bank {}).queue.length < 8)
include h

/-- Off and counted mode. -/
theorem bankActivate_of_not_probabilistic (hmode : s.pget 0x0D000001 ≠ 1) :
    exec (.bankActivate ch bank row) s = .next (s.modBank ch bank (fun b =>
      if s.pget 0x0D000001 = 2 then (b.opened row (s.pget 0x0D000005) s.now).count row (s.pget 0x0D000003)
      else b.opened row (s.pget 0x0D000005) s.now)) := by
  refine congrArg Host.Outcome.next ((if_neg (by omega)).trans ?_)
  by_cases h2 : s.pget 0x0D000001 = 2
  · simp only [if_pos h2]
    refine (congrArg (fun u : State => u.modBank ch bank (fun b => b.count row (s.pget 0x0D000003)))
      (State.modBank_modBank s ch bank _ _)).trans (State.modBank_modBank s ch bank _ _)
  · simp only [if_neg h2, if_neg hmode]
    exact State.modBank_modBank s ch bank _ _

/-- Probabilistic mode: a free value decides whether the neighbours of the row are refreshed. -/
theorem bankActivate_of_probabilistic (hmode : s.pget 0x0D000001 = 1) :
    ∃ f : Bank → Bank, exec (.bankActivate ch bank row) s = .next (({ s with free := s.free + 1 } : State).modBank ch bank f) ∧
      ∀ b, (f b).openRow = some row ∧ ((f b).queue = b.queue ∨ (f b).queue = b.queue ++ [row]) := by
  have h2 : s.pget 0x0D000001 ≠ 2 := by omega
  have hexec : exec (.bankActivate ch bank row) s = .next (
      let v := Config.freeNat s.free % 2 ^ 32
      let u := (({ s with free := s.free + 1 } : State).modBank ch bank (fun b => b.opened row (s.pget 0x0D000005) s.now)).modBank ch bank
        (fun b => { b with lfsr := v })
      if v % 2 ^ s.pget 0x0D000002 = 0 then u.modBank ch bank (fun b => { b with queue := b.queue ++ [row] }) else u) := by
    refine congrArg Host.Outcome.next ((if_neg (by omega)).trans ((if_neg h2).trans ((if_pos hmode).trans ?_)))
    rw [State.touch_eq_modBank]
    exact congrArg (fun w : State =>
      let v := Config.freeNat s.free % 2 ^ 32
      let u := ({ w with free := s.free + 1 } : State).modBank ch bank (fun b => { b with lfsr := v })
      if v % 2 ^ s.pget 0x0D000002 = 0 then u.modBank ch bank (fun b => { b with queue := b.queue ++ [row] }) else u)
      (State.modBank_modBank s ch bank _ _)
  generalize Config.freeNat s.free % 2 ^ 32 = v at hexec
  simp only [State.modBank_modBank] at hexec
  split at hexec
  · exact ⟨_, hexec, fun b => ⟨rfl, .inr rfl⟩⟩
  · exact ⟨_, hexec, fun b => ⟨rfl, .inl rfl⟩⟩

end Activate

theorem pageIdleTimeout_closes {s : State} {ch bank : Nat} (hch : ch < s.mem.chans.length) (hbank : bank < (s.chan ch).banks.length) :
    ∃ t, exec (.pageIdleTimeout ch bank) s = .next t ∧ ((t.chan ch).banks.getD bank {}).openRow = none ∧
      (∀ n, n ≠ bank → (t.chan ch).banks.getD n {} = (s.chan ch).banks.getD n {}) ∧ ∀ n, n ≠ ch → t.chan n = s.chan n := by
  by_cases hrow : ((s.chan ch).banks.getD bank {}).openRow.isNone
  · exact ⟨s, congrArg Host.Outcome.next (if_pos hrow), Option.isNone_iff_eq_none.1 hrow, fun _ _ => rfl, fun _ _ => rfl⟩
  · have hexec : exec (.pageIdleTimeout ch bank) s = .next ((s.advanceTo (((s.chan ch).banks.getD bank {}).at_ +
        ((s.chan ch).banks.getD bank {}).idle)).modBank ch bank (fun b => { b with openRow := none })) := congrArg Host.Outcome.next (if_neg hrow)
    generalize ((s.chan ch).banks.getD bank {}).at_ + ((s.chan ch).banks.getD bank {}).idle = due at hexec
    have hmem := s.advanceTo_part (·.mem) (fun _ _ => rfl) due
    generalize s.advanceTo due = u at hexec hmem
    have hchan := State.chan_of_mem hmem
    refine ⟨_, hexec, ?_, fun n hn => ?_, fun n hn => ?_⟩
    · rw [State.bank_modBank_same _ (by rw [hmem]; exact hch) (by rw [hchan]; exact hbank)]
    · rw [State.bank_modBank_ne _ (by rw [hmem]; exact hch) hn, hchan]
    · rw [State.chan_modBank_ne _ hn, hchan]

/-! ### Every channel at once -/

/-- A channel after an update of every channel. -/
theorem State.chan_map (s : State) {f : MemChan → MemChan} (hf : f {} = {}) {t : State} (ht : t.mem.chans = s.mem.chans.map f) (ch : Nat) :
    t.chan ch = f (s.chan ch) := by
  have h : (s.mem.chans.map f).getD ch (f {}) = f (s.mem.chans.getD ch {}) := by
    rw [List.getD_eq_getElem?_getD, List.getD_eq_getElem?_getD, List.getElem?_map, Option.getD_map]
  rw [hf, ← ht] at h
  exact h

theorem exec_refreshWindow {s u : State} (hu : s.advanceTo (s.mem.refreshAt + s.mem.refi) = u) (hself : s.mem.selfRefresh = false)
    (hdev : s.dev.state ≠ .off) : exec .refreshWindow s = .next ((u.emits u.neighbours).refreshAll) := by
  change execRefreshWindow s = _
  unfold execRefreshWindow
  rw [if_neg (by simp [hself, hdev]), hu]

/-- Every channel after a refresh window. -/
theorem refreshWindow_chan {s : State} (hself : s.mem.selfRefresh = false) (hdev : s.dev.state ≠ .off) :
    ∃ t, exec .refreshWindow s = .next t ∧ ∀ ch, t.chan ch = ((s.chan ch).window s.mem.guardClear).1 := by
  have hexec (u : State) := exec_refreshWindow (u := u) (s := s)
  have hmem := s.advanceTo_part (·.mem) (fun _ _ => rfl) (s.mem.refreshAt + s.mem.refi)
  generalize s.advanceTo (s.mem.refreshAt + s.mem.refi) = u at hexec hmem
  refine ⟨_, hexec u rfl hself hdev, ?_⟩
  have hsent : (u.emits u.neighbours).mem = s.mem := (State.emits_part (·.mem) (fun _ _ => rfl) u.neighbours u).trans hmem
  generalize u.emits u.neighbours = v at hsent
  intro ch
  rw [← hsent, ← State.chan_of_mem hsent]
  refine State.chan_map v (f := fun c => (c.window v.mem.guardClear).1) ?_ ?_ ch
  · exact congrArg Prod.fst (if_pos (by decide))
  · exact List.map_map

theorem MemChan.window_of_idle {c : MemChan} (h : c.state ≠ 1) (clear : Bool) : (c.window clear).1 = c := congrArg Prod.fst (if_pos h)

/-- A working channel without a clear of the queues: its results apply, and each bank is refreshed. -/
theorem MemChan.window_of_working {c : MemChan} (h : c.state = 1) :
    (c.window false).1.banks = c.banks.map (fun b => { b with openRow := none, queue := b.queue.drop 2 }) ∧ (c.window false).1.result = none ∧
      ∀ a b, c.result = some (a, b) → (c.window false).1.m0 = a ∧ (c.window false).1.m1 = b := by
  unfold MemChan.window
  rw [if_neg (Classical.not_not.2 h)]
  cases hr : c.result with
  | none => exact ⟨List.map_map, hr, fun _ _ hab => nomatch hab⟩
  | some ab =>
    refine ⟨List.map_map, rfl, fun a b hab => ?_⟩
    cases hab
    exact ⟨rfl, rfl⟩

end Sys2Proof.Machine
end

