-- ==== Sys2Proof/Proofs/Memory/MemErrors.lean ====
section
/-! PROOFS. The scrubber, corrected and uncorrectable reads, temperatures (R329 to R334). -/

namespace Sys2Proof.Machine

open Sys2Proof Sys2Proof.Safety

/-! ### The scrubber -/

theorem State.works_eq (s : State) (ch : Nat) : s.works ch = ((s.chan ch).state == 1) := by
  have hnone : (({} : MemChan).state == 1) = false := by decide
  unfold State.works State.chan
  rw [List.getD_eq_getElem?_getD]
  cases s.mem.chans[ch]? with
  | none => exact hnone.symm
  | some x => rfl

/-- The channels that work are those of a state whose channels stand alike. -/
theorem State.workList_congr {s t : State} (h : ∀ ch, (t.chan ch).state = (s.chan ch).state) : t.workList = s.workList := by
  unfold State.workList
  congr 1
  funext ch
  rw [State.works_eq, State.works_eq, h]

theorem State.mem_scrubLeft {s : State} {k : Nat} : k ∈ s.scrubLeft ↔ k ∈ s.workList ∧ (s.chan k).scrubbed < channelCodewords := by
  simp [State.scrubLeft]

theorem State.lt_of_mem_workList {s : State} {k : Nat} (h : k ∈ s.workList) : k < s.mem.chans.length := by
  have hw : s.works k = true := (List.mem_filter.1 h).2
  rw [State.works_eq] at hw
  refine Decidable.byContradiction fun hge => ?_
  have hnone : s.chan k = {} := getD_of_le _ (by omega)
  rw [hnone] at hw
  exact absurd hw (by decide)

/-- The scrubber has read the next codeword of a channel. -/
def State.scrubbed (s : State) (k : Nat) : State := s.modChan k (fun c => { c with scrubbed := c.scrubbed + 1 })

theorem State.scrubbed_chan {s : State} {k : Nat} (hk : k < s.mem.chans.length) :
    ((s.scrubbed k).chan k).scrubbed = (s.chan k).scrubbed + 1 ∧ (∀ n, n ≠ k → (s.scrubbed k).chan n = s.chan n) ∧
      (s.scrubbed k).workList = s.workList := by
  have hsame := State.chan_modChan_same s k (fun c => { c with scrubbed := c.scrubbed + 1 }) hk
  have hne (n : Nat) (hn : n ≠ k) : (s.scrubbed k).chan n = s.chan n := State.chan_modChan_ne _ _ _ _ hn.symm
  refine ⟨congrArg MemChan.scrubbed hsame, hne, State.workList_congr fun ch => ?_⟩
  by_cases hch : ch = k
  · rw [hch]
    exact (congrArg MemChan.state hsame).trans rfl
  · rw [hne ch hch]

/-- What a tick does in a round that is on. -/
def State.scrubRead (s : State) : State :=
  let u := s.scrubLeft.head?.elim s s.scrubbed
  if u.scrubLeft.isEmpty then u.modMem (fun m => { m with scrubOn := false, scrubs := m.scrubs + 1 }) else u

theorem scrubTick_of_working {s : State} (hself : s.mem.selfRefresh = false) (hwork : s.workList ≠ []) :
    exec .scrubTick s = .next (if s.mem.scrubOn then s else s.scrubBegin).scrubRead := by
  change execScrubTick s = _
  unfold execScrubTick State.scrubRead
  rw [if_neg (by simp [hself, hwork])]
  generalize (if s.mem.scrubOn then s else s.scrubBegin) = u
  dsimp only
  cases u.scrubLeft.head? <;> rfl

theorem scrubTick_of_on {s : State} {k : Nat} {ks : List Nat} (hself : s.mem.selfRefresh = false) (hon : s.mem.scrubOn = true)
    (hleft : s.scrubLeft = k :: ks) : exec .scrubTick s = .next (if (s.scrubbed k).scrubLeft.isEmpty then
      (s.scrubbed k).modMem (fun m => { m with scrubOn := false, scrubs := m.scrubs + 1 }) else s.scrubbed k) := by
  have hk : k ∈ s.scrubLeft := hleft ▸ List.mem_cons_self
  rw [scrubTick_of_working hself (List.ne_nil_of_mem (State.mem_scrubLeft.1 hk).1), if_pos hon]
  unfold State.scrubRead
  rw [hleft]
  rfl

section Round
variable {s : State} {k : Nat} {ks : List Nat} (hself : s.mem.selfRefresh = false) (hon : s.mem.scrubOn = true)
include hself hon

theorem scrubTick_goes_on (hleft : s.scrubLeft = k :: ks) (hmore : (s.chan k).scrubbed + 1 < channelCodewords) :
    exec .scrubTick s = .next (s.scrubbed k) := by
  obtain ⟨hwork, -⟩ := State.mem_scrubLeft.1 (hleft ▸ List.mem_cons_self : k ∈ s.scrubLeft)
  obtain ⟨hread, -, hlist⟩ := State.scrubbed_chan (State.lt_of_mem_workList hwork)
  have hk : k ∈ (s.scrubbed k).scrubLeft := State.mem_scrubLeft.2 ⟨by rw [hlist]; exact hwork, by rw [hread]; exact hmore⟩
  rw [scrubTick_of_on hself hon hleft, if_neg (by simp [List.ne_nil_of_mem hk])]

theorem scrubTick_ends (hleft : s.scrubLeft = [k]) (hlast : (s.chan k).scrubbed + 1 = channelCodewords) :
    ∃ t, exec .scrubTick s = .next t ∧ t.mem.scrubs = s.mem.scrubs + 1 ∧ t.mem.scrubOn = false := by
  obtain ⟨hwork, -⟩ := State.mem_scrubLeft.1 (hleft ▸ List.mem_cons_self : k ∈ s.scrubLeft)
  obtain ⟨hread, hne, hlist⟩ := State.scrubbed_chan (State.lt_of_mem_workList hwork)
  have hempty : (s.scrubbed k).scrubLeft = [] := by
    refine List.eq_nil_iff_forall_not_mem.2 fun n hn => ?_
    obtain ⟨hnwork, hnleft⟩ := State.mem_scrubLeft.1 hn
    by_cases hnk : n = k
    · rw [hnk, hread, hlast] at hnleft
      exact Nat.lt_irrefl _ hnleft
    · rw [hne n hnk] at hnleft
      rw [hlist] at hnwork
      have hmem : n ∈ s.scrubLeft := State.mem_scrubLeft.2 ⟨hnwork, hnleft⟩
      rw [hleft] at hmem
      exact hnk (List.mem_singleton.1 hmem)
  rw [scrubTick_of_on hself hon hleft, hempty]
  exact ⟨_, rfl, rfl, rfl⟩

end Round

/-- A round that begins after the span of the one before. -/
theorem State.scrubBegin_spec (s : State) : s.mem.scrubAt + s.mem.scrubNs ≤ s.scrubBegin.now ∧ s.scrubBegin.mem.scrubOn = true ∧
    s.scrubBegin.mem.scrubNs = s.pget 0x0D000009 * 3600000000000 ∧ s.scrubBegin.mem.chans = s.mem.chans.map (fun c => { c with scrubbed := 0 }) ∧
    s.scrubBegin.mem.selfRefresh = s.mem.selfRefresh := by
  have hnow := s.le_advanceTo_now (s.mem.scrubAt + s.mem.scrubNs)
  have hmem := s.advanceTo_part (·.mem) (fun _ _ => rfl) (s.mem.scrubAt + s.mem.scrubNs)
  have hpar := s.advanceTo_part (·.pget 0x0D000009) (fun _ _ => rfl) (s.mem.scrubAt + s.mem.scrubNs)
  unfold State.scrubBegin
  generalize s.advanceTo (s.mem.scrubAt + s.mem.scrubNs) = u at hnow hmem hpar
  have hchans : u.mem.chans = s.mem.chans := congrArg Mem.chans hmem
  have hself : u.mem.selfRefresh = s.mem.selfRefresh := congrArg Mem.selfRefresh hmem
  exact ⟨Nat.le_trans hnow (Nat.le_of_eq (State.now_of_time (State.modMem_time ..)).symm), rfl, congrArg (· * 3600000000000) hpar, congrArg (List.map _) hchans, hself⟩

theorem scrubTick_begins {s : State} (hself : s.mem.selfRefresh = false) (hoff : s.mem.scrubOn = false) (hwork : s.workList ≠ []) :
    exec .scrubTick s = exec .scrubTick s.scrubBegin := by
  obtain ⟨-, hon, -, hchans, hself'⟩ := s.scrubBegin_spec
  have hlist : s.scrubBegin.workList = s.workList := State.workList_congr fun ch => by rw [State.chan_map s rfl hchans]
  rw [scrubTick_of_working hself hwork, scrubTick_of_working (hself'.trans hself) (by rw [hlist]; exact hwork),
    if_neg (by simp [hoff]), if_pos hon]

/-! ### Corrected reads -/

/-- The device's error counters and the codewords that wait. -/
def Mem.errors (m : Mem) : Reg × Reg × List Writeback := (m.ce, m.ue, m.writebacks)

theorem State.beginFull_errors (s : State) (ch cause : Nat) : (s.beginFull ch cause).mem.errors = s.mem.errors := by
  unfold State.beginFull
  extract_lets c
  split
  · rfl
  · exact (congrArg Mem.errors (State.memRetrainEvent_mem ..)).trans rfl

theorem sent_beginFull (s : State) (ch cause : Nat) : Sent s (s.beginFull ch cause) := by
  unfold State.beginFull
  extract_lets c
  split
  · exact fun _ h => h
  · exact fun o ho => sent_raise (s.modChan ch _) _ _ _ _ _ o ho

theorem State.countCe_errors (s : State) (ch symbols : Nat) : (s.countCe ch symbols).mem.errors = (s.mem.ce + 1, s.mem.ue, s.mem.writebacks) := by
  unfold State.countCe
  extract_lets u c
  have hu : u.mem.errors = (s.mem.ce + 1, s.mem.ue, s.mem.writebacks) := rfl
  split
  · exact (congrArg Mem.errors (State.raise_part (·.mem) (fun _ => rfl) ..)).trans hu
  · exact hu

theorem State.ceLimit_spec (s : State) (ch : Nat) : (s.ceLimit ch).mem.errors = s.mem.errors ∧ Sent s (s.ceLimit ch) := by
  unfold State.ceLimit
  split
  · exact ⟨s.beginFull_errors .., sent_beginFull s ch 2⟩
  · exact ⟨rfl, fun _ h => h⟩

theorem State.writeUnit_writebacks (s : State) (ch bank addr : Nat) (data : List Nat) :
    (s.writeUnit ch bank addr data).mem.errors =
      (s.mem.ce, s.mem.ue, s.mem.writebacks.filter (fun w => !(w.ch == ch && w.bank == bank && w.addr == addr))) := rfl

theorem State.dram_mem_writeUnit (s : State) (ch bank addr : Nat) (data : List Nat) :
    Out.dram ch bank 0 (addr :: rsEncode data) ∈ (s.writeUnit ch bank addr data).out := List.mem_cons_self

theorem exec_correctedRead {s : State} {ch bank addr : Nat} {cw : List Byte} {f : RsFix} {fs : List RsFix}
    (hfix : rsDecode (cwNats cw) = some (f :: fs)) (merge : Option Merge) :
    exec (.correctedRead ch bank addr cw merge) s = .next ((((s.countCe ch (f :: fs).length).touch ch bank).afterCorrected ch bank addr
      ((rsApply (f :: fs) (cwNats cw)).take 64) merge).ceLimit ch) := by
  change execCorrectedRead ch bank addr cw merge s = _
  unfold execCorrectedRead
  rw [hfix]

theorem exec_correctedWriteback {s : State} {ch bank : Nat} {w : Writeback}
    (hw : s.mem.writebacks.find? (fun w => w.ch == ch && w.bank == bank) = some w) :
    exec (.correctedWriteback ch bank) s = .next (s.writeUnit ch bank w.addr w.data) := by
  change execCorrectedWriteback ch bank s = _
  unfold execCorrectedWriteback
  rw [hw]

/-! ### Uncorrectable reads and temperatures -/

theorem uncorrectableRead_of_bad {cw : List Byte} (hbad : rsDecode (cwNats cw) = none) (s : State) (ch bank addr : Nat) (at_ : UePlace)
    (both : Bool) (reader : Option Nat) (merge : Option Merge) :
    exec (.uncorrectableRead ch bank addr at_ both reader cw merge) s = .next
      (((((s.countUe ch).touch ch bank).mergeBad ch bank addr cw merge).ueOutcome ch at_ both reader).ueLimit ch) :=
  congrArg Host.Outcome.next (if_neg (by simp [hbad]))

/-- A critical basket with a good copy beside the one read. -/
theorem State.ueOutcome_of_copy {s : State} {ch o i : Nat} {x : Obj} {b : Basket} (hx : s.obj? o = some x) (hb : s.basket? o i = some b)
    (hcls : b.cls = 0) (hcopy : b.lastCopy ch = false) (reader : Option Nat) :
    s.ueOutcome ch (.object o i) false reader = s.memUe o ch 0 1 := by
  unfold State.ueOutcome
  dsimp only
  rw [hx, hb]
  dsimp only
  rw [if_pos hcls, hcopy]
  exact if_neg Bool.false_ne_true

theorem dramTemperatureRead_running {s : State} (hdev : s.dev.state ≠ .off) (temps : List Int) :
    ∃ u : State, exec (.dramTemperatureRead temps) s = .next u.thermalUpdate ∧
      u.mem = { s.mem with
        temps := padTo (0 : Int) 8 temps
        doubled := if s.mem.doubled then (padTo (0 : Int) 8 temps).any (fun t => decide (82 < t))
          else (padTo (0 : Int) 8 temps).any (fun t => decide (85 < t)) } ∧ u.pwr = s.pwr ∧ u.dev = s.dev := by
  refine ⟨_, congrArg Host.Outcome.next (if_neg (by simpa using hdev)), ?_⟩
  generalize (if s.mem.doubled then (padTo (0 : Int) 8 temps).any (fun t => decide (82 < t))
    else (padTo (0 : Int) 8 temps).any (fun t => decide (85 < t))) = d
  split
  · exact ⟨rfl, rfl, rfl⟩
  · exact ⟨State.raise_part (·.mem) (fun _ => rfl) .., State.raise_part (·.pwr) (fun _ => rfl) .., State.raise_dev ..⟩

/-- Settles O29, by what each operation leaves of a bank, of a channel and of the error counters. -/
theorem memTraffic : Obligations.MemTraffic := by
  unfold Obligations.MemTraffic
  refine ⟨fun s ch bank row hch hbank => ⟨fun hroom hmode => ?activate, fun hroom hmode => ?probabilistic, bankActivate_of_full row,
    pageIdleTimeout_closes hch hbank, ?clear, fun hself hdev hst => ?idleWindow, fun hself hdev hguard hst => ?window⟩,
    fun s ch bank addr cw at_ both reader merge temps => ⟨fun hself hon => ⟨fun k ks => scrubTick_goes_on hself hon, fun k => scrubTick_ends hself hon⟩,
      fun hself hoff hwork => ?newRound, fun f fs hfix => ?corrected, fun w hw => ?writeback,
      fun hbad => uncorrectableRead_of_bad hbad s ch bank addr at_ both reader merge, rfl,
      fun o i x b hx hb hcls hcopy => State.ueOutcome_of_copy hx hb hcls hcopy reader, fun hdev => dramTemperatureRead_running hdev temps,
      fun hoff => ?cold⟩⟩
  case activate =>
    refine ⟨_, bankActivate_of_not_probabilistic row hroom hmode, ?_⟩
    rw [State.bank_modBank_same _ hch hbank]
    refine ⟨?_, fun h0 => ?_, fun h2 => if_pos h2, fun n hn => State.bank_modBank_ne _ hch hn, fun n hn => State.chan_modBank_ne _ hn⟩
    · split
      · unfold Bank.count
        extract_lets t
        split <;> rfl
      · rfl
    · rw [if_neg (by omega)]
      rfl
  case probabilistic =>
    obtain ⟨f, hrun, hf⟩ := bankActivate_of_probabilistic row hroom hmode
    obtain ⟨hrow, hqueue⟩ := hf ((s.chan ch).banks.getD bank {})
    refine ⟨_, hrun, ?_⟩
    rw [State.bank_modBank_same (s := { s with free := s.free + 1 }) f hch hbank]
    exact ⟨hrow, hqueue, rfl⟩
  case clear =>
    refine ⟨_, rfl, ?_⟩
    rw [State.chan_map s (f := fun c => { c with banks := c.banks.map (fun b => { b with table := [] }) }) rfl rfl]
    exact ⟨List.map_map, List.map_map⟩
  case idleWindow =>
    obtain ⟨t, hrun, hchan⟩ := refreshWindow_chan hself hdev
    exact ⟨t, hrun, (hchan ch).trans (MemChan.window_of_idle hst _)⟩
  case window =>
    obtain ⟨t, hrun, hchan⟩ := refreshWindow_chan hself hdev
    obtain ⟨hbanks, hnone, hresult⟩ := MemChan.window_of_working hst
    refine ⟨t, hrun, ?_⟩
    rw [hchan, hguard, hbanks]
    refine ⟨List.map_map, fun b hb => ?_, hnone, hresult⟩
    obtain ⟨b', -, rfl⟩ := List.mem_map.1 hb
    rfl
  case newRound =>
    obtain ⟨hnow, hon, hspan, hchans, -⟩ := s.scrubBegin_spec
    refine ⟨scrubTick_begins hself hoff hwork, hnow, hon, hspan, fun c hc => ?_⟩
    rw [hchans] at hc
    obtain ⟨c', -, rfl⟩ := List.mem_map.1 hc
    rfl
  case corrected =>
    have hcount := s.countCe_errors ch (f :: fs).length
    have hrun := exec_correctedRead (s := s) (ch := ch) (bank := bank) (addr := addr) hfix
    generalize s.countCe ch (f :: fs).length = u at hcount hrun
    have hce : u.mem.ce = s.mem.ce + 1 := congrArg Prod.fst hcount
    have hue : u.mem.ue = s.mem.ue := congrArg (fun e => e.2.1) hcount
    have hwait : u.mem.writebacks = s.mem.writebacks := congrArg (fun e => e.2.2) hcount
    have hlimit (v : State) : (v.ceLimit ch).mem.ce = v.mem.ce ∧ (v.ceLimit ch).mem.ue = v.mem.ue ∧
        (v.ceLimit ch).mem.writebacks = v.mem.writebacks :=
      have h := (v.ceLimit_spec ch).1
      ⟨congrArg Prod.fst h, congrArg (fun e => e.2.1) h, congrArg (fun e => e.2.2) h⟩
    refine ⟨_, hrun merge, ?_⟩
    obtain ⟨hce', hue', hwait'⟩ := hlimit ((u.touch ch bank).afterCorrected ch bank addr ((rsApply (f :: fs) (cwNats cw)).take 64) merge)
    cases merge with
    | none => exact ⟨hce'.trans hce, hue'.trans hue, hwait'.trans (congrArg (· ++ _) hwait)⟩
    | some m =>
      have hsent := State.ceLimit_spec ((u.touch ch bank).writeUnit ch bank addr (mergeUnit ((rsApply (f :: fs) (cwNats cw)).take 64) m)) ch
      exact ⟨hce'.trans hce, hue'.trans hue, hsent.2 _ (State.dram_mem_writeUnit ..), hwait'.trans (congrArg (List.filter _) hwait)⟩
  case writeback => exact ⟨_, exec_correctedWriteback hw, State.dram_mem_writeUnit .., rfl⟩
  case cold => exact ⟨_, congrArg Host.Outcome.next (if_pos (by simpa using hoff)), rfl, rfl, rfl⟩

end Sys2Proof.Machine
end

