-- ==== Sys2Proof/Proofs/SafetyPair/PairLink.lean ====
section
/-! PROOFS. The cross-link and the ownership of the tiles (R310, R437 to R445). -/

namespace Sys2Proof.Machine

open Sys2Proof Sys2Proof.Safety

/-! ### The cross-link -/

theorem State.xlinkGo_now (s : State) (up : Bool) (cause : Nat) : (s.xlinkGo up cause).now = s.now := by
  unfold State.xlinkGo
  split
  · rfl
  · exact State.raise_now ..

theorem State.followGrid_now (s : State) (err : Int) : (s.followGrid err).now = s.now := by
  unfold State.followGrid
  split
  · rfl
  · extract_lets lim ran u f step
    split <;> rfl

/-- What a STATE says is kept, and the grid follows it. -/
def State.stateKept (s : State) (m : XState) : State :=
  ((s.xlinkGo true 3).modPair (fun p => { p with
    xlock := true, partnerRole := m.role, partnerState := m.devState, partnerReady := m.ready, partnerDigest := m.digest
    epochSeen := Nat.max p.epochSeen m.epoch, gridErr := m.gridErr })).followGrid m.gridErr

theorem State.stateKept_now (s : State) (m : XState) : (s.stateKept m).now = s.now := (State.followGrid_now ..).trans (s.xlinkGo_now true 3)

theorem xlinkState_of_up {s : State} (hcfg : s.dev.pairCfg = true) (hup : (s.domain 44).st = 2) (m : XState) {n : Nat}
    (hn : (s.stateKept m).now = n) :
    exec (.xlinkState m) s = .next (
      let u := ((((s.stateKept m).fixD m).modPair (fun p => { p with stateAt := n })).joinRoles).refreshReady
      let w := u.modPair (fun p => { p with rankAt := if u.ranksAbove then some (p.rankAt.getD u.now) else none })
      match w.pair.switch with
      | some x => if !x.toUs && !m.ready then w.dropPlanned else w
      | none => w) := by
  subst hn
  exact congrArg Host.Outcome.next (if_neg (by simp [hcfg, hup]))

theorem ledger_of_other {s : State} (hcfg : s.dev.pairCfg = true) (howns : s.owns = false) {r : LedgerRow} (frame sf : Nat) (settled : Bool) :
    exec (.ledger frame sf settled [r]) s = .next
      ((s.modPair (fun p => { p with ledgerFrame := frame, ledgerSf := sf, ledgerSettled := settled })).modTile r.tile (fun d => { d with
        l0 := r.l0, l1 := r.l1
        drive := if settled then none else some { frame := frame % 2 ^ 32, sf := sf % 256, k := 0, dl0 := r.dl0, dl1 := r.dl1 } })) :=
  congrArg Host.Outcome.next (if_neg (by simp [hcfg, howns]))

/-- Settles O39, by the branch of each message that the lock, the link and the owner select. -/
theorem crossLink : Obligations.CrossLink := by
  unfold Obligations.CrossLink
  intro s m frame sf epoch settled r hcfg
  refine ⟨fun hlock => congrArg Host.Outcome.next (if_neg (by simp [hcfg, hlock])), fun hup => ?state,
    fun hlink => congrArg Host.Outcome.next (if_neg (by simp [hcfg, hlink])), fun howns hin => ?ledger,
    fun hup => congrArg Host.Outcome.next (if_neg (by simp [hcfg, hup]))⟩
  case state => exact xlinkState_of_up hcfg hup m (s.stateKept_now m)
  case ledger =>
    have hsame := State.tile_modTile_same (s.modPair (fun p => { p with ledgerFrame := frame, ledgerSf := sf, ledgerSettled := settled })) r.tile
      (fun d => { d with l0 := r.l0, l1 := r.l1
                         drive := if settled then none else some { frame := frame % 2 ^ 32, sf := sf % 256, k := 0, dl0 := r.dl0, dl1 := r.dl1 } }) hin
    refine ⟨_, ledger_of_other hcfg howns frame sf settled, ?_⟩
    rw [hsame]
    exact ⟨rfl, rfl, rfl, fun n hn => State.tile_modTile_ne _ _ _ _ hn.symm⟩

/-! ### Ownership -/

section PairCtrl
variable {c : Cmd} {s : State} (hcfg : s.dev.pairCfg = true) (hok : c.okBits 1 0xFF = true)
include hcfg hok

theorem pairCtrlBody_of_lift (h : c.f 1 7 0 = 3) : pairCtrlBody c s =
    { s := { s with pair := { s.pair with yielded := false } }, a := { status := if s.pair.yielded then stOk else stWarn } } := by
  unfold pairCtrlBody
  dsimp only
  rw [if_neg (by simp [hcfg]), if_neg (by simp [hok, h]), if_pos h]
  rfl

theorem pairCtrlBody_of_owner (h : c.f 1 7 0 = 1 ∨ c.f 1 7 0 = 2) (hready : s.pair.partnerReady = true) (hrole : s.pair.role ≠ 3)
    (hswitch : s.pair.switch = none) (howns : s.owns = true) : pairCtrlBody c s =
    accept ((s.modPair (fun p => { p with yielded := p.yielded || c.f 1 7 0 == 2 })).beginSwitch 1 false (c.f 1 7 0 == 2)) .pairCtrl := by
  have hargs : ¬ (!c.okBits 1 0xFF || decide (c.f 1 7 0 = 0) || decide (3 < c.f 1 7 0)) = true := by
    rw [hok, decide_eq_false (by omega), decide_eq_false (by omega)]
    decide
  unfold pairCtrlBody
  dsimp only
  rw [if_neg (by simp [hcfg]), if_neg hargs, if_neg (by omega), if_neg (by simp [hready, hrole]), if_neg (by simp [hswitch]), if_pos howns]

end PairCtrl

section Claims
variable {s : State} (hcfg : s.dev.pairCfg = true)
include hcfg

theorem exec_handover {kind epoch : Nat} (hlink : s.pair.xlink = 2) :
    exec (.handover kind epoch) s = .next (
      let u := s.modPair (fun p => { p with epochSeen := Nat.max p.epochSeen epoch })
      if u.pair.role ≠ 2 ∨ u.readyNow = false then u
      else if kind = 2 then u.claimBy 2 u.now 2
      else if (kind = 1 ∨ kind = 4) ∧ u.pair.switch.isNone = true then u.beginSwitch kind true false
      else u) := congrArg Host.Outcome.next (if_neg (by simp [hcfg, hlink]))

theorem exec_pairJoinTimeout {u : State} (hrole : s.pair.role = 0) (hjoins : s.dev.state.joins = true) (hlink : s.pair.xlink ≠ 2)
    (hyield : s.pair.yielded = false) (hu : s.advanceTo (s.pair.aloneAt + s.pget 0x15000003 * 1000000) = u) :
    exec .pairJoinTimeout s = .next (
      let v := u.modPair (fun p => { p with joinExpired := true })
      let up := u.link.ports.filter (fun p => p.state == 5)
      if !up.isEmpty && up.all (fun p => p.owner == 0) then v.claimBy 3 v.now 1 else v) := by
  change execPairJoinTimeout s = _
  unfold execPairJoinTimeout
  rw [if_neg (by simp [hcfg, hrole, hjoins, hlink, hyield]), hu]
  rfl

theorem exec_witnessTimeout (hlink : s.pair.xlink ≠ 2) (hyield : s.pair.yielded = false) (hjoins : s.dev.state.joins = true)
    (hfree : s.pair.role = 2 ∨ (s.pair.role = 0 ∧ s.pair.joinExpired = true)) :
    exec .witnessTimeout s = .next (if s.witnessWait.pair.role = 2 then s.witnessWait.claimBy 3 s.witnessWait.now 2
      else s.witnessWait.claimBy 3 s.witnessWait.now 1) :=
  congrArg Host.Outcome.next (if_neg (by simp [hcfg, hlink, hyield, hjoins, hfree]))

theorem autoDegradeTimer_of_worse {t : Nat} (hpar : s.pget 0x15000004 = 1) (hswitch : s.pair.switch = none) (hrank : s.pair.rankAt = some t)
    (hrole : s.pair.role = 1) (hready : s.pair.partnerReady = true) (hworse : stateRank s.dev.state.code < stateRank s.pair.partnerState) :
    exec .autoDegradeTimer s = .next ((s.advanceTo (t + 1000000000)).beginSwitch 4 false false) := by
  have habove : s.ranksAbove = true := by simp [State.ranksAbove, hrole, hready, hworse]
  change execAutoDegradeTimer s = _
  unfold execAutoDegradeTimer
  rw [hrank]
  dsimp only
  rw [if_neg (by simp [hcfg, hpar, hswitch, habove]), hrole]
  rfl

end Claims

theorem State.witnessWait_role (s : State) : s.witnessWait.pair.role = s.pair.role := by
  unfold State.witnessWait
  extract_lets up
  split
  · rfl
  · exact s.advanceTo_part (·.pair.role) (fun _ _ => rfl) _

/-- While a port reports an owner, the wait lasts until the owner has missed its boundary. -/
theorem State.witnessWait_now {s : State} {p : Port} (hp : p ∈ s.link.ports) (hactive : p.state = 5) (howner : p.owner ≠ 0) :
    s.pair.advancedAt + ceilDiv 1000000000 (s.tim.fps * s.tim.sCount) + 2000000 ≤ s.witnessWait.now := by
  have hup : p ∈ s.link.ports.filter (fun p => p.state == 5) := List.mem_filter.2 ⟨hp, by simp [hactive]⟩
  have hall : ¬ (!(s.link.ports.filter (fun p => p.state == 5)).isEmpty &&
      (s.link.ports.filter (fun p => p.state == 5)).all (fun p => p.owner == 0)) = true := by
    rw [Bool.and_eq_true, List.all_eq_true]
    exact fun h => howner (by simpa using h.2 p hup)
  unfold State.witnessWait
  rw [if_neg hall]
  exact s.le_advanceTo_now _

theorem exec_switchoverClaim {s : State} {w : Switch} {b : Nat} (hswitch : s.pair.switch = some w) (hbound : w.bound = some b)
    (hus : w.toUs = true) (hstage : w.stage = 1) :
    exec .switchoverClaim s = .next ((s.advanceTo (b + 20000)).claimBy w.kind w.t0 2) := by
  change execSwitchoverClaim s = _
  unfold execSwitchoverClaim
  rw [hswitch]
  dsimp only
  rw [hbound]
  dsimp only
  rw [if_pos (by simp [hus, hstage])]

/-- Settles O40, by the branch of each command, message and time-out that the role and the link select. -/
theorem ownership : Obligations.Ownership := by
  unfold Obligations.Ownership
  intro c s kind epoch w b hcfg
  refine ⟨fun h hok hkind => next_hostCmd rfl h (pairCtrlBody_of_lift (s := taken c s) hcfg hok hkind),
    fun h hok hkind hready hrole hswitch howns =>
      next_hostCmd rfl h (pairCtrlBody_of_owner (s := taken c s) hcfg hok hkind hready hrole hswitch howns),
    fun hlink => ⟨fun hrole hready => ⟨?claimed, fun hkind hswitch => ?announced⟩, fun h => ?notReady⟩,
    fun hrole hjoins hlink hyield => ?join,
    fun hlink hyield hjoins => ⟨fun hrole => ?witness, fun hrole hexpired => ?orphan, fun p hp hactive howner => State.witnessWait_now hp hactive howner⟩,
    fun t => autoDegradeTimer_of_worse hcfg, exec_switchoverClaim⟩
  case claimed =>
    have hboth := not_or.2 ⟨Classical.not_not.2 hrole, ne_false_of_eq_true hready⟩
    exact (exec_handover hcfg hlink).trans (congrArg Host.Outcome.next ((if_neg hboth).trans (if_pos rfl)))
  case announced =>
    have hboth := not_or.2 ⟨Classical.not_not.2 hrole, ne_false_of_eq_true hready⟩
    refine (exec_handover hcfg hlink).trans (congrArg Host.Outcome.next ((if_neg hboth).trans ((if_neg (by omega)).trans (if_pos ⟨hkind, ?_⟩))))
    exact congrArg Option.isNone hswitch
  case notReady => exact (exec_handover hcfg hlink).trans (congrArg Host.Outcome.next (if_pos h))
  case join =>
    have hrun (u : State) := exec_pairJoinTimeout (u := u) hcfg hrole hjoins hlink hyield
    have hports := s.advanceTo_part (·.link.ports) (fun _ _ => rfl) (s.pair.aloneAt + s.pget 0x15000003 * 1000000)
    dsimp only
    generalize s.advanceTo (s.pair.aloneAt + s.pget 0x15000003 * 1000000) = u at hrun hports
    rw [← hports]
    exact hrun u rfl
  case witness =>
    exact (exec_witnessTimeout hcfg hlink hyield hjoins (.inl hrole)).trans (congrArg Host.Outcome.next (if_pos (s.witnessWait_role.trans hrole)))
  case orphan =>
    refine (exec_witnessTimeout hcfg hlink hyield hjoins (.inr ⟨hrole, hexpired⟩)).trans (congrArg Host.Outcome.next (if_neg ?_))
    rw [State.witnessWait_role, hrole]
    decide

end Sys2Proof.Machine
end

