-- ==== Sys2Proof/Proofs/Power/StartUp.lean ====
section
/-! PROOFS. Start-up, channel training, self-test and SHUTDOWN (R28, R66, R340, R428, R454, R462 to R465). -/

namespace Sys2Proof.Machine

open Sys2Proof Sys2Proof.Safety

/-! ### Firmware -/

section Firmware
variable {s : State} {r0 r1 : SlotRead} (hboot : s.dev.state = .boot) (hready : s.dev.fwReady = false)
include hboot hready

/-- The slots before the one that runs, with what was wrong with each. -/
def State.badSlots (s : State) (r0 r1 : SlotRead) : List (Nat × Nat) :=
  (s.bootOrder.takeWhile (fun n => (if n = 0 then r0 else r1).cause != 0)).map (fun n => (n, (if n = 0 then r0 else r1).cause))

theorem exec_firmwareLoadComplete : exec (.firmwareLoadComplete r0 r1) s = .next
    ((s.bootOrder.find? (fun n => (if n = 0 then r0 else r1).cause == 0)).elim (s.bootRecovery (s.badSlots r0 r1))
      (fun n => s.bootFirmware n (if n = 0 then r0 else r1).version (s.badSlots r0 r1))) := by
  change execFirmwareLoadComplete r0 r1 s = _
  unfold execFirmwareLoadComplete State.badSlots
  rw [if_neg (by simp [hboot, hready])]
  dsimp only
  cases s.bootOrder.find? (fun n => (if n = 0 then r0 else r1).cause == 0) <;> rfl

theorem firmwareLoadComplete_of_valid {n : Nat} (h : s.bootOrder.find? (fun n => (if n = 0 then r0 else r1).cause == 0) = some n) :
    exec (.firmwareLoadComplete r0 r1) s = .next (s.bootFirmware n (if n = 0 then r0 else r1).version (s.badSlots r0 r1)) := by
  rw [exec_firmwareLoadComplete hboot hready, h, Option.elim_some]

theorem firmwareLoadComplete_of_none (h : s.bootOrder.find? (fun n => (if n = 0 then r0 else r1).cause == 0) = none) :
    exec (.firmwareLoadComplete r0 r1) s = .next (s.bootRecovery (s.badSlots r0 r1)) := by
  rw [exec_firmwareLoadComplete hboot hready, h, Option.elim_none]

end Firmware

/-! ### Channel training -/

theorem State.milestone_mem (s : State) (m : Nat) : (s.milestone m).mem = s.mem := by
  unfold State.milestone
  split
  · rfl
  · exact State.raise_part (·.mem) (fun _ => rfl) ..

theorem State.milestone_if_mem (c : Prop) [Decidable c] (s : State) (m : Nat) : (if c then s.milestone m else s).mem = s.mem := by
  split
  · exact s.milestone_mem m
  · rfl

theorem State.calFail_mem (s : State) (step unit_ consequence : Nat) : (s.calFail step unit_ consequence).mem = s.mem := by
  unfold State.calFail
  split
  · rfl
  · exact State.raise_part (·.mem) (fun _ => rfl) ..

/-- A channel that fails, and the others. -/
theorem State.failChannel_chan {s : State} {ch : Nat} (hin : ch < s.mem.chans.length) (hst : (s.chan ch).state ≠ 3) (where_ : Nat) :
    (s.failChannel ch where_).chan ch = { s.chan ch with state := 3, pass := none, result := none } ∧
      ∀ k, k ≠ ch → (s.failChannel ch where_).chan k = s.chan k := by
  unfold State.failChannel
  rw [if_neg hst]
  extract_lets u mem place v
  have hraise (k : Nat) : (v.raise 0x0D 4 3 (packNat [at' 63 56 ch, at' 55 48 v.channels, at' 47 40 where_]) v.arg2f).chan k = u.chan k :=
    State.chan_of_mem (State.raise_part (·.mem) (fun _ => rfl) ..) k
  exact ⟨(hraise ch).trans (State.chan_modChan_same _ _ _ hin), fun k hk => (hraise k).trans (State.chan_modChan_ne _ _ _ _ hk.symm)⟩

/-- The channel after its training: working or FAILED. -/
def State.trained (s : State) (ch : Nat) (m0 m1 : TrainMargins) : State :=
  let u := (s.calRun 6 (m0.ok || m1.ok)).modChan ch (fun c => { c with m0 := marginsOf m0, m1 := marginsOf m1, lastFull := s.now, trackAt := s.now })
  if m0.ok || m1.ok then u.modChan ch (fun c => { c with state := 1 }) else (u.calFail 6 ch 4).failChannel ch 1

theorem State.trained_chan {s : State} {ch : Nat} (hin : ch < s.mem.chans.length) (hst : (s.chan ch).state = 0) (m0 m1 : TrainMargins) :
    ((s.trained ch m0 m1).chan ch).state = (if m0.ok || m1.ok then 1 else 3) ∧ ((s.trained ch m0 m1).chan ch).m0 = marginsOf m0 ∧
      ((s.trained ch m0 m1).chan ch).m1 = marginsOf m1 ∧ ∀ k, k ≠ ch → (s.trained ch m0 m1).chan k = s.chan k := by
  unfold State.trained
  extract_lets u
  have hlen : ch < u.mem.chans.length := Nat.lt_of_lt_of_eq hin (updAt_length _ _ _).symm
  have hchan : u.chan ch = { s.chan ch with m0 := marginsOf m0, m1 := marginsOf m1, lastFull := s.now, trackAt := s.now } :=
    State.chan_modChan_same _ _ _ hin
  have hother (k : Nat) (hk : k ≠ ch) : u.chan k = s.chan k := State.chan_modChan_ne _ _ _ _ hk.symm
  clear_value u
  cases m0.ok || m1.ok with
  | true =>
    rw [if_pos rfl, if_pos rfl, State.chan_modChan_same _ _ _ hlen, hchan]
    exact ⟨rfl, rfl, rfl, fun k hk => (State.chan_modChan_ne _ _ _ _ hk.symm).trans (hother k hk)⟩
  | false =>
    have hmem := u.calFail_mem 6 ch 4
    have hsame := State.chan_of_mem hmem
    have hlen' : ch < (u.calFail 6 ch 4).mem.chans.length := by rwa [hmem]
    have hst' : ((u.calFail 6 ch 4).chan ch).state ≠ 3 := by
      rw [hsame, hchan]
      exact fun h => absurd (hst.symm.trans h) (by decide)
    obtain ⟨hfailed, hrest⟩ := State.failChannel_chan hlen' hst' 1
    rw [if_neg Bool.false_ne_true, if_neg Bool.false_ne_true, hfailed, hsame, hchan]
    exact ⟨rfl, rfl, rfl, fun k hk => (hrest k hk).trans ((hsame k).trans (hother k hk))⟩

theorem channelTrainingComplete_of_untrained {s : State} {ch : Nat} (hch : ch < 32) (hst : (s.chan ch).state = 0) (hdev : s.dev.state ≠ .off)
    (m0 m1 : TrainMargins) :
    ∃ u : State, exec (.channelTrainingComplete ch m0 m1) s = .next u.evaluate ∧ u.mem = (s.trained ch m0 m1).mem := by
  have hguard : ¬ (32 ≤ ch ∨ (s.chan ch).state ≠ 0 ∨ (s.dev.state == .off) = true) := by
    simp only [not_or, Classical.not_not]
    exact ⟨by omega, hst, by simpa using hdev⟩
  have hexec : exec (.channelTrainingComplete ch m0 m1) s = .next (
      let u := if 8 ≤ (s.trained ch m0 m1).channels then (s.trained ch m0 m1).milestone 2 else s.trained ch m0 m1
      (if u.trainingDone then u.milestone 3 else u).evaluate) := congrArg Host.Outcome.next (if_neg hguard)
  exact ⟨_, hexec, (State.milestone_if_mem ..).trans (State.milestone_if_mem ..)⟩

/-! ### Self-test -/

theorem Start.rec_setRec (t : Start) (b : Bool) (r : Option Record) : (t.setRec b r).rec_ b = r ∧ (t.setRec b r).rec_ (!b) = t.rec_ (!b) := by
  cases b <;> exact ⟨rfl, rfl⟩

theorem State.takeFree_start (s : State) (n : Nat) : (s.takeFree n).1.start = s.start ∧ (s.takeFree n).1.now = s.now := ⟨rfl, rfl⟩

theorem State.modRecord_served (s : State) (f : Record → Record) : (s.modRecord f).start.served = s.start.served ∧
    (s.modRecord f).now = s.now ∧ (s.modRecord f).pwr = s.pwr ∧ (s.modRecord f).dev = s.dev := by
  unfold State.modRecord
  split
  · exact ⟨rfl, rfl, rfl, rfl⟩
  · refine ⟨?_, rfl, rfl, rfl⟩
    unfold Start.setRec
    split <;> rfl

theorem State.cutTest_served (s : State) (d result cause : Nat) : (s.cutTest d result cause).start.served = s.start.served ∧
    (s.cutTest d result cause).now = s.now := by
  unfold State.cutTest
  extract_lets n sig u
  obtain ⟨hserved, hnow, -⟩ := sig.1.modRecord_served (fun r => setDom r d result (if result = 3 then cause else 0) sig.2 n.2)
  split
  · exact ⟨hserved, hnow⟩
  · exact ⟨(State.raise_part (·.start.served) (fun _ => rfl) ..).trans hserved, (State.raise_now ..).trans hnow⟩

section SelfTests
variable {s : State} {x : SelfTest} (hx : s.start.selftest = some x)
include hx

theorem recordSectorProgrammed_of_blank (hheader : x.header = false) :
    exec .recordSectorProgrammed s = .next { s with start := { s.start.setRec x.sectorB (some (s.newRecord x.occasion)) with
      selftest := some { x with header := true, running := phaseDomains ((testOrder x.occasion).getD 0 0) }
      erasedA := (s.start.setRec x.sectorB (some (s.newRecord x.occasion))).erasedA && x.sectorB
      erasedB := (s.start.setRec x.sectorB (some (s.newRecord x.occasion))).erasedB && !x.sectorB } } := by
  change execRecordSectorProgrammed s = _
  unfold execRecordSectorProgrammed
  rw [hx]
  dsimp only
  rw [if_neg (by rw [hheader]; exact Bool.false_ne_true)]

/-- The test with the conditions of a sample in its record. -/
def SelfTest.sampled (x : SelfTest) (clk vMin vMax : Nat) : SelfTest :=
  { x with clkMin := lowOf x.clkMin clk, clkMax := Nat.max x.clkMax clk, vMin := lowOf x.vMin vMin, vMax := Nat.max x.vMax vMax }

theorem selftestConditionCheck_of_header (hheader : x.header = true) (clk vMin vMax : Nat) :
    exec (.selftestConditionCheck clk vMin vMax) s = .next (
      let u : State := { s with start := { s.start with selftest := some (x.sampled clk vMin vMax) } }
      if (s.domain 48).st ≠ 2 ∨ clk < 5700 ∨ 6300 < clk ∨ vMin < 780 ∨ 820 < vMax ∨ s.pwr.warnLow = true then u.stopSelfTest 4 3
      else u.serveCore) := by
  change execSelftestConditionCheck clk vMin vMax s = _
  unfold execSelftestConditionCheck
  rw [hx]
  dsimp only
  rw [if_neg (by simp [hheader])]
  rfl

theorem selftestDomainComplete_of_running {d : Nat} (hrunning : x.running.contains d = true) (sig count : Nat) :
    exec (.selftestDomainComplete d sig count) s = .next (
      let result := if count < Config.fullCount d then 3 else if sig = Config.fusedSignature d then 1 else 2
      let u := s.modRecord (fun r => setDom r d result 0 sig count)
      let v : State := { u with start := { u.start with selftest := some { x with running := x.running.filter (· != d) } } }
      (if result = 2 ∧ x.occasion = 2 then v.failDomain d else v).nextPhase) := by
  change execSelftestDomainComplete d sig count s = _
  unfold execSelftestDomainComplete
  rw [hx]
  dsimp only
  rw [if_neg (by rw [hrunning]; decide)]

theorem State.serviceRequest_of_running {d : Nat} (hrunning : x.running.contains d = true) :
    ∃ u : State, s.serviceRequest d = (u.modDomain d (Domain.request u.now true)).nextPhase ∧ u.now = s.now ∧
      u.start.selftest = some { x with running := x.running.filter (· != d) } ∧ u.start.served = d :: s.start.served := by
  obtain ⟨hserved, hnow⟩ := s.cutTest_served d 3 1
  refine ⟨{ s.cutTest d 3 1 with start := { (s.cutTest d 3 1).start with
    selftest := some { x with running := x.running.filter (· != d) }, served := d :: (s.cutTest d 3 1).start.served } }, ?_, hnow, rfl,
    congrArg (d :: ·) hserved⟩
  unfold State.serviceRequest
  rw [hx]
  exact if_neg (by rw [hrunning]; decide)

theorem State.serviceRequest_of_idle {d : Nat} (hidle : x.running.contains d = false) : s.serviceRequest d = s := by
  unfold State.serviceRequest
  rw [hx]
  exact if_pos (by rw [hidle]; rfl)

end SelfTests

theorem shutdownBody_of_untested {c : Cmd} {s : State} (hok : c.okBits 1 1 = true) (htest : s.start.selftest = none) :
    shutdownBody c s = accept s .shutdown := (if_neg (okBits_refused hok)).trans (if_neg (by simp [htest]))

/-- Settles O36, by the branch of each completion that the state of the start-up selects. -/
theorem startUpRuns : Obligations.StartUpRuns := by
  unfold Obligations.StartUpRuns
  refine ⟨fun s r0 r1 ch n m0 m1 => ⟨fun hboot hready h => firmwareLoadComplete_of_valid hboot hready h,
    fun hboot hready h => firmwareLoadComplete_of_none hboot hready h, fun hch hlen hst hdev => ?train,
    fun hsynth => congrArg Host.Outcome.next (if_pos hsynth), fun hboot => congrArg Host.Outcome.next (if_pos (by simp [hboot]))⟩,
    fun s c x clk vMin vMax d sig count => ⟨fun hx hheader => ?programmed,
      fun hx hheader => ⟨fun h48 hc1 hc2 hv1 hv2 hwarn => ?inside, fun hout => ?outside⟩, fun hx hrunning => ?complete,
      fun hx hrunning => State.serviceRequest_of_running hx hrunning, fun hx hidle => State.serviceRequest_of_idle hx hidle,
      fun h hok htest => next_hostCmdWith rfl h (shutdownBody_of_untested (s := taken c s) hok htest) (.inr rfl)⟩⟩
  case train =>
    obtain ⟨hstate, hm0, hm1, hother⟩ := State.trained_chan (s := s) (ch := ch) (by omega) hst m0 m1
    obtain ⟨u, hrun, hmem⟩ := channelTrainingComplete_of_untrained hch hst hdev m0 m1
    have hchan := State.chan_of_mem hmem
    refine ⟨u, hrun, ?_, ?_, ?_, fun k hk => (hchan k).trans (hother k hk)⟩
    · rw [hchan, hstate]
    · rw [hchan, hm0]
    · rw [hchan, hm1]
  case programmed =>
    obtain ⟨hsame, hother⟩ := s.start.rec_setRec x.sectorB (some (s.newRecord x.occasion))
    exact ⟨_, recordSectorProgrammed_of_blank hx hheader, rfl, hsame, hother⟩
  case inside =>
    exact (selftestConditionCheck_of_header hx hheader clk vMin vMax).trans
      (congrArg Host.Outcome.next (if_neg (by simp only [not_or, Classical.not_not, Nat.not_lt]; exact ⟨h48, hc1, hc2, hv1, hv2, by simp [hwarn]⟩)))
  case outside => exact (selftestConditionCheck_of_header hx hheader clk vMin vMax).trans (congrArg Host.Outcome.next (if_pos hout))
  case complete =>
    obtain ⟨-, -, hpwr, hdev⟩ := s.modRecord_served (fun r => setDom r d (if count < Config.fullCount d then 3 else
      if sig = Config.fusedSignature d then 1 else 2) 0 sig count)
    exact ⟨_, selftestDomainComplete_of_running hx hrunning sig count, rfl, hpwr, hdev⟩

end Sys2Proof.Machine
end

