-- ==== Sys2Proof/Proofs/Placement/Moves.lean ====
section
/-! PROOFS. A basket through updates, and through the replicas that yield their room (R174, R179, R181). -/

namespace Sys2Proof.Machine

open Sys2Proof

/-! ### The basket that an update names -/

/-- The first basket of an index after an update that keeps the indices. -/
theorem find?_map_index {f : Basket → Basket} (hf : ∀ b, (f b).index = b.index) {index : Nat} {b : Basket} {bs : List Basket}
    (h : bs.find? (fun b => b.index == index) = some b) :
    (bs.map (fun b => if b.index = index then f b else b)).find? (fun b => b.index == index) = some (f b) := by
  have hkeep : (fun b : Basket => b.index == index) ∘ (fun b => if b.index = index then f b else b) = fun b => b.index == index := by
    funext x
    dsimp only [Function.comp]
    split
    · rw [hf]
    · rfl
  have hb : b.index = index := by simpa using List.find?_some h
  rw [List.find?_map, hkeep, h, Option.map_some, if_pos hb]

/-- The object of an ID after an update that keeps the ID. -/
theorem State.obj?_modObj_same {s : State} {id : Nat} {o : Obj} (h : s.obj? id = some o) {f : Obj → Obj} (hf : ∀ o, o.id = id → (f o).id = id) :
    (s.modObj id f).obj? id = some (f o) := by
  have hkeep : (fun o : Obj => o.id == id) ∘ (fun o => if o.id == id then f o else o) = fun o => o.id == id := by
    funext x
    by_cases hx : x.id = id
    · simp [hx, hf x hx]
    · simp [hx]
  unfold State.obj? State.modObj at *
  have hid : (o.id == id) = true := List.find?_some (p := fun o : Obj => o.id == id) h
  rw [List.find?_map, hkeep, h, Option.map_some, if_pos hid]

/-- The object of another ID. -/
theorem State.obj?_modObj_ne {s : State} {id n : Nat} {o : Obj} (hn : id ≠ n) (h : s.obj? n = some o) {f : Obj → Obj}
    (hf : ∀ o, o.id = id → (f o).id = id) : (s.modObj id f).obj? n = some o := by
  have hkeep : (fun o : Obj => o.id == n) ∘ (fun o => if o.id == id then f o else o) = fun o => o.id == n := by
    funext x
    by_cases hx : x.id = id
    · simp [hx, hf x hx]
    · simp [hx]
  unfold State.obj? State.modObj at *
  have hid : o.id = n := by simpa using List.find?_some (p := fun o : Obj => o.id == n) h
  rw [List.find?_map, hkeep, h, Option.map_some, if_neg (by simp [hid, hn.symm])]

/-- The baskets under an ID: of the object, or of the device. -/
def State.basketsOf (s : State) (obj : Nat) : List Basket :=
  if obj = 0 then s.place.reserved ++ s.place.tables else (s.obj? obj).elim [] (·.baskets)

theorem State.basket?_eq (s : State) (obj index : Nat) : s.basket? obj index = (s.basketsOf obj).find? (fun b => b.index == index) := by
  unfold State.basket? State.basketsOf
  cases s.obj? obj <;> rfl

/-- The baskets of an ID depend on the objects and on the device's own baskets. -/
theorem State.basket?_congr {s t : State} (hobjs : t.objs.objs = s.objs.objs) (hreserved : t.place.reserved = s.place.reserved)
    (htables : t.place.tables = s.place.tables) (obj index : Nat) : t.basket? obj index = s.basket? obj index := by
  unfold State.basket? State.obj?
  rw [hobjs, hreserved, htables]

theorem State.basket?_modBasket {s : State} {obj index : Nat} {b : Basket} (h : s.basket? obj index = some b) {f : Basket → Basket}
    (hf : ∀ b, (f b).index = b.index) : (s.modBasket obj index f).basket? obj index = some (f b) := by
  rw [State.basket?_eq] at h ⊢
  have hbaskets : (s.modBasket obj index f).basketsOf obj = (s.basketsOf obj).map (fun b => if b.index = index then f b else b) := by
    unfold State.basketsOf State.modBasket
    by_cases h0 : obj = 0
    · simp only [if_pos h0]
      exact List.map_append.symm
    · simp only [if_neg h0]
      cases ho : s.obj? obj with
      | none =>
        rw [State.basketsOf, if_neg h0, ho] at h
        cases h
      | some o =>
        have hobj := State.obj?_modObj_same ho
          (f := fun o => { o with baskets := o.baskets.map (fun b => if b.index = index then f b else b) }) (fun _ hid => hid)
        rw [hobj]
        rfl
  rw [hbaskets]
  exact find?_map_index hf h

/-! ### Replicas that yield their room -/

/-- What is left of a basket when replicas yield: all but the list of replicas to drop, where it makes no replica. -/
def Basket.Yields (b b' : Basket) : Prop := b'.index = b.index ∧ (b.moveKind ≠ 1 → ∃ d, b' = { b with dropping := d })

theorem Basket.Yields.refl (b : Basket) : b.Yields b := ⟨rfl, fun _ => ⟨b.dropping, rfl⟩⟩

/-- The baskets of an object with their replicas yielding, one by one. -/
inductive AllYield : List Basket → List Basket → Prop
  | nil : AllYield [] []
  | cons {b b' : Basket} {bs bs' : List Basket} : b.Yields b' → AllYield bs bs' → AllYield (b :: bs) (b' :: bs')

theorem AllYield.refl (bs : List Basket) : AllYield bs bs := by
  induction bs with
  | nil => exact .nil
  | cons b bs ih => exact .cons (Basket.Yields.refl b) ih

theorem Basket.yieldRoom_yields (acc : List Nat × List Basket) (b : Basket) : ∃ b', (b.yieldRoom acc).2 = acc.2 ++ [b'] ∧ b.Yields b' := by
  unfold Basket.yieldRoom
  extract_lets gone ex
  split
  · split
    · exact ⟨_, rfl, rfl, fun hkind => absurd (And.left ‹_›) hkind⟩
    · exact ⟨_, rfl, rfl, fun _ => ⟨_, rfl⟩⟩
  · exact ⟨_, rfl, rfl, fun _ => ⟨_, rfl⟩⟩

theorem foldl_yieldRoom (bs : List Basket) : ∀ acc : List Nat × List Basket,
    ∃ bs', (bs.foldl Basket.yieldRoom acc).2 = acc.2 ++ bs' ∧ AllYield bs bs' := by
  induction bs with
  | nil => exact fun acc => ⟨[], (List.append_nil _).symm, .nil⟩
  | cons b bs ih =>
    intro acc
    obtain ⟨b', hb, hyields⟩ := Basket.yieldRoom_yields acc b
    obtain ⟨bs', hbs, hall⟩ := ih (b.yieldRoom acc)
    exact ⟨b' :: bs', by rw [List.foldl_cons, hbs, hb, List.append_assoc, List.singleton_append], .cons hyields hall⟩

/-- Each object that `dropReplicas` gives is one of the list with its replicas yielding. -/
theorem mem_dropReplicas {os : List Obj} {x : Obj} : ∀ {excess : List Nat}, x ∈ (dropReplicas excess os).2 →
    ∃ o ∈ os, x.id = o.id ∧ AllYield o.baskets x.baskets := by
  induction os with
  | nil => exact fun h => nomatch h
  | cons o os ih =>
    intro excess h
    obtain ⟨bs', hbs, hall⟩ := foldl_yieldRoom o.baskets (excess, [])
    have hx : x ∈ { o with baskets := (o.baskets.foldl Basket.yieldRoom (excess, [])).2 } ::
        (dropReplicas (o.baskets.foldl Basket.yieldRoom (excess, [])).1 os).2 := h
    obtain rfl | hx := List.mem_cons.1 hx
    · refine ⟨o, List.mem_cons_self, rfl, ?_⟩
      rw [List.nil_append] at hbs
      rw [hbs]
      exact hall
    · obtain ⟨o', ho', hrest⟩ := ih hx
      exact ⟨o', List.mem_cons_of_mem _ ho', hrest⟩

theorem mem_of_byPriority {os : List Obj} {o : Obj} (h : o ∈ byPriority os) : o ∈ os := by
  obtain ⟨p, -, hp⟩ := List.mem_flatMap.1 h
  exact (List.mem_filter.1 hp).1

/-- The first of an index among baskets whose replicas yield. -/
theorem AllYield.find? {bs bs' : List Basket} (h : AllYield bs bs') {index : Nat} {b : Basket}
    (hb : bs.find? (fun b => b.index == index) = some b) : ∃ b', bs'.find? (fun b => b.index == index) = some b' ∧ b.Yields b' := by
  induction h with
  | nil => cases hb
  | @cons x x' xs xs' hx _ ih =>
    have hindex : (x'.index == index) = (x.index == index) := by rw [hx.1]
    rw [List.find?_cons, hindex]
    rw [List.find?_cons] at hb
    cases hi : x.index == index with
    | true =>
      rw [hi] at hb
      cases hb
      exact ⟨x', rfl, hx⟩
    | false =>
      rw [hi] at hb
      exact ih hb

/-- Where each ID names one object, the objects of an ID are one. -/
theorem eq_of_id_eq {os : List Obj} (hnodup : (os.map (·.id)).Nodup) {a b : Obj} (ha : a ∈ os) (hb : b ∈ os) (hid : a.id = b.id) : a = b := by
  induction os with
  | nil => cases ha
  | cons o os ih =>
    obtain ⟨hnew, hrest⟩ := List.nodup_cons.1 hnodup
    obtain rfl | ha' := List.mem_cons.1 ha
    · obtain rfl | hb' := List.mem_cons.1 hb
      · rfl
      · exact absurd (List.mem_map.2 ⟨b, hb', hid.symm⟩) hnew
    · obtain rfl | hb' := List.mem_cons.1 hb
      · exact absurd (List.mem_map.2 ⟨a, ha', hid⟩) hnew
      · exact ih hrest ha' hb'

/-- The update of one object by `State.makeRoom`. -/
def State.yieldObj (os : List Obj) (s : State) (o : Obj) : State :=
  (os.find? (fun x => x.id == o.id)).elim s (fun x => s.modObj o.id (fun _ => x))

theorem State.makeRoom_cases (s : State) : s.makeRoom = s ∨ ∃ excess, s.makeRoom =
    s.objs.objs.foldl (State.yieldObj (dropReplicas excess (byPriority s.objs.objs)).2) s := by
  unfold State.makeRoom
  extract_lets u r excess
  split
  · exact .inl rfl
  · refine .inr ⟨excess, ?_⟩
    refine congrArg (fun f => s.objs.objs.foldl f s) (funext fun u => funext fun o => ?_)
    unfold State.yieldObj
    cases (dropReplicas excess (byPriority s.objs.objs)).2.find? (fun x => x.id == o.id) <;> rfl

section Room
variable {s : State} {obj : Nat} {o : Obj} {os : List Obj} (ho : s.obj? obj = some o) (hnodup : (s.objs.objs.map (·.id)).Nodup)
  (hos : ∀ x ∈ os, ∃ o ∈ s.objs.objs, x.id = o.id ∧ AllYield o.baskets x.baskets)
include ho hnodup hos

/-- An object of the ID that yields is the one of that ID with its replicas yielding. -/
theorem State.yields_of_id {x : Obj} (hx : x ∈ os) (hid : x.id = obj) : AllYield o.baskets x.baskets := by
  obtain ⟨o', hmem, hid', hall⟩ := hos x hx
  have hfound : o ∈ s.objs.objs := List.mem_of_find?_eq_some ho
  have hoid : o.id = obj := by simpa using List.find?_some (p := fun o : Obj => o.id == obj) ho
  have hsame : o' = o := eq_of_id_eq hnodup hmem hfound (by rw [← hid', hid, hoid])
  exact hsame ▸ hall

theorem State.yieldObj_obj {u : State} {x : Obj} (hx : u.obj? obj = some x) (hyields : AllYield o.baskets x.baskets) (a : Obj) :
    ∃ x', (u.yieldObj os a).obj? obj = some x' ∧ AllYield o.baskets x'.baskets := by
  unfold State.yieldObj
  cases hfind : os.find? (fun x => x.id == a.id) with
  | none => exact ⟨x, hx, hyields⟩
  | some y =>
    have hy : y.id = a.id := by simpa using List.find?_some (p := fun x : Obj => x.id == a.id) hfind
    have hmem : y ∈ os := List.mem_of_find?_eq_some hfind
    rw [Option.elim_some]
    by_cases ha : a.id = obj
    · rw [ha] at hy ⊢
      exact ⟨y, State.obj?_modObj_same hx fun _ _ => hy, State.yields_of_id ho hnodup hos hmem hy⟩
    · exact ⟨x, State.obj?_modObj_ne ha hx fun _ _ => hy, hyields⟩

theorem State.foldl_yieldObj_obj (l : List Obj) : ∀ {u : State} {x : Obj}, u.obj? obj = some x → AllYield o.baskets x.baskets →
    ∃ x', (l.foldl (State.yieldObj os) u).obj? obj = some x' ∧ AllYield o.baskets x'.baskets := by
  induction l with
  | nil => exact fun hx hyields => ⟨_, hx, hyields⟩
  | cons a l ih =>
    intro u x hx hyields
    obtain ⟨x', hx', hyields'⟩ := State.yieldObj_obj ho hnodup hos hx hyields a
    exact ih hx' hyields'

end Room

theorem State.yieldObj_place (os : List Obj) (s : State) (o : Obj) : (s.yieldObj os o).place = s.place := by
  unfold State.yieldObj
  cases os.find? (fun x => x.id == o.id) <;> rfl

theorem State.makeRoom_place (s : State) : s.makeRoom.place = s.place := by
  obtain h | ⟨excess, h⟩ := s.makeRoom_cases
  · rw [h]
  · have hfold (os l : List Obj) (u : State) : (l.foldl (State.yieldObj os) u).place = u.place := by
      induction l generalizing u with
      | nil => rfl
      | cons a l ih => exact (ih _).trans (u.yieldObj_place os a)
    rw [h]
    exact hfold ..

/-- A basket keeps all but its replicas when space is made, where each ID names one object. -/
theorem State.basket?_makeRoom {s : State} (hnodup : (s.objs.objs.map (·.id)).Nodup) {obj index : Nat} {b : Basket}
    (hb : s.basket? obj index = some b) : ∃ b', s.makeRoom.basket? obj index = some b' ∧ b.Yields b' := by
  have hplace := s.makeRoom_place
  rw [State.basket?_eq] at hb
  simp only [State.basket?_eq]
  have hbaskets : AllYield (s.basketsOf obj) (s.makeRoom.basketsOf obj) := by
    unfold State.basketsOf
    by_cases h0 : obj = 0
    · rw [if_pos h0, if_pos h0, hplace]
      exact AllYield.refl _
    · rw [if_neg h0, if_neg h0]
      rw [State.basketsOf, if_neg h0] at hb
      cases ho : s.obj? obj with
      | none =>
        rw [ho] at hb
        cases hb
      | some o =>
        obtain h | ⟨excess, h⟩ := s.makeRoom_cases
        · rw [h, ho]
          exact AllYield.refl _
        · obtain ⟨x, hx, hyields⟩ := State.foldl_yieldObj_obj ho hnodup (os := (dropReplicas excess (byPriority s.objs.objs)).2)
            (fun x hx => by
              obtain ⟨o', hmem, hrest⟩ := mem_dropReplicas hx
              exact ⟨o', mem_of_byPriority hmem, hrest⟩) s.objs.objs ho (AllYield.refl _)
          rw [h, hx]
          exact hyields
  exact AllYield.find? hbaskets hb

end Sys2Proof.Machine
end

