-- ==== Sys2Proof/Proofs/Placement/Epochs.lean ====
section
/-! PROOFS. Hints, epochs, copies, releases, lost channels (R177 to R181, R188, R189, R193). -/

namespace Sys2Proof.Machine

open Sys2Proof Sys2Proof.Safety

/-! ### Hints -/

theorem placeHintBody_of_object {c : Cmd} {s : State} {o : Obj} (ho : s.obj? c.object.toNat = some o) (hcls : o.cls ∈ [1, 2, 6, 8])
    (hok : c.okBits 1 (mask 127 104) = true) (hp : c.f 1 127 120 ≤ 3) (hr : c.f 1 119 112 ≤ 2) (hm : c.f 1 111 104 ≤ 1)
    (h8 : o.cls = 8 → c.f 1 119 112 = 0) (h18 : o.cls = 1 ∨ o.cls = 8 → c.f 1 111 104 = 0)
    (hroom : c.f 1 111 104 = 0 → o.mirror = 1 → o.baskets.length ≤ s.freeBaskets) :
    placeHintBody c s = answer (s.modObj o.id (fun x => { x with hint := some (c.f 1 127 120, c.f 1 119 112, c.f 1 111 104) })) [] := by
  have hargs : decide (3 < c.f 1 127 120 ∨ 2 < c.f 1 119 112 ∨ 1 < c.f 1 111 104) = false := decide_eq_false (by omega)
  have hreplica : (o.cls == 8 && c.f 1 119 112 != 0) = false := by
    by_cases h : o.cls = 8
    · simp [h8 h]
    · simp [h]
  have hmirror : ((o.cls == 1 || o.cls == 8) && c.f 1 111 104 != 0) = false := by
    by_cases h : o.cls = 1 ∨ o.cls = 8
    · simp [h18 h]
    · simp only [not_or] at h
      simp [h.1, h.2]
  unfold placeHintBody
  rw [ho]
  dsimp only
  rw [if_neg (by rw [List.contains_iff_mem.2 hcls]; decide), if_neg (by rw [hok, hargs, hreplica, hmirror]; decide),
    if_neg fun h => absurd (hroom h.1 h.2.1) (Nat.not_le.2 h.2.2)]

/-! ### The epoch -/

/-- The number of the epoch, and the time. -/
def State.clock (s : State) : BitVec 32 × TimeSt := (s.place.epoch, s.time)

theorem State.makeRoom_clock (s : State) : s.makeRoom.clock = s.clock := by
  have hpart (z : State) : z.restAlloc.time = z.time := rfl
  unfold State.clock
  rw [s.makeRoom_place, ← hpart, State.makeRoom_restAlloc, hpart]

theorem State.capacityCheck_clock (s : State) : s.capacityCheck.clock = s.clock := by
  unfold State.capacityCheck
  extract_lets f w
  split
  · split <;> rfl
  · split
    · exact (State.raise_part State.clock (fun _ => rfl) ..).trans rfl
    · rfl

theorem State.mirrorAll_clock (s : State) : s.mirrorAll.clock = s.clock := by
  unfold State.mirrorAll
  split
  · rfl
  · extract_lets u a
    have hu : u.clock = s.clock := by
      simp only [u, State.copyBegins]
      split <;> rfl
    rw [← hu]
    exact State.makeRoom_clock _

theorem State.shortEnds_clock (s : State) : s.shortEnds.clock = s.clock := by
  unfold State.shortEnds
  split <;> rfl

theorem State.restoreCut_clock (l : List Nat) : ∀ s : State, (s.restoreCut l).clock = s.clock := by
  induction l with
  | nil => exact fun _ => rfl
  | cons c cs ih =>
    intro s
    unfold State.restoreCut
    split
    · exact ih _
    · split
      · rfl
      · exact (ih _).trans (State.makeRoom_clock _)

theorem State.epochBoundary_clock (s : State) : s.epochBoundary.clock = (s.place.epoch + 1, s.time) := by
  unfold State.epochBoundary
  extract_lets place u e v cap objs w
  have hw : w.clock = (s.place.epoch + 1, s.time) := rfl
  rw [State.capacityCheck_clock, State.restoreCut_clock, State.shortEnds_clock, State.mirrorAll_clock, hw]

theorem exec_placementEpochTick {s u : State} (hu : s.advanceTo (s.place.epochAt + 1000000) = u)
    (hfree : s.nextBoundary.any (fun b => decide (b ≤ s.place.epochAt + 1000000)) = false) :
    exec .placementEpochTick s = .next u.epochBoundary := by
  change execPlacementEpochTick s = _
  unfold execPlacementEpochTick
  dsimp only
  rw [if_neg (by rw [hfree]; exact Bool.false_ne_true), hu]

/-! ### Copies -/

theorem State.modBasket_parts (s : State) (obj index : Nat) (f : Basket → Basket) :
    (s.modBasket obj index f).place.migrated = s.place.migrated ∧ (s.modBasket obj index f).time = s.time ∧
      (s.modBasket obj index f).objs.objs.map (·.id) = s.objs.objs.map (·.id) := by
  unfold State.modBasket
  split
  · exact ⟨rfl, rfl, rfl⟩
  · refine ⟨rfl, rfl, ?_⟩
    refine List.map_map.trans (List.map_congr_left fun o _ => ?_)
    dsimp only [Function.comp]
    split <;> rfl

/-- A copy that ends. -/
def State.copied (s : State) (obj index moveKind : Nat) : State :=
  let v := s.modBasket obj index (fun b => { b with copied := true })
  { v with place := { v.place with
      copyEnd := v.now
      migrated := v.place.migrated + 2
      restoration := if moveKind = 2 then v.place.restoration.map (fun r => { r with restored := r.restored + 1 }) else v.place.restoration } }

theorem basketCopyComplete_of_turn {s u : State} {obj index : Nat} {b : Basket} (dest : Nat) (hb : s.basket? obj index = some b)
    (hcopying : b.copying = true) (hrate : s.copyRate b ≠ 0) (hturn : s.copyTurn b = true)
    (hu : s.advanceTo (s.place.copyEnd + ceilDiv basketBytes (s.copyRate b)) = u) :
    exec (.basketCopyComplete obj index 2 dest) s = .next (u.copied obj index b.moveKind) := by
  change execBasketCopyComplete obj index 2 dest s = _
  unfold execBasketCopyComplete
  rw [hb]
  dsimp only
  rw [if_pos rfl]
  unfold State.copyEnds
  dsimp only
  rw [if_neg (by simp [hcopying, hrate, hturn]), hu]
  rfl

theorem State.copied_spec {s : State} {obj index : Nat} {b : Basket} (hb : s.basket? obj index = some b) (moveKind : Nat) :
    (s.copied obj index moveKind).place.migrated = s.place.migrated + 2 ∧ (s.copied obj index moveKind).time = s.time ∧
      (s.copied obj index moveKind).basket? obj index = some { b with copied := true } := by
  obtain ⟨hmigrated, htime, -⟩ := s.modBasket_parts obj index (fun b => { b with copied := true })
  refine ⟨congrArg (· + 2) hmigrated, htime, ?_⟩
  exact Eq.trans (State.basket?_congr (s := s.modBasket obj index (fun b => { b with copied := true })) rfl rfl rfl obj index)
    (State.basket?_modBasket hb fun _ => rfl)

/-- A voluntary move begins. -/
theorem basketCopyComplete_of_move {s : State} {obj index kind dest : Nat} {b : Basket} (hb : s.basket? obj index = some b)
    (hkind : kind = 0 ∨ kind = 3) (hallowed : s.copyAllowed obj b kind dest = true) (hrate : s.pget 0x07000001 ≠ 0)
    (hnone : s.place.restoration = none) :
    exec (.basketCopyComplete obj index kind dest) s = .next ((s.copyBegins.modBasket obj index (fun b => { b with
      moveTo := some dest, moveKind := 0, moveFrom := b.chans.getD (if kind = 3 then 1 else 0) 0, copied := false })).makeRoom) := by
  have hidle : s.critical.any (fun x => x.copying && x.moveKind == 2 && s.place.restoration.isSome) = false := by simp [hnone]
  have hkind1 : (if kind = 1 then 1 else 0) = 0 := if_neg (by omega)
  change execBasketCopyComplete obj index kind dest s = _
  unfold execBasketCopyComplete
  rw [hb]
  dsimp only
  rw [if_neg (by omega), if_neg (by rw [hallowed, hidle]; simp [hrate])]
  simp only [hkind1]

theorem State.copyBegins_spec (s : State) : s.copyBegins.objs = s.objs ∧ s.copyBegins.place.reserved = s.place.reserved ∧
    s.copyBegins.place.tables = s.place.tables := by
  unfold State.copyBegins
  split <;> exact ⟨rfl, rfl, rfl⟩

theorem basketCopyComplete_moves {s : State} {obj index kind dest : Nat} {b : Basket} (hb : s.basket? obj index = some b)
    (hkind : kind = 0 ∨ kind = 3) (hallowed : s.copyAllowed obj b kind dest = true) (hrate : s.pget 0x07000001 ≠ 0)
    (hnone : s.place.restoration = none) (hnodup : (s.objs.objs.map (·.id)).Nodup) :
    ∃ t b', exec (.basketCopyComplete obj index kind dest) s = .next t ∧ t.basket? obj index = some b' ∧ b'.moveTo = some dest ∧
      b'.moveFrom = b.chans.getD (if kind = 3 then 1 else 0) 0 ∧ b'.chans = b.chans ∧ b'.copied = false := by
  have hrun := basketCopyComplete_of_move hb hkind hallowed hrate hnone
  obtain ⟨hobjs, hreserved, htables⟩ := s.copyBegins_spec
  have hb' : s.copyBegins.basket? obj index = some b :=
    (State.basket?_congr (congrArg (·.objs) hobjs) hreserved htables obj index).trans hb
  have hmoved := State.basket?_modBasket hb' (f := fun b => { b with
    moveTo := some dest, moveKind := 0, moveFrom := b.chans.getD (if kind = 3 then 1 else 0) 0, copied := false }) fun _ => rfl
  have hids := (s.copyBegins.modBasket_parts obj index (fun b => { b with
    moveTo := some dest, moveKind := 0, moveFrom := b.chans.getD (if kind = 3 then 1 else 0) 0, copied := false })).2.2
  rw [hobjs] at hids
  obtain ⟨b', hroom, -, hyields⟩ := State.basket?_makeRoom (by rw [hids]; exact hnodup) hmoved
  obtain ⟨d, rfl⟩ := hyields Nat.zero_ne_one
  exact ⟨_, _, hrun, hroom, rfl, rfl, rfl, rfl⟩

/-! ### Releases -/

theorem State.capacityCheck_basket? (s : State) (obj index : Nat) : s.capacityCheck.basket? obj index = s.basket? obj index := by
  unfold State.capacityCheck
  extract_lets f w
  split
  · split <;> rfl
  · split
    · exact (State.raise_part (·.basket? obj index) (fun _ => rfl) ..).trans rfl
    · rfl

theorem basketSourceRelease_basket {s : State} {obj index : Nat} {b : Basket} (hb : s.basket? obj index = some b) :
    ∃ t, exec (.basketSourceRelease obj index) s = .next t ∧ t.basket? obj index = some (s.released obj b) := by
  refine ⟨_, rfl, ?_⟩
  rw [State.capacityCheck_basket?]
  exact Eq.trans (State.basket?_congr (s := s.modBasket obj index (s.released obj)) rfl rfl rfl obj index)
    (State.basket?_modBasket hb fun _ => rfl)

/-- Settles O46, by what an update of a basket, the room that replicas yield and an epoch boundary leave as it is. -/
theorem placement : Obligations.Placement := by
  unfold Obligations.Placement
  intro c s o b r obj index kind dest ch
  refine ⟨fun h ho hcls hok hp hr hm h8 h18 hroom => next_hostCmd rfl h (placeHintBody_of_object (s := taken c s) ho hcls hok hp hr hm h8 h18 hroom),
    fun hfree => ?tick, fun hdue => congrArg Host.Outcome.next (if_pos hdue), fun hb hcopying hrate hturn => ?copied,
    fun hb hkind hallowed hrate hnone hnodup => basketCopyComplete_moves hb hkind hallowed hrate hnone hnodup, fun hb hold => ?released,
    fun hb hold => ?kept, fun hmarked => congrArg Host.Outcome.next (if_pos hmarked),
    fun hmarked => congrArg Host.Outcome.next (if_neg (by rw [hmarked]; exact Bool.false_ne_true)), fun hr hsingle => ?single, fun hr hsingle => ?restored⟩
  case tick =>
    have hnow := s.le_advanceTo_now (s.place.epochAt + 1000000)
    have hplace := s.advanceTo_part (·.place) (fun _ _ => rfl) (s.place.epochAt + 1000000)
    have hrun (u : State) := exec_placementEpochTick (s := s) (u := u)
    generalize s.advanceTo (s.place.epochAt + 1000000) = u at hnow hplace hrun
    have hclock := u.epochBoundary_clock
    refine ⟨_, hrun u rfl hfree, ?_, Nat.le_trans hnow (Nat.le_of_eq (State.now_of_time (congrArg Prod.snd hclock)).symm)⟩
    exact (congrArg Prod.fst hclock).trans (congrArg (fun p : Place => p.epoch + 1) hplace)
  case copied =>
    have hnow := s.le_advanceTo_now (s.place.copyEnd + ceilDiv basketBytes (s.copyRate b))
    have hplace := s.advanceTo_part (·.place) (fun _ _ => rfl) (s.place.copyEnd + ceilDiv basketBytes (s.copyRate b))
    have hbasket := (s.advanceTo_part (·.basket? obj index) (fun _ _ => rfl) (s.place.copyEnd + ceilDiv basketBytes (s.copyRate b))).trans hb
    have hrun (u : State) := basketCopyComplete_of_turn (u := u) dest hb hcopying hrate hturn
    generalize s.advanceTo (s.place.copyEnd + ceilDiv basketBytes (s.copyRate b)) = u at hnow hplace hbasket hrun
    obtain ⟨hmigrated, htime, hcopied⟩ := State.copied_spec hbasket b.moveKind
    exact ⟨_, hrun u rfl, hmigrated.trans (congrArg (fun p : Place => p.migrated + 2) hplace), Nat.le_trans hnow (Nat.le_of_eq (State.now_of_time htime).symm), hcopied⟩
  case released =>
    obtain ⟨t, hrun, ht⟩ := basketSourceRelease_basket hb
    refine ⟨t, hrun, ht.trans (congrArg some ?_)⟩
    have hsources : b.oldSources.filter (fun c => s.olderOps obj b c.epoch) = [] :=
      List.filter_eq_nil_iff.2 fun k hk => by simp [hold k (.inl hk)]
    have hreps : b.oldReps.filter (fun c => s.olderOps obj b c.epoch) = [] :=
      List.filter_eq_nil_iff.2 fun k hk => by simp [hold k (.inr hk)]
    unfold State.released
    rw [hsources, hreps]
  case kept =>
    obtain ⟨t, hrun, ht⟩ := basketSourceRelease_basket hb
    exact ⟨t, _, hrun, ht, List.filter_eq_self.2 hold⟩
  case single =>
    change execMirrorRestorationComplete s = _
    unfold execMirrorRestorationComplete
    rw [hr]
    exact congrArg Host.Outcome.next (if_pos hsingle)
  case restored =>
    change execMirrorRestorationComplete s = _
    unfold execMirrorRestorationComplete
    rw [hr]
    exact congrArg Host.Outcome.next (if_neg (by rw [hsingle]; exact Bool.false_ne_true))

end Sys2Proof.Machine
end

