-- ==== Sys2Proof/Proofs/Synthesis/RayTiles.lean ====
section
/-! PROOFS. Ray tiles at the clusters, and bands (R159, R164, R182 to R185). -/

namespace Sys2Proof.Machine

open Sys2Proof

/-! ### A cluster after an update -/

theorem State.cluster_modCluster_same {s : State} {n : Nat} (h : n < s.synth.clusters.length) (f : Cluster → Cluster) :
    (s.modCluster n f).cluster n = f (s.cluster n) := (updAt_getD ..).trans (if_pos ⟨rfl, h⟩)

theorem State.cluster_modCluster_ne (s : State) {n m : Nat} (h : n ≠ m) (f : Cluster → Cluster) :
    (s.modCluster n f).cluster m = s.cluster m := (updAt_getD ..).trans (if_neg fun e => h e.1)

/-- A cluster with a tile on its list is one of the clusters. -/
theorem State.cluster_lt {s : State} {n : Nat} {t : RTile} (h : t ∈ (s.cluster n).list) : n < s.synth.clusters.length := by
  refine Decidable.byContradiction fun hge => ?_
  have hnone : s.cluster n = {} := getD_of_le _ (by omega)
  rw [hnone] at h
  cases h

theorem State.modCluster_congr {s : State} {n : Nat} {f g : Cluster → Cluster} (h : f (s.cluster n) = g (s.cluster n)) :
    s.modCluster n f = s.modCluster n g :=
  congrArg (fun l => ({ s with synth := { s.synth with clusters := l } } : State)) (updAt_congr ({} : Cluster) h)

/-! ### Dispatch -/

theorem mem_of_earliest {l : List RTile} : ∀ {t : RTile}, earliest l = some t → t ∈ l := by
  induction l with
  | nil => exact fun h => nomatch h
  | cons a l ih =>
    intro t h
    unfold earliest at h
    cases he : earliest l with
    | none =>
      rw [he] at h
      cases h
      exact List.mem_cons_self
    | some u =>
      rw [he] at h
      dsimp only at h
      split at h <;> cases h
      · exact List.mem_cons_of_mem _ (ih he)
      · exact List.mem_cons_self

section Dispatch
variable {s : State} {n : Nat} {t : RTile} (hfull : s.dev.state.full = true) (hpool : s.clusterPool.contains n = true)
  (hroom : (s.cluster n).disp.length < 8) (hheld : s.bandHeld t = true) (hpower : (s.domain (6 + n / 4)).st = 2)
include hfull hpool hroom hheld hpower

theorem rayTileDispatch_of_taken {m : Nat} (hfrom : s.takesFrom n = some m)
    (ht : (if m = n then (s.cluster m).list.head? else earliest (s.cluster m).list) = some t) :
    exec (.rayTileDispatch n) s = .next (
      let u := s.modCluster m (fun c => { c with list := c.list.erase t })
      let v : State := if m = n then u else { u with place := { u.place with steals := u.place.steals + 1 } }
      v.modCluster n (fun c => ({ c with disp := c.disp ++ [t] } : Cluster).startHead v.now v.place.epoch.toNat)) := by
  have hguard : ¬ (s.dev.state.full = false ∨ s.clusterPool.contains n = false ∨ (s.domain (6 + n / 4)).st ≠ 2 ∨
      8 ≤ (s.cluster n).disp.length) := by
    rw [hfull, hpool]
    simp only [Bool.true_eq_false, false_or, not_or, Classical.not_not, Nat.not_le]
    exact ⟨hpower, hroom⟩
  change execRayTileDispatch n s = _
  unfold execRayTileDispatch
  rw [if_neg hguard, hfrom]
  dsimp only
  rw [ht]
  dsimp only
  rw [if_neg (by rw [hheld]; exact Bool.noConfusion)]

theorem rayTileDispatch_of_own {ts : List RTile} (hlist : (s.cluster n).list = t :: ts) :
    exec (.rayTileDispatch n) s = .next ((s.modCluster n (fun c => { c with list := ts })).modCluster n (fun c =>
      ({ c with disp := c.disp ++ [t] } : Cluster).startHead s.now s.place.epoch.toNat)) := by
  have hfrom : s.takesFrom n = some n := if_pos (by rw [hlist]; rfl)
  have hrun := rayTileDispatch_of_taken hfull hpool hroom hheld hpower hfrom (by rw [if_pos rfl, hlist]; rfl)
  have herase : s.modCluster n (fun c => { c with list := c.list.erase t }) = s.modCluster n (fun c => { c with list := ts }) := by
    refine State.modCluster_congr ?_
    rw [hlist, List.erase_cons_head]
  rw [herase] at hrun
  dsimp only at hrun
  rw [if_pos rfl] at hrun
  exact hrun

theorem rayTileDispatch_steals {m : Nat} (hlist : (s.cluster n).list = []) (hpar : s.pget 0x07000003 = 1) (hrich : s.richest n = some m)
    (hne : m ≠ n) (hearliest : earliest (s.cluster m).list = some t) :
    ∃ u, exec (.rayTileDispatch n) s = .next u ∧ u.place.steals = s.place.steals + 1 ∧ (u.cluster m).list = (s.cluster m).list.erase t := by
  have hfrom : s.takesFrom n = some m := by
    unfold State.takesFrom
    rw [hlist, if_neg (by decide), if_pos hpar, hrich]
  have hrun := rayTileDispatch_of_taken hfull hpool hroom hheld hpower hfrom ((if_neg hne).trans hearliest)
  dsimp only at hrun
  rw [if_neg hne] at hrun
  refine ⟨_, hrun, rfl, ?_⟩
  rw [State.cluster_modCluster_ne _ hne.symm]
  exact congrArg Cluster.list (State.cluster_modCluster_same (State.cluster_lt (mem_of_earliest hearliest)) _)

end Dispatch

/-! ### Retirement and time-out -/

/-- The delivery of a tile's words changes the synthesis only. -/
theorem State.deliver_spec (s : State) (t : RTile) (wait : Nat) :
    ((s.deliver t).putWait t wait).time = s.time ∧ ((s.deliver t).putWait t wait).place = s.place := by
  have hdeliver : (s.deliver t).time = s.time ∧ (s.deliver t).place = s.place := by
    unfold State.deliver
    split
    · exact ⟨rfl, rfl⟩
    · split <;> exact ⟨rfl, rfl⟩
  exact hdeliver

theorem rayTileRetire_of_started {s : State} {n : Nat} {t : RTile} {ts : List RTile} (hdisp : (s.cluster n).disp = t :: ts) (hstarted : t.started = true)
    (hnow : s.now < t.t0 + 20000) (wait : Nat) :
    exec (.rayTileRetire n wait) s = .next (((s.deliver t).putWait t wait).modCluster n (fun c =>
      ({ c with disp := ts } : Cluster).startHead s.now s.place.epoch.toNat)) := by
  obtain ⟨htime, hplace⟩ := s.deliver_spec t wait
  change execRayTileRetire n wait s = _
  unfold execRayTileRetire
  rw [hdisp]
  dsimp only
  rw [if_neg (by rw [hstarted]; simp [hnow]), State.now_of_time htime, hplace]

/-- The count of clusters' resets, and the time. -/
def State.resetClock (s : State) : Reg × TimeSt := (s.synth.resets, s.time)

theorem State.failCluster_resetClock (s : State) (n : Nat) : (s.failCluster n).resetClock = s.resetClock := by
  unfold State.failCluster
  extract_lets c synth u
  split
  · rfl
  · exact (State.raise_part State.resetClock (fun _ => rfl) ..).trans rfl

/-- A cluster that is reset: its tile goes to the list with the least to do. -/
def State.clusterReset (s : State) (n : Nat) (t : RTile) (ts : List RTile) (resets : List Nat) : State :=
  let u := (s.modCluster n (fun c => ({ c with disp := ts, resets := resets } : Cluster).startHead s.now s.place.epoch.toNat)).reassign n t
  { u with synth := { u.synth with resets := u.synth.resets + 1 } }

theorem exec_rayTileTimeout {s u : State} {n : Nat} {t : RTile} {ts : List RTile} (hdisp : (s.cluster n).disp = t :: ts) (hstarted : t.started = true)
    (hu : s.advanceTo (t.t0 + 20000) = u) :
    exec (.rayTileTimeout n) s = .next (
      let resets := u.now :: (u.cluster n).resets.filter (fun r => decide (u.now < r + 1000000000))
      let v := u.clusterReset n t ts resets
      let w := v.raise 6 3 3 (packNat [at' 63 56 n, at' 55 48 (Nat.min 255 resets.length), at' 31 0 1]) v.arg2f
      if 3 ≤ resets.length then (w.failCluster n).powerSync else w) := by
  change execRayTileTimeout n s = _
  unfold execRayTileTimeout
  rw [hdisp]
  dsimp only
  rw [if_neg (by rw [hstarted]; exact Bool.noConfusion), hu]
  rfl

theorem rayTileTimeout_of_started {s : State} {n : Nat} {t : RTile} {ts : List RTile} (hdisp : (s.cluster n).disp = t :: ts)
    (hstarted : t.started = true) :
    ∃ u, exec (.rayTileTimeout n) s = .next u ∧ t.t0 + 20000 ≤ u.now ∧ u.synth.resets = s.synth.resets + 1 := by
  have hnow := s.le_advanceTo_now (t.t0 + 20000)
  have hresets := s.advanceTo_part (·.synth.resets) (fun _ _ => rfl) (t.t0 + 20000)
  have hexec (u : State) := exec_rayTileTimeout (u := u) hdisp hstarted
  generalize s.advanceTo (t.t0 + 20000) = u at hnow hresets hexec
  have hrun := hexec u rfl
  dsimp only at hrun
  generalize u.now :: (u.cluster n).resets.filter (fun r => decide (u.now < r + 1000000000)) = resets at hrun
  have hclock : (u.clusterReset n t ts resets).resetClock = (u.synth.resets + 1, u.time) := rfl
  generalize u.clusterReset n t ts resets = v at hrun hclock
  have hraised := (State.raise_part State.resetClock (fun _ => rfl) v 6 3 3
    (packNat [at' 63 56 n, at' 55 48 (Nat.min 255 resets.length), at' 31 0 1]) v.arg2f).trans hclock
  generalize v.raise 6 3 3 (packNat [at' 63 56 n, at' 55 48 (Nat.min 255 resets.length), at' 31 0 1]) v.arg2f = w at hrun hraised
  have hend : (if 3 ≤ resets.length then (w.failCluster n).powerSync else w).resetClock = (u.synth.resets + 1, u.time) := by
    split
    · exact (w.failCluster_resetClock n).trans hraised
    · exact hraised
  refine ⟨_, hrun, ?_, (congrArg Prod.fst hend).trans (congrArg (· + 1) hresets)⟩
  exact Nat.le_trans hnow (Nat.le_of_eq (State.now_of_time (congrArg Prod.snd hend)).symm)

/-! ### Quarter checks -/

theorem State.escalate_checks (s : State) (x : FrameFix) (sf q : Nat) : (s.escalate x sf q).synth.checks = s.synth.checks := by
  unfold State.escalate
  extract_lets ts first up synth u
  exact (State.raise_part (·.synth.checks) (fun _ => rfl) ..).trans rfl

theorem exec_forecastQuarterCheck {s : State} {x : FrameFix} {g : Geom} {sf : Nat} (hfull : s.dev.state.full = true) (hcur : s.synth.cur = some x)
    (hblanket : x.blanket = false) (hgeom : x.geom = some g) (hsf : x.states[s.synth.checks / 3]? = some sf) :
    ∃ (t q rays : Nat), exec .forecastQuarterCheck s = .next (
      let u := s.advanceTo t
      let v : State := { u with synth := { u.synth with checks := u.synth.checks + 1 } }
      if rays < sumN ((v.unretired x.frame sf).map (fun (t : RTile) => tileRays g (t.step x) t.by_ t.tx)) then v.escalate x sf q else v) := by
  have hfilter : s.synth.cur.filter (fun (x : FrameFix) => s.dev.state.full && !x.blanket) = some x := by
    rw [hcur, Option.filter_some, hfull, hblanket]
    rfl
  apply Exists.intro
  apply Exists.intro
  apply Exists.intro
  change execForecastQuarterCheck s = _
  unfold execForecastQuarterCheck
  rw [hfilter]
  dsimp only
  rw [hgeom, hsf]

theorem forecastQuarterCheck_counts {s : State} {x : FrameFix} {g : Geom} {sf : Nat} (hfull : s.dev.state.full = true) (hcur : s.synth.cur = some x)
    (hblanket : x.blanket = false) (hgeom : x.geom = some g) (hsf : x.states[s.synth.checks / 3]? = some sf) :
    ∃ u, exec .forecastQuarterCheck s = .next u ∧ u.synth.checks = s.synth.checks + 1 ∧
      (s.unretired x.frame sf = [] → u.synth.clusters = s.synth.clusters ∧ u.ev = s.ev) := by
  obtain ⟨t, q, rays, hrun⟩ := exec_forecastQuarterCheck hfull hcur hblanket hgeom hsf
  have hsynth := s.advanceTo_part (·.synth) (fun _ _ => rfl) t
  have hev := s.advanceTo_part (·.ev) (fun _ _ => rfl) t
  generalize s.advanceTo t = u at hrun hsynth hev
  refine ⟨_, hrun, ?_, fun hnone => ?_⟩
  · rw [← hsynth]
    dsimp only
    split
    · exact State.escalate_checks ..
    · rfl
  · have hleft : ({ u with synth := { u.synth with checks := u.synth.checks + 1 } } : State).unretired x.frame sf = [] := by
      rw [← hnone]
      exact congrArg (fun y : Synth => y.clusters.flatMap (fun c => (c.disp ++ c.list).filter (fun t => t.isOf x.frame sf))) hsynth
    dsimp only
    rw [hleft, if_neg (show ¬ rays < sumN (List.map _ []) from Nat.not_lt_zero _)]
    have hclusters : u.synth.clusters = s.synth.clusters := congrArg Synth.clusters hsynth
    exact ⟨hclusters, hev⟩

/-! ### Bands -/

theorem bandCompress_of_complete {s : State} {tile : Nat} {b : Band} {x : FrameFix} {lt : LayTile}
    (hb : s.synth.bands.find? (fun (b : Band) => b.tile == tile) = some b) (hx : s.fixOf b.frame = some x)
    (hlt : x.layout.find? (fun (t : LayTile) => t.tile == tile) = some lt) (hneed : b.need ≤ b.got.length)
    (hroom : s.dropsRows b = true ∨ (s.scanOf tile).used + 8 * (lt.w / 8) * (formB x.code / 8) ≤ x.shareBytes) :
    exec (.bandCompress tile) s = .next (s.compressBand x lt b) := by
  change execBandCompress tile s = _
  unfold execBandCompress
  rw [hb]
  dsimp only
  rw [hx]
  dsimp only
  rw [hlt]
  dsimp only
  rw [if_neg (Nat.not_lt.2 hneed), if_neg fun h => hroom.elim (ne_true_of_eq_false h.1) (Nat.not_le.2 h.2)]

/-- Settles O45, by the branch of each instruction that the cluster, the frame and the band select. -/
theorem rayTiles : Obligations.RayTiles := by
  unfold Obligations.RayTiles
  intro s n m tile wait sf t ts x g b lt
  exact ⟨fun hfull hpool hroom hheld hpower => ⟨rayTileDispatch_of_own hfull hpool hroom hheld hpower,
      rayTileDispatch_steals hfull hpool hroom hheld hpower⟩,
    fun hdisp hstarted => ⟨fun hnow => rayTileRetire_of_started hdisp hstarted hnow wait, rayTileTimeout_of_started hdisp hstarted⟩,
    forecastQuarterCheck_counts, bandCompress_of_complete⟩

end Sys2Proof.Machine
end

