-- ==== Sys2Proof/Proofs/Decode/AccessUnits.lean ====
section
/-! PROOFS. Access units: their fate, start, end and time-outs (R42, R108 to R118). -/

namespace Sys2Proof.Machine

open Sys2Proof Sys2Proof.Safety

/-! ### A stream after an update -/

theorem State.id_of_stream? {s : State} {d : StreamId} {x : DStream} (h : s.stream? d = some x) : x.id = d := by
  simpa using List.find?_some h

theorem State.stream?_of_dec {s t : State} (h : t.dec = s.dec) (d : StreamId) : t.stream? d = s.stream? d :=
  congrArg (fun z : Decode => z.streams.find? (fun (x : DStream) => x.id == d)) h

/-- A map that keeps the streams' names maps the stream that is found. -/
theorem find?_map_stream {g : DStream → DStream} (hg : ∀ y, (g y).id = y.id) (d : StreamId) (l : List DStream) :
    (l.map g).find? (fun x => x.id == d) = (l.find? (fun x => x.id == d)).map g := by
  rw [List.find?_map]
  congr 2
  funext y
  exact congrArg (· == d) (hg y)

theorem State.stream?_modStream {s : State} {d : StreamId} {x : DStream} (h : s.stream? d = some x) {f : DStream → DStream}
    (hf : ∀ y, (f y).id = y.id) : (s.modStream d f).stream? d = some (f x) := by
  have hg (y : DStream) : (if y.id = d then f y else y).id = y.id := by
    split
    · exact hf y
    · rfl
  refine (find?_map_stream hg d s.dec.streams).trans ?_
  rw [show s.dec.streams.find? (fun x => x.id == d) = some x from h]
  exact congrArg some (if_pos (State.id_of_stream? h))

theorem State.modStream_now (s : State) (d : StreamId) (f : DStream → DStream) : (s.modStream d f).now = s.now :=
  State.now_of_time (State.modStream_time ..)

/-! ### What becomes of an access unit -/

theorem State.auFate_of_rap {s : State} {st : StreamId} {x : DStream} {it : AuItem} {info : AuInfo} {q : SeqSets} (hx : s.stream? st = some x)
    (hslices : info.slices = true) (hrap : info.rap = true) (hsets : x.setsOf info.sets = some q) (hgood : q.bad (it.codec st.kind) = none)
    (hcut : s.place.cut.contains ((s.scene? st.slot).elim 0 (·.obj)) = false) : s.auFate x it info = .decodes q := by
  unfold State.auFate
  rw [State.id_of_stream? hx, hsets, hslices, hrap]
  simp only [Option.bind_some, hgood, hcut, Bool.not_true, Bool.false_and, Bool.and_false, Bool.false_eq_true, if_false]

/-- The fate of an access unit looks at the scenes and the placement only. -/
theorem State.auFate_congr {s t : State} (hingest : t.ingest = s.ingest) (hplace : t.place = s.place) (x : DStream) (it : AuItem) (i : AuInfo) :
    t.auFate x it i = s.auFate x it i := by
  unfold State.auFate State.scene?
  rw [hingest, hplace]

/-! ### Items that need no decoding -/

theorem State.drain_of_none {s : State} {d : StreamId} {x : DStream} (h : s.stream? d = some x) (hq : x.queue = []) : s.drain d = s := by
  unfold State.drain
  rw [h]
  dsimp only
  rw [hq]
  rfl

/-- Nothing is drained while an access unit is at the cores or at the head of the queue. -/
theorem State.drain_of_blocked {s : State} {d : StreamId} {x : DStream} (h : s.stream? d = some x)
    (hb : x.running.isSome = true ∨ x.queued.isSome = true ∨ ∀ it ∈ x.queue.head?, it.kind = 0) : s.drain d = s := by
  cases hq : x.queue with
  | nil => exact State.drain_of_none h hq
  | cons it l =>
    have hstop : x.running.isSome ∨ x.queued.isSome = true ∨ it.kind = 0 := by
      rw [hq] at hb
      exact hb.imp_right (Or.imp_right fun hk => hk it rfl)
    unfold State.drain
    rw [h]
    dsimp only
    rw [hq, List.length_cons]
    unfold State.drainStream
    rw [h]
    dsimp only
    rw [hq]
    dsimp only
    rw [if_pos hstop]

/-! ### The end of an access unit -/

/-- The stream has nothing queued and nothing at its cores; it has yielded n pictures, and its team stands. -/
def State.IdleStream (s : State) (d : StreamId) (n : Reg) (team : List Nat) : Prop :=
  ∃ y, s.stream? d = some y ∧ y.running = none ∧ y.queued = none ∧ y.queue = [] ∧ y.decoded = n ∧ y.team = team

theorem State.IdleStream.of_dec {s t : State} {d : StreamId} {n : Reg} {team : List Nat} (h : s.IdleStream d n team) (hdec : t.dec = s.dec) :
    t.IdleStream d n team := by
  obtain ⟨y, hy, hrest⟩ := h
  exact ⟨y, (State.stream?_of_dec hdec d).trans hy, hrest⟩

theorem State.IdleStream.modStream {s : State} {d : StreamId} {n : Reg} {team : List Nat} (h : s.IdleStream d n team) {f : DStream → DStream}
    (hid : ∀ y, (f y).id = y.id) (hrun : ∀ y, y.running = none → (f y).running = none) (hqueued : ∀ y, (f y).queued = y.queued)
    (hqueue : ∀ y, (f y).queue = y.queue) (hteam : ∀ y, (f y).team = y.team) {m : Reg} (hdec : ∀ y, y.decoded = n → (f y).decoded = m) :
    (s.modStream d f).IdleStream d m team := by
  obtain ⟨y, hy, h1, h2, h3, h4, h5⟩ := h
  exact ⟨f y, State.stream?_modStream hy hid, hrun y h1, (hqueued y).trans h2, (hqueue y).trans h3, hdec y h4, (hteam y).trans h5⟩

/-- Starting what is queued leaves an idle stream as it is. -/
theorem State.IdleStream.startWaiting {s : State} {d : StreamId} {n : Reg} {team : List Nat} (h : s.IdleStream d n team) (e : StreamId) :
    (s.startWaiting e).IdleStream d n team := by
  obtain ⟨y, hy, hrun, hqueued, hrest⟩ := h
  unfold State.startWaiting
  split
  · exact ⟨y, hy, hrun, hqueued, hrest⟩
  · apply Exists.intro
    refine ⟨(find?_map_stream (fun z => ?_) d s.dec.streams).trans (congrArg (Option.map _) hy), ?_⟩
    · split <;> rfl
    · dsimp only
      split
      · exact ⟨by rw [hqueued]; rfl, rfl, hrest⟩
      · exact ⟨hrun, hqueued, hrest⟩

theorem State.IdleStream.startQueued {s : State} {d : StreamId} {n : Reg} {team : List Nat} (h : s.IdleStream d n team) :
    s.startQueued.IdleStream d n team := by
  unfold State.startQueued
  generalize s.dec.streams.map (fun x => x.id) = ids
  induction ids generalizing s with
  | nil => exact h
  | cons e ids ih => exact ih (h.startWaiting e)

theorem State.IdleStream.drain {s : State} {d : StreamId} {n : Reg} {team : List Nat} (h : s.IdleStream d n team) : s.drain d = s := by
  obtain ⟨y, hy, -, -, hqueue, -⟩ := h
  exact State.drain_of_none hy hqueue

theorem State.decodeConceal_dec (s : State) (d : StreamId) (frame reason ctus : Nat) : (s.decodeConceal d frame reason ctus).dec = s.dec := by
  unfold State.decodeConceal
  split
  · rfl
  · split
    · rfl
    · exact (State.raise_part (·.dec) (fun _ => rfl) ..).trans rfl

theorem State.IdleStream.yieldPic {s : State} {d : StreamId} {n : Reg} {team : List Nat} (h : s.IdleStream d n team) (it : AuItem) (p : YPic)
    (own benign keep : Bool) (ctus : Nat) : (s.yieldPic d it p own benign keep ctus).IdleStream d (n + 1) team := by
  unfold State.yieldPic
  extract_lets u v
  have hu : u.IdleStream d (n + 1) team := by
    apply h.modStream
    case hrun => exact fun _ hy => hy
    case hdec => exact fun _ hy => congrArg (· + 1) hy
    all_goals exact fun _ => rfl
  have hv : v.IdleStream d (n + 1) team := hu.of_dec rfl
  split
  · exact hv.of_dec (State.decodeConceal_dec ..)
  · exact hv

/-- What the end of an access unit does not touch: the cores and the time bases. -/
def State.coresTime (s : State) : List DCore × TimeSt := (s.dec.cores, s.time)

theorem State.coresTime_raise (s : State) (source code severity arg arg2 : Nat) :
    (s.raise source code severity arg arg2).coresTime = s.coresTime := State.raise_part State.coresTime (fun _ => rfl) ..

theorem State.coresTime_decodeConceal (s : State) (d : StreamId) (frame reason ctus : Nat) :
    (s.decodeConceal d frame reason ctus).coresTime = s.coresTime := by
  unfold State.decodeConceal
  split
  · rfl
  · split
    · rfl
    · exact (State.coresTime_raise ..).trans rfl

theorem State.coresTime_yieldPic (s : State) (d : StreamId) (it : AuItem) (p : YPic) (own benign keep : Bool) (ctus : Nat) :
    (s.yieldPic d it p own benign keep ctus).coresTime = s.coresTime := by
  unfold State.yieldPic
  extract_lets u v
  have hv : v.coresTime = s.coresTime := rfl
  split
  · exact (State.coresTime_decodeConceal ..).trans hv
  · exact hv

theorem State.coresTime_startWaiting (s : State) (d : StreamId) : (s.startWaiting d).coresTime = s.coresTime := by
  unfold State.startWaiting
  split <;> rfl

theorem State.coresTime_startQueued (s : State) : s.startQueued.coresTime = s.coresTime := by
  unfold State.startQueued
  generalize s.dec.streams.map (fun x => x.id) = ids
  induction ids generalizing s with
  | nil => rfl
  | cons e ids ih => exact (ih _).trans (s.coresTime_startWaiting e)

/-- An access unit ends by the yield of a picture, in a state whose stream is idle. -/
theorem State.endAu_eq_yieldPic {s : State} {d : StreamId} {x : DStream} {r : RunAu} (hx : s.stream? d = some x) (hr : x.running = some r)
    (hq : x.queue = []) (hn : x.queued = none) (o : AuResult) (fault : Nat) :
    ∃ (u : State) (p : YPic) (own benign : Bool) (ctus : Nat),
      s.endAu d o fault = (u.yieldPic d r.item p own benign false ctus).startQueued.drain d ∧ u.IdleStream d x.decoded x.team ∧ u.coresTime = s.coresTime := by
  unfold State.endAu
  rw [hx]
  dsimp -zeta only
  rw [hr]
  dsimp -zeta only
  extract_lets it rap b ran t y masked p ctus v w
  have hran : ran.dec = s.dec ∧ ran.coresTime = s.coresTime := by
    unfold ran
    split
    · exact ⟨rfl, rfl⟩
    · exact ⟨State.raise_part (·.dec) (fun _ => rfl) .., State.coresTime_raise ..⟩
  have hstream : ran.stream? d = some x := (State.stream?_of_dec hran.1 d).trans hx
  have ht : t.IdleStream d x.decoded x.team := ⟨_, State.stream?_modStream hstream (fun _ => rfl), rfl, hn, hq, rfl, rfl⟩
  have htime : t.coresTime = s.coresTime := hran.2
  refine ⟨w, p, _, _, ctus, rfl, ?_⟩
  clear_value t
  have hv : v.IdleStream d x.decoded x.team ∧ v.coresTime = s.coresTime := by
    unfold v
    split
    · exact ⟨ht, htime⟩
    · exact ⟨ht.of_dec (State.raise_part (·.dec) (fun _ => rfl) ..), (State.coresTime_raise ..).trans htime⟩
  obtain ⟨hidle, hsame⟩ := hv
  clear_value v
  unfold w
  split
  · refine ⟨?_, hsame⟩
    apply hidle.modStream
    case hrun => exact fun _ hy => hy
    case hdec => exact fun _ hy => hy
    all_goals exact fun _ => rfl
  · exact ⟨ht, htime⟩

/-- The end of the access unit of a stream with nothing else to do: one picture more, and the cores are free. -/
theorem State.endAu_of_running {s : State} {d : StreamId} {x : DStream} {r : RunAu} (hx : s.stream? d = some x) (hr : x.running = some r)
    (hq : x.queue = []) (hn : x.queued = none) (o : AuResult) (fault : Nat) :
    (s.endAu d o fault).IdleStream d (x.decoded + 1) x.team ∧ (s.endAu d o fault).coresTime = s.coresTime := by
  obtain ⟨u, p, own, benign, ctus, hend, hidle, htime⟩ := State.endAu_eq_yieldPic hx hr hq hn o fault
  have hyielded := (hidle.yieldPic r.item p own benign false ctus).startQueued
  rw [hend, hyielded.drain]
  exact ⟨hyielded, ((State.coresTime_startQueued _).trans (State.coresTime_yieldPic ..)).trans htime⟩

theorem State.overrun_of_running {s : State} {d : StreamId} {x : DStream} {r : RunAu} (hx : s.stream? d = some x) (hr : x.running = some r)
    (hq : x.queue = []) (hn : x.queued = none) (o : AuResult) :
    (s.overrun d r o).IdleStream d (x.decoded + 1) x.team ∧ (s.overrun d r o).now = s.now := by
  obtain ⟨hidle, htime⟩ := State.endAu_of_running hx hr hq hn o 8
  have hnow : (s.endAu d o 8).now = s.now := State.now_of_time (congrArg Prod.snd htime)
  unfold State.overrun
  exact ⟨hidle.of_dec (State.raise_part (·.dec) (fun _ => rfl) ..), (State.raise_now ..).trans hnow⟩

theorem auDecodeComplete_of_running {s : State} {st : StreamId} {x : DStream} {r : RunAu} (hx : s.stream? st = some x) (res : AuResult)
    (hr : x.running = some r) (hq : x.queue = []) (hn : x.queued = none) :
    ∃ t y, exec (.auDecodeComplete st res) s = .next t ∧ t.stream? st = some y ∧ y.running = none ∧ y.decoded = x.decoded + 1 := by
  have hrun : exec (.auDecodeComplete st res) s = .next (if s.budgetEnd r < s.now then s.overrun st r res else s.endAu st res 0) := by
    change execAuDecodeComplete st res s = _
    unfold execAuDecodeComplete
    rw [hx, Option.bind_some, hr]
  have hidle : (if s.budgetEnd r < s.now then s.overrun st r res else s.endAu st res 0).IdleStream st (x.decoded + 1) x.team := by
    split
    · exact (State.overrun_of_running hx hr hq hn res).1
    · exact (State.endAu_of_running hx hr hq hn res 0).1
  obtain ⟨y, hy, hrunning, -, -, hdecoded, -⟩ := hidle
  exact ⟨_, y, hrun, hy, hrunning, hdecoded⟩

theorem auBudgetExpiry_of_running {s : State} {st : StreamId} {x : DStream} {r : RunAu} (hx : s.stream? st = some x) (stop : Nat) (res : AuResult)
    (hr : x.running = some r) (hq : x.queue = []) (hn : x.queued = none) :
    ∃ t y, exec (.auBudgetExpiry st stop res) s = .next t ∧ t.stream? st = some y ∧ y.running = none ∧
      r.t0 + s.pget 0x04000002 * s.tim.tp ≤ t.now := by
  have hrun : exec (.auBudgetExpiry st stop res) s = .next ((s.advanceTo (s.budgetEnd r + Nat.min stop 1000000)).overrun st r res) := by
    change execAuBudgetExpiry st stop res s = _
    unfold execAuBudgetExpiry
    rw [hx, Option.bind_some, hr]
  have hle : r.t0 + s.pget 0x04000002 * s.tim.tp ≤ s.budgetEnd r + Nat.min stop 1000000 := Nat.le_add_right _ _
  have hnow := s.le_advanceTo_now (s.budgetEnd r + Nat.min stop 1000000)
  have hdec := s.advanceTo_part (·.dec) (fun _ _ => rfl) (s.budgetEnd r + Nat.min stop 1000000)
  generalize s.budgetEnd r + Nat.min stop 1000000 = b at hrun hle hnow hdec
  obtain ⟨⟨y, hy, hrunning, -⟩, hkeep⟩ := State.overrun_of_running ((State.stream?_of_dec hdec st).trans hx) hr hq hn res
  exact ⟨_, y, hrun, hy, hrunning, Nat.le_trans hle (Nat.le_trans hnow (Nat.le_of_eq hkeep.symm))⟩

/-! ### A core that does not complete a CTU -/

/-- A core is reset, once more within a second. -/
def State.resetCore (s : State) (core : Nat) (l : List Nat) : State :=
  { s with dec := { s.dec with cores := updAt s.dec.cores core (fun (c : DCore) => { c with resets := l }) } }

theorem State.resetCore_core {s : State} {core : Nat} (h : core < s.dec.cores.length) (l : List Nat) :
    (s.resetCore core l).dec.cores.getD core {} = { s.dec.cores.getD core {} with resets := l } :=
  (updAt_getD ..).trans (if_pos ⟨rfl, h⟩)

/-- A core that is lost is failed, and leaves the team of an idle stream. -/
theorem State.loseCore_of_idle {s : State} {d : StreamId} {n : Reg} {team : List Nat} (h : s.IdleStream d n team) {core : Nat}
    (hteam : team.contains core = true) (hlen : core < s.dec.cores.length) :
    (s.loseCore core).IdleStream d n (team.filter (· != core)) ∧
      ((s.loseCore core).dec.cores.getD core {}).failed = true ∧
      ((s.loseCore core).dec.cores.getD core {}).resets = (s.dec.cores.getD core {}).resets := by
  unfold State.loseCore
  extract_lets dec u
  have hdec (source code severity arg arg2 : Nat) : (u.raise source code severity arg arg2).powerSync.dec = u.dec :=
    State.raise_part (·.dec) (fun _ => rfl) ..
  constructor
  · refine State.IdleStream.of_dec (s := u) ?_ (hdec ..)
    obtain ⟨y, hy, hrun, hqueued, hqueue, hdecoded, rfl⟩ := h
    refine ⟨_, (find?_map_stream (fun z => ?_) d s.dec.streams).trans (congrArg (Option.map _) hy), ?_⟩
    · split <;> rfl
    · dsimp only
      rw [if_pos hteam]
      exact ⟨hrun, hqueued, hqueue, hdecoded, rfl⟩
  · have hcore : u.dec.cores.getD core {} = { s.dec.cores.getD core {} with failed := true } := (updAt_getD ..).trans (if_pos ⟨rfl, hlen⟩)
    rw [hdec, hcore]
    exact ⟨rfl, rfl⟩

theorem exec_ctuTimeout {s : State} {core : Nat} {st : StreamId} {x : DStream} {r : RunAu} (hx : s.stream? st = some x) (res : AuResult)
    (hr : x.running = some r) (hcore : x.team.contains core = true) {u : State} (hu : s.endAu st res 9 = u) {l : List Nat}
    (hl : recentResets u.now (u.dec.cores.getD core {}).resets = l) :
    ∃ arg, exec (.ctuTimeout core st res) s = .next (if 3 ≤ l.length then ((u.resetCore core l).raise 4 5 3 arg (decArg2 st)).loseCore core
      else (u.resetCore core l).raise 4 5 3 arg (decArg2 st)) := by
  apply Exists.intro
  change execCtuTimeout core st res s = _
  unfold execCtuTimeout
  rw [hx]
  dsimp only
  rw [hr]
  dsimp only
  rw [hcore, Bool.not_true, if_neg Bool.false_ne_true, hu, hl]
  rfl

theorem ctuTimeout_resets {s : State} {core : Nat} {st : StreamId} {x : DStream} {r : RunAu} (hx : s.stream? st = some x) (res : AuResult)
    (hr : x.running = some r) (hq : x.queue = []) (hn : x.queued = none) (hcore : x.team.contains core = true)
    (hlen : core < s.dec.cores.length) :
    let l := recentResets s.now (s.dec.cores.getD core {}).resets
    ∃ t y, exec (.ctuTimeout core st res) s = .next t ∧ t.stream? st = some y ∧ y.running = none ∧
      (t.dec.cores.getD core {}).resets = l ∧ (3 ≤ l.length → (t.dec.cores.getD core {}).failed = true ∧ y.team.contains core = false) ∧
      (l.length < 3 → (t.dec.cores.getD core {}).failed = (s.dec.cores.getD core {}).failed) := by
  intro l
  obtain ⟨hidle, hsame⟩ := State.endAu_of_running hx hr hq hn res 9
  generalize hu : s.endAu st res 9 = u at hidle hsame
  have hcores : u.dec.cores = s.dec.cores := congrArg Prod.fst hsame
  have hl : recentResets u.now (u.dec.cores.getD core {}).resets = l := by
    rw [hcores, State.now_of_time (congrArg Prod.snd hsame)]
  obtain ⟨arg, hrun⟩ := exec_ctuTimeout hx res hr hcore hu hl
  have hdec : ((u.resetCore core l).raise 4 5 3 arg (decArg2 st)).dec = (u.resetCore core l).dec := State.raise_part (·.dec) (fun _ => rfl) ..
  have hreset : ((u.resetCore core l).raise 4 5 3 arg (decArg2 st)).dec.cores.getD core {} = { s.dec.cores.getD core {} with resets := l } := by
    rw [hdec, State.resetCore_core (by rw [hcores]; exact hlen), hcores]
  have hstill : ((u.resetCore core l).raise 4 5 3 arg (decArg2 st)).IdleStream st (x.decoded + 1) x.team := by
    obtain ⟨y, hy, hrest⟩ := hidle
    exact State.IdleStream.of_dec (s := u.resetCore core l) ⟨y, hy, hrest⟩ hdec
  have hlength : core < ((u.resetCore core l).raise 4 5 3 arg (decArg2 st)).dec.cores.length := by
    rw [hdec]
    exact (updAt_length ..).symm ▸ hcores.symm ▸ hlen
  generalize (u.resetCore core l).raise 4 5 3 arg (decArg2 st) = v at hrun hreset hstill hlength
  by_cases hthree : 3 ≤ l.length
  · rw [if_pos hthree] at hrun
    obtain ⟨⟨y, hy, hrunning, -, -, -, hteam⟩, hfailed, hresets⟩ := State.loseCore_of_idle hstill hcore hlength
    rw [hreset] at hresets
    refine ⟨_, y, hrun, hy, hrunning, hresets, fun _ => ⟨hfailed, ?_⟩, fun h => absurd hthree (Nat.not_le.2 h)⟩
    rw [hteam]
    simp
  · rw [if_neg hthree] at hrun
    obtain ⟨y, hy, hrunning, -⟩ := hstill
    exact ⟨v, y, hrun, hy, hrunning, by rw [hreset], fun h => absurd h hthree, fun _ => by rw [hreset]⟩

/-! ### The start of an access unit -/

theorem State.coreFull_of_none_queued {s : State} (h : ∀ y ∈ s.dec.streams, y.queued = none) (x : DStream) : s.coreFull x = false := by
  unfold State.coreFull
  rw [Bool.and_eq_false_iff]
  right
  rw [List.any_eq_false]
  intro y hy
  simp [h y hy]

/-- The team that a stream gets changes how it is decoded, not what is to be decoded. -/
theorem State.formTeam_stream {s : State} {d : StreamId} {x : DStream} (hx : s.stream? d = some x) (codec : Nat) (q : SeqSets) :
    ∃ team want shared, (s.formTeam d codec q).stream? d =
      some { x with team := team, want := want, split := q.split, formedFor := some q, shared := shared, reform := false } := by
  unfold State.formTeam
  extract_lets want team ok ran t given u out
  have ht : t.dec = s.dec := by
    unfold t ran
    split <;> rfl
  have hu : u.stream? d = _ := State.stream?_modStream ((State.stream?_of_dec ht d).trans hx) (fun _ => rfl)
  refine ⟨given, want, team.isEmpty, ?_⟩
  split
  · exact hu
  · exact (State.stream?_of_dec (State.raise_part (·.dec) (fun _ => rfl) ..) d).trans hu

/-- A part that the streams, the free values and events are not in stays as a team is formed. -/
theorem State.formTeam_part {α : Type} (f : State → α) (hraise : ∀ z : State, f { z.rest with saf := {} } = f z)
    (hdec : ∀ (z : State) (x : Decode), f { z with dec := x } = f z) (hfree : ∀ (z : State) (n : Nat), f { z with free := n } = f z)
    (s : State) (d : StreamId) (codec : Nat) (q : SeqSets) : f (s.formTeam d codec q) = f s := by
  unfold State.formTeam
  extract_lets want team ok ran t given u out
  have ht : f t = f s := by
    unfold t ran
    split
    · exact hfree s _
    · rfl
  have hu : f u = f s := (hdec t _).trans ht
  split
  · exact hu
  · exact (State.raise_part f hraise ..).trans hu

theorem State.formTeam_now (s : State) (d : StreamId) (codec : Nat) (q : SeqSets) : (s.formTeam d codec q).now = s.now :=
  State.now_of_time (State.formTeam_part (·.time) (fun _ => rfl) (fun _ _ => rfl) (fun _ _ => rfl) ..)

theorem State.formTeam_ingest (s : State) (d : StreamId) (codec : Nat) (q : SeqSets) : (s.formTeam d codec q).ingest = s.ingest :=
  State.formTeam_part (·.ingest) (fun _ => rfl) (fun _ _ => rfl) (fun _ _ => rfl) ..

theorem State.formTeam_place (s : State) (d : StreamId) (codec : Nat) (q : SeqSets) : (s.formTeam d codec q).place = s.place :=
  State.formTeam_part (·.place) (fun _ => rfl) (fun _ _ => rfl) (fun _ _ => rfl) ..

theorem State.formTeam_none_queued {s : State} (h : ∀ y ∈ s.dec.streams, y.queued = none) (d : StreamId) (codec : Nat) (q : SeqSets) :
    ∀ y ∈ (s.formTeam d codec q).dec.streams, y.queued = none := by
  unfold State.formTeam
  extract_lets want team ok ran t given u out
  have ht : t.dec = s.dec := by
    unfold t ran
    split <;> rfl
  have hu : ∀ y ∈ u.dec.streams, y.queued = none := by
    intro y hy
    obtain ⟨z, hz, rfl⟩ := List.mem_map.mp hy
    have hqueued : z.queued = none := h z (ht ▸ hz)
    split <;> exact hqueued
  split
  · exact hu
  · rwa [State.raise_part (·.dec) (fun _ => rfl)]

/-- The access unit has left its stream's queue: it runs, or it is queued at its core. -/
def State.Started (s : State) (d : StreamId) (rest : List AuItem) (a : RunAu) : Prop :=
  ∃ y, s.stream? d = some y ∧ y.queue = rest ∧ ((y.running = some a ∧ y.queued = none) ∨ (y.running = none ∧ y.queued = some a))

theorem State.Started.drain {s : State} {d : StreamId} {rest : List AuItem} {a : RunAu} (h : s.Started d rest a) : s.drain d = s := by
  obtain ⟨y, hy, -, hcore⟩ := h
  refine State.drain_of_blocked hy (hcore.imp (fun h => ?_) (fun h => .inl ?_))
  · rw [h.1]
    rfl
  · rw [h.2]
    rfl

theorem State.runAu_started {s : State} {d : StreamId} {x : DStream} {rest : List AuItem} (hx : s.stream? d = some x) (hq : x.queue = rest)
    (hr : x.running = none) (hn : x.queued = none) (a : RunAu) : (s.runAu d a).Started d rest a := by
  unfold State.runAu
  rw [hx]
  refine ⟨_, State.stream?_modStream hx (fun z => ?_), ?_⟩
  · split <;> rfl
  · split
    · exact ⟨hq, .inr ⟨hr, rfl⟩⟩
    · exact ⟨hq, .inl ⟨rfl, hn⟩⟩

theorem State.startAu_started {s : State} {d : StreamId} {it : AuItem} {x : DStream} {i : AuInfo} {q : SeqSets} (hx : s.stream? d = some x)
    (hr : x.running = none) (hn : x.queued = none) (hfate : s.auFate x it i = .decodes q) :
    (s.startAu d it x i).Started d x.queue { item := it, info := i, sets := some q, t0 := s.now, epoch := s.place.epoch.toNat } := by
  unfold State.startAu
  rw [hfate]
  dsimp only
  simp only [State.modStream_now, State.modStream_place]
  apply State.runAu_started
  case hx =>
    apply State.stream?_modStream
    case h =>
      apply State.stream?_modStream hx
      exact fun _ => rfl
    case hf => exact fun _ => rfl
  case hq => rfl
  case hr => exact hr
  case hn => exact hn

/-- The start of the access unit at the head of a stream's queue, which takes its item and its parameter sets. -/
def State.startHead (s : State) (st : StreamId) (it : AuItem) (info : AuInfo) : State :=
  let s := s.modStream st (fun (z : DStream) => (z.take it).takeSets info)
  match s.stream? st with
  | none => s
  | some z => (s.startAu st it z info).drain st

theorem State.startHead_started {s : State} {st : StreamId} {it : AuItem} {rest : List AuItem} {x : DStream} {info : AuInfo} {q : SeqSets}
    (hx : s.stream? st = some x) (hq : x.queue = it :: rest) (hr : x.running = none) (hn : x.queued = none)
    (hfate : s.auFate ((x.take it).takeSets info) it info = .decodes q) :
    (s.startHead st it info).Started st rest { item := it, info := info, sets := some q, t0 := s.now, epoch := s.place.epoch.toNat } := by
  have hz : (s.modStream st (fun (z : DStream) => (z.take it).takeSets info)).stream? st = some ((x.take it).takeSets info) :=
    State.stream?_modStream hx fun _ => rfl
  have hqueue : ((x.take it).takeSets info).queue = rest := congrArg (List.drop 1) hq
  have hstarted := State.startAu_started hz hr hn ((State.auFate_congr rfl rfl ..).trans hfate)
  rw [hqueue] at hstarted
  unfold State.startHead
  dsimp only
  rw [hz]
  dsimp only
  rw [hstarted.drain]
  exact hstarted

/-- An access unit that is to be decoded, in its turn: it starts, on the team that is formed for it where one is. -/
theorem exec_auDecodeStart {s : State} {st : StreamId} {it : AuItem} {rest : List AuItem} {x : DStream} {info : AuInfo} {q : SeqSets}
    (hx : s.stream? st = some x) (hq : x.queue = it :: rest) (hkind : it.kind = 0) (hr : x.running = none)
    (hn : ∀ y ∈ s.dec.streams, y.queued = none) (hdecodes : s.decodes = true) (hcores : coreNums.any s.coreOk = true)
    (hfate : s.auFate ((x.take it).takeSets info) it info = .decodes q) (hturn : s.formsTeam x info.rap q = true → s.coreTurn st = true) :
    exec (.auDecodeStart st info) s = .next (if s.formsTeam x info.rap q then (s.formTeam st (it.codec st.kind) q).startHead st it info
      else s.startHead st it info) := by
  have hxn : x.queued = none := hn x (List.mem_of_find?_eq_some hx)
  have hdrain : s.drain st = s := by
    refine State.drain_of_blocked hx (.inr (.inr fun z hz => ?_))
    rw [hq] at hz
    exact (Option.some.inj hz) ▸ hkind
  have hready : ¬ (x.running.isSome ∨ x.queued.isSome = true ∨ s.decodes = false ∨ coreNums.any s.coreOk = false) := by
    simp [hr, hxn, hdecodes, hcores]
  change execAuDecodeStart st info s = _
  unfold execAuDecodeStart
  rw [hdrain]
  dsimp only
  rw [hx]
  dsimp only
  rw [hq]
  dsimp only
  rw [if_neg hready, hfate]
  dsimp only
  refine congrArg Host.Outcome.next ?_
  by_cases hforms : s.formsTeam x info.rap q = true
  · have hfree : ((s.formTeam st (it.codec st.kind) q).stream? st).any (s.formTeam st (it.codec st.kind) q).coreFull = false := by
      rw [Option.any_eq_false_iff_get]
      exact fun _ => State.coreFull_of_none_queued (State.formTeam_none_queued hn st (it.codec st.kind) q) _
    rw [if_pos hforms, if_pos hforms, if_pos (hturn hforms), hfree]
    rfl
  · rw [if_neg hforms, if_neg hforms, if_neg (ne_true_of_eq_false (State.coreFull_of_none_queued hn x))]
    rfl

theorem auDecodeStart_of_decodes {s : State} {st : StreamId} {it : AuItem} {rest : List AuItem} {x : DStream} {info : AuInfo}
    (hx : s.stream? st = some x) (q : SeqSets) (hq : x.queue = it :: rest) (hkind : it.kind = 0) (hr : x.running = none)
    (hn : ∀ y ∈ s.dec.streams, y.queued = none) (hdecodes : s.decodes = true) (hcores : coreNums.any s.coreOk = true)
    (hfate : s.auFate ((x.take it).takeSets info) it info = .decodes q) (hturn : s.formsTeam x info.rap q = true → s.coreTurn st = true) :
    let a : RunAu := { item := it, info := info, sets := some q, t0 := s.now, epoch := s.place.epoch.toNat }
    ∃ t y, exec (.auDecodeStart st info) s = .next t ∧ t.stream? st = some y ∧ y.queue = rest ∧
      ((y.running = some a ∧ y.queued = none) ∨ (y.running = none ∧ y.queued = some a)) := by
  intro a
  have hxn : x.queued = none := hn x (List.mem_of_find?_eq_some hx)
  have hrun := exec_auDecodeStart hx hq hkind hr hn hdecodes hcores hfate hturn
  have hstarted : (if s.formsTeam x info.rap q then (s.formTeam st (it.codec st.kind) q).startHead st it info
      else s.startHead st it info).Started st rest a := by
    split
    · obtain ⟨team, want, shared, hteam⟩ := State.formTeam_stream hx (it.codec st.kind) q
      have hfate' := (State.auFate_congr (s.formTeam_ingest st (it.codec st.kind) q) (s.formTeam_place st (it.codec st.kind) q) _ it info).trans hfate
      have h := State.startHead_started hteam hq hr hxn hfate'
      rwa [State.formTeam_place, State.formTeam_now] at h
    · exact State.startHead_started hx hq hr hxn hfate
  obtain ⟨y, hy, hrest⟩ := hstarted
  exact ⟨_, y, hrun, hy, hrest⟩

/-- Settles O44, by what a start, an end and a reset do to the stream and the cores they name. -/
theorem accessUnits : Obligations.AccessUnits := by
  unfold Obligations.AccessUnits
  intro st info res core stop s x it rest r hx
  exact ⟨fun _ hslices hrap hsets hgood hcut => State.auFate_of_rap hx hslices hrap hsets hgood hcut, auDecodeStart_of_decodes hx,
    auDecodeComplete_of_running hx res, ctuTimeout_resets hx res, auBudgetExpiry_of_running hx stop res⟩

end Sys2Proof.Machine
end
